-- ==== Sys2Proof/Word.lean ====
section
/-! DEFINITION. The word types of the OHK-2416 model (R8, R347, R425). -/

namespace Sys2Proof

/-- A byte of host memory, of a shared bank or of a frame. -/
abbrev Byte := BitVec 8

/-- A 32-bit register (R347). -/
abbrev Word := BitVec 32

/-- A 256-bit flit (R425); bit 255 is sent first (R8). -/
abbrev Flit := BitVec 256

/-- The 704-bit key vector of a request (R103). -/
abbrev KeyVec := BitVec 704

/-- A table key, at most 640 bits (R109). -/
abbrev Key := BitVec 640

end Sys2Proof
end

