-- ==== Sys2Proof/Syntax.lean ====
section
/-! DEFINITION. The commands of the block: one constructor of `Instr` for each row of
spec/opcode_table.json, with the operands that come from outside the module. Times are counted in
units of 100 ps, so a hub cycle (0.8 ns) is 8 and a pipe cycle (1.0 ns) is 10. -/

namespace Sys2Proof

/-- An error met by a register or shared-bank read (R360, R361, R275). -/
inductive RegErr where
  | none
  /-- Parity mismatch of a register that is not CX (R360). -/
  | parity
  /-- CX mismatch with exactly one copy of good parity (R361 item 1). -/
  | cxOneGood
  /-- CX mismatch settled by the configuration shadow (R361 item 2). -/
  | cxShadow
  /-- CX mismatch that cannot be repaired (R361 item 3). -/
  | cxLost
  /-- Corrected error of a shared-bank word (R275). -/
  | bankCe
  /-- Uncorrectable error of a shared-bank word (R275). -/
  | bankUe
  deriving DecidableEq, Repr

/-- An error of the counter cache met by an operation or a scrub pass (R239, R241): corrected in a way, or in the victim
cache with `way` 16; uncorrectable in a sector or a tag word of a way or of the victim cache. -/
inductive CacheErr where
  | ce (way : Nat) | ueWay (way sector : Nat) | ueVictim (idx sector : Nat) | ueTag (way : Nat) | ueVictimTag (idx : Nat)
  /-- An uncorrectable error in the counter pair that a fill reads from the activity store (R276). -/
  | pairUe
  deriving DecidableEq, Repr

/-- An error that a scrub pass meets in what it reads (R277, R275, R276, R360), or that a command or an internal
operation meets in what it reads or uses (R272, R275, R276, R360, R361). -/
inductive PatrolErr where
  /-- A corrected error in a patrolled memory other than the counter cache. -/
  | corrected
  /-- An error of the counter cache in the set of position `pos` (R239, R241). -/
  | cache (e : CacheErr) (pos : Nat)
  /-- An uncorrectable result-store row or tag of position `pos`; `stuck`: the rewritten row does not read
  back correctly (R256). -/
  | result (pos : Nat) (stuck : Bool)
  /-- An uncorrectable tree-store word of slot `slot` of a table (R167). -/
  | tree (table slot addr : Nat) (stuck : Bool)
  /-- An uncorrectable direct-table word (R294). -/
  | direct (idx : Nat)
  /-- An uncorrectable word of a shared bank (R275). -/
  | bank
  /-- An uncorrectable word of the log memory, in the record with sequence `seq` (R275). -/
  | log (seq : Nat)
  /-- The activity store, by region (R276): the counter pair and the stamp of a position; its ternary shadow,
  where `lost` says that the block rows and the result store cannot rebuild it; the tree and direct shadow
  and the configuration shadow at a byte address, where `refs` are the blocks that refer to the record when its source is
  uncorrectable too; a captured pair of a snapshot buffer; a learn record of
  the overflow, by its place in the queue; a staged journal record (R384). -/
  | counters (pos : Nat)
  | stamp (pos : Nat)
  | shadow (pos : Nat) (lost : Bool)
  | images (addr : Nat) (refs : List (Nat × Nat))
  | config (addr : Nat) (refs : List (Nat × Nat))
  | snapshot (buf : Fin 2) (table handle addr : Nat)
  | learn (place : Nat)
  | staging (seq : Nat)
  /-- A parity mismatch of a configuration register that is not CX (R360). -/
  | parity (addr : Nat)
  /-- An error of a register, or of the ownership state or lease, at its use by a unit (R272, R360, R361). -/
  | reg (addr : Nat) (e : RegErr)
  /-- A cover, a profile word or a parse word differs from the configuration shadow, and is rewritten (R275, R277). -/
  | rewritten (addr : Nat)
  /-- A vault partition header whose halves disagree is repaired from its duplicate (R379, R273). -/
  | header
  deriving DecidableEq, Repr

/-- What the host bus gives a bus-mastering command: the bytes a read returned (`none`: the read
failed, R443), and whether the writes of the command reach host memory (R341); with them the errors that the command
meets in the memories it reads (R275, R276), and whether a read that fails ends in a Completion Timeout (R443). -/
structure HostIO where
  rd : Option (List Byte)
  wr : Bool
  errs : List PatrolErr := []
  timeout : Bool := false
  deriving DecidableEq, Repr

/-- A search-path fault of R250; `tagStuck` and `adStuck` are a `tagUe` and an `adUe` whose rewritten row
does not read back correctly (R256). -/
inductive PathFault where
  | linkCrc | blockParity | tagTable | tagUe | adUe | tagStuck | adStuck
  deriving DecidableEq, Repr

/-- A physical fault met while one lookup is answered. -/
inductive LookupFault where
  /-- A fault of R250 on the copy `unit` of die `die`; `again`: the retry meets a second fault. -/
  | path (f : PathFault) (die unit : Nat) (again : Bool)
  /-- Parity error of cover `idx` in the sift array (R80). -/
  | siftParity (idx : Nat)
  /-- Two matching covers in one group, reported at cover `idx` (R80). -/
  | siftMulti (idx : Nat)
  /-- An uncorrectable tree-store word (R167); `stuck`: it cannot be rewritten. -/
  | treeUe (addr : Nat) (stuck : Bool)
  /-- An uncorrectable direct-table word (R294). -/
  | directUe (idx : Nat)
  /-- Slot states or FROM epochs disagree with their complements (R172). -/
  | glazePtr
  /-- ACTION and ACTION_N of the record disagree (R121). -/
  | actionWord
  /-- A parity error of a hub datapath or queue on the way of the lookup (R275). -/
  | datapath
  /-- A corrected error of a memory that the lookup reads, other than the counter cache (R275). -/
  | corrected
  /-- An error of a configuration register at its use by the lookup (R360, R361). -/
  | reg (addr : Nat) (e : RegErr)
  /-- A ternary cell that fails undetected (R258): the entry with this handle answers, or none. -/
  | cell (handle : Option Nat)
  deriving DecidableEq, Repr

/-- A lookup fault, placed at a pass and a slot of the request. -/
structure FaultAt where
  pass : Nat
  slot : Nat
  fault : LookupFault
  deriving DecidableEq, Repr

/-- What stops or restarts the mailbox of a management port (R343, R331). -/
inductive PerstKind where
  | perst | linkDown
  deriving DecidableEq, Repr

/-- What makes a chain BROKEN (R311). -/
inductive ChainLoss where
  | linkLost (port : Fin 2) | hellosMissing (port : Fin 2)
  deriving DecidableEq, Repr

/-- The five causes of FAULTSAFE (R374). -/
inductive FsCause where
  | die (d : Fin 4) | activityStore | vault | oscillators | config
  deriving DecidableEq, Repr

/-- One scan of the sensors (R405): temperatures, voltages, currents, input power, and the
sensors that failed their self-check (index in the order of R407). -/
structure Readings where
  temp : List Int
  volt : List Nat
  curr : List Nat
  power : Nat
  bad : List Nat
  deriving DecidableEq, Repr

/-- The commands, in the order of spec/opcode_table.json. -/
inductive Instr where
  | syncInEdge (t : Nat)
  | chatterEnd
  | synthesizedStep
  | epoHoldover
  | epoLost
  | beacon (port : Fin 16) (flit : Flit)
  | arm (port : Fin 4) (value : Word)
  | clkOscSwitch
  | clkOscLost
  | keyReq (port : Fin 16) (flits : List Flit)
  | hdrReq (port : Fin 16) (flits : List Flit)
  | requestAccept (port : Fin 16) (ctx : Fin 8) (t : Nat) (faults : List FaultAt) (parseErr : Option Nat)
  | responseEmit (port : Fin 16) (ctx : Fin 8) (awBad : List Nat) (err : Option CacheErr)
  | dtWrite (port : Fin 16) (flits : List Flit)
  | linkFlit (port : Fin 18) (flit : Flit)
  | laneFailure (port : Fin 18) (lane : Nat)
  | widenReq (port : Fin 18) (flit : Flit)
  | flitCheckFail (port : Fin 18) (round : Nat)
  | lnkReplayLimit (port : Fin 18)
  | lnkUp (port : Fin 18) (good peer : Word)
  | trainRetry (port : Fin 18) (good peer : Word)
  | helloSend
  | hello (cp : Fin 2) (flit : Flit)
  | cscChainLost (why : ChainLoss)
  | search (flits : List Flit) (t : Nat) (faults : List FaultAt)
  | answerSend (ctag : Nat)
  | answer (flits : List Flit) (t : Nat)
  | win (flit : Flit)
  | doorbell (port mb : Fin 4) (ring : Fin 2) (value : Word)
  | mbCplHeadWrite (port mb : Fin 4) (value : Word)
  | commandAccept (errs : List PatrolErr := [])
  | commandStart (mb : Fin 4) (parity : Bool) (errs : List PatrolErr := [])
  | completionPost (mb : Fin 4)
  | irqCoalesceTimer (mb : Fin 4)
  | tblCreate (mb : Fin 4)
  | tblDestroy (mb : Fin 4)
  | tblAlter (mb : Fin 4)
  | tblMirror (mb : Fin 4)
  | entInsert (mb : Fin 4) (io : HostIO)
  | entDelete (mb : Fin 4)
  | entModify (mb : Fin 4) (io : HostIO)
  | entReprio (mb : Fin 4)
  | entBatch (mb : Fin 4) (io : HostIO)
  | glazeSchedule (mb : Fin 4)
  | glazeAbort (mb : Fin 4)
  | fence (mb : Fin 4)
  | entRead (mb : Fin 4) (io : HostIO)
  | querySearch (mb : Fin 4)
  | queryFind (mb : Fin 4) (io : HostIO)
  | tblStats (mb : Fin 4) (io : HostIO)
  | learnCfg (mb : Fin 4)
  | ageSweep (mb : Fin 4)
  | cntRead (mb : Fin 4) (io : HostIO)
  | cntClear (mb : Fin 4) (io : HostIO) (written : Nat)
  | cntSnapshot (mb : Fin 4)
  | vaultCheckpoint (mb : Fin 4)
  | vaultImport (mb : Fin 4) (io : HostIO)
  | vaultExport (mb : Fin 4) (io : HostIO)
  | crumbSet (mb : Fin 4) (io : HostIO) (programmed : Bool)
  | vaultStatus (mb : Fin 4) (io : HostIO)
  | ownClaim (mb : Fin 4)
  | ownRenew (mb : Fin 4)
  | ownHandover (mb : Fin 4)
  | ownAccept (mb : Fin 4)
  | ownRelease (mb : Fin 4)
  | scrubNow (mb : Fin 4)
  | testBlock (mb : Fin 4)
  | hold (mb : Fin 4)
  | blockRetire (mb : Fin 4)
  | flush (mb : Fin 4)
  | invalidate (mb : Fin 4)
  | discard (mb : Fin 4)
  | waitgraphRead (mb : Fin 4) (io : HostIO)
  | logRead (mb : Fin 4) (io : HostIO)
  | sensorRead (mb : Fin 4) (io : HostIO)
  | install (mb : Fin 4) (io : HostIO) (programmed : Bool)
  | generate (mb : Fin 4) (io : HostIO) (programmed : Bool)
  | erase (mb : Fin 4) (io : HostIO) (programmed : Bool)
  | readPub (mb : Fin 4) (io : HostIO)
  | ownClaimCast (port : Fin 4) (value : Word)
  | ownClaimWithdraw (port : Fin 4) (value : Word)
  | renew (port : Fin 4) (value : Word)
  | leaseEnd
  | ownershipVacant
  | handoverPass
  | updStrobe (port : Fin 4) (value : Word)
  | updSchedSet (port : Fin 4) (value : Word)
  | updSchedDisarm (port : Fin 4) (value : Word)
  | scheduledApply (group : Fin 32)
  | wheelGoesLive (wheel : Fin 66)
  | stgCtrlReset (port : Fin 4) (value : Word)
  | ccDrainStart (port : Fin 4) (value : Word)
  | ccEnable (port : Fin 4) (value : Word)
  | wayDisableWrite (port : Fin 4) (value : Word)
  | wayEnableWrite (port : Fin 4) (value : Word)
  | retrain (port : Fin 4) (link : Fin 18) (value : Word)
  | widen (port : Fin 4) (link : Fin 18) (value : Word)
  | rcRead (port : Fin 4) (addr : Nat)
  | rshLatchRead (port : Fin 4) (addr : Nat) (both : Bool)
  | pwWrite (port : Fin 4) (addr : Nat) (value : Word)
  | pwBusyClear (lane : Fin 512)
  | bitSetWrite (port : Fin 4) (addr : Nat) (data : List Byte) (err : RegErr := .none)
  | bitClearWrite (port : Fin 4) (addr : Nat) (data : List Byte) (err : RegErr := .none)
  | registerWrite (port : Fin 4) (addr : Nat) (data : List Byte) (poisoned : Bool := false)
  | glazeEffect (table : Fin 255)
  | internalGlazeSeal
  | copyMapChange (table : Fin 255)
  | settle (table : Fin 255) (errs : List PatrolErr := [])
  | learnApply (errs : List PatrolErr := [])
  | ageSweepStart (table : Fin 255)
  | ageCompare (table : Fin 255) (handle : Word) (wr : Bool) (errs : List PatrolErr := [])
  | snapshotTake (buf : Fin 2) (errs : List PatrolErr := [])
  | cntSnapDone (buf : Fin 2)
  | autoMirrorWindowEnd (die : Fin 4)
  | ccFillReturn (line : Nat) (errs : List PatrolErr := [])
  | ccWayOff (way : Fin 16)
  | ccDrained
  | rebuildStart (die : Fin 4) (unit : Nat)
  | rebuildVerified (die : Fin 4) (unit : Nat) (good : Bool) (errs : List PatrolErr := [])
  | copySwap (die : Fin 4) (unit : Nat)
  | scrubPassStart (errs : List PatrolErr)
  | scrubRun (die : Fin 4) (unit run : Nat) (first second : List (Nat × BitVec 168)) (errs : List PatrolErr)
  | testWindow (die : Fin 4)
  | arrayTestDone (die : Fin 4) (pass : Bool)
  | sbRegionTestStart
  | sbRegionTestDone (failed : List Nat)
  | wdgStall (idx : Nat)
  | stallAbort (mb : Fin 4)
  | journalProgramDone (upTo : Nat) (ue : Option Nat)
  | checkpointStart
  | vltCkptDone
  | patrolPeriodStart (stripe : Bool)
  | vltRetire (block : Nat)
  | vltLost
  | powerLoss (written : Nat)
  | pwrInLow
  | vinOvervoltage (written : Nat)
  | pwrEnRise
  | pwrEnFall
  | pwrGoodRise (t : Nat) (microfarad : Nat) (modId : BitVec 2)
  | mrstNLow
  | mrstNRelease (t : Nat) (modId : BitVec 2)
  | resetFlushDone
  | perstAssert (port : Fin 4) (kind : PerstKind)
  | mailboxRestart (port : Fin 4)
  | trstN
  | bypass
  | idcode
  | samplePreload
  | extest
  | clamp
  | highz
  | extestPulse
  | extestTrain
  | crumbEntry (t : Nat) (copyA copyB config : Bool) (repairs : Nat) (imgA imgB : Bool := true)
  | tableRestoreDone (secA secB : Bool) (cut : Option Nat)
  | stgPromote (table : Fin 255)
  | crumbSpareRelease (table : Fin 255)
  | faultsafeEntry (cause : FsCause)
  | sensorConversion (r : Readings)
  | mgtThermTrip (sensor : Fin 32)
  | thermalRestart (t : Nat)
  | mgtRailFault (rail : Fin 14) (mv : Nat)
  | mgtRestart
  | logRecordWrite
  | logFlush
  | smbReadId
  | smbReadStage
  | smbReadStageStatus
  | smbReadTemp (code : Fin 32)
  | smbReadVolt (code : Fin 16)
  | smbReadCurr (code : Fin 16)
  | smbReadPower
  | alertStatus
  | smbLogSummary
  | alertResponse
  | smbWriteReject (write : Bool)
  | ageSweepDone (table : Fin 255)
  | scrubPassDone
  | registerRead (port : Fin 4) (addr size : Nat) (err : RegErr)
  | lnkFrameErr (port : Fin 18) (flit : Flit) (slot0 : Bool)
  | codewordLockGained (lane : Fin 512)
  | pwrGoodLate
  | vinRestart
  | powerDown
  | pwrenLowElapsed
  deriving DecidableEq, Repr

end Sys2Proof
end

