-- ==== Sys2Proof/Decode.lean ====
section
/-! DEFINITION. The commands that a word of the table's bits spells. No row of
spec/opcode_table.json gives bits: a command of this block is an event or a bus transaction, not an
encoded word. -/

namespace Sys2Proof

/-- The command that the `nbits` bits of `w` spell: none (assumption 2). -/
def decodeTableWord (_nbits _w : Nat) : Option Instr := none

end Sys2Proof
end

