-- ==== Sys2Proof/Config.lean ====
section
/-! DEFINITION. The values the spec leaves open. Every constant here is opaque: nothing in Lean
can evaluate it, so whatever is proved holds for every value it may take. -/

namespace Sys2Proof.Config

/-- The segment position (R10, R11) the module picks at its `n`-th allocation: R49 fixes the
alignment, no rule fixes the choice, and software never sees it (assumption 6). -/
opaque freePos : Nat → Nat

/-- Turn phase of the block wheels of die `d` after module reset number `n`, in pipe cycles;
R480: no register reports it and the user cannot predict it (assumption 7). -/
opaque turnPhase : Nat → Nat → Nat

/-- The JEDEC manufacturer code of IDCODE bits [11:1] (R444), which no rule states. -/
opaque jedecCode : BitVec 11

/-- SHA-384 (R394, R417), taken as an uninterpreted function of the bytes. -/
opaque sha384 : List Byte → BitVec 384

/-- ECDSA P-384 verification (R416): public key, digest, signature; uninterpreted. -/
opaque ecdsaVerify : BitVec 776 → BitVec 384 → BitVec 768 → Bool

/-- The signature the module makes with the SIGN key it generated as number `n` (R395). -/
opaque ecdsaSign : Nat → BitVec 384 → BitVec 768

/-- The public key of the `n`-th generated SIGN pair (R417 GENERATE). -/
opaque genPublicKey : Nat → BitVec 776

/-- Contents of host memory after a failed bus-master write are undefined (R341): which of the
output was written by the `n`-th failing transfer. -/
opaque partialWrite : Nat → List Byte → List Byte

/-- The command sequencer, 0 to 7, that runs the command with this place in the acceptance order:
R264 names the eight, no rule assigns them. -/
opaque sequencer : Nat → Nat

/-- The resource instance of a wait of class 7 that waits for no command (R270), by the command. -/
opaque waitInst : Nat → Nat

/-- A reading or count that no rule fixes at the moment it is taken, the `n`-th such. -/
opaque openNat : Nat → Nat

end Sys2Proof.Config
end

