-- ==== Sys2Proof/Machine/State.lean ====
section
/-! DEFINITION. The state of the OHK-2416 as plain data, the fault and refusal reasons, and the
state after reset. Every register that software writes, and every counter and status word the
hardware keeps in a register, is one 32-bit word of `Regs.live` at its BAR0 offset (with its buffer
in `Regs.buf` when it is BUF); registers that report other state are computed from it when read. -/

namespace Sys2Proof.Machine

/-- A sparse map from keys to values, in rising order of key. -/
abbrev NMap (α : Type) := List (Nat × α)

/-! ### Time base (The epoch time base) -/

/-- Qualification states, R32. -/
inductive Qual where
  | acquire | locked | holdover | lost
  deriving DecidableEq, Repr

/-- The epoch time base, R30 to R43. Times in units of 100 ps. -/
structure Epoch where
  /-- The epoch counter (R38). -/
  count : Nat
  /-- The counter before the latest step (R40). -/
  prev : Nat
  /-- Time of the latest epoch step. -/
  stepAt : Nat
  /-- Time from which the phase of the current epoch is measured (R33, R34, R35). -/
  phase0 : Nat
  /-- The phase at `phase0`: 512 after an entry to HOLDOVER, else 0 (R34). -/
  off : Nat
  /-- The current epoch was begun by a synthesized step (R36). -/
  held : Bool
  qual : Qual
  /-- SYNC_QUAL.NUMBERED (R38). -/
  numbered : Bool
  /-- The last accepted edge (R30). -/
  lastAcc : Option Nat
  /-- The last rising edge, accepted or not (R31). -/
  lastEdge : Option Nat
  /-- Times of ignored edges, newest first (R31). -/
  ignored : List Nat
  /-- The input is chattering (R31). -/
  chatter : Bool
  /-- Chatter has ended and no edge has arrived since: the next edge has no reference edge (R31). -/
  fresh : Bool
  /-- Consecutive accepted edges counted toward LOCKED (R32). -/
  consec : Nat
  /-- The last measured intervals, newest first, at most 16 (R33). -/
  intervals : List Nat
  /-- Epochs counted toward HOLD_LIMIT (R37). -/
  holdCount : Nat
  /-- Synthesized steps are due at `synBase + k × P` for k from `synK` on (R34, R35). -/
  synBase : Nat
  synK : Nat
  /-- The EPOCH_NOMINAL.PERIOD in effect, in units of 10 ns (R43). -/
  period : Nat
  /-- The most recent beacon since the previous step (R38). -/
  beacon : Option Nat
  deriving DecidableEq, Repr

/-! ### Ownership and mailboxes -/

/-- OWN_STATE.STATE, R345. -/
inductive OwnSt where
  | vacant | owned | handing | draining
  deriving DecidableEq, Repr

/-- The ballot of one port (R327, R328) and its OWN_CLAIM.RESULT. -/
structure Ballot where
  pending : Bool
  rank : Nat
  token : Nat
  result : Nat
  /-- Time of the cast: a ballot written in the hub cycle of a deciding step does not count (R327). -/
  castAt : Nat
  deriving DecidableEq, Repr

/-- A handover in progress (R332). -/
structure Handover where
  target : Nat
  epoch : Nat
  window : Nat
  cmd : Nat
  deriving DecidableEq, Repr

/-- The ownership logic, R324 to R345. -/
structure Own where
  st : OwnSt
  owner : Nat
  probation : Bool
  target : Nat
  rank : Nat
  token : Nat
  leaseEnd : Nat
  /-- Epoch at which the present ownership began (R334). -/
  began : Nat
  /-- That epoch was reached at a synthesized step (R338). -/
  beganHeld : Bool
  ballots : List Ballot
  hand : Option Handover
  /-- A link cause of R331 waits for the next step: 1 PERST, 2 link down. -/
  linkLoss : Option Nat
  /-- The last hub cycle with a renewal: when it took effect, the lease end before the first renewal of that
  cycle, and whether a register write made one of them (a renewal in the hub cycle of the step that ends the
  lease is too late, R330). -/
  renewed : Option (Nat × Nat × Bool)
  deriving DecidableEq, Repr

/-- What a started command waits for (R266, R340). -/
inductive Wait where
  | glaze (table sealNo : Nat) | snapStep (buf : Nat) | snapRead (buf : Nat) | fence
  | checkpoint | scrub | test (die : Nat) | retire (die pos : Nat) | handover | vacancy
  | election | copyMap (id : Nat) | journal
  deriving DecidableEq, Repr

/-- The life of a command inside the module (R340, R341). -/
inductive CmdSt where
  | accepted | running | waiting (w : Wait) | finished
  deriving DecidableEq, Repr

/-- One accepted command. -/
structure Cmd where
  /-- Place in the module's total acceptance order (R340). -/
  id : Nat
  mb : Nat
  ring : Nat
  /-- Acceptance number within its mailbox, modulo 65,536 (R340). -/
  num : Nat
  /-- The 128 descriptor bytes, byte k at bits [8k+7:8k] (R336). -/
  desc : BitVec 1024
  /-- The rights fixed at acceptance (R326). -/
  ownerRight : Bool
  st : CmdSt
  status : Nat
  handle : Nat
  vis : Nat
  /-- Completion bit HELD (R338). -/
  held : Bool
  /-- The journal sequence that must be in NAND before the completion is posted (R382). -/
  jneed : Option Nat
  /-- Epoch in which a wait began (R268). -/
  since : Nat
  /-- WDG_STALL was raised for the present wait (R268). -/
  stalled : Bool
  /-- What a started command holds beyond its mailbox slot: 1, the table lock and the generation slot while it waits
  for journal space and goes on from there (R178, R201); 2, a TBL_DESTROY that has begun and waits for the table lock
  (R471). -/
  got : Nat := 0
  deriving DecidableEq, Repr

/-- The indices of one mailbox, R339 to R346. -/
structure Mbox where
  /-- MB_CMD_TAIL and MB_CMD_HEAD of the high and the normal ring. -/
  tail : List Nat
  head : List Nat
  acc : Nat
  cplTail : Nat
  cplHead : Nat
  /-- Stopped by MPm_PERST_N or link loss (R343), or by the stage. -/
  stopped : Bool
  /-- The reset or the link loss persists (R343). -/
  resetHeld : Bool
  /-- Times in a row the high ring was taken while the normal ring held a descriptor (R340). -/
  hiRun : Nat
  /-- For each ring, the epoch since which a descriptor has waited while the mailbox is paused, and
  whether that wait has been reported (R268). -/
  waits : List (Option (Nat × Bool))
  /-- Completions posted since vector 0 was last raised, and when the first was (R342). -/
  sinceRaise : Nat
  firstAt : Option Nat
  deriving DecidableEq, Repr

/-! ### Registers -/

/-- The register file (Register conventions). -/
structure Regs where
  live : NMap Word
  buf : NMap Word
  /-- RSH shadows, keyed port × 2^24 + BAR0 offset of the latched word (R353). -/
  shadow : NMap Word
  /-- UPD_VIEW.LIVE of each port (R359). -/
  view : List Bool
  /-- Armed update groups: group and epoch (R358). -/
  armed : NMap Nat
  /-- Epoch of the last scheduled apply of each group (UPD_AT). -/
  lastApply : NMap Nat
  /-- Registers whose parity error has been reported and not yet ended (R360). -/
  parityErr : List Nat
  /-- Posted lane writes not yet taken by the slow domain: lane, (offset, value) (R354). -/
  pw : NMap (Nat × Word)
  /-- Wheel copies taken at a strobe and not yet live, by wheel index, in the order of their strobes: the cycle of the
  wheel's clock in which the copy reached the die, the cycle of the wrap, and the 32 words (R303). -/
  wheelPend : NMap (List (Nat × Nat × List Word))
  /-- UG0 has applied a new EPOCH_NOMINAL that waits for the next edge or step (R43). -/
  nominalPend : Bool
  /-- Last hardware change of a field that hardware changes itself, by register: when, and which bits
  (R246, R330, R362). -/
  hard : NMap (Nat × Nat)
  /-- Last software write of such a register: when (R246, R362). -/
  soft : NMap Nat
  /-- Last hub cycle in which hardware set or incremented a register: when, the value before, and the bits
  set or the increments made (R351, R362). -/
  met : NMap (Nat × Word × Nat)
  /-- Last hub cycle in which software wrote a buffer, and the buffers at the start of it (R357, R362). -/
  bufStart : Option (Nat × NMap Word)
  /-- Hub cycle and port of the last write of a management port (R351). -/
  lastWrite : Nat × Nat
  deriving DecidableEq, Repr

/-! ### Tables -/

/-- Table kinds (R45). -/
inductive Kind where
  | ternary | tree | direct
  deriving DecidableEq, Repr

/-- Table states other than ABSENT (R46); a table ID that is not listed is ABSENT. -/
inductive TState where
  | live | proofing | destroying
  deriving DecidableEq, Repr

/-- Generation slot states, R170. -/
inductive SlotSt where
  | free | opened | sealed | live | retired | settling
  deriving DecidableEq, Repr

/-- A compiled tree image, R156 to R165; indices are image-relative. -/
structure TreeImg where
  root : Nat
  words : List (BitVec 96)
  /-- Number of rules it holds. -/
  rules : Nat
  /-- Indices of words that cannot be rewritten after an error (R167). -/
  stuck : List Nat
  deriving DecidableEq, Repr

/-- Who sealed a generation (R182, R184, R218, R372, R471). -/
inductive Sealer where
  | command | auto | internal | promotion | destroy
  deriving DecidableEq, Repr

/-- One generation slot of a table. -/
structure Slot where
  st : SlotSt
  /-- FROM epoch, or the named epoch while SEALED (R202). -/
  epoch : Nat
  /-- When its sealing ends (R182). -/
  sealEnd : Nat
  /-- The glaze has been armed at an epoch step (R182). -/
  armed : Bool
  /-- Order of sealing in the module (R185, R42 item 4). -/
  sealNo : Nat
  /-- Epoch of the arming step. -/
  armEpoch : Nat
  by_ : Sealer
  /-- The retention of R154 has ended: the epoch of the step that ended it. -/
  ripe : Option Nat
  /-- The slot holds a change made by a command; by an internal change (R218). -/
  hasCmd : Bool
  hasInt : Bool
  tree : Option TreeImg
  deriving DecidableEq, Repr

/-- One copy of a ternary entry: w rows of one block (R48, R49, R169). -/
structure Row where
  handle : Nat
  prio : Nat
  /-- Stored value (already ANDed with the mask, R50) and mask. -/
  value : Key
  mask : Key
  /-- Associated data, word j in bits [128j+127:128j]. -/
  ad : BitVec 1024
  die : Nat
  block : Nat
  /-- First row in the block. -/
  row : Nat
  /-- Home position (R49). -/
  pos : Nat
  /-- Segment positions of the copies of the associated data on the dies of the replicas of an always-on group:
  replica number and position (R64). -/
  reps : List (Nat × Nat) := []
  /-- Visibility mask, one bit per slot (R169). -/
  vis : BitVec 4
  deriving DecidableEq, Repr

/-- One cover entry of the sift array (R74, R75, R77). -/
structure Cover where
  value : BitVec 80
  mask : BitVec 80
  die : Nat
  block : Nat
  group : Nat
  vis : BitVec 4
  /-- Index of the sift array entry within the block, 0 to 15. -/
  idx : Nat
  /-- Epoch of the last sift fault seen on it (R80). -/
  err : Option Nat := none
  deriving DecidableEq, Repr

/-- A block held by a table (R48, R62, R63). -/
structure BlkHold where
  die : Nat
  block : Nat
  group : Nat
  /-- Replica number in an always-on group 0; 0 otherwise. -/
  replica : Nat
  /-- Its die has left AFFINITY: it takes no entries, counts for nothing, and returns to the pool once settle has
  emptied it (R59, R65). -/
  leaving : Bool := false
  deriving DecidableEq, Repr

/-- A learn configuration (R220). -/
structure LearnCfg where
  en : Bool
  evt : Bool
  profile : Nat
  slot : Nat
  prio : Nat
  action : Word
  hbase : Nat
  hcount : Nat
  byteMask : BitVec 80
  data : BitVec 128
  deriving DecidableEq, Repr

/-- An aging sweep configuration (R224). -/
structure AgeCfg where
  next : Nat
  th : Nat
  period : Nat
  /-- 0 DELETE, 1 REPORT. -/
  op : Nat
  delMax : Nat
  addr : Nat
  len : Nat
  port : Nat
  deriving DecidableEq, Repr

/-- A sweep that runs (R225, R226), under the configuration it started with. -/
structure Sweep where
  cfg : AgeCfg
  handled : Nat
  written : Nat
  deleted : Nat
  rescued : Nat
  /-- Candidates read and not yet compared: handle and the stamp read. -/
  cands : List (Nat × BitVec 64)
  deriving DecidableEq, Repr

/-- One logical table. Its attribute words lie in the register file at TBL_ATTR (R71). -/
structure Table where
  kind : Kind
  st : TState
  /-- The four generation slots (R169). -/
  slots : List Slot
  rows : List Row
  covers : List Cover
  blocks : List BlkHold
  /-- Earliest view the table can answer (R151). -/
  floor : Nat
  /-- Epoch at which the most recent glaze took effect (TA_GLAZE). -/
  glazed : Nat
  /-- That step was a synthesized one (R338). -/
  glazedHeld : Bool := false
  /-- Removal epoch once the glaze of a TBL_DESTROY has taken effect, and its pending sealNo. -/
  removed : Option Nat
  destroyAt : Option Slot
  /-- The retired-counter accumulator (R212). -/
  retPkt : Nat
  retByte : Nat
  retLate : Nat
  /-- Statistics of R168 and R228, by byte offset in the TBL_STATS record. -/
  stats : NMap Nat
  learn : Option LearnCfg
  age : Option AgeCfg
  sweep : Option Sweep
  /-- Verified restore waiting for its promotion step (R372). -/
  restored : Bool
  /-- Earliest promotion epoch (R396). -/
  promoteAt : Nat
  /-- Its restore failed (R373). -/
  restoreFail : Bool
  /-- Home positions of entries that aging deleted and settle has not freed (R227). -/
  aged : List Nat
  /-- TA_LAT before each lowering strobe that still matters, and the time to which it applies (R69). -/
  latOld : List (Nat × Nat)
  deriving DecidableEq, Repr

/-- State of a ternary block (BLK_INFO, R100); a block that is not listed is free. -/
structure Blk where
  table : Nat
  group : Nat
  /-- 0 free, 1 in use, 2 suspect, 3 replaced by a spare or retired. -/
  st : Nat
  /-- Activations in the present auto-mirror window, and BLK_ACT of the last complete one. -/
  actNow : Nat
  act : Nat
  /-- The block refused a lookup in this window (R94). -/
  refused : Bool
  /-- Consecutive windows below the release threshold (R99). -/
  low : Nat
  /-- Rows of its table have lain in it (R61). -/
  held : Bool := false
  deriving DecidableEq, Repr

/-- State of a spare block (SPARE_STAT, R100); a spare that is not listed is free. -/
structure Spare where
  /-- 0 free, 1 mirror, 2 rebuild, 3 takeover. -/
  use : Nat
  auto : Bool
  suspect : Bool
  primary : Nat
  /-- The copy is built and serves lookups. -/
  built : Bool
  /-- Table whose crumb entries it holds (R369). -/
  crumb : Option Nat
  deriving DecidableEq, Repr

/-- Why a copy is being built into a spare (R254, R257, R282, R287). -/
inductive BuildFor where
  | rebuild | mirror | takeover | back | retire
  deriving DecidableEq, Repr

/-- A copy in progress or verified and waiting for its swap (R254, R255). -/
structure Build where
  die : Nat
  /-- The unit that the copy replaces: a block, or 1,024 + k for spare k. -/
  unit : Nat
  /-- The block whose rows it holds. -/
  block : Nat
  spare : Nat
  why : BuildFor
  /-- Copies that failed verification; 2: the rebuild has failed (R254). -/
  tries : Nat
  verified : Bool
  /-- The copy-map change that first releases the automatic mirror in its spare (R12 item 3). -/
  hold : Option Nat := none
  deriving DecidableEq, Repr

/-- A copy-map change waiting for its step (R65, R97). -/
structure CopyChange where
  id : Nat
  table : Nat
  cmd : Option Nat
  die : Nat
  block : Nat
  add : List Nat
  drop : List Nat
  /-- Blocks taken for the table that join it, and blocks that return to the pool (TBL_ALTER). -/
  leave : List BlkHold := []
  join : List BlkHold := []
  /-- The block set, and the attribute words, that hold from the change on (TBL_ALTER). -/
  blocks : Option (List BlkHold) := none
  attrs : List (Nat × Word) := []
  /-- Segment positions of new replicas: entry position, replica, position (R64). -/
  reps : List (Nat × Nat × Nat) := []
  /-- The seal with whose glaze the change takes effect (R65). -/
  glaze : Option Nat := none
  /-- Time at which the new copies are written and verified. -/
  ready : Nat := 0
  deriving DecidableEq, Repr

/-- A search on a pipe of a die: the pipe cycle from which it waits, and the one in which it issues (R83). -/
structure Issue where
  die : Nat
  pipe : Nat
  from_ : Nat
  cycle : Nat
  deriving DecidableEq, Repr

/-- A booked activation: pipe cycle and keys at one copy (R93); `unit` is a block, or 1,024 + k
for spare k. -/
structure Booking where
  die : Nat
  unit : Nat
  cycle : Nat
  keys : Nat
  deriving DecidableEq, Repr

/-- A unit that waits (R270): its number and index, and its command, when it works for one. Unit 0 is none that the
watchdog times. -/
structure Who where
  unit : Nat := 0
  idx : Nat := 0
  cmd : Option Nat := none
  deriving DecidableEq, Repr

/-- A request for slots of a wheel that has not all its grants yet (R300, R301). -/
structure SlotAsk where
  /-- Wheel index: 0 to 63, or 64 + stack (R303). -/
  wheel : Nat
  /-- The unit of the die whose slots it needs; 0 on a DRAM wheel. -/
  unit : Nat
  /-- Owner code of the requester (R297, R307). -/
  req : Nat
  /-- Slots, or bursts of a DRAM wheel, that it still needs. -/
  left : Nat
  /-- Wheel cycle in which it was made. -/
  made : Nat
  /-- Cycles without a grant in the wait that goes on (MAXWAIT, R308). -/
  run : Nat := 0
  /-- Place in the order of the VAULT class (R298). -/
  order : Nat := 0
  who : Who := {}
  /-- Epoch in which the wait began, and whether it has been reported (R268). -/
  since : Nat
  told : Bool := false
  deriving DecidableEq, Repr

/-- The search dies and the distributor. -/
structure Dies where
  /-- Keyed die × 1,024 + block. -/
  blocks : NMap Blk
  /-- Keyed die × 32 + spare. -/
  spares : NMap Spare
  builds : List Build
  changes : List CopyChange
  nextChange : Nat
  /-- Suspect units that wait for a spare: die, unit (R257). -/
  waiting : List (Nat × Nat)
  book : List Booking
  /-- Searches that wait for, or have, their pipe cycle on a pipe of a die (R83). -/
  issue : List Issue
  /-- Round-robin pointers, keyed die × 1,024 + block, or 4,096 + table for an always-on group (R92). -/
  rr : NMap Nat
  /-- Sift keys taken and tree walks started: hub cycle and count (R81, R161). -/
  sift : NMap Nat
  walks : NMap Nat
  /-- Retired sift array entries (R80): die × 16,384 + block × 16 + index in the block. -/
  siftRetired : List Nat
  /-- Positions allocated, so far: number of allocations made (R49). -/
  allocs : Nat
  /-- Requests for slots of block wheels in order of arrival, and the next pipe cycle whose slots are to be granted. -/
  asks : List SlotAsk := []
  askAt : Nat := 0
  /-- Requests for DRAM slots in order of service, and the next hub cycle whose slot is to be granted (R298). -/
  dram : List SlotAsk := []
  dramAt : Nat := 0
  deriving DecidableEq, Repr

/-! ### Requests in flight -/

/-- A request frame waiting in a receive buffer (R125). -/
structure Req where
  hform : Bool
  ctx : Nat
  tag : Nat
  profile : Nat
  length : Nat
  tok : Option (BitVec 32)
  /-- The key vector as received (key form), or zero. -/
  vec : KeyVec
  /-- Window descriptor and bytes (header form). -/
  winLen : Nat
  hostClass : BitVec 8
  root : Nat
  frameLen : Nat
  window : List Byte
  flits : Nat
  /-- It has waited for a walk context (R139). -/
  waited : Bool
  deriving DecidableEq, Repr

/-- Counter and stamp update posted at emission (R124, R231). -/
structure CntUpd where
  table : Nat
  handle : Nat
  pos : Nat
  len : Nat
  epoch : Nat
  phase : Nat
  cnt : Bool
  stamp : Bool
  /-- The hit goes to the retired-counter accumulator (R212 item 2). -/
  late : Bool
  /-- The entry had aged out when the request was accepted (R227). -/
  aged : Bool
  deriving DecidableEq, Repr

/-- A learn record (R221). -/
structure LearnRec where
  target : Nat
  key : Key
  source : Nat
  handle : Nat
  epoch : Nat
  phase : Nat
  port : Nat
  ctx : Nat
  deriving DecidableEq, Repr

/-- One lookup record (R119). -/
structure Rec where
  table : Nat
  status : Nat
  prio : Nat
  handle : Nat
  action : Word
  data : BitVec 256
  /-- Associated data bits of the position: 0, 128 or 256 (R117). -/
  bits : Nat
  /-- Counter and stamp update that the record posts at emission (R124, R231). -/
  upd : Option CntUpd
  /-- Learn record that it makes (R221). -/
  learn : Option LearnRec
  /-- It counts in TA_SAFE_CNT of its table at emission (R122). -/
  safe : Bool
  /-- It asks for a further pass (R144). -/
  trig : Bool
  /-- ACTION and ACTION_N disagree (R121). -/
  awBad : Bool
  deriving DecidableEq, Repr

/-- The part of a cascaded lookup that is under way (R316, R317). -/
structure CscWait where
  ctag : Nat
  slot : Nat
  table : Nat
  /-- Own part: PSTAT, record and home position. -/
  pstat : Nat
  part : Rec
  pos : Nat
  /-- Time by which the answer must arrive. -/
  due : Nat
  /-- The answer from below: PSTAT, record and HOME. -/
  ans : Option (Nat × Rec × Nat)
  /-- The presented token's view is used, or was advanced (R151). -/
  tok : Bool
  advanced : Bool
  /-- What its record means for a further pass (R144, R145): 0 it helps to decide the pass, 1 a further pass runs
  already, else the status that it gets if it asks for a pass. -/
  fate : Nat
  /-- A later pass has replaced its record (R147). -/
  gone : Bool
  deriving DecidableEq, Repr

/-- A hold entry: an accepted request until its response is emitted (R21). -/
structure Hold where
  port : Nat
  ctx : Nat
  tag : Nat
  profile : Nat
  length : Nat
  hform : Bool
  vec : KeyVec
  t0 : Nat
  lat : Nat
  view : Nat
  phase : Nat
  tok : Option (BitVec 32)
  /-- The presented view was used by at least one lookup (R153). -/
  tokUsed : Bool
  recs : List Rec
  /-- The direct-table merge block and its hit bit, when the profile names one (R115). -/
  dm : Option (BitVec 256)
  dmHit : Bool
  /-- What records that a later pass replaced post at emission: updates, learn records, and the
  tables whose TA_SAFE_CNT they count in. -/
  upds : List CntUpd
  learns : List LearnRec
  safes : List Nat
  /-- Tables of the records answered VIEW_ADVANCED, counted in TOK_ADVANCED at emission (R168). -/
  advs : List Nat
  /-- Table and handle of replaced records whose words disagree (R121). -/
  bads : List (Nat × Nat)
  /-- Units of 100 ps waited so far (R93). -/
  spent : Nat
  pass : Nat
  /-- Profile of the present pass. -/
  prof : Nat
  csc : List CscWait
  faults : List FaultAt
  /-- The registers as live at t0 (R69, R113). -/
  live0 : NMap Word
  deriving DecidableEq, Repr

/-- A search frame being answered by a module below the head (R317). -/
structure CscServe where
  ctag : Nat
  table : Nat
  bits : Nat
  sendAt : Nat
  pstat : Nat
  part : Rec
  pos : Nat
  /-- CTAG of the frame sent further down, if one was sent, and what came back. -/
  down : Option Nat
  /-- Time by which an answer from below must arrive. -/
  due : Nat
  ans : Option (Nat × Rec × Nat)
  deriving DecidableEq, Repr

/-! ### Activity store, counter cache, learning -/

/-- A counter pair (R206). -/
structure Pair where
  pkt : BitVec 64
  byte : BitVec 64
  deriving DecidableEq, Repr

/-- The activity store contents by segment position (R15). -/
structure Act where
  counters : NMap Pair
  stamps : NMap (BitVec 64)
  /-- Positions whose pair is SUSPECT (R241). -/
  suspect : List Nat
  deriving DecidableEq, Repr

/-- One 16-byte sector of a cache line (R229). -/
structure Sector where
  valid : Bool
  dirty : Bool
  data : Pair
  deriving DecidableEq, Repr

/-- A cached line; `way` is its way, or 16 in the victim cache. -/
structure Line where
  line : Nat
  way : Nat
  sectors : List Sector
  deriving DecidableEq, Repr

/-- A counter operation in the address-ordered queue (R231). -/
structure CacheOp where
  cls : Nat
  pos : Nat
  pkt : Nat
  byte : Nat
  /-- It issued the fill it waits for. -/
  missed : Bool
  deriving DecidableEq, Repr

/-- The counter cache (R229 to R247). -/
structure Cache where
  lines : List Line
  /-- Victim lines, oldest first (R237). -/
  victim : List Line
  /-- Operations that wait behind fills, in order (R235). -/
  queue : List CacheOp
  /-- Lines whose fill is in flight, with the way allocated. -/
  fills : NMap Nat
  /-- Last line and run count of each class (R238). -/
  streams : List (Nat × Nat)
  /-- Stamp filter: index, (position, epoch) (R233). -/
  filter : NMap (Nat × Nat)
  /-- Epochs of the last corrected errors counted in each way, newest first, at most 8 (R239). -/
  ceAt : NMap (List Nat)
  /-- When software last took a way out of service (R246). -/
  softOff : NMap Nat
  /-- The last hub cycle counted in CC_PRESS_CNT, while a request waits for room in the queue (R232). -/
  press : Option Nat
  deriving DecidableEq, Repr

/-- Captured counters of one table in a snapshot. -/
structure SnapTable where
  table : Nat
  retPkt : Nat
  retByte : Nat
  retLate : Nat
  /-- Handle, pair, and the flags of R208 as captured. -/
  entries : List (Nat × Pair × Nat)
  /-- Home positions of each captured entry, by handle: where its hits count (R194, R214). -/
  homes : List (Nat × List Nat)
  /-- Positions kept while the buffer holds the capture (R216). -/
  positions : List Nat
  deriving DecidableEq, Repr

/-- One snapshot buffer (R215). -/
structure Snap where
  /-- 0 EMPTY, 1 ARMED, 2 COPYING, 3 HELD. -/
  st : Nat
  table : Nat
  epoch : Nat
  clr : Bool
  cmd : Option Nat
  caps : List SnapTable
  deriving DecidableEq, Repr

/-! ### Links and cascade -/

/-- A link port (Milud links). -/
structure Link where
  /-- 0 DOWN, 1 TRAINING, 2 RUN, 3 CHANGING WIDTH (HP_STATUS). -/
  st : Nat
  width : Nat
  /-- Lanes with codeword lock here, and the peer's latest LANE_MAP (R427). -/
  good : Word
  peer : Word
  /-- NRZ in force since the last training. -/
  nrz : Bool
  /-- Lanes enabled at the last training. -/
  enabled : Word
  /-- Widest width, from HP_CTRL.WIDTH at the last training (R434, R446). -/
  maxW : Nat
  /-- A WIDEN_REQ was sent and is not answered (R436). -/
  widen : Bool
  /-- Start of round 0 of the grid (R479). -/
  grid : Nat
  /-- A width change in progress: target width, and when round SWITCH begins. -/
  change : Option (Nat × Nat)
  /-- Credits outstanding in each context, and DT_WRITE credits (R432). -/
  creds : List Nat
  dcred : Nat
  /-- Credits to return in the next LINK flit: by context, and DT_WRITE. -/
  back : List Nat
  dback : Nat
  /-- Last round received in order, the NAK bit sent, and resends in a row (R433). -/
  ackRound : Nat
  nak : Bool
  resends : Nat
  rx : List Req
  /-- Booked flit slots, first and last, numbered on the grid at the present width (R125). -/
  booked : List (Nat × Nat)
  /-- Last slot booked for each context. -/
  lastSlot : List Nat
  deriving DecidableEq, Repr

/-- The cascade logic (R309 to R323). -/
structure Csc where
  pos : BitVec 2
  /-- 0 OFF, 1 FORMING, 2 ACTIVE, 3 BROKEN (R311). -/
  chain : Nat
  /-- Verified links on CP0 and CP1, and good hellos in a row on each. -/
  upVer : Bool
  dnVer : Bool
  upRun : Nat
  dnRun : Nat
  /-- Reach reported by the verified module below (R310). -/
  below : Nat
  nextTag : Nat
  /-- The epoch in which the last hellos were sent (R310). -/
  helloAt : Option Nat
  serves : List CscServe
  deriving DecidableEq, Repr

/-! ### Sprinkle and recovery -/

/-- A destructive test under way on a die (R282). -/
structure TestRun where
  /-- 0 idle, 1 takeover, 2 testing, 3 return. -/
  phase : Nat
  pos : Nat
  spare : Option Nat
  cmd : Option Nat
  deriving DecidableEq, Repr

/-- A shared-bank region test under way (R288). -/
structure SbTest where
  bank : Nat
  region : Nat
  start : Nat
  aborted : Bool
  /-- End of the test phase, where the restore begins (R288). -/
  restore : Nat
  deriving DecidableEq, Repr

/-- Sprinkle (R277 to R296). -/
structure Spk where
  scrub : Bool
  /-- Units of the pass, keyed die × 1,056 + position, and the runs of each already compared, as a mask. -/
  runs : NMap Nat
  scrubCmds : List Nat
  /-- A SCRUB_NOW pass starts at the next step. -/
  scrubDue : Bool
  /-- Start of the present test pass, and the next position of each die. -/
  passStart : Nat
  nextPos : List Nat
  /-- TEST_BLOCK commands whose test has not begun: die, position, command. -/
  testDue : List (Nat × Nat × Nat)
  tests : List TestRun
  holdUntil : Nat
  sb : Option SbTest
  /-- Next region, 0 to 1,023, and aborts in a row of it. -/
  sbNext : Nat
  sbAborts : Nat
  /-- Last region tested, for SPK_STATUS. -/
  sbLast : Nat
  /-- Spare rows used in each bank (R290). -/
  sbRows : NMap Nat
  /-- Retired test positions, die × 1,056 + position (R284). -/
  retired : List Nat
  /-- The hub cycle of the last access to each shared bank, and the last of its masters in the order of R292. -/
  bankUse : NMap (Nat × Nat) := []
  /-- The hub cycle of the last direct-table writes, and the words that ports A and B wrote in it (R293). -/
  dtCycle : Nat := 0
  dtA : List Nat := []
  dtB : List Nat := []
  /-- The hub cycle and the host port of the last inline direct-table write (R439). -/
  dtLast : Nat × Nat := (0, 0)
  deriving DecidableEq, Repr

/-- One record of a wait graph (R270). -/
structure WaitRec where
  unit : Nat
  idx : Nat
  cls : Nat
  inst : Nat
  holdUnit : Nat
  holdIdx : Nat
  waited : Nat
  deriving DecidableEq, Repr

/-- A held wait-graph snapshot (R270). -/
structure WaitSnap where
  epoch : Nat
  phase : Nat
  trig : Nat
  recs : List WaitRec
  deriving DecidableEq, Repr

/-! ### Vault -/

/-- A table as the shadow and the images hold it. -/
structure TableImg where
  tab : Table
  attrs : List (Nat × Word)
  /-- Mirrors made by TBL_MIRROR: die, block and count (R381). -/
  mirrors : List (Nat × Nat × Nat)
  deriving DecidableEq, Repr

/-- The body of a journal record (R381). -/
inductive JBody where
  | table (t : Option TableImg)
  | words (w : List (Nat × BitVec 256))
  /-- An imported table, with the words of a DIRECT one. -/
  | bulk (t : TableImg) (w : List (Nat × BitVec 256))
  | config (live : NMap Word) (retired : List Nat)
  | mark
  deriving DecidableEq, Repr

/-- A journal record (R381). -/
structure JRec where
  seq : Nat
  type : Nat
  table : Nat
  /-- Command whose completion waits for the record. -/
  cmd : Option Nat
  /-- Length in bytes; the layout of the placement it carries is not given (assumption 21). -/
  len : Nat
  body : JBody
  deriving DecidableEq, Repr

/-- A checkpoint image (R378, R385). -/
structure Image where
  s0 : Nat
  epoch : Nat
  tables : List (Nat × TableImg)
  counters : NMap Pair
  stamps : NMap (BitVec 64)
  direct : NMap (BitVec 256)
  deriving DecidableEq, Repr

/-- A checkpoint that runs (R385). -/
structure Ckpt where
  /-- 1 image A, 2 image B. -/
  target : Nat
  s0 : Nat
  epoch : Nat
  /-- It started at a synthesized step. -/
  held : Bool
  cmds : List Nat
  deriving DecidableEq, Repr

/-- A key-store slot (R416). -/
structure KeySlot where
  /-- 0 EMPTY, 1 MEDIA, 2 VERIFY, 3 SIGN. -/
  type : Nat
  pub : BitVec 776
  gen : Nat
  deriving DecidableEq, Repr

/-- A configuration image of the vault (R366, R378). -/
structure CfgImg where
  live : NMap Word
  tables : List (Nat × TableImg)
  retired : List Nat
  deriving DecidableEq, Repr

/-- A log record (R412). -/
structure LogRec where
  epoch : Nat
  phase : Nat
  held : Bool
  dropped : Bool
  src : Nat
  sev : Nat
  op0 : Word
  op1 : Word
  op2 : Word
  seq : Nat
  /-- Epoch in which the record was written (R414). -/
  wrote : Nat
  deriving DecidableEq, Repr

/-- The vault (R377 to R401). -/
structure Vault where
  /-- 0 UNMOUNTED, 1 ONLINE, 2 LOW_SPARE, 3 LOST (VLT_STATUS). -/
  st : Nat
  /-- Sequence of the last record staged, and of the last record in NAND. -/
  seq : Nat
  nand : Nat
  staged : List JRec
  journal : List JRec
  imgA : Option Image
  imgB : Option Image
  ckpt : Option Ckpt
  /-- Checkpoint due at the next step, and the commands that wait for one to start. -/
  ckptDue : Bool
  ckptJoin : List Nat
  cfg : Option CfgImg
  /-- The crumb partition: table and entry (R371). -/
  crumb : List (Nat × Row)
  keys : List KeySlot
  gens : Nat
  log : List LogRec
  good : Nat
  free : Nat
  maxPe : Nat
  avgPe : Nat
  lostTail : Option (Nat × Nat)
  ckptEpoch : Nat
  patrolStart : Nat
  /-- An internal seal found no journal space, and is tried again at the next step (R217, R265). -/
  sealWait : Bool
  deriving DecidableEq, Repr

/-! ### Management, power, stage -/

/-- An event that waits to be recorded (R409, R411). -/
structure EvRec where
  src : Nat
  sev : Nat
  op0 : Word
  op1 : Word
  op2 : Word
  epoch : Nat
  phase : Nat
  held : Bool
  deriving DecidableEq, Repr

/-- The management island (R402 to R423). -/
structure Mgmt where
  /-- MGT_STATUS.RUN: the processor has taken work since it last started (R402, R404). -/
  run : Bool
  evq : List EvRec
  /-- An event found the queue full since the last record (R411). -/
  dropped : Bool
  logSeq : Nat
  ring : List LogRec
  /-- SEQ of the last record copied to the vault (R414). -/
  copied : Nat
  temp : List Int
  volt : List Nat
  curr : List Nat
  power : Nat
  /-- Minimum and maximum of each of the 65 entries of R407. -/
  mins : List Int
  maxs : List Int
  bad : List Nat
  valid : Bool
  /-- For each temperature sensor and the levels WARN and LIMIT: 0 below it, else 1 plus the readings in a
  row that were 5 °C below it (R408). -/
  warn : List Nat
  limit : List Nat
  /-- The last ten readings of the input power, newest first, and whether their mean is above 560 W. -/
  pwr : List Nat
  pwrHi : Bool
  rails : List Nat
  /-- A thermal trip holds the module (R408). -/
  tripped : Bool
  /-- Causes seen by the SMBus alert (R421): latched bits, present causes. -/
  alert : Nat
  alertN : Bool
  /-- Counts of WARNING, ERROR and CRITICAL records since power on, and the last of the two
  highest (R420). -/
  warns : Nat
  errs : Nat
  crits : Nat
  lastBad : Option LogRec
  /-- Events already recorded in the present epoch under a rate limit: source and key. -/
  rate : List (Nat × Nat)
  /-- Vectors raised in this epoch, and merged into the next: port × 64 + vector (R410). -/
  vecs : List Nat
  vecPend : List Nat
  /-- Background work is held at LIMIT; a checkpoint waits (R408). -/
  ckptHeld : Bool
  deriving DecidableEq, Repr

/-- What a flush in progress ends in (R375, R408, R454). -/
inductive FlushFor where
  | mrst | soft | trip | off
  deriving DecidableEq, Repr

/-- Power, clocks and contacts (Power, mechanical and contacts; R17; R444). -/
structure Power where
  pwrEn : Bool
  pwrGood : Bool
  /-- VIN_54 is within range. -/
  vinOk : Bool
  /-- The converter stopped on an overvoltage (R451). -/
  overV : Bool
  /-- Rise and fall times of PWR_EN. -/
  enAt : Nat
  fallAt : Nat
  /-- A rise of PWR_EN waits for tPWREN_LOW (R454). -/
  risePend : Bool
  /-- PWR_GOOD is late (R455). -/
  late : Bool
  mrstN : Bool
  flush : Option FlushFor
  /-- Measured hold-up capacitance in µF, and the FAULT_N condition of R452. -/
  holdup : Nat
  holdupBad : Bool
  /-- Active oscillator, and oscillators that failed (R17). -/
  osc : Nat
  oscLost : Bool
  smbAddr : Nat
  /-- The JTAG instruction in effect (R444): its place in the list of R444. -/
  jtag : Nat
  resets : Nat
  /-- PCIe links of MP0 to MP3 up, and PERST asserted (R343). -/
  mpUp : List Bool
  /-- MSI-X Enable and Function Mask of the function of MP0 to MP3 (R342, PCIe 5.0; assumption 67). -/
  msixEn : List Bool
  msixMask : List Bool
  deriving DecidableEq, Repr

/-- Staged start (R365 to R376). -/
structure Stage where
  /-- 0 DORMANT, 1 CRUMB, 2 PROOFING, 3 FULL, 4 FAULTSAFE. -/
  stage : Nat
  fsCause : BitVec 5
  fsDie : BitVec 4
  crumbOk : Bool
  vaultEmpty : Bool
  image : Nat
  startRef : Nat
  tCrumb : Nat
  tFull : Nat
  /-- A cause of R374 was found before CRUMB. -/
  fsPending : Bool
  /-- Crumb entries by table, and where they lie (R369). -/
  crumb : List (Nat × Row)
  /-- Promoted tables whose crumb spares wait for the earlier requests (R370): table, step time. -/
  release : NMap Nat
  deriving DecidableEq, Repr

/-- Something the module drives out of its connectors. -/
inductive Out where
  /-- Bus-mastered write: port, host address, bytes (R443). -/
  | dma (port addr : Nat) (bytes : List Byte)
  /-- MSI-X message: port, vector (R342, R410). -/
  | msix (port vector : Nat)
  /-- Completion of a register read: port, data, or `none` for UR (R350). -/
  | regData (port : Nat) (data : Option (List Byte))
  /-- A frame handed to the link layer: port, time, flits (R20, R479). -/
  | frame (port time : Nat) (flits : List Flit)
  /-- SMBus read data, or `none` when not acknowledged, and the packet error code that follows when one byte
  more is read (R419, R420). -/
  | smb (data : Option (List Byte)) (pec : Byte)
  /-- Data shifted out of the test port (R444). -/
  | jtag (data : BitVec 32)
  /-- An ERR_COR message with Advisory Non-Fatal Error status on a management port (R350). -/
  | errCor (port : Nat)
  /-- An uncorrectable non-fatal error message on a management port (R443). -/
  | errNonFatal (port : Nat)
  deriving DecidableEq, Repr

/-- An action that the present epoch step still has to apply, in the order of R42 (assumption 3). -/
inductive Due where
  | leaseEnd
  | handover
  /-- Vacancy and election; `was`: the drain had begun before this step. -/
  | vacant (was : Bool)
  | apply (group : Nat)
  | glaze (table sealNo : Nat)
  | promote (table : Nat)
  | swap (die unit : Nat)
  | copyMap (id : Nat)
  | snapshot (buf : Nat)
  | internalSeal
  | ageStart (table : Nat)
  | mirrorWindow (die : Nat)
  | scrub
  | testPass
  | testWindow (die : Nat)
  | sbTest
  | checkpoint
  | patrol
  /-- The snapshots of item 5 and the starts of item 6, which are picked once items 2 to 4 are applied. -/
  | starts
  deriving DecidableEq, Repr

/-- The whole block. -/
structure State where
  /-- The present time, in units of 100 ps. -/
  now : Nat
  epoch : Epoch
  /-- Actions of the present epoch step not yet applied (R42). -/
  due : List Due
  own : Own
  mbox : List Mbox
  cmds : List Cmd
  /-- Commands accepted so far by the module, and the next mailbox in the round robin (R340). -/
  nextCmd : Nat
  rrMbox : Nat
  /-- The next mailbox in the round robin of each executing unit: command sequencers, ownership logic, stall
  watchdog and management processor (R25, R341). -/
  rrStart : List Nat
  regs : Regs
  /-- Shared banks: bytes that are not zero, keyed by offset from 0x0040_0000 (R14). -/
  mem : List Host.Cell
  tables : NMap Table
  /-- Number of seals made so far (R185). -/
  seals : Nat
  /-- Direct table words that are not zero (R66). -/
  direct : NMap (BitVec 256)
  dies : Dies
  links : List Link
  holds : List Hold
  /-- Ends of the walks in progress (R139). -/
  walkEnds : List Nat
  act : Act
  cache : Cache
  learnQ : List LearnRec
  snaps : List Snap
  csc : Csc
  spk : Spk
  /-- Held wait-graph snapshot (R268). -/
  waitSnap : Option WaitSnap
  vault : Vault
  mgmt : Mgmt
  power : Power
  stage : Stage
  out : List Out
  /-- The MODEL's own field: how many free values have been drawn (assumption 5). -/
  free : Nat
  /-- Commands that wait, first in first out. -/
  pending : List Instr
  deriving DecidableEq, Repr

/-- Why a step stops with a fault. No rule of the spec stops the block, so no meaning raises one. -/
inductive Fault where
  /-- Raised by nothing: every command of the table has an effect in every state (safe). -/
  | stopped
  deriving DecidableEq, Repr

/-- Why a command is refused. -/
inductive Refusal where
  /-- Raised by an arm of `exec` whose command has no meaning yet (safe: no next state). -/
  | notModelled (mnemonic : String)
  deriving DecidableEq, Repr

/-- A generation slot that holds nothing. -/
def Slot.empty : Slot :=
  { st := .free, epoch := 0, sealEnd := 0, armed := false, sealNo := 0, armEpoch := 0, by_ := .command, ripe := none, hasCmd := false
    hasInt := false, tree := none }

/-- A mailbox with every index 0 (R343, R346), stopped as DORMANT keeps it (R367). -/
def Mbox.reset : Mbox :=
  { tail := [0, 0], head := [0, 0], acc := 0, cplTail := 0, cplHead := 0, stopped := true
    resetHeld := false, hiRun := 0, waits := [none, none], sinceRaise := 0, firstAt := none }

/-- A link that is down (R446). -/
def Link.reset : Link :=
  { st := 0, width := 0, good := 0, peer := 0, nrz := false, enabled := 0, maxW := 0, widen := false, grid := 0, change := none
    creds := List.replicate 8 0, dcred := 0, back := List.replicate 8 0, dback := 0, ackRound := 0
    nak := false, resends := 0, rx := [], booked := [], lastSlot := List.replicate 8 0 }

/-- The epoch block after any reset that clears it (R32, R37, R38). -/
def Epoch.reset (now : Nat) : Epoch :=
  { count := 0, prev := 0, stepAt := now, phase0 := now, off := 0, held := false, qual := .acquire, numbered := false
    lastAcc := none, lastEdge := none, ignored := [], chatter := false, fresh := false, consec := 0
    intervals := [], holdCount := 1, synBase := now, synK := 1, period := 0x400, beacon := none }

/-- Ownership after a module reset (R329). -/
def Own.reset : Own :=
  { st := .vacant, owner := 0, probation := false, target := 0, rank := 0, token := 0, leaseEnd := 0, began := 0, beganHeld := false
    ballots := List.replicate 4 { pending := false, rank := 0, token := 0, result := 0, castAt := 0 }
    hand := none, linkLoss := none, renewed := none }

/-- The register file with every register at its reset value. -/
def Regs.reset : Regs :=
  { live := [], buf := [], shadow := [], view := [false, false, false, false], armed := []
    lastApply := [], parityErr := [], pw := [], wheelPend := [], nominalPend := false, hard := [], soft := [], met := []
    bufStart := none, lastWrite := (0, 0) }

/-- Search dies with every block and spare free. -/
def Dies.reset : Dies :=
  { blocks := [], spares := [], builds := [], changes := [], nextChange := 0, waiting := [], book := []
    issue := [], rr := [], sift := [], walks := [], siftRetired := [], allocs := 0 }

/-- The counter cache with every line invalid (R245). -/
def Cache.reset : Cache :=
  { lines := [], victim := [], queue := [], fills := [], streams := [(0, 0), (0, 0), (0, 0), (0, 0)]
    filter := [], ceAt := [], softOff := [], press := none }

/-- An empty snapshot buffer (R215). -/
def Snap.reset : Snap :=
  { st := 0, table := 255, epoch := 0, clr := false, cmd := none, caps := [] }

/-- The cascade logic after a module reset, at position `p` (R309). -/
def Csc.reset (p : BitVec 2) : Csc :=
  { pos := p, chain := 0, upVer := false, dnVer := false, upRun := 0, dnRun := 0, below := 0, nextTag := 0
    helloAt := none, serves := [] }

/-- Sprinkle after a module reset, with the positions `retired` held through it (R284). -/
def Spk.reset (retired : List Nat) : Spk :=
  { scrub := false, runs := [], scrubCmds := [], scrubDue := false, passStart := 0
    nextPos := [1056, 1056, 1056, 1056], testDue := []
    tests := List.replicate 4 { phase := 0, pos := 0, spare := none, cmd := none }, holdUntil := 0
    sb := none, sbNext := 0, sbAborts := 0, sbLast := 0, sbRows := [], retired := retired }

/-- An empty vault as the factory leaves it (assumption 9). -/
def Vault.reset : Vault :=
  { st := 0, seq := 0, nand := 0, staged := [], journal := [], imgA := none, imgB := none, ckpt := none
    ckptDue := false, ckptJoin := [], cfg := none, crumb := []
    keys := List.replicate 16 { type := 0, pub := 0, gen := 0 }, gens := 0, log := [], good := 32768
    free := 26287, maxPe := 0, avgPe := 0, lostTail := none, ckptEpoch := 0, patrolStart := 0
    sealWait := false }

/-- The management island at power on (R412, R422). -/
def Mgmt.reset : Mgmt :=
  { run := false, evq := [], dropped := false, logSeq := 0, ring := [], copied := 0
    temp := List.replicate 32 0, volt := List.replicate 16 0, curr := List.replicate 16 0, power := 0
    mins := List.replicate 65 0, maxs := List.replicate 65 0, bad := [], valid := false
    warn := List.replicate 32 0, limit := List.replicate 32 0, pwr := [], pwrHi := false, rails := [], tripped := false, alert := 0
    alertN := false, warns := 0, errs := 0, crits := 0, lastBad := none, rate := [], vecs := []
    vecPend := [], ckptHeld := false }

/-- The contacts just after PWR_GOOD has risen with MRST_N high (R452, R456). -/
def Power.reset : Power :=
  { pwrEn := true, pwrGood := true, vinOk := true, overV := false, enAt := 0, fallAt := 0
    risePend := false, late := false, mrstN := true, flush := none, holdup := 2200, holdupBad := false
    osc := 0, oscLost := false, smbAddr := 0x3C, jtag := 1, resets := 0
    mpUp := [true, true, true, true], msixEn := [true, true, true, true], msixMask := [false, false, false, false] }

/-- Stage DORMANT just entered (R365, R376). -/
def Stage.reset (now : Nat) : Stage :=
  { stage := 0, fsCause := 0, fsDie := 0, crumbOk := false, vaultEmpty := false, image := 0
    startRef := now, tCrumb := 0, tFull := 0, fsPending := false, crumb := []
    release := [] }

/-- The module right after power-on reset: DORMANT, epoch block cleared, no owner, every register
at its reset value (R32, R329, R365, R375). -/
def State.reset : State :=
  { now := 0, epoch := Epoch.reset 0, due := [], own := Own.reset, mbox := List.replicate 4 Mbox.reset, cmds := []
    nextCmd := 0, rrMbox := 0, rrStart := [0, 0, 0, 0], regs := Regs.reset, mem := [], tables := [], seals := 0, direct := []
    dies := Dies.reset, links := List.replicate 18 Link.reset, holds := [], walkEnds := []
    act := { counters := [], stamps := [], suspect := [] }, cache := Cache.reset, learnQ := []
    snaps := [Snap.reset, Snap.reset], csc := Csc.reset 0, spk := Spk.reset [], waitSnap := none
    vault := Vault.reset, mgmt := Mgmt.reset, power := Power.reset, stage := Stage.reset 0, out := []
    free := 0, pending := [] }

end Sys2Proof.Machine
end

