-- ==== Sys2Proof/Machine/Ops.lean ====
section
/-! DEFINITION. The named operations that every command shares: sparse maps, bit fields, byte
strings, CRC-32, the bytes of the shared banks, and the lists that hold the module's units. -/

namespace Sys2Proof.Machine

/-! ### Sparse maps -/

/-- The value listed under key `k`. -/
def mapGet {α : Type} : NMap α → Nat → Option α
  | [], _ => none
  | (j, v) :: m, k => if j = k then some v else mapGet m k

/-- The value listed under key `k`, or `d`. -/
def mapGetD {α : Type} (m : NMap α) (k : Nat) (d : α) : α := (mapGet m k).getD d

/-- List `v` under key `k`, in place of what was listed. -/
def mapSet {α : Type} : NMap α → Nat → α → NMap α
  | [], k, v => [(k, v)]
  | (j, w) :: m, k, v =>
    if k < j then (k, v) :: (j, w) :: m
    else if k = j then (k, v) :: m
    else (j, w) :: mapSet m k v

/-- List nothing under key `k`. -/
def mapErase {α : Type} : NMap α → Nat → NMap α
  | [], _ => []
  | (j, w) :: m, k => if j = k then mapErase m k else (j, w) :: mapErase m k

/-- Change the value under key `k`, `d` standing for an unlisted one. -/
def mapMod {α : Type} (m : NMap α) (k : Nat) (d : α) (f : α → α) : NMap α :=
  mapSet m k (f (mapGetD m k d))

/-- Change element `k` of a list. -/
def listMod {α : Type} : List α → Nat → (α → α) → List α
  | [], _, _ => []
  | a :: l, 0, f => f a :: l
  | a :: l, k + 1, f => a :: listMod l k f

/-- Element `k` of a list of numbers, 0 beyond its end. -/
def natAt (l : List Nat) (k : Nat) : Nat := l.getD k 0

/-- The first position of a list at which `p` holds. -/
def findIdx {α : Type} (p : α → Bool) : List α → Nat → Option Nat
  | [], _ => none
  | a :: l, i => if p a then some i else findIdx p l (i + 1)

/-- Sum of a list. -/
def sumNat : List Nat → Nat
  | [] => 0
  | a :: l => a + sumNat l

/-- Greatest element of a list, 0 when empty. -/
def maxNat : List Nat → Nat
  | [] => 0
  | a :: l => max a (maxNat l)

/-- Least element of a list. -/
def minNat : List Nat → Option Nat
  | [] => none
  | a :: l => match minNat l with
    | none => some a
    | some b => some (min a b)

/-- Insertion of `a` before the first element that `lt` places after it. -/
def insertBy {α : Type} (lt : α → α → Bool) (a : α) : List α → List α
  | [] => [a]
  | b :: l => if lt a b then a :: b :: l else b :: insertBy lt a l

/-- Stable insertion sort. -/
def sortBy {α : Type} (lt : α → α → Bool) : List α → List α
  | [] => []
  | a :: l => insertBy lt a (sortBy lt l)

/-- Drop repeated numbers, keeping the last of each. -/
def dedup : List Nat → List Nat
  | [] => []
  | a :: l => if l.contains a then dedup l else a :: dedup l

/-- Has the list a repeated number? -/
def hasDup : List Nat → Bool
  | [] => false
  | a :: l => l.contains a || hasDup l

/-! ### Bit fields and bytes -/

/-- Bits [hi:lo] of a word, as a number. -/
def fld {n : Nat} (w : BitVec n) (hi lo : Nat) : Nat := (w.toNat >>> lo) % 2 ^ (hi + 1 - lo)

/-- Bits [hi:lo] of a number. -/
def nfld (w hi lo : Nat) : Nat := (w >>> lo) % 2 ^ (hi + 1 - lo)

/-- Bit `i` of a word. -/
def bit {n : Nat} (w : BitVec n) (i : Nat) : Bool := w.toNat.testBit i

/-- 1 for true. -/
def b2n (b : Bool) : Nat := if b then 1 else 0

/-- The 32-bit word of a number. -/
def word (v : Nat) : Word := BitVec.ofNat 32 v

/-- A mask of bits [hi:lo]. -/
def maskOf (hi lo : Nat) : Word := BitVec.ofNat 32 ((2 ^ (hi + 1 - lo) - 1) * 2 ^ lo)

/-- The low `n` bits of `v` placed at bit `lo`. -/
def at_ (v n lo : Nat) : Word := BitVec.ofNat 32 ((v % 2 ^ n) * 2 ^ lo)

/-- The signed value of the low `n` bits of `v`. -/
def signed (n v : Nat) : Int := if v % 2 ^ n < 2 ^ (n - 1) then (v % 2 ^ n : Nat) else (v % 2 ^ n : Nat) - (2 ^ n : Nat)

/-- The low `n` bits of an integer. -/
def intBits (n : Nat) (i : Int) : Nat := (i % (2 ^ n : Nat)).toNat

/-- `n` little-endian bytes of a number. -/
def bytesLE : Nat → Nat → List Byte
  | 0, _ => []
  | n + 1, v => BitVec.ofNat 8 v :: bytesLE n (v / 256)

/-- The number whose little-endian bytes are given. -/
def natLE : List Byte → Nat
  | [] => 0
  | b :: l => b.toNat + 256 * natLE l

/-- `n` big-endian bytes of a number. -/
def bytesBE (n v : Nat) : List Byte := (bytesLE n v).reverse

/-- The number whose big-endian bytes are given. -/
def natBE (l : List Byte) : Nat := natLE l.reverse

/-- `n` bytes of `l` from byte `k`. -/
def slice (l : List Byte) (k n : Nat) : List Byte := (l.drop k).take n

/-- The little-endian number in `n` bytes from byte `k`. -/
def leAt (l : List Byte) (k n : Nat) : Nat := natLE (slice l k n)

/-- Are all bytes zero? -/
def allZero (l : List Byte) : Bool := l.all (fun b => b == 0)

/-- Is `b` the bytewise complement of `a`? (R7) -/
def isCompl (a b : List Byte) : Bool := a.length == b.length && (a.zip b).all (fun p => p.2 == ~~~ p.1)

/-- One bit of the CRC-32 of R278, reflected: polynomial 0x04C1_1DB7, least significant bit first. -/
def crcBit (c : BitVec 32) : BitVec 32 :=
  if c.toNat % 2 = 1 then (c >>> 1) ^^^ 0xEDB88320#32 else c >>> 1

/-- One byte of the CRC-32. -/
def crcByte (c : BitVec 32) (b : Byte) : BitVec 32 :=
  crcBit (crcBit (crcBit (crcBit (crcBit (crcBit (crcBit (crcBit (c ^^^ b.setWidth 32))))))))

/-- The CRC-32 register after the given bytes. -/
def crcRun (c : BitVec 32) : List Byte → BitVec 32
  | [] => c
  | b :: l => crcRun (crcByte c b) l

/-- CRC-32 of a byte string (R278; assumption 12). -/
def crc32 (l : List Byte) : BitVec 32 := ~~~ (crcRun 0xFFFFFFFF#32 l)

/-! ### The shared banks (R14)

`State.mem` lists the bytes that are not zero, in rising order of their offset from 0x0040_0000. -/

/-- Size of the shared banks in bytes. -/
def bankSize : Nat := 0x400000

/-- The canonical form: offsets strictly rising, within the banks, and no zero byte listed. -/
def memWf : List Host.Cell → Bool
  | [] => true
  | [(a, b)] => decide (a < bankSize) && b != 0
  | (a, b) :: (a', b') :: m => decide (a < a') && b != 0 && memWf ((a', b') :: m)

/-- The byte at offset `a`; an unlisted byte reads 0 (assumption 8). -/
def memRead : List Host.Cell → Nat → Byte
  | [], _ => 0
  | (j, b) :: m, a => if j = a then b else memRead m a

/-- Write a byte that is within the banks, keeping the canonical form. -/
def memPut : List Host.Cell → Nat → Byte → List Host.Cell
  | [], a, v => if v = 0 then [] else [(a, v)]
  | (j, b) :: m, a, v =>
    if a < j then (if v = 0 then (j, b) :: m else (a, v) :: (j, b) :: m)
    else if a = j then (if v = 0 then m else (a, v) :: m)
    else (j, b) :: memPut m a v

/-- Write a byte; an offset outside the banks is no byte of them. -/
def memWrite (m : List Host.Cell) (a : Nat) (v : Byte) : List Host.Cell :=
  if a < bankSize then memPut m a v else m

/-- Write bytes from offset `a` on. -/
def memWriteAll (m : List Host.Cell) (a : Nat) : List Byte → List Host.Cell
  | [] => m
  | b :: l => memWriteAll (memWrite m a b) (a + 1) l

/-- Read `n` bytes from offset `a` on. -/
def memReadAll (m : List Host.Cell) (a : Nat) : Nat → List Byte
  | 0 => []
  | n + 1 => memRead m a :: memReadAll m (a + 1) n

/-! ### Units -/

/-- Something leaves the module. -/
def emit (o : Out) (s : State) : State := { s with out := s.out ++ [o] }

/-- A free value is drawn: the number of the draw, and the state after it (assumption 5). -/
def draw (s : State) : Nat × State := (s.free, { s with free := s.free + 1 })

/-- Time does not run backward: an event at time `t` happens at the later of `t` and now. -/
def advance (t : Nat) (s : State) : State := { s with now := max s.now t }

/-! ### Requests for slots (R297, R298, R301) -/

/-- The sequencer that runs command `id`. -/
def sequencerOf (id : Nat) : Who := { unit := 2, idx := Config.sequencer id % 8, cmd := some id }

/-- A background requester asks for `n` slots of the wheel of unit `u` of die `d`, whose wheel group is `g`. -/
def askSlots (s : State) (d g u req n : Nat) (who : Who := {}) : State :=
  let c := s.now / 10
  let a : SlotAsk := { wheel := 16 * d + g, unit := u, req := req, left := n, made := c, who := who, since := s.epoch.count }
  { s with dies := { s.dies with
      asks := if n = 0 then s.dies.asks else s.dies.asks ++ [a]
      askAt := if n ≠ 0 ∧ s.dies.asks.isEmpty then c + 4 else s.dies.askAt } }

/-- Bursts of 64 B of the first `n` that lie on stack 0: the stacks
interleave every 4 KiB (R15; assumption 88). -/
def evenBursts (n : Nat) : Nat := n / 128 * 64 + min 64 (n % 128)

/-- The request `a` in the order of service of its class: VAULT serves restore, journal writes, checkpoint staging and
patrol in this order, and every other class in order of arrival (R298). -/
def insertAsk (a : SlotAsk) : List SlotAsk → List SlotAsk
  | [] => [a]
  | b :: l => if a.order < b.order && a.wheel == b.wheel && a.req == b.req then a :: b :: l else b :: insertAsk a l

/-- A class asks for `n` bursts of stack `k`. -/
def askStack (s : State) (k req n order : Nat) (who : Who) : State :=
  let c := s.now / 8
  let a : SlotAsk := { wheel := 64 + k, unit := 0, req := req, left := n, made := c, order := order, who := who, since := s.epoch.count }
  { s with dies := { s.dies with
      dram := if n = 0 then s.dies.dram else insertAsk a s.dies.dram
      dramAt := if n ≠ 0 ∧ s.dies.dram.isEmpty then c + 4 else s.dies.dramAt } }

/-- A class asks for the bursts that the `len` bytes from `a` on of the activity store take. -/
def askDram (s : State) (req a len : Nat) (order : Nat := 0) (who : Who := {}) : State :=
  let n := if len = 0 then 0 else (a + len + 63) / 64 - a / 64
  let even := if len = 0 then 0 else evenBursts ((a + len + 63) / 64) - evenBursts (a / 64)
  askStack (askStack s 0 req even order who) 1 req (n - even) order who

/-- Owner codes of the DRAM wheels (R307): the classes of the cache are HIT, AGE, HOST and SNAP in order. -/
def drHit : Nat := 1
def drSnap : Nat := 4
def drShadow : Nat := 5
def drVault : Nat := 6

/-- First bytes of the regions of the activity store that the classes reach, which lie in the order of R15
(DEDUCED; assumption 88). -/
def stampBase : Nat := 256 * 2 ^ 20
def shadowBase : Nat := 384 * 2 ^ 20
def snapBase : Nat := 1600 * 2 ^ 20
def stagingBase : Nat := 3136 * 2 ^ 20

/-- Table `t`, if it is not ABSENT. -/
def State.table (s : State) (t : Nat) : Option Table := mapGet s.tables t

/-- Replace table `t`. -/
def State.setTable (s : State) (t : Nat) (x : Table) : State := { s with tables := mapSet s.tables t x }

/-- Change table `t`, if it is not ABSENT. -/
def State.modTable (s : State) (t : Nat) (f : Table → Table) : State :=
  match mapGet s.tables t with
  | none => s
  | some x => s.setTable t (f x)

/-- Port `p`'s link. -/
def State.link (s : State) (p : Nat) : Link := s.links.getD p Link.reset

/-- Change port `p`'s link. -/
def State.modLink (s : State) (p : Nat) (f : Link → Link) : State := { s with links := listMod s.links p f }

/-- Mailbox `m`. -/
def State.box (s : State) (m : Nat) : Mbox := s.mbox.getD m Mbox.reset

/-- Change mailbox `m`. -/
def State.modBox (s : State) (m : Nat) (f : Mbox → Mbox) : State := { s with mbox := listMod s.mbox m f }

/-- Change the commands that satisfy `p`. -/
def State.modCmds (s : State) (p : Cmd → Bool) (f : Cmd → Cmd) : State :=
  { s with cmds := s.cmds.map (fun c => if p c then f c else c) }

/-- A slot of a table by number. -/
def Table.slot (x : Table) (k : Nat) : Slot := x.slots.getD k Slot.empty

/-- Change a slot. -/
def Table.modSlot (x : Table) (k : Nat) (f : Slot → Slot) : Table := { x with slots := listMod x.slots k f }

end Sys2Proof.Machine
end

