-- ==== Sys2Proof/Machine/RegMap.lean ====
section
/-! DEFINITION. The BAR0 register map (R466, R468): for each listed offset the fields software may
write and clear, the value after reset, the update group and the master that may write. An offset
with no descriptor is a reserved location (R349). -/

namespace Sys2Proof.Machine

/-- Who may write a register (R324). -/
inductive Right where
  | owner
  /-- Every port, each its own instance or its own view of it: OWN_CLAIM, UPD_VIEW, MSI-X. -/
  | self
  | mailbox (m : Nat)
  | evport (m : Nat)
  /-- Port `m` and the owner (R364). -/
  | access (m : Nat)
  deriving DecidableEq, Repr

/-- What software may do to a register (R352). Bits in none of the masks are RO. -/
structure RegDesc where
  reset : Word := 0
  rw : Word := 0
  w1c : Word := 0
  w1s : Word := 0
  /-- Fields that an owner's full-width read clears. -/
  rc : Word := 0
  /-- Update group of the BUF fields; 100 + t for the words of table t. -/
  group : Option Nat := none
  right : Right := .owner
  /-- CX fields (R361). -/
  cx : Word := 0
  /-- Lane of a PW register (R354). -/
  lane : Option Nat := none
  /-- The low word of an RSH pair (R353). -/
  rsh : Bool := false
  deriving DecidableEq, Repr

/-- Index of `a` in an array of `n` instances of stride `st` from `base` on. -/
def arr (base st n a : Nat) : Option Nat :=
  if base ≤ a ∧ a < base + st * n ∧ (a - base) % st = 0 then some ((a - base) / st) else none

/-- A register with no field software may write. -/
def regRO (reset : Nat) : Option RegDesc := some { reset := word reset }

/-- The low word of an RSH pair. -/
def regRsh : Option RegDesc := some { rsh := true }

/-- A 32-bit RC counter. -/
def regRC : Option RegDesc := some { rc := 0xFFFFFFFF#32 }

/-- A register of RW fields owned by the owner. -/
def regRW (reset rw : Nat) (cx : Nat := 0) : Option RegDesc :=
  some { reset := word reset, rw := word rw, cx := word cx }

/-- A register of BUF fields of group `g`. -/
def regBuf (g reset rw : Nat) (cx : Nat := 0) : Option RegDesc :=
  some { reset := word reset, rw := word rw, group := some g, cx := word cx }

/-- A register of W1C bits. -/
def regW1C (reset w1c : Nat) : Option RegDesc := some { reset := word reset, w1c := word w1c }

/-- Identity and global (R467, R376, R364). -/
def regDescId (a : Nat) : Option RegDesc :=
  if a = 0x0 then regRO 0x2416
  else if a = 0x4 then regRO 0xA2
  else if a = 0x100 then regRO 0
  else if a = 0x104 then some { w1s := 1 }
  else if a = 0x108 then regW1C 1 7
  else if a = 0x10C ∨ a = 0x110 ∨ a = 0x114 then regRO 0
  else if a = 0x240 then regW1C 0 0x80000000
  else if a = 0x244 then regRC
  else match arr 0x200 0x10 4 a, arr 0x204 0x10 4 a, arr 0x208 0x10 4 a with
    | some m, _, _ => some { w1c := 0xFF, right := .access m }
    | _, some _, _ => regRO 0
    | _, _, some _ => regRC
    | _, _, _ => none

/-- Ownership and update strobes (R345, R359). -/
def regDescOwn (o : Nat) : Option RegDesc :=
  if o = 0x0 then some { cx := 0xFBFFFFFF }
  else if o = 0x4 then regRO 0
  else if o = 0x8 then some { rw := 0x00FFFFFF, w1s := 0x20000000, right := .self }
  else if o = 0xC then some { reset := 16384, rw := 0x00FFFFFF, w1s := 0x80000000, cx := 0x00FFFFFF }
  else if o = 0x10 then regRsh
  else if o = 0x14 then regRO 0
  else if o = 0x18 then regW1C 0 7
  else if o = 0x100 then some { w1s := 0xFFFFFFFF }
  else if o = 0x104 then regRW 0 0xFFFFFFFF
  else if o = 0x108 then regRW 0 0xFFFF
  else if o = 0x10C then some { w1s := 0xFFFFFFFF }
  else if o = 0x110 then regW1C 0 0xFFFFFFFF
  else if o = 0x114 then some { rw := 1, right := .self }
  else match arr 0x20 4 4 o, arr 0x140 8 32 o, arr 0x144 8 32 o with
    | some _, _, _ => regRO 0
    | _, some _, _ => regRsh
    | _, _, some _ => regRO 0
    | _, _, _ => none

/-- Events (R423). -/
def regDescEvt (o : Nat) : Option RegDesc :=
  if o = 0x900 ∨ o = 0x904 ∨ o = 0x914 ∨ o = 0x91C then regRO 0
  else if o = 0x910 ∨ o = 0x918 then regRsh
  else if o = 0x920 ∨ o = 0x924 then regRC
  else match arr 0 4 44 o with
    | some _ => regW1C 0 0xFFFF
    | none =>
      if 0x100 ≤ o ∧ o < 0x500 ∧ (o % 0x100) % 4 = 0 ∧ (o % 0x100) / 4 < 44 then
        some { rw := 0xFFFF, right := .evport ((o - 0x100) / 0x100) }
      else if 0x500 ≤ o ∧ o < 0x900 ∧ (o % 0x100) % 4 = 0 ∧ (o % 0x100) / 4 < 44 then
        some { reset := 0xFFFF, rw := 0xFFFF, right := .evport ((o - 0x500) / 0x100) }
      else none

/-- Epoch (R44). -/
def regDescEpo (o : Nat) : Option RegDesc :=
  if o = 0x00 ∨ o = 0x30 then regRsh
  else if o = 0x04 ∨ o = 0x08 ∨ o = 0x34 then regRO 0
  else if o = 0x0C then regBuf 0 0x400 0x3FFF 0x3FFF
  else if o = 0x10 then regBuf 0 0x100 0x10F 0xF
  else if o = 0x14 then regBuf 0 0x10000 0x3FFFF 0x1FFFF
  else if o = 0x18 then some { rc := 0x1FFFFFFF }
  else if o = 0x1C then regW1C 0 0x1F
  else if o = 0x20 then regRW 0 0xFFFFFFFF
  else if o = 0x24 then some { rw := 0xFFFF, w1s := 0x80000000 }
  else if o = 0x28 ∨ o = 0x2C then regRC
  else none

/-- Mailbox `m` (R346). -/
def regDescMb (m o : Nat) : Option RegDesc :=
  if o = 0x0 ∨ o = 0x8 ∨ o = 0x14 then some { rw := 0xFFFF, right := .mailbox m }
  else if o = 0x4 ∨ o = 0xC ∨ o = 0x10 ∨ o = 0x18 then some { right := .mailbox m }
  else if o = 0x1C then some { reset := 1, rw := 0xFFFF00FF, right := .mailbox m }
  else if o = 0x20 then some { w1c := 0xF, right := .mailbox m }
  else none

/-- Word `o` of TBL_ATTR[t] (R71). -/
def regDescTbl (t o : Nat) : Option RegDesc :=
  if o = 0x00 then some { cx := 0xF80F0000 }
  else if o = 0x08 then regBuf (100 + t) 0 0x1FFF
  else if o = 0x10 then regBuf (100 + t) 0x40000000 0xFFFFFFFF 0xFFFFFFFF
  else if o = 0x14 then regBuf (100 + t) 8 0x73FF
  else if o = 0x18 then regBuf (100 + t) 3 0x1F
  else if o = 0x1C then regBuf (100 + t) 256 0x7FF
  else if o = 0x30 then regRsh
  else if o = 0x38 then regRC
  else if o = 0x3C then regW1C 0 7
  else regRO 0

/-- Table attributes, generation status and glaze counters (R71, R202). -/
def regDescTables (o : Nat) : Option RegDesc :=
  if o < 255 * 0x40 then regDescTbl (o / 0x40) (o % 0x40)
  else if 0x4000 ≤ o ∧ o < 0x4000 + 255 * 0x20 then (if o % 8 = 0 then regRsh else some { cx := 0xE000FFFF })
  else if 0x8000 ≤ o ∧ o < 0x8018 then regRC
  else if o = 0x8018 then regRO 0
  else none

/-- Search die (R100). -/
def regDescSd (o : Nat) : Option RegDesc :=
  if o = 0 then regRO 0
  else if o = 4 then regBuf 1 0x04000001 0xFFFF0001
  else if o = 8 then regBuf 1 0x5028 0xFFFF
  else if 0x100 ≤ o ∧ o < 0x180 then regRO 0
  else if 0x1000 ≤ o ∧ o < 0x3000 then regRO 0
  else if 0x3000 ≤ o ∧ o < 0x4000 then regRC
  else none

/-- Walker and parse memory (R129 to R132). -/
def regDescWalk (o : Nat) : Option RegDesc :=
  if o = 0 then regBuf 3 0x200010 0x3F001F
  else if o = 4 ∨ o = 8 then regRC
  else if 0x10 ≤ o ∧ o < 0x2C then regRC
  else if 0x40 ≤ o ∧ o < 0x80 then regBuf 3 0 0x800001FF 0x800001FF
  else if 0x1000 ≤ o ∧ o < 0x2000 then regBuf 3 0 (if o % 8 = 0 then 0xFFFFFFFF else 0x1FF)
  else if 0x2000 ≤ o ∧ o < 0x3000 then regBuf 3 0 0xFFFFFF00
  else if 0x4000 ≤ o ∧ o < 0x6000 then
    (if o % 16 = 0 then regBuf 3 0 0xFFFFE0FF 0x80000000
     else if o % 16 = 4 then regBuf 3 0 0xFFFFFFC0
     else if o % 16 = 8 then regBuf 3 0 0xFFFF3FFF
     else regBuf 3 0 0xFFFFFFFF)
  else none

/-- Key profiles (R107). -/
def regDescProf (o : Nat) : Option RegDesc :=
  let w := o % 0x100
  if w = 0 then regBuf 2 0x0001FF00 0x8307FF00 0x8000FF00
  else if w = 4 then regBuf 2 0 0x37F
  else if 0x10 ≤ w ∧ w < 0xD0 then
    (if (w - 0x10) % 0x30 = 0 then regBuf 2 0xFF000000 0xFF00001F 0xFF000000
     else if (w - 0x10) % 0x30 < 0x24 then regBuf 2 0 0x7F7F7F7F
     else none)
  else none

/-- Counter cache (R247). -/
def regDescCc (o : Nat) : Option RegDesc :=
  if o = 0 then regRW 1 1
  else if o = 4 then regRW 0xFFFF 0xFFFF
  else if o = 8 then regBuf 5 0x0000FFFF 0xFFFFFFFF
  else if o = 0xC then regBuf 5 3 0xFFFFFFFF
  else if o = 0x10 then regBuf 5 1 1
  else if o = 0x14 then regRW 0xACE1 0xFFFF
  else if o = 0x18 then regW1C 0 0xF
  else if o = 0x1C then regRO 0
  else if 0x40 ≤ o ∧ o ≤ 0x80 then regRC
  else if 0x100 ≤ o ∧ o < 0x140 then regRO 0
  else none

/-- Activity store, learning, snapshots (Learning, aging and entry activity, Registers). -/
def regDescAct (o : Nat) : Option RegDesc :=
  if o = 0x1000 then regBuf 4 0x100001 0xFFFF0001
  else if o = 0x1004 ∨ o = 0x1008 ∨ o = 0x1014 ∨ o = 0x101C ∨ o = 0x1020 then regRO 0
  else if o = 0x1010 ∨ o = 0x1018 then regRsh
  else if 0x1040 ≤ o ∧ o < 0x1060 then regRC
  else none

/-- Reset word `j` of a block wheel (R307). -/
def wheelReset (j : Nat) : Nat :=
  if j % 2 = 0 then 0x11111111
  else if j % 4 = 1 then 0x21111111
  else if j % 8 = 3 then 0x31111111
  else 0x41111111

/-- Slot wheels (R307, R308). -/
def regDescWhl (o : Nat) : Option RegDesc :=
  if o < 0x4000 then
    (if o % 0x100 < 0x80 then regBuf (8 + o / 0x1000) (wheelReset (o % 0x100 / 4)) 0xFFFFFFFF else none)
  else if o < 0x8000 then (if o % 0x100 < 0x80 then regRO 0 else none)
  else if o < 0x8200 then
    (if o % 0x100 < 0x80 then
      regBuf 12 (if o / 4 % 2 = 0 then 0x31516151 else 0x41216151) 0xFFFFFFFF
     else none)
  else if o < 0x8400 then (if o % 0x100 < 0x80 then regRO 0 else none)
  else if o = 0x9000 then regBuf 8 0x432 0x777
  else if o = 0x9004 then regBuf 12 0x423651 0x777777
  else if 0xA000 ≤ o ∧ o < 0xB000 then (if o % 0x10 = 0xC then regRO 0 else regRC)
  else if 0xB000 ≤ o ∧ o < 0xB100 then
    (if o % 0x80 < 0x60 then (if o % 0x10 = 0xC then regRO 0 else regRC) else none)
  else none

/-- Integrity and sprinkle, and recovery and watchdog (Registers of those chapters). -/
def regDescSpk (o : Nat) : Option RegDesc :=
  if o = 0x0 then regBuf 7 0xF 0xF 1
  else if o = 0x4 then regBuf 7 0x59682F 0xFFFFFF
  else if o = 0x8 then regBuf 7 0x1F6EA 0xFFFFFF
  else if o = 0xC then regBuf 7 64 0xFFFF
  else if o = 0x10 then regRO 0
  else if 0x20 ≤ o ∧ o < 0x40 then regRO 0
  else if 0x100 ≤ o ∧ o ≤ 0x130 then regRC
  else if 0x4000 ≤ o ∧ o < 0x4800 then regRC
  else if o = 0xF000 then regBuf 6 5 7 4
  else if o = 0xF004 then some { rc := 0xFF00 }
  else if o = 0xF008 then regRO 0
  else if 0xF010 ≤ o ∧ o < 0xF02C then regBuf 6 4096 0xFFFFFF
  else if 0xF040 ≤ o ∧ o ≤ 0xF054 then regRC
  else none

/-- Cascade (Cascading modules, Registers). -/
def regDescCsc (o : Nat) : Option RegDesc :=
  if o = 0 then regBuf 13 1 0x107 0x107
  else if o = 4 then regRO 0
  else if o = 8 then regW1C 0 0x3F
  else if 0x40 ≤ o ∧ o ≤ 0x58 then regRC
  else none

/-- Vault (R401). -/
def regDescVlt (o : Nat) : Option RegDesc :=
  if o = 0 then regBuf 16 0x03E8FF1F 0xFFFFFF1F 0xFF0F
  else if o = 4 then regBuf 16 0x10000 0xFFFFFF
  else if o = 8 ∨ o = 0xC ∨ o = 0x10 ∨ o = 0x1C ∨ o = 0x24 then regRO 0
  else if o = 0x18 ∨ o = 0x20 then regRsh
  else if 0x40 ≤ o ∧ o ≤ 0x50 then regRC
  else none

/-- WARN level after reset of temperature sensor `n` (R408). -/
def warnReset (n : Nat) : Nat :=
  if n < 20 then 0x5F0 else if n < 24 then 0x550 else if n < 26 then 0x460 else if n < 30 then 0x640 else 0x460

/-- Management, sensors and log (R422). -/
def regDescMgt (o : Nat) : Option RegDesc :=
  if o = 0 then regRO 0x102
  else if o = 4 then regRO 0
  else if o = 8 then regW1C 0 0x80000000
  else if o = 0xC then regBuf 15 0x10000 0x1FFFF
  else if o = 0x10 then some { rc := 0xFFFFFF }
  else if 0x100 ≤ o ∧ o < 0x180 then regRO 0
  else if 0x200 ≤ o ∧ o ≤ 0x280 then regRO 0
  else if 0x400 ≤ o ∧ o < 0x480 then regBuf 15 (warnReset ((o - 0x400) / 4)) 0xFFFF
  else if 0x700 ≤ o ∧ o < 0x740 then regRO 0
  else none

/-- MSI-X table and Pending Bit Array (R442); the layout is that of PCIe 5.0 (assumption 20). -/
def regDescMsix (o : Nat) : Option RegDesc :=
  if o < 0x400 then
    (if o % 16 = 12 then some { reset := 1, rw := 1, right := .self }
     else if o % 16 = 0 then some { rw := 0xFFFFFFFC, right := .self }
     else some { rw := 0xFFFFFFFF, right := .self })
  else if o = 0x1000 ∨ o = 0x1004 then regRO 0
  else none

/-- Port `p` (R446). -/
def regDescPort (p o : Nat) : Option RegDesc :=
  if o = 0 then regBuf 14 0xFFFFFFF 0xFFFFFFF
  else if o = 4 then regRO 0
  else if o = 8 then
    (if p < 16 then some { reset := 0x98, rw := 0xF8, w1s := 3, group := some 14 }
     else some { reset := 0xF98, rw := 0xFF8, w1s := 3, group := some 14 })
  else if 0x10 ≤ o ∧ o < 0x30 then regBuf 14 32 0x1FF
  else if 0x40 ≤ o ∧ o ≤ 0x60 then regRC
  else none

/-- Lane `l` (R447, R354). -/
def regDescLane (l o : Nat) : Option RegDesc :=
  if o = 0 then some { reset := 5, rw := 0x30F, lane := some l }
  else if o = 4 then some { lane := some l }
  else if o = 8 ∨ o = 12 then some { rc := 0xFFFFFFFF, lane := some l }
  else if o = 0xFC then regW1C 0 0x40000000
  else none

/-- The descriptor of the register at BAR0 offset `a`, or `none` at a reserved location. -/
def regDesc (a : Nat) : Option RegDesc :=
  if a % 4 ≠ 0 then none
  else if a < 0x10000 then regDescId a
  else if a < 0x20000 then regDescOwn (a - 0x10000)
  else if a < 0x30000 then regDescEvt (a - 0x20000)
  else if a < 0x40000 then regDescEpo (a - 0x30000)
  else if a < 0x50000 then regDescMb ((a - 0x40000) / 0x4000) ((a - 0x40000) % 0x4000)
  else if a < 0x80000 then none
  else if a < 0xA0000 then regDescTables (a - 0x80000)
  else if a < 0xE0000 then regDescSd (a % 0x10000)
  else if a < 0xF0000 then regDescWalk (a - 0xE0000)
  else if a < 0x100000 then regDescProf (a - 0xF0000)
  else if a < 0x110000 then regDescCc (a - 0x100000)
  else if a < 0x120000 then regDescAct (a - 0x110000)
  else if a < 0x130000 then regDescWhl (a - 0x120000)
  else if a < 0x140000 then regDescSpk (a - 0x130000)
  else if a < 0x150000 then regDescCsc (a - 0x140000)
  else if a < 0x160000 then regDescVlt (a - 0x150000)
  else if a < 0x170000 then regDescMgt (a - 0x160000)
  else if a < 0x172000 then regDescMsix (a - 0x170000)
  else if a < 0x180000 then none
  else if a < 0x1A4000 then regDescPort ((a - 0x180000) / 0x2000) ((a - 0x180000) % 0x2000)
  else if a < 0x1C0000 then none
  else if a < 0x1E0000 then regDescLane ((a - 0x1C0000) / 0x100) ((a - 0x1C0000) % 0x100)
  else none

/-- The stored value of a register after reset, 0 at a reserved location. -/
def regReset (a : Nat) : Word := match regDesc a with
  | some d => d.reset
  | none => 0

/-- Registers that differ by port are kept under the offset plus the port times 2^24 (R442). -/
def portKey (port a : Nat) : Nat := a + port * 0x1000000

/-- The key of the copy of register `a` that port `port` reaches. -/
def regKey (port a : Nat) : Nat := if 0x170000 ≤ a ∧ a < 0x172000 then portKey port a else a

/-! ### Live copies and buffers -/

/-- The live value of register `a`. -/
def State.live (s : State) (a : Nat) : Word := mapGetD s.regs.live a (regReset (a % 0x1000000))

/-- The buffer of register `a`. -/
def State.buffer (s : State) (a : Nat) : Word := mapGetD s.regs.buf a (regReset (a % 0x1000000))

/-- Set the live value of a register. -/
def State.setLive (s : State) (a : Nat) (v : Word) : State :=
  { s with regs := { s.regs with live := mapSet s.regs.live a v } }

/-- Set the buffer of a register. -/
def State.setBuf (s : State) (a : Nat) (v : Word) : State :=
  { s with regs := { s.regs with buf := mapSet s.regs.buf a v } }

/-- Set both copies of a register (R70, R366). -/
def State.setBoth (s : State) (a : Nat) (v : Word) : State := (s.setLive a v).setBuf a v

/-- Bits [hi:lo] of the live value of a register. -/
def State.cfg (s : State) (a hi lo : Nat) : Nat := fld (s.live a) hi lo

/-- What hardware did to register `a` in this hub cycle: the value before, and the bits set or the
increments made (R362). -/
def metNow (s : State) (a : Nat) : Option (Word × Nat) := match mapGet s.regs.met a with
  | some (t, w, n) => if t / 8 = s.now / 8 then some (w, n) else none
  | none => none

/-- Note what hardware did to a register in this hub cycle. -/
def metPut (s : State) (a : Nat) (w : Word) (n : Nat) : State :=
  { s with regs := { s.regs with met := mapSet s.regs.met a (s.now, w, n) } }

/-- A 32-bit counter increments by `n` and saturates. -/
def State.bump (s : State) (a : Nat) (n : Nat := 1) : State :=
  let s := match metNow s a with
    | some (w, k) => metPut s a w (min 0xFFFFFFFF (k + n))
    | none => metPut s a (s.live a) (min 0xFFFFFFFF n)
  s.setLive a (word (min 0xFFFFFFFF ((s.live a).toNat + n)))

/-- The number `k` with `n` more in its field [hi:lo], which saturates. -/
def addField (k hi lo n : Nat) : Nat :=
  k - nfld k hi lo * 2 ^ lo + min (2 ^ (hi + 1 - lo) - 1) (nfld k hi lo + n) * 2 ^ lo

/-- A counter field [hi:lo] increments and saturates. -/
def State.bumpField (s : State) (a hi lo : Nat) (n : Nat := 1) : State :=
  let w := s.live a
  let v := min (2 ^ (hi + 1 - lo) - 1) (fld w hi lo + n)
  let s := match metNow s a with
    | some (w0, k) => metPut s a w0 (addField k hi lo n)
    | none => metPut s a w (addField 0 hi lo n)
  s.setLive a ((w &&& ~~~ maskOf hi lo) ||| at_ v (hi + 1 - lo) lo)

/-- Set the field [hi:lo] of a register's live value. -/
def State.setField (s : State) (a hi lo v : Nat) : State :=
  s.setLive a ((s.live a &&& ~~~ maskOf hi lo) ||| at_ v (hi + 1 - lo) lo)

/-- The hardware sets bits of a register. -/
def State.setBits (s : State) (a : Nat) (v : Nat) : State :=
  let s := match metNow s a with
    | some (w, k) => metPut s a w (k ||| v)
    | none => metPut s a (s.live a) v
  s.setLive a (s.live a ||| word v)

/-- The hardware clears bits of a register. -/
def State.clrBits (s : State) (a : Nat) (v : Nat) : State := s.setLive a (s.live a &&& ~~~ word v)

/-! ### Offsets -/

/-- Word `o` of TBL_ATTR[t]. -/
def taAddr (t o : Nat) : Nat := 0x80000 + t * 0x40 + o
/-- Word `o` of PROFILE[n]. -/
def pfAddr (n o : Nat) : Nat := 0xF0000 + n * 0x100 + o
/-- Register `o` of search die `d`. -/
def sdAddr (d o : Nat) : Nat := 0xA0000 + d * 0x10000 + o
/-- Register `o` of port `p`. -/
def hpAddr (p o : Nat) : Nat := 0x180000 + p * 0x2000 + o
/-- Register `o` of mailbox `m`. -/
def mbAddr (m o : Nat) : Nat := 0x40000 + m * 0x4000 + o

end Sys2Proof.Machine
end

