-- ==== Sys2Proof/Machine/Flags.lean ====
section
/-! DEFINITION. The status codes and the event sources (R476, R477), with the precedence of lookup
statuses (R123) and the way an event is raised (R409 to R411). -/

namespace Sys2Proof.Machine

/-! ### Completion statuses (R476) -/

def stOk : Nat := 0x00
def stNoPlacement : Nat := 0x01
def stTableFull : Nat := 0x02
def stBadComplement : Nat := 0x03
def stNotOwner : Nat := 0x04
def stBusyGlaze : Nat := 0x05
def stNotFound : Nat := 0x06
def stDuplicate : Nat := 0x07
def stInvalid : Nat := 0x08
def stVaultFault : Nat := 0x09
def stExpired : Nat := 0x0A
def stAborted : Nat := 0x0B
def stStalled : Nat := 0x0C

/-! ### Lookup statuses (R476) -/

def luHit : Nat := 0x00
def luMiss : Nat := 0x01
def luSafe : Nat := 0x02
def luFault : Nat := 0x03
def luOverload : Nat := 0x04
def luViewExpired : Nat := 0x05
def luViewAdvanced : Nat := 0x06
def luPassLimit : Nat := 0x07
def luCascadeLost : Nat := 0x08
def luTableAbsent : Nat := 0x09

/-! ### Event sources (R477) -/

/-- An event source: its EV number and its severity (R412). -/
structure Ev where
  src : Nat
  sev : Nat
  deriving DecidableEq, Repr

def evEpoHoldover : Ev := ⟨0, 2⟩
def evEpoLocked : Ev := ⟨1, 0⟩
def evEpoLost : Ev := ⟨2, 3⟩
def evEpoSlip : Ev := ⟨3, 1⟩
def evEpoChatter : Ev := ⟨4, 2⟩
def evEpoNumbered : Ev := ⟨5, 0⟩
def evEpoSetReject : Ev := ⟨6, 1⟩
def evEpoHeldAction : Ev := ⟨7, 1⟩
def evEpoCfgInvalid : Ev := ⟨8, 1⟩
def evClkOscSwitch : Ev := ⟨9, 2⟩
def evClkOscLost : Ev := ⟨10, 4⟩
def evStgChange : Ev := ⟨16, 0⟩
def evStgEmptyVault : Ev := ⟨17, 2⟩
def evStgCrumbFail : Ev := ⟨18, 3⟩
def evStgPromote : Ev := ⟨19, 0⟩
def evStgUnglazed : Ev := ⟨20, 1⟩
def evStgRestoreFail : Ev := ⟨21, 3⟩
def evPwrInLow : Ev := ⟨22, 2⟩
def evPwrHoldupLow : Ev := ⟨23, 2⟩
def evOwnChange : Ev := ⟨32, 0⟩
def evOwnExpire : Ev := ⟨33, 2⟩
def evOwnHandoverFail : Ev := ⟨34, 2⟩
def evOwnCfgInvalid : Ev := ⟨35, 1⟩
def evMbxTailBad : Ev := ⟨36, 1⟩
def evMbxHeadBad : Ev := ⟨37, 1⟩
def evRegCollide : Ev := ⟨48, 1⟩
def evRegAccess : Ev := ⟨49, 1⟩
def evCfgParity : Ev := ⟨50, 3⟩
def evCfgCxLost : Ev := ⟨51, 4⟩
def evTblFull : Ev := ⟨64, 2⟩
def evTblCfgInvalid : Ev := ⟨65, 1⟩
def evGlzBusy : Ev := ⟨66, 1⟩
def evGlzLate : Ev := ⟨67, 1⟩
def evGlzPtrRepair : Ev := ⟨68, 3⟩
def evUpdBacklogHi : Ev := ⟨69, 2⟩
def evSftParity : Ev := ⟨80, 3⟩
def evSftMulti : Ev := ⟨81, 3⟩
def evSftRetireFail : Ev := ⟨82, 4⟩
def evLkpTokenBad : Ev := ⟨83, 1⟩
def evLkpNoProfile : Ev := ⟨84, 1⟩
def evLkpAwMismatch : Ev := ⟨85, 3⟩
def evKaeProfInvalid : Ev := ⟨86, 1⟩
def evKaeProfStale : Ev := ⟨87, 1⟩
def evKaeParseInvalid : Ev := ⟨88, 1⟩
def evKaeParseParity : Ev := ⟨89, 3⟩
def evKaeHfShortL : Ev := ⟨90, 1⟩
def evPasNoProfile : Ev := ⟨91, 1⟩
def evTreImageInvalid : Ev := ⟨92, 1⟩
def evTreEccUncorr : Ev := ⟨93, 3⟩
def evTreEccStuck : Ev := ⟨94, 3⟩
def evLrnEntry : Ev := ⟨96, 0⟩
def evLrnQfull : Ev := ⟨97, 2⟩
def evLrnStale : Ev := ⟨98, 1⟩
def evLrnHfull : Ev := ⟨99, 2⟩
def evLrnNoplace : Ev := ⟨100, 2⟩
def evAgeOverrun : Ev := ⟨101, 1⟩
def evAgeSweepDone : Ev := ⟨102, 0⟩
def evCntSnapDone : Ev := ⟨103, 0⟩
def evCntParkFull : Ev := ⟨104, 2⟩
def evCcEccCe : Ev := ⟨112, 1⟩
def evCcEccUe : Ev := ⟨113, 3⟩
def evCcSuspect : Ev := ⟨114, 3⟩
def evCcWayOff : Ev := ⟨115, 2⟩
def evCcAllWaysOff : Ev := ⟨116, 3⟩
def evCcDrained : Ev := ⟨117, 0⟩
def evRcvFault : Ev := ⟨128, 3⟩
def evRcvRsRepair : Ev := ⟨129, 1⟩
def evRcvRebuildStart : Ev := ⟨130, 1⟩
def evRcvRebuildDone : Ev := ⟨131, 0⟩
def evRcvRebuildFail : Ev := ⟨132, 3⟩
def evRcvNoSpare : Ev := ⟨133, 2⟩
def evWdgStall : Ev := ⟨134, 2⟩
def evSpkSigMismatch : Ev := ⟨144, 3⟩
def evSpkPassLate : Ev := ⟨145, 2⟩
def evSpkTestFail : Ev := ⟨146, 2⟩
def evSpkTestSkip : Ev := ⟨147, 1⟩
def evSpkSbFail : Ev := ⟨148, 2⟩
def evSpkCfgInvalid : Ev := ⟨149, 1⟩
def evIntCxRepair : Ev := ⟨150, 1⟩
def evIntEccUe : Ev := ⟨151, 3⟩
def evIntDtUe : Ev := ⟨152, 3⟩
def evWhlCfgInvalid : Ev := ⟨160, 1⟩
def evWhlLongRun : Ev := ⟨161, 2⟩
def evCscChainUp : Ev := ⟨162, 0⟩
def evCscChainLost : Ev := ⟨163, 3⟩
def evCscEpochSkew : Ev := ⟨164, 2⟩
def evCscGlazeSplit : Ev := ⟨165, 3⟩
def evCscPartAbsent : Ev := ⟨166, 3⟩
def evCscNotHead : Ev := ⟨167, 1⟩
def evCscCfgInvalid : Ev := ⟨168, 1⟩
def evVltLost : Ev := ⟨176, 4⟩
def evVltRetire : Ev := ⟨177, 1⟩
def evVltSpareLow : Ev := ⟨178, 2⟩
def evVltWearHi : Ev := ⟨179, 2⟩
def evVltCkptDone : Ev := ⟨180, 0⟩
def evVltCkptForced : Ev := ⟨181, 1⟩
def evVltJnlHi : Ev := ⟨182, 2⟩
def evVltJournalCut : Ev := ⟨183, 3⟩
def evVltStageUe : Ev := ⟨184, 3⟩
def evVltTailLost : Ev := ⟨185, 3⟩
def evVltHdrRepair : Ev := ⟨186, 1⟩
def evVltAuthFail : Ev := ⟨187, 2⟩
def evVltCfgInvalid : Ev := ⟨188, 1⟩
def evMgtRestart : Ev := ⟨192, 2⟩
def evMgtTempWarn : Ev := ⟨193, 2⟩
def evMgtTempLimit : Ev := ⟨194, 3⟩
def evMgtRailFault : Ev := ⟨195, 3⟩
def evMgtPwrHi : Ev := ⟨196, 2⟩
def evMgtKeyAuthFail : Ev := ⟨197, 2⟩
def evMgtKeyMissing : Ev := ⟨198, 1⟩
def evMgtCfgInvalid : Ev := ⟨199, 1⟩
def evMgtThermTrip : Ev := ⟨200, 4⟩
def evSrcOverload (d : Nat) : Ev := ⟨208 + 16 * d + 0, 2⟩
def evSrcMirrorAdd (d : Nat) : Ev := ⟨208 + 16 * d + 1, 0⟩
def evSrcMirrorDrop (d : Nat) : Ev := ⟨208 + 16 * d + 2, 0⟩
def evSrcMirrorNospare (d : Nat) : Ev := ⟨208 + 16 * d + 3, 2⟩
def evSrcCfgInvalid (d : Nat) : Ev := ⟨208 + 16 * d + 4, 1⟩
def evLnkUp (p : Nat) : Ev := ⟨272 + 16 * p + 0, 0⟩
def evLnkDegrade (p : Nat) : Ev := ⟨272 + 16 * p + 1, 2⟩
def evLnkReplayLimit (p : Nat) : Ev := ⟨272 + 16 * p + 2, 3⟩
def evLnkFrameErr (p : Nat) : Ev := ⟨272 + 16 * p + 3, 1⟩
def evLnkDwReject (p : Nat) : Ev := ⟨272 + 16 * p + 4, 1⟩

/-! ### Precedence of lookup statuses (R123) -/

/-- Place of a lookup status in the precedence of R123, 0 first. -/
def luRank (st : Nat) : Nat :=
  if st = luFault then 0 else if st = luCascadeLost then 1 else if st = luOverload then 2
  else if st = luViewExpired then 3 else if st = luPassLimit then 4 else if st = luSafe then 5
  else if st = luViewAdvanced then 6 else if st = luTableAbsent then 7 else if st = luMiss then 8 else 9

/-- The status that comes first of two. -/
def luFirst (a b : Nat) : Nat := if luRank a ≤ luRank b then a else b

/-- The overall status of a response (R123): HIT only when every record is HIT, TABLE_ABSENT with
no records. -/
def luOverall : List Nat → Nat
  | [] => luTableAbsent
  | [a] => a
  | a :: l => luFirst a (luOverall l)

/-! ### Raising an event -/

/-- The measured period P, times 16 (R33): the sum of the last 16 measured intervals, or the nominal
period until there are 16. -/
def Epoch.p16 (e : Epoch) : Nat := if e.intervals.length < 16 then 1600 * e.period else sumNat e.intervals

/-- The phase at time `t` (R33, R34). -/
def Epoch.phase (e : Epoch) (t : Nat) : Nat := min 1023 (e.off + 16384 * (t - e.phase0) / e.p16)

/-- The phase now. -/
def State.phase (s : State) : Nat := s.epoch.phase s.now

/-- Has the latest step brought the counter to a multiple of `p`, or past one (R40, R41)? -/
def Epoch.crossed (e : Epoch) (p : Nat) : Bool := decide (e.prev / p < e.count / p)

/-- The 32-bit operand that carries an epoch (R412). -/
def epOp (e : Nat) : Word := BitVec.ofNat 32 e

/-- An MSI-X message of `port` (R342): sent when the function's MSI-X enable is set, the link is up and neither
the vector nor the function is masked; kept pending while it is masked. -/
def sendMsix (s : State) (port v : Nat) : State :=
  if !s.power.msixEn.getD port false then s
  else if s.power.msixMask.getD port false || bit (s.live (portKey port (0x17000C + 16 * v))) 0 then
    s.setBits (portKey port (0x171000 + 4 * (v / 32))) (2 ^ (v % 32))
  else if s.power.mpUp.getD port false then emit (.msix port v) s
  else s

/-- Raise an event vector: at most once per port in an epoch, further raises merging into the next
epoch's (R410). -/
def raiseVec (s : State) (port v : Nat) : State :=
  let k := port * 64 + v
  if s.mgmt.vecs.contains k then
    { s with mgmt := { s.mgmt with vecPend := if s.mgmt.vecPend.contains k then s.mgmt.vecPend else s.mgmt.vecPend ++ [k] } }
  else sendMsix { s with mgmt := { s.mgmt with vecs := s.mgmt.vecs ++ [k] } } port v

/-- Is source `src` delivered to `port`: enabled and not masked there (R410)? -/
def delivered (s : State) (port src : Nat) : Bool :=
  bit (s.live (0x20100 + port * 0x100 + src / 16 * 4)) (src % 16) &&
    !bit (s.live (0x20500 + port * 0x100 + src / 16 * 4)) (src % 16)

/-- Raise vector 3 + g of `port` for source `src` where R410 says so. -/
def deliver (s : State) (port src : Nat) : State :=
  if delivered s port src then raiseVec s port (3 + src / 16) else s

/-- The record and the delivery of an event (R409, R410, R411). -/
def recordEvent (s : State) (e : Ev) (o0 o1 o2 : Word) : State :=
  if 256 ≤ s.mgmt.evq.length then
    let s := s.bump 0x20920
    { s with mgmt := { s.mgmt with dropped := true } }
  else
    let r : EvRec := { src := e.src, sev := e.sev, op0 := o0, op1 := o1, op2 := o2, epoch := s.epoch.count
                       phase := s.phase, held := s.epoch.held }
    let s := { s with mgmt := { s.mgmt with evq := s.mgmt.evq ++ [r] } }
    deliver (deliver (deliver (deliver s 0 e.src) 1 e.src) 2 e.src) 3 e.src

/-- Raise an event: its status bit is set, a record is queued and vectors are raised (R409). -/
def State.raise (s : State) (e : Ev) (o0 : Nat := 0) (o1 : Nat := 0) (o2 : Nat := 0) : State :=
  recordEvent (s.setBits (0x20000 + e.src / 16 * 4) (2 ^ (e.src % 16))) e (word o0) (word o1) (word o2)

/-- Bits of register `a` that hardware changed in this hub cycle (R362). -/
def hardMask (s : State) (a : Nat) : Nat := match mapGet s.regs.hard a with
  | some (t, m) => if t / 8 = s.now / 8 then m else 0
  | none => 0

/-- Software writes register `a`, of which hardware changes fields itself. -/
def softWrite (s : State) (a : Nat) : State := { s with regs := { s.regs with soft := mapSet s.regs.soft a s.now } }

/-- Did software write register `a` in this hub cycle? -/
def softNow (s : State) (a : Nat) : Bool := match mapGet s.regs.soft a with
  | some t => t / 8 == s.now / 8
  | none => false

/-- Hardware changes bits `m` of register `a`; a software write of the same hub cycle loses, and
REG_COLLIDE is raised (R362, R246). -/
def hardChange (s : State) (a m : Nat) : State :=
  let m := hardMask s a ||| m
  let s := { s with regs := { s.regs with hard := mapSet s.regs.hard a (s.now, m) } }
  match mapGet s.regs.soft a with
  | some t => if t / 8 = s.now / 8 then s.raise evRegCollide a else s
  | none => s

/-- Raise an event whose chapter allows one record per `key` and epoch (R409). -/
def State.raiseOnce (s : State) (e : Ev) (key : Nat) (o0 : Nat := 0) (o1 : Nat := 0) (o2 : Nat := 0) : State :=
  if s.mgmt.rate.contains (e.src, key) then s.setBits (0x20000 + e.src / 16 * 4) (2 ^ (e.src % 16))
  else { s with mgmt := { s.mgmt with rate := s.mgmt.rate ++ [(e.src, key)] } }.raise e o0 o1 o2

/-- An epoch step: raises merged into this epoch go out, and the rate limits start again (R410). -/
def stepVectors (s : State) : State :=
  let pend := s.mgmt.vecPend
  let s := { s with mgmt := { s.mgmt with vecs := [], vecPend := [], rate := [] } }
  pend.foldl (fun s k => raiseVec s (k / 64) (k % 64)) s

/-- Raise EPO_HELD_ACTION for an action of kind `k` on object `o` that takes effect at a synthesized
step (R36). -/
def heldAction (s : State) (k o : Nat) : State :=
  if s.epoch.held then (s.bumpField 0x30018 16 0).raise evEpoHeldAction k o s.epoch.count else s

end Sys2Proof.Machine
end

