-- ==== Sys2Proof/Machine/Banks.lean ====
section
/-! DEFINITION. Foreground accesses to the shared banks: the borrowed region (R289) and the
conflict counters (R292). -/

namespace Sys2Proof.Machine

/-- Masters of the shared banks in the order of R292. -/
def mstSequencer : Nat := 4
def mstMgmt : Nat := 5

/-- Sprinkle, the last master in the order of R292. -/
def mstSprinkle : Nat := 6

/-- A conflict of master `m` on bank `b` (R292). -/
def bankConflict (s : State) (b m : Nat) : State := s.bump (0x134000 + b * 0x20 + m * 4)

/-- Does sprinkle use the bank in this hub cycle: one word in each of them, in the save and in the restore (R288)? -/
def sbCopies (s : State) (t : SbTest) : Bool := decide (s.now < t.start + 8192) || decide (t.restore ≤ s.now) || t.aborted

/-- Accesses of several masters to one bank in one hub cycle are applied in the order of R292, and each of them but
the first is delayed. One that would have to come before an access already applied is not of the same hub cycle, but
of the next (DEDUCED; assumption 82). -/
def bankOrder (s : State) (b m : Nat) : State :=
  let c := s.now / 8
  let (s, wait) : State × Bool := match mapGet s.spk.bankUse b with
    | some (k, n) => if k = c ∧ m < n then (advance ((c + 1) * 8) s, false) else (s, k == c && decide (n < m))
    | none => (s, false)
  let s := { s with spk := { s.spk with bankUse := mapSet s.spk.bankUse b (s.now / 8, m) } }
  if wait then bankConflict s b m else s

/-- A foreground access of master `m` to the byte at offset `a`: in a borrowed region it counts a
conflict, and during the test it aborts the test step (R289, R292). Sprinkle's own access of the hub cycle comes after
it. -/
def bankTouch (s : State) (m a : Nat) : State :=
  let s := bankOrder s (a / 0x10000) m
  match s.spk.sb with
  | none => s
  | some t =>
    if t.bank = a / 0x10000 then
      let s := if sbCopies s t then bankConflict s t.bank mstSprinkle else s
      if t.region = a % 0x10000 / 0x1000 then
        let s := bankConflict s t.bank m
        if t.start + 8192 ≤ s.now ∧ s.now < t.restore ∧ !t.aborted then
          let s := s.bump 0x130118
          { s with spk := { s.spk with sb := some { t with aborted := true, restore := s.now } } }
        else s
      else s
    else s

/-- Master `m` writes bytes from offset `a` on. -/
def bankWrite (s : State) (m a : Nat) (l : List Byte) : State :=
  let s := bankTouch s m a
  { s with mem := memWriteAll s.mem a l }

/-- The bytes that master `m` reads from offset `a` on, and the state after the access. -/
def bankRead (s : State) (m a n : Nat) : List Byte × State :=
  (memReadAll s.mem a n, bankTouch s m a)

end Sys2Proof.Machine
end

