-- ==== Sys2Proof/Machine/Mailbox.lean ====
section
/-! DEFINITION. The rings, the acceptance, the start and the completion of Fresin commands
(R335 to R343). -/

namespace Sys2Proof.Machine

/-! ### Descriptors (R336) -/

/-- The little-endian number in `n` descriptor bytes from byte `k`. -/
def Cmd.le (c : Cmd) (k n : Nat) : Nat := (c.desc.toNat >>> (8 * k)) % 2 ^ (8 * n)

/-- Descriptor bytes `k` to `k + n - 1`. -/
def Cmd.bytes (c : Cmd) (k n : Nat) : List Byte := bytesLE n (c.le k n)

def Cmd.op (c : Cmd) : Nat := c.le 0 1
def Cmd.flags (c : Cmd) : Nat := c.le 1 1
def Cmd.seq (c : Cmd) : Nat := c.le 2 2
def Cmd.table (c : Cmd) : Nat := c.le 8 1
def Cmd.auto (c : Cmd) : Bool := c.flags.testBit 0
def Cmd.addr (c : Cmd) : Bool := c.flags.testBit 1
def Cmd.notify (c : Cmd) : Bool := c.flags.testBit 4

/-- Bytes `k` to `k + n - 1` hold the complement of the `n` bytes from `j`. -/
def Cmd.compl (c : Cmd) (j k n : Nat) : Bool := c.le j n + c.le k n == 2 ^ (8 * n) - 1

/-- Bytes `k` to 127 are zero (R7, R336). -/
def Cmd.zeroFrom (c : Cmd) (k : Nat) : Bool := c.le k (128 - k) == 0

/-- The defined opcodes (R469). -/
def opDefined (o : Nat) : Bool :=
  [0x01, 0x02, 0x03, 0x04, 0x20, 0x21, 0x22, 0x23, 0x24, 0x40, 0x41, 0x42, 0x50, 0x51, 0x52, 0x53, 0x60,
   0x61, 0x62, 0x63, 0x64, 0x70, 0x71, 0x72, 0x73, 0x74, 0x80, 0x81, 0x82, 0x83, 0x84, 0x90, 0x91, 0x92,
   0x93, 0xA0, 0xA1, 0xA2].contains o

/-- The opcodes a non-owner may issue (R325). -/
def opAnyone (o : Nat) : Bool :=
  [0x50, 0x51, 0x52, 0x53, 0x62, 0x72, 0x74, 0x80, 0x93, 0xA0, 0xA1].contains o

/-- Commands in which the management processor takes part, in acceptance order (R403). -/
def opMgmt (o : Nat) : Bool := [0x71, 0x72, 0xA0, 0xA1, 0xA2].contains o

/-- Checks 1 to 3 of R337; `none` when all pass. -/
def headCheck (c : Cmd) : Option Nat :=
  if !(c.compl 0 4 4 && c.compl 8 12 4) then some stBadComplement
  else if !opDefined c.op || c.flags / 32 != 0 || c.flags / 4 % 4 != 0 || c.le 9 3 != 0 then some stInvalid
  else if !c.ownerRight && !opAnyone c.op then some stNotOwner
  else none

/-! ### Rings (R335, R339, R341) -/

/-- Offset in the shared banks of slot `k` of command ring `r` of port `m`. -/
def cmdSlot (m r k : Nat) : Nat := r * 0x2000 + m * 0x4000 + k % 64 * 0x80

/-- Offset in the shared banks of completion slot `k` of port `m`. -/
def cplSlot (m k : Nat) : Nat := 0x10000 + m * 0x1000 + k % 128 * 0x20

/-- A bit of MB_ERR is set, and vector 2 of the port is raised (R342). -/
def mbErr (s : State) (m b : Nat) : State := sendMsix (s.setBits (mbAddr m 0x20) (2 ^ b)) m 2

/-- Commands of mailbox `m` whose completion is not yet posted (R340). -/
def inflight (s : State) (m : Nat) : Nat := (s.cmds.filter (fun c => c.mb == m)).length

/-- Is `port` the owner? The port keeps its rights while DRAINING or HANDING (assumption 14). -/
def isOwner (s : State) (port : Nat) : Bool := s.own.st != .vacant && s.own.owner == port

/-- Is the mailbox of the owner held by DRAINING or HANDING (R331)? -/
def mbDraining (s : State) (m : Nat) : Bool :=
  s.own.owner == m && (s.own.st == .draining || s.own.st == .handing)

/-- Is the mailbox paused (R340)? -/
def mbPaused (s : State) (m : Nat) : Bool :=
  decide (128 ≤ ((s.box m).acc + 65536 - (s.box m).cplHead) % 65536) || decide (32 ≤ inflight s m)

/-- MB_STATUS.STATE (R346): 0 ACCEPTING, 1 PAUSED, 2 DRAINING, 3 STOPPED. -/
def mbState (s : State) (m : Nat) : Nat :=
  if (s.box m).stopped then 3 else if mbDraining s m then 2 else if mbPaused s m then 1 else 0

/-- Ring `r` of mailbox `m` holds a descriptor not yet accepted. -/
def ringFull (s : State) (m r : Nat) : Bool := natAt (s.box m).tail r != natAt (s.box m).head r

/-- A ring that holds a descriptor in a paused mailbox waits from now on, or still (R268). -/
def markRings (s : State) (m : Nat) : State :=
  s.modBox m (fun b => { b with waits := [0, 1].map (fun r =>
    if ringFull s m r && mbState s m == 1 then some ((b.waits.getD r none).getD (s.epoch.count, false)) else none) })

/-- A doorbell write of value `t` to ring `r` of mailbox `m` (R339). -/
def doDoorbell (s : State) (m r t : Nat) : State :=
  let tl := natAt (s.box m).tail r
  let h := natAt (s.box m).head r
  if (t + 65536 - tl) % 65536 ≤ 64 ∧ (t + 65536 - h) % 65536 ≤ 64 then
    markRings (s.modBox m (fun b => { b with tail := b.tail.set r t })) m
  else (mbErr s m 1).raise evMbxTailBad m r t

/-- A write of `h` to MB_CPL_HEAD of mailbox `m` (R341). -/
def doCplHead (s : State) (m h : Nat) : State :=
  let old := (s.box m).cplHead
  if (h + 65536 - old) % 65536 ≤ ((s.box m).cplTail + 65536 - old) % 65536 then
    markRings (s.modBox m (fun b => { b with cplHead := h })) m
  else (mbErr s m 2).raise evMbxHeadBad m h

/-- May mailbox `m` accept a descriptor now (R340)? -/
def mbEligible (s : State) (m : Nat) : Bool := mbState s m == 0 && (ringFull s m 0 || ringFull s m 1)

/-- The ring from which mailbox `m` takes its next descriptor (R340). -/
def pickRing (s : State) (m : Nat) : Nat :=
  if ringFull s m 0 && !(ringFull s m 1 && decide (8 ≤ (s.box m).hiRun)) then 0 else 1

/-- The mailbox that the round robin visits next, if one is eligible (R340). -/
def pickMbox (s : State) : Option Nat :=
  ([0, 1, 2, 3].map (fun k => (s.rrMbox + k) % 4)).find? (mbEligible s)

/-! ### Completion -/

/-- Does a BUSY_GLAZE on table `t` tell of a missing slot, not of a table that is DESTROYING (R199)? -/
def lacksSlot (s : State) (t : Nat) : Bool := match s.table t with
  | some x => x.st != .destroying
  | none => true

/-- Command `id` finishes: its result is fixed, and its completion waits to be posted. A TABLE_FULL
or NO_PLACEMENT sets its bit in TA_ERR (R71); a BUSY_GLAZE for lack of a slot, not for a table that is
DESTROYING, is counted (R199). -/
def finishAs (s : State) (id status handle vis : Nat) (held : Bool) : State :=
  match s.cmds.find? (fun c => c.id == id) with
  | none => s
  | some c =>
    let s := s.modCmds (fun c => c.id == id)
      (fun c => { c with st := .finished, status := status, handle := handle, vis := vis, held := held })
    let s := if c.table < 255 then
      (if status = stTableFull then s.setBits (taAddr c.table 0x3C) 2
       else if status = stNoPlacement then s.setBits (taAddr c.table 0x3C) 1 else s) else s
    if (status == stBusyGlaze && lacksSlot s c.table) = true then (s.bump 0x88008).raise evGlzBusy c.table else s

/-- Command `id` finishes with no visibility epoch. -/
def finish (s : State) (id status : Nat) (handle : Nat := 0xFFFFFFFF) (vis : Nat := 0) : State :=
  finishAs s id status handle vis false

/-- Command `id` begins a wait (R266). -/
def cmdWait (s : State) (id : Nat) (w : Wait) : State :=
  s.modCmds (fun c => c.id == id) (fun c => { c with st := .waiting w, since := s.epoch.count, stalled := false })

/-- Finish every command that waits for `w`. -/
def finishWaiting (s : State) (p : Wait → Bool) (status : Nat) (handle : Nat → Nat) (vis : Nat) (held : Bool) : State :=
  s.cmds.foldl (fun s c => match c.st with
    | .waiting w => if p w then finishAs s c.id status (handle c.id) vis held else s
    | _ => s) s

/-- Is the record that command `c` waits for in NAND (R382)? -/
def cmdDurable (s : State) (c : Cmd) : Bool := match c.jneed with
  | none => true
  | some q => decide (q ≤ s.vault.nand)

/-- The 32 bytes of a completion record (R338). -/
def cplRecord (c : Cmd) : List Byte :=
  let h := c.le 2 2 + 0x10000 * c.status + 0x1000000 * c.op
  bytesLE 4 h ++ bytesLE 4 (0xFFFFFFFF - h) ++ bytesLE 4 c.handle ++ bytesLE 6 c.vis ++
    bytesLE 2 (1 - c.num / 128 % 2 + 2 * c.ring + 4 * b2n c.held) ++ bytesLE 12 0

/-- Post the completion of command `c`, the oldest of its mailbox (R338, R341, R342). -/
def postCpl (s : State) (c : Cmd) : State :=
  let s := bankWrite s mstSequencer (cplSlot c.mb c.num) (cplRecord c)
  let s := { s with cmds := s.cmds.filter (fun x => x.id != c.id) }
  let cnt := max 1 (fld (s.live (mbAddr c.mb 0x1C)) 7 0)
  let n := (s.box c.mb).sinceRaise + 1
  let s := s.modBox c.mb (fun b => { b with
    cplTail := (b.cplTail + 1) % 65536, sinceRaise := n, firstAt := some (b.firstAt.getD s.now) })
  let s := markRings s c.mb
  if c.notify || decide (cnt ≤ n) then
    sendMsix (s.modBox c.mb (fun b => { b with sinceRaise := 0, firstAt := none })) c.mb 0
  else s

/-- The oldest command of mailbox `m` that is not yet posted. -/
def oldest (s : State) (m : Nat) : Option Cmd := s.cmds.find? (fun c => c.mb == m)

/-- The oldest command of mailbox `m` that runs with opcode `op`, when no older command of the
mailbox runs on the same table (R174, R341). -/
def runningCmd (s : State) (m op : Nat) : Option Cmd :=
  match s.cmds.find? (fun c => c.mb == m && c.st == .running && c.op == op) with
  | none => none
  | some c =>
    if s.cmds.any (fun d => d.mb == m && d.st == .running && decide (d.id < c.id) && d.table == c.table &&
        decide (d.op < 0x50) && decide (c.op < 0x50)) then none
    else some c

/-- A bus-master transfer of the command failed: it completes ABORTED (R341, R443). -/
def dmaFail (s : State) (c : Cmd) : State := finish (mbErr s c.mb 0) c.id stAborted

/-- The bus reaches the port's host. -/
def busUp (s : State) (m : Nat) : Bool := s.power.mpUp.getD m false

/-- A bus-master read of command `c` failed; one that ends in a Completion Timeout is reported as an uncorrectable
non-fatal error besides (R443). -/
def readFail (s : State) (c : Cmd) (io : HostIO) : State :=
  dmaFail (if io.timeout && busUp s c.mb then emit (.errNonFatal c.mb) s else s) c

/-- Bytes a bus-master read of command `c` returns, `none` when it failed. -/
def busRead (s : State) (c : Cmd) (io : HostIO) (n : Nat) : Option (List Byte) :=
  if busUp s c.mb then (match io.rd with
    | some l => if n ≤ l.length then some (l.take n) else none
    | none => none) else none

/-- A bus-master write of command `c`: true when it reached host memory. What a failed write left
there is undefined (R341). -/
def busWrite (s : State) (c : Cmd) (io : HostIO) (a : Nat) (l : List Byte) : Bool × State :=
  if io.wr && busUp s c.mb then (true, emit (.dma c.mb a l) s)
  else
    let (n, s) := draw s
    (false, emit (.dma c.mb a (Config.partialWrite n l)) s)

end Sys2Proof.Machine
end

