-- ==== Sys2Proof/Machine/Own.lean ====
section
/-! DEFINITION. Ownership (R324 to R334): elections, leases, drains and handovers, with the
ownership commands. -/

namespace Sys2Proof.Machine

/-- The code of OWN_STATE.STATE. -/
def OwnSt.code : OwnSt → Nat
  | .vacant => 0
  | .owned => 1
  | .handing => 2
  | .draining => 3

/-- OWN_STATE (R345). -/
def ownWord (o : Own) : Nat :=
  o.st.code * 2 ^ 30 + o.owner % 4 * 2 ^ 28 + b2n o.probation * 2 ^ 27 +
    (if o.st = .handing then o.target % 4 * 2 ^ 24 else 0) + o.rank % 256 * 2 ^ 16 + o.token % 65536

/-- Change the ownership logic; a change of OWNER or STATE raises OWN_CHANGE, and vector 1 on every
port (R331, R342). -/
def setOwn (s : State) (o : Own) : State :=
  let before := s.own
  let s := { s with own := o }
  if o.st = before.st ∧ o.owner = before.owner then s
  else
    let s := s.raise evOwnChange (ownWord before) (ownWord o) s.epoch.count
    sendMsix (sendMsix (sendMsix (sendMsix s 0 1) 1 1) 2 1) 3 1

/-- OWN_LEASE.LEN. -/
def leaseLen (s : State) : Nat := fld (s.live 0x1000C) 23 0

/-- Cast, replace or withdraw the ballot of a port (R328). An OWN_CLAIM that waits is answered at the next
deciding step whatever became of its ballot (R334). -/
def castBallot (s : State) (port rank token : Nat) : State :=
  let b : Ballot := { pending := rank != 0, rank := rank, token := token, result := if rank = 0 then 0 else 1
                      castAt := s.now }
  { s with own := { s.own with ballots := s.own.ballots.set port b } }

/-- A write to OWN_CLAIM from `port` (R328): CAST = 0 changes nothing. -/
def doClaim (s : State) (port : Nat) (v : Word) : State :=
  if bit v 29 then castBallot s port (fld v 23 16) (fld v 15 0) else s

/-- The renewals that reached the ownership logic in this hub cycle, if any: the lease end before the first
of them, and whether a register write made one (R330). -/
def lateRenewal (s : State) : Option (Nat × Bool) := match s.own.renewed with
  | some (t, e, r) => if t / 8 = s.now / 8 then some (e, r) else none
  | none => none

/-- A renewal of `len` epochs reaches the ownership logic (R330), by a register write or a command. -/
def renewLease (s : State) (len : Nat) (byReg : Bool) : State :=
  let (e, r) : Nat × Bool := match lateRenewal s with
    | some (e, r) => (e, r || byReg)
    | none => (s.own.leaseEnd, byReg)
  { s with own := { s.own with leaseEnd := s.epoch.count + len, renewed := some (s.now, e, r) } }

/-- The owner writes `v` to OWN_LEASE (R330, R333, R345). -/
def doLease (s : State) (port : Nat) (v : Word) : State :=
  let s := if fld v 23 0 < 16 then s.raise evOwnCfgInvalid 0x1000C v.toNat port
           else s.setField 0x1000C 23 0 (fld v 23 0)
  if bit v 31 then
    if s.own.st = .draining then
      let s := s.setBits 0x10018 2
      if hardMask s 0x1000C = 0 then s else s.raise evRegCollide 0x1000C
    else renewLease s (leaseLen s) true
  else s

/-- Is command `c` complete for the drain of R263? A finished command whose record is in NAND is, and
so is one whose glaze is armed. -/
def cmdDone (s : State) (c : Cmd) : Bool := match c.st with
  | .finished => cmdDurable s c
  | .waiting (.glaze t n) => match s.table t with
    | none => true
    | some x => x.slots.any (fun y => y.sealNo == n && y.armed) ||
        (match x.destroyAt with
         | some y => y.sealNo == n && y.armed
         | none => false)
  | _ => false

/-- Does the command pass the form checks of a command without operands in table 255? -/
def bareForm (c : Cmd) (k : Nat) : Bool := c.table == 255 && !c.auto && !c.addr && c.zeroFrom k

/-- A release that ends the ownership: accepted with the owner's rights and with nothing wrong in it. -/
def releases (c : Cmd) : Bool := c.op == 0x84 && c.ownerRight && (headCheck c).isNone && bareForm c 16

/-- Every command accepted from the owner is complete; the release, and the handover in progress, which end the
ownership themselves, aside (R263, R332). -/
def ownDrained (s : State) : Bool :=
  s.cmds.all (fun c => !c.ownerRight || releases c || (s.own.hand.map (fun h => h.cmd)) == some c.id || cmdDone s c)

/-- The drain of an ending ownership begins at this step (R331, R333); `cause` as in R481. There is no new owner
yet: the action is flagged with the operand of a vacancy (R36; assumption 68). -/
def expireOwner (s : State) (cause : Nat) : State :=
  let s := match s.own.hand with
    | none => s
    | some h => finish s h.cmd stExpired
  let s := if cause = 0 then s.setBits 0x10018 1 else s
  let s := s.raise evOwnExpire s.own.owner cause s.epoch.count
  let s := setOwn s { s.own with st := .draining, hand := none }
  heldAction s 1 0xFFFFFFFF

/-- Ownership passes to the handover target, or falls vacant when the target is gone (R332, R333). -/
def passOwner (s : State) (h : Handover) : State :=
  if s.power.mpUp.getD h.target false then
    let s := finishAs s h.cmd stOk 0xFFFFFFFF s.epoch.count s.epoch.held
    let s := setOwn s { s.own with
      st := .owned, owner := h.target, probation := true, rank := 0, token := 0, hand := none
      began := s.epoch.count, beganHeld := s.epoch.held, leaseEnd := s.epoch.count + h.window }
    heldAction s 1 h.target
  else
    let s := finish s h.cmd stAborted
    let s := (s.setBits 0x10018 4).raise evOwnHandoverFail s.own.owner h.target s.epoch.count
    let s := setOwn s { s.own with st := .vacant, probation := false, hand := none }
    heldAction s 1 0xFFFFFFFF

/-- Ownership falls vacant; the releases complete at this step (R331, R333, R334). One that is malformed has ended
nothing, and completes INVALID when it starts (R7). -/
def vacateOwner (s : State) : State :=
  let s := setOwn s { s.own with st := .vacant, probation := false }
  let s := s.cmds.foldl (fun s c =>
    if releases c && c.st != .finished
    then finishAs s c.id stOk 0xFFFFFFFF s.epoch.count s.epoch.held else s) s
  heldAction s 1 0xFFFFFFFF

/-- The winning ballot: highest rank, then lowest port (R327). A ballot written in the hub cycle of
the step is not counted. -/
def bestBallot (s : State) : Option Nat :=
  ([0, 1, 2, 3].foldl (fun (best : Option (Nat × Nat)) p =>
    match s.own.ballots[p]? with
    | none => best
    | some b =>
      if b.pending && decide (b.castAt / 8 < s.now / 8) then
        match best with
        | none => some (p, b.rank)
        | some (q, r) => if r < b.rank then some (p, b.rank) else some (q, r)
      else best) none).map (fun p => p.1)

/-- The election of R327. -/
def elect (s : State) : State := match bestBallot s with
  | none => s
  | some p =>
    let b := s.own.ballots.getD p { pending := false, rank := 0, token := 0, result := 0, castAt := 0 }
    let s := setOwn s { s.own with
      st := .owned, owner := p, probation := false, rank := b.rank, token := b.token, hand := none
      began := s.epoch.count, beganHeld := s.epoch.held, leaseEnd := s.epoch.count + leaseLen s
      ballots := s.own.ballots.set p { b with pending := false, result := 2 } }
    let s := s.cmds.foldl (fun s c =>
      if c.st == .waiting .election then
        (if c.mb == p then finishAs s c.id stOk 0xFFFFFFFF s.epoch.count s.epoch.held
         else finish s c.id stNotOwner)
      else s) s
    heldAction s 1 p

/-- The end of the lease as this step finds it: a renewal of the step's own hub cycle is too late to
keep a lease that ends now (R330). -/
def leaseNow (s : State) : Nat := match lateRenewal s with
  | some (e, _) => if e ≤ s.epoch.count then e else s.own.leaseEnd
  | none => s.own.leaseEnd

/-- The lease ends (R331): REG_COLLIDE for a register renewal in the same hub cycle (R330). -/
def endLease (s : State) : State :=
  let late := lateRenewal s
  let s := { s with own := { s.own with leaseEnd := leaseNow s } }
  let s := match late with
    | some (_, true) => s.raise evRegCollide 0x1000C
    | _ => s
  let s := { s with regs := { s.regs with hard := mapSet s.regs.hard 0x1000C (s.now, 1) } }
  expireOwner s 0

/-- The lease ends, or a link cause begins the drain, at this step (R330, R331). -/
def leaseEndAt (s : State) : State :=
  let loss := s.own.linkLoss
  let s := { s with own := { s.own with linkLoss := none } }
  if (s.own.st = .owned ∨ s.own.st = .handing) ∧ loss.isSome then expireOwner s (loss.getD 2)
  else if (s.own.st = .owned ∨ s.own.st = .handing) ∧ leaseNow s ≤ s.epoch.count then endLease s
  else s

/-- Ownership passes by handover at this step, if R332 allows. -/
def handoverAt (s : State) : State := match s.own.hand with
  | none => s
  | some h => if s.own.st = .handing ∧ h.epoch ≤ s.epoch.count ∧ ownDrained s then passOwner s h else s

/-- Ownership falls vacant at this step when the drain is over (R331). -/
def vacantAt (s : State) : State := if s.own.st = .draining ∧ ownDrained s then vacateOwner s else s

/-- An election at this step, when ownership is vacant (R327). -/
def electAt (s : State) : State := if s.own.st = .vacant then elect s else s

/-! ### Acceptance of a release or a handover -/

/-- The form checks of OWN_HANDOVER and the fields it carries (R334): target, epoch, window. -/
def handoverForm (c : Cmd) : Nat × Option (Nat × Nat × Nat) :=
  if !c.compl 16 32 16 then (stBadComplement, none)
  else if c.table != 255 || c.auto || c.addr || !c.zeroFrom 48 || decide (4 ≤ c.le 16 4) || c.le 30 2 != 0 ||
      c.le 16 4 == c.mb || decide (c.le 20 4 < 16) || decide (65535 < c.le 20 4) then (stInvalid, none)
  else (stOk, some (c.le 16 4, c.le 24 6, c.le 20 4))

/-- What the acceptance of a command does to ownership (R331, R332). -/
def acceptOwn (s : State) (c : Cmd) : State :=
  if !c.ownerRight || (headCheck c).isSome || s.own.st != .owned then s
  else if c.op == 0x84 && bareForm c 16 then setOwn s { s.own with st := .draining }
  else if c.op == 0x82 then match (handoverForm c).2 with
    | some (t, e, w) => setOwn s { s.own with
        st := .handing, target := t, hand := some { target := t, epoch := e, window := w, cmd := c.id } }
    | none => s
  else s

/-! ### The ownership commands (R334) -/

/-- OWN_CLAIM. -/
def cmdOwnClaim (s : State) (c : Cmd) : State :=
  if !c.compl 16 20 4 then finish s c.id stBadComplement
  else if !bareForm c 24 || c.le 19 1 != 0 then finish s c.id stInvalid
  else
    let s := castBallot s c.mb (c.le 18 1) (c.le 16 2)
    if isOwner s c.mb then finishAs s c.id stOk 0xFFFFFFFF s.own.began s.own.beganHeld
    else if s.own.st != .vacant then finish s c.id stNotOwner
    else cmdWait s c.id .election

/-- OWN_RENEW. -/
def cmdOwnRenew (s : State) (c : Cmd) : State :=
  if !c.compl 16 20 4 then finish s c.id stBadComplement
  else if !bareForm c 24 || c.le 19 1 != 0 || (decide (0 < c.le 16 4) && decide (c.le 16 4 < 16)) then
    finish s c.id stInvalid
  else if isOwner s c.mb && s.own.st != .draining then
    let s := renewLease s (if c.le 16 4 = 0 then leaseLen s else c.le 16 4) false
    finish s c.id stOk 0xFFFFFFFF s.own.leaseEnd
  else
    let s := if isOwner s c.mb then s.setBits 0x10018 2 else s
    finish s c.id stOk

/-- OWN_HANDOVER: it waits for the step at which ownership passes. -/
def cmdOwnHandover (s : State) (c : Cmd) : State := match handoverForm c with
  | (_, some _) => match s.own.hand with
    | some h => if h.cmd = c.id then cmdWait s c.id .handover else finish s c.id stExpired
    | none => finish s c.id stExpired
  | (st, none) => finish s c.id st

/-- OWN_ACCEPT. The lease of an ownership that is DRAINING has ended: there a renewal is late (R333). -/
def cmdOwnAccept (s : State) (c : Cmd) : State :=
  if !bareForm c 16 || !isOwner s c.mb || !s.own.probation then finish s c.id stInvalid
  else
    let s := { s with own := { s.own with probation := false } }
    let s := if s.own.st = .draining then s.setBits 0x10018 2 else renewLease s (leaseLen s) false
    finish s c.id stOk

/-- OWN_RELEASE: it completes at the vacancy step. -/
def cmdOwnRelease (s : State) (c : Cmd) : State :=
  if !bareForm c 16 then finish s c.id stInvalid
  else if isOwner s c.mb && s.own.st == .draining then cmdWait s c.id .vacancy
  else finish s c.id stOk

/-- Run `f` on the oldest running command of mailbox `m` with opcode `op`; with none, no such command
executes and nothing changes (assumption 4). -/
def withCmd (s : State) (m op : Nat) (f : State → Cmd → State) : State := match runningCmd s m op with
  | none => s
  | some c => f s c

end Sys2Proof.Machine
end

