-- ==== Sys2Proof/Machine/Journal.lean ====
section
/-! DEFINITION. Staging journal records (R381 to R384, R201). -/

namespace Sys2Proof.Machine

/-- Journal partition in bytes (R378). -/
def jnlSize : Nat := 96 * 2 ^ 30

/-- Records that staging holds (R201). -/
def stageMax : Nat := 1048576

/-- Bytes of the journal partition in use. -/
def jnlBytes (s : State) : Nat := sumNat (s.vault.journal.map (fun r => r.len))

/-- Bytes of the journal partition in use, and those that the staged records will take. -/
def jnlUsed (s : State) : Nat := jnlBytes s + sumNat (s.vault.staged.map (fun r => r.len))

/-- The DUR bit of a command's class, for the classes that VLT_CFG names (R382, R383), and for an import
of a table image (R396). -/
def durBit (op : Nat) : Option Nat :=
  if (0x01 ≤ op ∧ op ≤ 0x1F) ∨ op = 0x71 then some 0
  else if 0x20 ≤ op ∧ op ≤ 0x3F then some 1
  else if op = 0x40 ∨ op = 0x41 then some 2
  else if op = 0x60 ∨ op = 0x61 then some 3
  else none

/-- Is a command with this opcode durable on completion (R382)? -/
def durOnCompletion (s : State) (op : Nat) : Bool := match durBit op with
  | none => false
  | some b => bit (s.live 0x150000) b

/-- The vault takes records: it is mounted and not lost. -/
def vaultTakes (s : State) : Bool := s.vault.st == 1 || s.vault.st == 2

/-- A change of the command cannot be made durable as its class asks (R261). -/
def vaultFails (s : State) (op : Nat) : Bool := durOnCompletion s op && !vaultTakes s

/-- Only the reserve of 1/8 of the journal partition remains (R384). -/
def jnlFull (s : State) : Bool := decide (jnlSize / 8 * 7 ≤ jnlUsed s)

/-- There is room for a record: staging is not full and more than the reserve remains (R201, R384). -/
def journalRoom (s : State) : Bool := decide (s.vault.staged.length < stageMax) && !jnlFull s

/-! ### The table lock (R178, R264) -/

/-- Does a unit other than command `me` hold the lock of table `t`: a TBL_ALTER whose change has not taken effect
(R65), or a command that waits, or goes on after a wait, for journal space (R201)? -/
def lockedBy (s : State) (t : Nat) (me : Option Nat) : Bool :=
  s.dies.changes.any (fun k => k.table == t && k.blocks.isSome && k.cmd.isSome && k.cmd != me) ||
    s.cmds.any (fun c => c.table == t && c.got == 1 && (c.st == .waiting .journal || c.st == .running) && some c.id != me)

/-- The lock of table `t` is held. -/
def lockHeld (s : State) (t : Nat) : Bool := lockedBy s t none

/-- Command `c` waits for the lock of its table. -/
def lockWait (s : State) (c : Cmd) : Bool := lockedBy s c.table (some c.id)

/-- Command `c` keeps what it holds while it is not done. -/
def holdCmd (s : State) (c : Cmd) (n : Nat) : State := s.modCmds (fun d => d.id == c.id) (fun d => { d with got := n })

/-- A command goes on as `f` when there is room for its journal record, or when no vault takes one; else it waits for
journal space with its table lock, and with its generation slot in `s` (R201, R384). -/
def needJournal (s : State) (c : Cmd) (f : State) : State :=
  if journalRoom s || !vaultTakes s then f
  else cmdWait (holdCmd (if jnlFull s && c.got != 1 then s.bump 0x150050 else s) c 1) c.id .journal

/-- Stage a record of a type, a table and, under the class on completion, the command that waits. -/
def stageRec (s : State) (type table : Nat) (cmd : Option Nat) (body : JBody) : State :=
  if !vaultTakes s then s
  else
    let (n, s) := draw s
    let q := s.vault.seq + 1
    let r : JRec := { seq := q, type := type, table := table, cmd := cmd
                      len := 16 + 16 * (Config.openNat n % 4095), body := body }
    let s := askDram s drVault (stagingBase + 16 * (Config.openNat n / 4095 % 2 ^ 28)) r.len 1 { unit := 4 }
    let before := s.vault.staged.length
    let s := { s with vault := { s.vault with seq := q, staged := s.vault.staged ++ [r] } }
    let s := match cmd with
      | none => s
      | some i => s.modCmds (fun c => c.id == i) (fun c => { c with jneed := some q })
    if before = stageMax / 8 * 7 then s.raise evUpdBacklogHi (before + 1) else s

/-- Stage the record of a command, which waits for it when its class is durable on completion. -/
def stageCmd (s : State) (c : Cmd) (type : Nat) (body : JBody) : State :=
  stageRec s type c.table (if durOnCompletion s c.op then some c.id else none) body

/-- A table after the block set and the replicas' positions that a TBL_ALTER lays down hold (R64, R65). -/
def alterTab (x : Table) (k : CopyChange) : Table := match k.blocks with
  | none => x
  | some l => { x with
      blocks := l
      rows := x.rows.map (fun (r : Row) => { r with
        reps := r.reps.filter (fun p => l.any (fun h => h.group == 0 && h.replica == p.1)) ++
          (k.reps.filter (fun q => q.1 == r.pos)).map (fun q => q.2) }) }

/-- The table as the shadow holds it, with its attribute words: as a TBL_ALTER that has written its record leaves it
once its change of the block set takes effect (R65). -/
def tableImg (s : State) (t : Nat) : Option TableImg := match s.table t with
  | none => none
  | some x =>
    let k := s.dies.changes.find? (fun k => k.table == t && k.blocks.isSome)
    let x := (k.map (alterTab x)).getD x
    let new := (k.map (fun k => k.attrs)).getD []
    some { tab := x
           attrs := [0x0, 0x8, 0x10, 0x14, 0x18, 0x1C, 0x20, 0x24].map (fun o => (o, mapGetD new o (s.live (taAddr t o))))
           mirrors := x.blocks.filterMap (fun h =>
                       let n := (s.dies.spares.filter (fun p => p.1 / 32 == h.die && p.2.use == 1 && !p.2.auto && p.2.primary == h.block)).length
                       if n = 0 then none else some (h.die, h.block, n)) }

/-- A record that carries the resulting table. -/
def tableBody (s : State) (t : Nat) : JBody := .table (tableImg s t)

/-- The BUF and CX fields of a register, which the vault keeps (R366, R383): those that software writes, and UGRP
and AFFINITY of a table. OWN_STATE and the generation status report state that a reset clears (R329, R365), and are
not among them (DEDUCED; assumption 69). -/
def persistBits (a : Nat) : Word := match regDesc a with
  | some d => (if d.group.isSome then d.rw else 0) |||
      (if d.rw ≠ 0 ∨ (0x80000 ≤ a ∧ a < 0x84000) then d.cx else 0)
  | none => 0

/-- Does the register hold a BUF or CX field, which the vault keeps? -/
def persists (a : Nat) : Bool := persistBits a != 0

/-- The live values of the BUF and CX fields among the registers `l`, and the retired positions, as a
configuration record carries them. -/
def configBody (s : State) (l : List Nat) : JBody := .config ((l.filter persists).map (fun a => (a, s.live a))) s.spk.retired

end Sys2Proof.Machine
end

