-- ==== Sys2Proof/Machine/Tables.lean ====
section
/-! DEFINITION. Table attributes (R58 to R73), the pool of blocks and spares (R12, R60 to R63), and
the copies of a block (R92). -/

namespace Sys2Proof.Machine

/-! ### Attributes -/

/-- Word `o` of TBL_ATTR[t] as live. -/
def ta (s : State) (t o : Nat) : Word := s.live (taAddr t o)

/-- Segments of an entry for a TA_STRUCT word. -/
def structW (w : Word) : Nat := 2 ^ fld w 5 4
/-- Sift groups A. -/
def structGroups (w : Word) : Nat := fld w 10 8 + 1
/-- Group 0 is always-on. -/
def structAO (w : Word) : Bool := bit w 21
/-- Replicas of an always-on group. -/
def structRepl (w : Word) : Nat := fld w 26 22 + 1
/-- The dies of AFFINITY. -/
def structDies (w : Word) : List Nat := [0, 1, 2, 3].filter (fun d => bit w (16 + d))

def taW (s : State) (t : Nat) : Nat := structW (ta s t 0)
def taCasc (s : State) (t : Nat) : Bool := bit (ta s t 0) 20
def taRetain (s : State) (t : Nat) : Nat := min 64 (fld (ta s t 0x14) 6 0)
def taGap (s : State) (t : Nat) : Nat := min 1024 (fld (ta s t 0x1C) 10 0)
def taBlkMax (s : State) (t : Nat) : Nat := fld (ta s t 0x20) 28 16
def taBlkMin (s : State) (t : Nat) : Nat := fld (ta s t 0x20) 12 0
def taRuleMax (s : State) (t : Nat) : Nat := fld (ta s t 0x20) 22 0
def taDirBase (s : State) (t : Nat) : Nat := fld (ta s t 0x20) 19 0
def taDirSize (s : State) (t : Nat) : Nat := fld (ta s t 0x24) 20 0

/-- CSC_CFG.LEN as live. -/
def cscLen (s : State) : Nat := fld (s.live 0x140000) 2 0
/-- CSC_CFG.CSC_EN as live. -/
def cscEn (s : State) : Bool := bit (s.live 0x140000) 8

/-- Code of a table kind (R45). -/
def Kind.code : Kind → Nat
  | .ternary => 1
  | .tree => 2
  | .direct => 3

/-- The composed minimum latency in hub cycles, for a chain of `len` modules (R59, R90, R150, R312). -/
def latMin (k : Kind) (st : Word) (len : Nat) : Nat := match k with
  | .tree => 725
  | .direct => 450
  | .ternary =>
    if bit st 20 then 525 + 325 * (len - 1)
    else if (structDies st).length ≤ 1 then 450 else 525

/-- TA_LAT_MIN.MIN of a table. -/
def tableLatMin (s : State) (t : Nat) : Nat := match s.table t with
  | none => 0
  | some x => latMin x.kind (ta s t 0) (cscLen s)

/-- Does the value pass the strobe check of attribute word `o` (R58, R67, R68, R71, R114, R160)? -/
def attrOk (k : Kind) (st : Word) (len o : Nat) (v : Word) : Bool :=
  if o = 0x08 then decide (latMin k st len ≤ fld v 12 0) && decide (fld v 12 0 ≤ 5000)
  else if o = 0x10 then [0, 4, 5].contains (fld v 31 28)
  else if o = 0x14 then
    fld v 9 8 != 3 && (k != .tree || fld v 9 8 == 0) &&
    (decide (fld v 9 8 = 0) || decide (fld v 14 12 + fld v 9 8 ≤ (if k == .direct then 2 else structW st)))
  else if o = 0x18 then !(bit v 2 && !bit v 1)
  else true

/-- The value an apply of attribute word `o` writes (R68, R71). -/
def attrApplied (o : Nat) (v : Word) : Word :=
  if o = 0x14 ∧ 64 < fld v 6 0 then (v &&& ~~~ maskOf 6 0) ||| 64#32
  else if o = 0x1C ∧ 1024 < fld v 10 0 then 1024#32
  else v

/-! ### Blocks and spares -/

/-- Key of a block in `Dies.blocks`. -/
def blkKey (d b : Nat) : Nat := d * 1024 + b
/-- Key of a spare in `Dies.spares`. -/
def spKey (d k : Nat) : Nat := d * 32 + k

def Blk.free : Blk := { table := 255, group := 0, st := 0, actNow := 0, act := 0, refused := false, low := 0 }
def Spare.free : Spare := { use := 0, auto := false, suspect := false, primary := 0, built := false, crumb := none }

def State.blk (s : State) (d b : Nat) : Blk := mapGetD s.dies.blocks (blkKey d b) Blk.free
def State.spare (s : State) (d k : Nat) : Spare := mapGetD s.dies.spares (spKey d k) Spare.free
def State.setBlk (s : State) (d b : Nat) (x : Blk) : State :=
  { s with dies := { s.dies with blocks := mapSet s.dies.blocks (blkKey d b) x } }
def State.setSpare (s : State) (d k : Nat) (x : Spare) : State :=
  { s with dies := { s.dies with spares := mapSet s.dies.spares (spKey d k) x } }

/-- Is the spare retired (R284)? Its test position is 1,024 + k. -/
def spareRetired (s : State) (d k : Nat) : Bool := s.spk.retired.contains (d * 1056 + 1024 + k)
/-- Is the block retired? -/
def blkRetired (s : State) (d b : Nat) : Bool := s.spk.retired.contains (d * 1056 + b)

/-- Is position `p` of die `d` under test in place (R282)? -/
def testedInPlace (s : State) (d p : Nat) : Bool := match s.spk.tests[d]? with
  | some t => t.phase == 2 && t.spare.isNone && t.pos == p
  | none => false

/-- Is the block in the free pool of its die? A block under test in place is not (R282). -/
def blkFree (s : State) (d b : Nat) : Bool := (s.blk d b).st == 0 && !blkRetired s d b && !testedInPlace s d b

/-- Blocks of die `d` in the free pool (SD_FREE.FREE_BLOCKS). -/
def freeBlocks (s : State) (d : Nat) : Nat :=
  1024 - (s.dies.blocks.filter (fun p => p.1 / 1024 == d && (p.2.st != 0 || blkRetired s d (p.1 % 1024)))).length -
    (s.spk.retired.filter (fun p => p / 1056 == d && decide (p % 1056 < 1024) &&
      (mapGet s.dies.blocks (blkKey d (p % 1056))).isNone)).length -
    (match s.spk.tests[d]? with
     | some t => b2n (t.phase == 2 && t.spare.isNone && decide (t.pos < 1024))
     | none => 0)

/-- Is the spare free: in use for nothing, claimed by no rebuild, not under test and not retired? -/
def spareFree (s : State) (d k : Nat) : Bool :=
  (s.spare d k).use == 0 && !spareRetired s d k && !testedInPlace s d (1024 + k) &&
    !s.dies.builds.any (fun (b : Build) => b.die == d && b.spare == k && b.hold.isSome)

/-- The free spares of a die, ascending (SD_FREE.FREE_SPARES counts them). -/
def freeSpares (s : State) (d : Nat) : List Nat := (List.range 32).filter (spareFree s d)

/-- A free spare for block `b` of die `d`: of its wheel group first, then any (R12 items 1 and 2). R12 names no order
among several: the model takes the lowest number (DESIGN CHOICE; assumption 74). -/
def claimSpare (s : State) (d b : Nat) : Option Nat :=
  match [b / 64 * 2, b / 64 * 2 + 1].find? (spareFree s d) with
  | some k => some k
  | none => (freeSpares s d).head?

/-- The spares that hold mirrors of block `b`, ascending; `built`: only those that serve lookups. -/
def mirrors (s : State) (d b : Nat) (built : Bool) : List Nat :=
  (List.range 32).filter (fun k =>
    let x := s.spare d k
    x.use == 1 && x.primary == b && (!built || x.built))

/-- The unit that serves as the block: a spare after a copy swap or a takeover, else the block. -/
def primaryUnit (s : State) (d b : Nat) : Nat :=
  match (List.range 32).find? (fun k =>
    let x := s.spare d k
    (x.use == 2 || x.use == 3) && x.built && x.primary == b && x.crumb.isNone) with
  | some k => 1024 + k
  | none => b

/-- Is unit `u` (a block, or 1,024 + k) of die `d` suspect (R253)? -/
def unitSuspect (s : State) (d u : Nat) : Bool :=
  if u < 1024 then (s.blk d u).st == 2 else (s.spare d (u - 1024)).suspect

/-- The copies of a block in round-robin order (R92). -/
def copies (s : State) (d b : Nat) : List Nat := primaryUnit s d b :: (mirrors s d b true).map (fun k => 1024 + k)

/-- The wheel group of a unit (R12). -/
def wheelGroup (u : Nat) : Nat := if u < 1024 then u / 64 else (u - 1024) / 2

/-- A rebuild of unit `u` has no object any more: it ends, and its spare is free. -/
def dropCopies (s : State) (d u : Nat) : State :=
  let mine := fun (b : Build) => b.die == d && b.unit == u && (b.why == .rebuild || b.why == .mirror)
  let gone := s.dies.builds.filter mine
  let s := { s with dies := { s.dies with
    builds := s.dies.builds.filter (fun b => !mine b)
    waiting := s.dies.waiting.filter (fun (w : Nat × Nat) => !(w.1 == d && (w.2 == u || w.2 == 2048 + u))) } }
  gone.foldl (fun s b => if b.tries < 2 && b.hold.isNone then s.setSpare d b.spare Spare.free else s) s

/-- Release a spare to the free spares. -/
def releaseSpare (s : State) (d k : Nat) : State := dropCopies (s.setSpare d k Spare.free) d (1024 + k)

/-- Take block `b` of die `d` for group `g` of table `t`. -/
def takeBlock (s : State) (t d b g : Nat) : State :=
  s.setBlk d b { s.blk d b with table := t, group := g, st := 1, low := 0, refused := false, held := false }

/-- The block returns to the free pool of its die; a block that a spare has replaced keeps STATE 3
(assumption 22). Its mirrors are released with it (R98). -/
def freeBlock (s : State) (d b : Nat) : State :=
  let s := dropCopies ((mirrors s d b false).foldl (fun s k => releaseSpare s d k) s) d b
  let x := s.blk d b
  if x.st = 3 then s.setBlk d b { x with table := 255, group := 0, held := false }
  else s.setBlk d b { Blk.free with act := x.act, actNow := x.actNow }

/-- The block that R60 picks for a table which holds `held`, among the blocks that `ok` allows. -/
def pickBlock (s : State) (dies : List Nat) (held : List BlkHold) (ok : Nat → Nat → Bool) :
    Option (Nat × Nat) :=
  let cands := fun d => (List.range 1024).filter (fun b => blkFree s d b && ok d b)
  let best := dies.foldl (fun (m : Option (Nat × Nat)) d =>
    if (cands d).isEmpty then m else
    match m with
    | none => some (d, freeBlocks s d)
    | some (_, n) => if n < freeBlocks s d then some (d, freeBlocks s d) else m) none
  match best with
  | none => none
  | some (d, _) =>
    let cs := cands d
    let g := (List.range 16).foldl (fun (m : Option (Nat × Nat)) g =>
      if !cs.any (fun b => b / 64 == g) then m else
      let n := (held.filter (fun h => h.die == d && h.block / 64 == g)).length
      match m with
      | none => some (g, n)
      | some (_, k) => if n < k then some (g, n) else m) none
    match g with
    | none => none
    | some (g, _) => (cs.find? (fun b => b / 64 == g)).map (fun b => (d, b))

/-- The blocks of a table but for those that leave it with their die (R65). -/
def staying (x : Table) : List BlkHold := x.blocks.filter (fun h => !h.leaving)

/-- A new replica may lie on this block: no other replica shares its die and pipe (R63). -/
def replicaOk (held : List BlkHold) (d b : Nat) : Bool :=
  !held.any (fun h => h.group == 0 && decide (h.replica < 32) && h.die == d && h.block / 128 == b / 128)

/-- A position is skipped by the destructive tests (R282). The spec gives no code for the reason: it is a
free value. -/
def skipTest (s : State) (pos : Nat) : State :=
  let (n, s) := draw s
  (s.bump 0x130110).raise evSpkTestSkip pos (Config.openNat n)

/-- The test in place on die `d` aborts, and its block returns to the pool (R285). -/
def abortTest (s : State) (d : Nat) : State := match s.spk.tests[d]? with
  | none => s
  | some t =>
    let s := { s with spk := { s.spk with tests := s.spk.tests.set d { phase := 0, pos := t.pos, spare := none, cmd := none } } }
    let s := skipTest s t.pos
    match t.cmd with
    | some i => finish s i stInvalid
    | none => s

/-- The block that R60 gives; when the only free one is under test in place, the test aborts (R285). -/
def pickOrAbort (s : State) (dies : List Nat) (held : List BlkHold) (ok : Nat → Nat → Bool) : Option (Nat × Nat) × State :=
  match pickBlock s dies held ok with
  | some b => (some b, s)
  | none => match dies.find? (fun d => match s.spk.tests[d]? with
      | some t => t.phase == 2 && t.spare.isNone && decide (t.pos < 1024) && ok d t.pos
      | none => false) with
    | some d => (pickBlock (abortTest s d) dies held ok, abortTest s d)
    | none => (none, s)

/-- Take a block by R60 into group `g` (replica `r`), if the table may hold one more. -/
def growGroup (s : State) (t g r : Nat) (dies : List Nat) (maxBlk : Nat) (isRepl : Bool) :
    Option (BlkHold × State) :=
  match s.table t with
  | none => none
  | some x =>
    if maxBlk ≤ (staying x).length then none
    else match pickOrAbort s dies (staying x) (fun d b => !isRepl || replicaOk (staying x) d b) with
      | (none, _) => none
      | (some (d, b), s) =>
        let h : BlkHold := { die := d, block := b, group := g, replica := r }
        some (h, takeBlock (s.setTable t { x with blocks := x.blocks ++ [h] }) t d b g)

/-- Write attribute words of a table, live and buffered (R70). -/
def putAttrs (s : State) (t : Nat) (l : List (Nat × Word)) : State := l.foldl (fun s p => s.setBoth (taAddr t p.1) p.2) s

/-- The replicas of the always-on group of a table, in order of replica (R63). -/
def replicas (x : Table) : List BlkHold :=
  sortBy (fun (a b : BlkHold) => decide (a.replica < b.replica))
    ((staying x).filter (fun h => h.group == 0 && decide (h.replica < 32)))

/-- The block that rows of `d`, `b` are listed under: a replica's rows are those of replica 0 (R63). -/
def rowHome (x : Table) (d b : Nat) : Nat × Nat :=
  match x.blocks.find? (fun h => h.die == d && h.block == b) with
  | some h => if h.group = 0 ∧ h.replica ≠ 0 ∧ h.replica < 32 then
      (match (replicas x).head? with
       | some g => (g.die, g.block)
       | none => (d, b)) else (d, b)
  | none => (d, b)

/-- The covered group that holds the fewest blocks, the lowest on a tie (R62). -/
def leastGroup (blocks : List BlkHold) (first groups : Nat) : Option Nat :=
  ((List.range (groups - first)).foldl (fun (m : Option (Nat × Nat)) i =>
    let g := first + i
    let n := (blocks.filter (fun h => h.group == g)).length
    match m with
    | none => some (g, n)
    | some (_, k) => if n < k then some (g, n) else m) none).map (fun p => p.1)

/-- The group and the replica of the next block that R62 assigns: first the replicas, then one block in each covered
group, then the fewest first. A table with no covered group, its one group being always-on, has no place for a further
block by R62: the model keeps it in group 0 as replica number 32, which holds no contents and serves no lookup (DESIGN
CHOICE; assumption 75). -/
def nextGroup (blocks : List BlkHold) (st : Word) : Nat × Nat × Bool :=
  let repl := if structAO st then structRepl st else 0
  let have_ := (blocks.filter (fun h => h.group == 0)).map (fun h => h.replica)
  match (List.range repl).find? (fun r => !have_.contains r) with
  | some r => (0, r, true)
  | none =>
    match leastGroup blocks (if structAO st then 1 else 0) (structGroups st) with
    | some g => (g, 0, false)
    | none => (0, 32, false)

/-- Reserve blocks until the table holds `n` of them (R62); `none` when R60 gives none. -/
def reserve (s : State) (t : Nat) (st : Word) : Nat → Option State
  | 0 => some s
  | k + 1 =>
    match s.table t with
    | none => none
    | some x =>
      let (g, r, isR) := nextGroup (staying x) st
      match growGroup s t g r (structDies st) 4096 isR with
      | none => none
      | some (_, s) => reserve s t st k

/-! ### Statistics of a table -/

/-- Generation slots in use (R170). -/
def genUsed (x : Table) : Nat := (x.slots.filter (fun y => y.st != .free)).length

/-- The slot numbers in a state. -/
def slotsIn (x : Table) (p : SlotSt → Bool) : List Nat := (List.range 4).filter (fun k => p (x.slot k).st)

/-- The LIVE slot. -/
def liveSlot (x : Table) : Option Nat := (slotsIn x (fun q => q == .live)).head?

/-- The OPEN slot. -/
def openSlot (x : Table) : Option Nat := (slotsIn x (fun q => q == .opened)).head?

/-- Is a row or cover with mask `m` visible in slot `k`? -/
def visIn (m : BitVec 4) (k : Nat) : Bool := bit m k

/-- The bit of slot `k`. -/
def slotBit (k : Nat) : BitVec 4 := BitVec.ofNat 4 (2 ^ k)

/-- Rows visible in slot `k`. -/
def rowsIn (x : Table) (k : Nat) : List Row := x.rows.filter (fun r => visIn r.vis k)

/-- The slot that receives changes, or that the next opened slot would succeed (R170): the OPEN slot,
the most recently sealed SEALED slot, or the LIVE slot. -/
def headSlot (x : Table) : Nat :=
  match openSlot x with
  | some k => k
  | none =>
    match ((slotsIn x (fun q => q == .sealed)).foldl (fun (m : Option Nat) k => match m with
      | none => some k
      | some j => if (x.slot j).sealNo < (x.slot k).sealNo then some k else m) none) with
    | some k => k
    | none => (liveSlot x).getD 0

/-- TA_ENTRIES.COUNT (R71). -/
def entryCount (x : Table) : Nat := match x.kind with
  | .direct => 0
  | .ternary => match liveSlot x with
    | none => 0
    | some k => (rowsIn x k).length
  | .tree => match liveSlot x with
    | none => 0
    | some k => match (x.slot k).tree with
      | none => 0
      | some i => i.rules

/-- Spares that serve the table as mirrors (TA_BLOCKS.MIRRORS). -/
def tableMirrors (s : State) (x : Table) : Nat :=
  sumNat (x.blocks.map (fun h => (mirrors s h.die h.block true).length))

/-! ### Entries that move (R194) -/

/-- The row of a handle in a slot. -/
def rowIn (x : Table) (k h : Nat) : Option Row := x.rows.find? (fun r => visIn r.vis k && r.handle == h)

/-- The slots of a table that hold a generation, oldest first. -/
def genOrder (x : Table) : List Nat :=
  let rank := fun (k : Nat) => if (x.slot k).st == .opened then 1 else 0
  sortBy (fun (a b : Nat) => decide (rank a < rank b) || (rank a == rank b && decide ((x.slot a).sealNo < (x.slot b).sealNo)))
    (slotsIn x (fun q => q != .free))

/-- The slot that follows, in the order `l`, the last slot in which `m` is visible. -/
def slotAfter (m : BitVec 4) : List Nat → Option Nat
  | [] => none
  | k :: l => match slotAfter m l with
    | some n => some n
    | none => if visIn m k && !l.any (fun j => visIn m j) then l.head? else none

/-- The row of the same handle in the generation after the last that sees `r` (R194). -/
def rowAfter (x : Table) (r : Row) : Option Row := match slotAfter r.vis (genOrder x) with
  | none => none
  | some n => rowIn x n r.handle

/-- The copy that follows `r` and stays, among at most `fuel` copies: the counters of `r` go there (R194). -/
def heir (x : Table) (stays : Row → Bool) : Nat → Row → Option Row
  | 0, _ => none
  | f + 1, r => match rowAfter x r with
    | none => none
    | some q => if stays q then some q else heir x stays f q

/-- The row of the same handle in the generation before the first that sees `r`. -/
def rowBefore (x : Table) (r : Row) : Option Row := match slotAfter r.vis (genOrder x).reverse with
  | none => none
  | some n => rowIn x n r.handle

/-- The row visible in slot `k` that `r` reaches by at most `fuel` steps of `next`. -/
def reaches (next : Row → Option Row) (k : Nat) : Nat → Row → Option Row
  | 0, _ => none
  | f + 1, r => if visIn r.vis k then some r else match next r with
    | none => none
    | some q => reaches next k f q

end Sys2Proof.Machine
end

