-- ==== Sys2Proof/Machine/Cache.lean ====
section
/-! DEFINITION. The counter cache and the activity store (R203 to R206, R229 to R247). -/

namespace Sys2Proof.Machine

def Pair.zero : Pair := { pkt := 0, byte := 0 }

/-- Add two pairs, modulo 2^64 (R206). -/
def Pair.add (a b : Pair) : Pair := { pkt := a.pkt + b.pkt, byte := a.byte + b.byte }

/-! ### The activity store (R15) -/

/-- The pair stored at a segment position. -/
def storePair (s : State) (p : Nat) : Pair := mapGetD s.act.counters p Pair.zero

/-- Write the pair at a segment position. -/
def putPair (s : State) (p : Nat) (v : Pair) : State :=
  { s with act := { s.act with counters := if v = Pair.zero then mapErase s.act.counters p else mapSet s.act.counters p v } }

/-- The stamp of a segment position (R203). -/
def stampOf (s : State) (p : Nat) : BitVec 64 := mapGetD s.act.stamps p 0

/-- EPOCH of a stamp. -/
def stampEpoch (w : BitVec 64) : Nat := fld w 63 16

/-- A stamp of an epoch, a phase and the HIT bit. -/
def mkStamp (e ph : Nat) (hit : Bool) : BitVec 64 := BitVec.ofNat 64 (e * 0x10000 + ph % 1024 * 64 + b2n hit)

/-- A stamp write other than a hit's clears the filter entry of the position (R233). -/
def putStamp (s : State) (p : Nat) (w : BitVec 64) : State :=
  { s with act := { s.act with stamps := mapSet s.act.stamps p w }
           cache := { s.cache with filter := match mapGet s.cache.filter (p % 65536) with
             | some (q, _) => if q = p then mapErase s.cache.filter (p % 65536) else s.cache.filter
             | none => s.cache.filter } }

/-- The stamp update of a hit with epoch `e` and phase `ph` at t0 (R205, R233). -/
def stampHit (s : State) (p e ph : Nat) : State :=
  let dropped := match mapGet s.cache.filter (p % 65536) with
    | some (q, e') => q == p && decide (e ≤ e')
    | none => false
  if dropped then s
  else
    let s := askDram s drHit (stampBase + 8 * p) 8
    let s := if stampEpoch (stampOf s p) < e then
      askDram { s with act := { s.act with stamps := mapSet s.act.stamps p (mkStamp e ph true) } } drHit (stampBase + 8 * p) 8 else s
    { s with cache := { s.cache with filter := mapSet s.cache.filter (p % 65536) (p, e) } }

/-- The later of two stamps (R194). -/
def laterStamp (a b : BitVec 64) : BitVec 64 := if a.toNat < b.toNat then b else a

/-! ### Lines and ways -/

/-- The set of a line (R229). -/
def lineSet (n : Nat) : Nat := (n % 4096) ^^^ (n / 4096 % 1024)

/-- The four sectors of a line with nothing valid. -/
def emptySectors : List Sector := List.replicate 4 { valid := false, dirty := false, data := Pair.zero }

/-- The line in its set. -/
def setLine (s : State) (n : Nat) : Option Line := s.cache.lines.find? (fun l => l.line == n)

/-- The line in the victim cache. -/
def vicLine (s : State) (n : Nat) : Option Line := s.cache.victim.find? (fun l => l.line == n)

/-- Is a disable sweep of the way under way (R240)? -/
def waySweep (s : State) (w : Nat) : Bool := bit (s.live (0x100100 + 4 * w)) 29

/-- Ways a class may allocate into (R236). -/
def allowedWays (s : State) (cls : Nat) : Nat :=
  let m := if cls = 0 then s.cfg 0x100008 15 0 else if cls = 1 then s.cfg 0x100008 31 16
    else if cls = 2 then s.cfg 0x10000C 15 0 else s.cfg 0x10000C 31 16
  m &&& s.cfg 0x100004 15 0

/-- The cache allocates: enabled, and not draining (R245). -/
def cacheOn (s : State) : Bool := bit (s.live 0x100000) 0 && !bit (s.live 0x100000) 1

/-- A class asks for the burst of line `n` of the counters (R230). -/
def askLine (s : State) (cls n : Nat) : State := askDram s (cls + 1) (64 * n) 64

/-- Write a line's dirty sectors back to the activity store in the slots of a class (R230, R237). -/
def writeBack (s : State) (cls : Nat) (l : Line) : State :=
  let s := if l.sectors.any (fun x => x.valid && x.dirty) then askLine s cls l.line else s
  (List.range 4).foldl (fun s k =>
    match l.sectors[k]? with
    | some x => if x.valid && x.dirty then (putPair s (4 * l.line + k) x.data).bump 0x100064 else s
    | none => s) s

/-- Dirty sectors of a line. -/
def dirtyCount (l : Line) : Nat := (l.sectors.filter (fun x => x.valid && x.dirty)).length

/-- Remove a line from its set. -/
def dropLine (s : State) (n : Nat) : State :=
  { s with cache := { s.cache with lines := s.cache.lines.filter (fun (l : Line) => l.line != n) } }

/-- Remove a line from the victim cache. -/
def dropVictim (s : State) (n : Nat) : State :=
  { s with cache := { s.cache with victim := s.cache.victim.filter (fun (l : Line) => l.line != n) } }

/-- A displaced line enters the victim cache and may push out the oldest (R237). -/
def toVictim (s : State) (cls : Nat) (l : Line) : State :=
  let s := match s.cache.victim with
    | o :: r => if 32 ≤ s.cache.victim.length then { writeBack s cls o with cache := { (writeBack s cls o).cache with victim := r } } else s
    | [] => s
  { s with cache := { s.cache with victim := s.cache.victim ++ [{ l with way := 16 }] } }

/-- The replacement LFSR advances by one step (R236; assumption 23). -/
def lfsrNext (v : Nat) : Nat :=
  let b := (v ^^^ (v >>> 2) ^^^ (v >>> 3) ^^^ (v >>> 5)) % 2
  (v >>> 1) + b * 32768

/-- The first allowed way from `w` on, in ascending order with wrap. -/
def nextWay (mask w : Nat) : Nat :=
  (((List.range 16).map (fun k => (w + k) % 16)).find? (fun j => mask.testBit j)).getD 0

/-- Allocate line `n` for a class in its set with the given sectors, displacing a line if need be (R236). -/
def allocate (s : State) (cls n : Nat) (sec : List Sector) : State :=
  let mask := allowedWays s cls
  let used := s.cache.lines.filter (fun (l : Line) => lineSet l.line == lineSet n)
  match (List.range 16).find? (fun w => mask.testBit w && !used.any (fun l => l.way == w)) with
  | some w => { s with cache := { s.cache with lines := { line := n, way := w, sectors := sec } :: s.cache.lines } }
  | none =>
    let v := lfsrNext (s.cfg 0x100014 15 0)
    let s := s.setField 0x100014 15 0 v
    let w := nextWay mask (v % 16)
    let s := match used.find? (fun l => l.way == w) with
      | some l => toVictim (dropLine s l.line) cls l
      | none => s
    { s with cache := { s.cache with lines := { line := n, way := w, sectors := sec } :: s.cache.lines } }

/-- A counter write of class `cls` to line `n` passes the stream detector (R238). -/
def streamWrite (s : State) (cls n : Nat) : State :=
  let (n1, c) := s.cache.streams.getD cls (0, 0)
  let c' := if n1 < n ∧ n ≤ n1 + 2 then c + 1 else 1
  let s := { s with cache := { s.cache with streams := s.cache.streams.set cls (n, c') } }
  if c' = 64 then s.bump 0x10006C else s

/-- Writes of the class do not allocate now (R238). -/
def streaming (s : State) (cls : Nat) : Bool :=
  decide (64 ≤ (s.cache.streams.getD cls (0, 0)).2) && bit (s.live 0x100010) 0

/-- May an operation of the class allocate? -/
def mayAllocate (s : State) (cls : Nat) (write : Bool) : Bool :=
  cacheOn s && allowedWays s cls != 0 && !(write && streaming s cls)

/-- Change the sector of a position in its cached line, wherever the line is. -/
def modSector (s : State) (p : Nat) (f : Sector → Sector) : State :=
  let g := fun (l : Line) => if l.line == p / 4 then { l with sectors := listMod l.sectors (p % 4) f } else l
  { s with cache := { s.cache with lines := s.cache.lines.map g, victim := s.cache.victim.map g } }

/-- The sector of a position, when its line is cached. -/
def sectorOf (s : State) (p : Nat) : Option Sector := match setLine s (p / 4) with
  | some l => l.sectors[p % 4]?
  | none => match vicLine s (p / 4) with
    | some l => l.sectors[p % 4]?
    | none => none

/-- Is the sector of the position VALID in the cache? -/
def sectorValid (s : State) (p : Nat) : Bool := match sectorOf s p with
  | some x => x.valid
  | none => false

/-- An operation that meets a line in a way under its disable sweep makes the sweep handle that line
first (R240). -/
def sweepLine (s : State) (n : Nat) : State := match setLine s n with
  | some l => if waySweep s l.way then dropLine (writeBack s 2 l) n else s
  | none => s

/-- A line in the victim cache moves back into its set when the class may allocate (R234). -/
def recallLine (s : State) (cls n : Nat) (write : Bool) : State := match vicLine s n with
  | none => s
  | some l =>
    let s := s.bump 0x100060
    if mayAllocate s cls write then allocate (dropVictim s n) cls n l.sectors else s

/-- The sectors of a line that are not VALID take the stored pairs (R235). -/
def fillSectors (s : State) (n : Nat) : List Sector → Nat → List Sector
  | [], _ => []
  | x :: r, k => (if x.valid then x else { valid := true, dirty := false, data := storePair s (4 * n + k) }) :: fillSectors s n r (k + 1)

/-- Apply a counter update to a position whose sector is VALID. -/
def addCached (s : State) (o : CacheOp) : State :=
  modSector s o.pos (fun x => { x with
    dirty := true, data := x.data.add { pkt := BitVec.ofNat 64 o.pkt, byte := BitVec.ofNat 64 o.byte } })

/-- Apply a counter update in the activity store (R235). -/
def addBypass (s : State) (o : CacheOp) : State :=
  let s := askLine (askLine s o.cls (o.pos / 4)) o.cls (o.pos / 4)
  (putPair s o.pos ((storePair s o.pos).add { pkt := BitVec.ofNat 64 o.pkt, byte := BitVec.ofNat 64 o.byte })).bump 0x100068

/-- A counter update reaches the front of its line's operations (R231, R234, R235, R240): it acts on a VALID sector, waits
behind a fill, issues one when its class may allocate, or bypasses. -/
def runOp (s : State) (o : CacheOp) : State :=
  let n := o.pos / 4
  if (mapGet s.cache.fills n).isSome then { s with cache := { s.cache with queue := s.cache.queue ++ [o] } }
  else
    let s := recallLine (sweepLine s n) o.cls n true
    if sectorValid s o.pos then addCached (if o.missed then s else s.bump (0x100040 + 4 * o.cls)) o
    else
      let s := if o.missed then s else s.bump (0x100050 + 4 * o.cls)
      if mayAllocate s o.cls true then
        let s := askLine (if (sectorOf s o.pos).isSome then s else allocate s o.cls n emptySectors) o.cls n
        { s with cache := { s.cache with fills := mapSet s.cache.fills n 0, queue := s.cache.queue ++ [{ o with missed := true }] } }
      else addBypass s o

/-- Is the queue too full for the 32 operations of one more request (R232)? -/
def queueFull (s : State) : Bool := decide (65536 < s.cache.queue.length + 32)

/-- CC_PRESS_CNT has counted every hub cycle up to the present one, while a request waits for room (R232). -/
def pressTo (s : State) : State := match s.cache.press with
  | none => s
  | some c => { s.bump 0x10007C (s.now / 8 - c) with cache := { s.cache with press := some (max c (s.now / 8)) } }

/-- A request waits for room in the hub cycle of time `t` (R232). -/
def pressAt (s : State) (t : Nat) : State := match s.cache.press with
  | none => { s.bump 0x10007C with cache := { s.cache with press := some (t / 8) } }
  | some c => { s.bump 0x10007C (t / 8 - c) with cache := { s.cache with press := some (max c (t / 8)) } }

/-- The wait of requests for room ends once there is room. -/
def pressEnd (s : State) : State :=
  if queueFull s then s else { s with cache := { s.cache with press := none } }

/-- The fill of line `n` returns: its invalid sectors become VALID, and the operations that waited
take effect in order (R235). -/
def fillReturn (s : State) (n : Nat) : State := match mapGet s.cache.fills n with
  | none => s
  | some _ =>
    let s := pressTo s
    let s := { s with cache := { s.cache with
      fills := mapErase s.cache.fills n
      lines := s.cache.lines.map (fun (l : Line) => if l.line == n then { l with sectors := fillSectors s n l.sectors 0 } else l)
      victim := s.cache.victim.map (fun (l : Line) => if l.line == n then { l with sectors := fillSectors s n l.sectors 0 } else l) } }
    let ops := s.cache.queue.filter (fun (o : CacheOp) => o.pos / 4 == n)
    let s := { s with cache := { s.cache with queue := s.cache.queue.filter (fun (o : CacheOp) => o.pos / 4 != n) } }
    pressEnd (ops.foldl runOp s)

/-- Every operation on line `n` that has entered takes effect (R231): when a sweep took the line of a fill in flight
away, they may have issued a second one. -/
def finishLine (s : State) (n : Nat) : State := fillReturn (fillReturn s n) n

/-- Counter update of class `cls` at position `p` (R231, R234, R235): a line in a way under its disable sweep is
handled first (R240). -/
def counterAdd (s : State) (cls p pkt byte : Nat) : State :=
  runOp (sweepLine (streamWrite s cls (p / 4)) (p / 4)) { cls := cls, pos := p, pkt := pkt, byte := byte, missed := false }

/-- The pair at position `p` as an operation of class `cls` reads it, after every operation that
entered before it (R231). -/
def counterRead (s : State) (cls p : Nat) : Pair × State :=
  let n := p / 4
  let s := recallLine (sweepLine (finishLine s n) n) cls n false
  if sectorValid s p then
    (((sectorOf s p).map (fun x => x.data)).getD Pair.zero, s.bump (0x100040 + 4 * cls))
  else
    let s := s.bump (0x100050 + 4 * cls)
    let s := askLine s cls n
    let v := storePair s p
    if mayAllocate s cls false then
      let s := if (sectorOf s p).isSome then s else allocate s cls n emptySectors
      (v, fillReturn { s with cache := { s.cache with fills := mapSet s.cache.fills n 0 } } n)
    else (v, s.bump 0x100068)

/-- The pair at position `p` becomes zero (R210, R214, R235): a miss needs no fill, and bypasses when its class may not
allocate. -/
def counterZero (s : State) (cls p : Nat) : State :=
  let n := p / 4
  let s := streamWrite (finishLine s n) cls n
  let s := recallLine (sweepLine s n) cls n true
  let z : Sector := { valid := true, dirty := true, data := Pair.zero }
  if sectorValid s p then modSector (s.bump (0x100040 + 4 * cls)) p (fun _ => z)
  else
    let s := s.bump (0x100050 + 4 * cls)
    if !mayAllocate s cls true then (putPair (askLine s cls n) p Pair.zero).bump 0x100068
    else if (sectorOf s p).isSome then modSector s p (fun _ => z)
    else allocate s cls n (emptySectors.set (p % 4) z)

/-- CNT_CLEAR of the pair at position `p`: it becomes zero, and its SUSPECT mark goes (R210, R241). -/
def counterClear (s : State) (cls p : Nat) : State :=
  let s := counterZero s cls p
  { s with act := { s.act with suspect := s.act.suspect.filter (fun q => q != p) } }

/-- A segment position is freed: its pair, its stamp and its mark go, cached copies included. -/
def freePosition (s : State) (p : Nat) : State :=
  let s := modSector (finishLine s (p / 4)) p (fun x => { x with dirty := false, valid := false })
  { s with act := { counters := mapErase s.act.counters p, stamps := mapErase s.act.stamps p
                    suspect := s.act.suspect.filter (fun q => q != p) }
           cache := { s.cache with filter := match mapGet s.cache.filter (p % 65536) with
             | some (q, _) => if q = p then mapErase s.cache.filter (p % 65536) else s.cache.filter
             | none => s.cache.filter } }

/-- The pair at a position as it stands, with no effect on the cache. -/
def pairNow (s : State) (p : Nat) : Pair :=
  let base := match sectorOf s p with
    | some x => if x.valid then x.data else storePair s p
    | none => storePair s p
  (s.cache.queue.filter (fun (o : CacheOp) => o.pos == p)).foldl
    (fun v o => v.add { pkt := BitVec.ofNat 64 o.pkt, byte := BitVec.ofNat 64 o.byte }) base

/-! ### Way disable, draining and maintenance -/

/-- Is way `w` in service, or taken out by a write of this very hub cycle, over which hardware wins (R246)? -/
def wayServes (s : State) (w : Nat) : Bool :=
  bit (s.live 0x100004) w || (mapGet s.cache.softOff w).any (fun t => t / 8 == s.now / 8)

/-- Way `w` is disabled with a cause (R239, R240, R246). -/
def wayDisable (s : State) (w cause : Nat) : State :=
  let was := bit (s.live 0x100004) w
  let s := s.clrBits 0x100004 (2 ^ w)
  let s := if cause = 3 then { s with cache := { s.cache with softOff := mapSet s.cache.softOff w s.now } }
    else hardChange s 0x100004 (2 ^ w)
  let s := (s.setField (0x100100 + 4 * w) 31 30 cause).setBits (0x100100 + 4 * w) 0x20000000
  if was && s.cfg 0x100004 15 0 == 0 then s.raise evCcAllWaysOff else s

/-- The disable sweep of way `w` ends (R240). -/
def wayOff (s : State) (w : Nat) : State :=
  if !waySweep s w then s
  else
    let ls := s.cache.lines.filter (fun (l : Line) => l.way == w)
    let s := ls.foldl (fun s l => dropLine (writeBack s 2 l) l.line) s
    let s := s.clrBits (0x100100 + 4 * w) 0x20000000
    s.raise evCcWayOff w (s.cfg (0x100100 + 4 * w) 31 30)

/-- A write of `v` to CC_WAY_EN (R240): 0 disables a way, 1 returns it to service. The write of a bit
that hardware cleared in the same hub cycle is discarded (R246). -/
def wayEnWrite (s : State) (v : Nat) : State :=
  let met := hardMask s 0x100004
  let s := softWrite s 0x100004
  let s := if met = 0 then s else s.raise evRegCollide 0x100004
  (List.range 16).foldl (fun s w =>
    let on := bit (s.live 0x100004) w
    if met.testBit w then s
    else if !v.testBit w then (if on then wayDisable s w 3 else s)
    else if on then s
    else if waySweep s w then s.setBits 0x100018 8
    else
      let s := (s.setBits 0x100004 (2 ^ w)).setLive (0x100100 + 4 * w) 0
      { s with cache := { s.cache with ceAt := mapErase s.cache.ceAt w, softOff := mapErase s.cache.softOff w } }) s

/-- A write of EN to CC_EN (R245). EN = 1 in the hub cycle in which draining ends collides (R246). -/
def ccEnWrite (s : State) (en : Bool) : State :=
  if en ∧ hardMask s 0x100000 ≠ 0 then s.raise evRegCollide 0x100000
  else
  let s := if en then softWrite s 0x100000 else s
  let on := bit (s.live 0x100000) 0
  let dr := bit (s.live 0x100000) 1
  if dr then (if en then s.setBits 0x100018 4 else s)
  else if on then (if en then s else s.setBits 0x100000 2)
  else if en then { s.setBits 0x100000 1 with cache := { s.cache with lines := [], victim := [] } } else s

/-- The drain sweep ends: nothing is cached, EN and CC_DRAIN read 0 (R245). -/
def ccDrained (s : State) : State :=
  if !bit (s.live 0x100000) 1 then s
  else
    let s := s.cache.fills.foldl (fun s p => fillReturn s p.1) s
    let s := s.cache.victim.foldl (fun s l => writeBack s 2 l) s
    let s := s.cache.lines.foldl (fun s l => writeBack s 2 l) s
    let s := { s with cache := { s.cache with lines := [], victim := [] } }
    (hardChange (s.setLive 0x100000 0) 0x100000 1).raise evCcDrained

/-- A corrected error in way `w` (R239); 16 is the victim cache, which has no way to count it in. -/
def cacheCe (s : State) (w : Nat) : State :=
  let s := (s.bump 0x100070).setBits 0x100018 1
  let s := s.raiseOnce evCcEccCe 0
  if 16 ≤ w then s else
  let l := (s.epoch.count :: mapGetD s.cache.ceAt w []).take 8
  let s := { s with cache := { s.cache with ceAt := mapSet s.cache.ceAt w l } }
  let s := s.setField (0x100100 + 4 * w) 3 0 l.length
  if l.length = 8 ∧ s.epoch.count - (l.getLast?).getD 0 < 2 ^ 20 ∧ wayServes s w then wayDisable s w 1 else s

/-- The table whose entry has position `p`; 255 when none has. -/
def posTable (s : State) (p : Nat) : Nat :=
  ((s.tables.find? (fun q => q.2.rows.any (fun r => decide (r.pos ≤ p) && decide (p < r.pos + taW s q.1)))).map (fun q => q.1)).getD 255

/-- The pair at position `p` becomes SUSPECT (R241): the event names its owning table. -/
def markPair (s : State) (p : Nat) : State :=
  let s := { s with act := { s.act with suspect := if s.act.suspect.contains p then s.act.suspect else p :: s.act.suspect } }
  (s.bump 0x100078).raise evCcSuspect p (posTable s p)

/-- An uncorrectable error takes way `w` out of service (R239); 16 is the victim cache. -/
def ueWayOff (s : State) (w : Nat) : State := if w < 16 ∧ wayServes s w then wayDisable s w 2 else s

/-- Sector `k` of a line is lost: clean data is refilled, and the pair of dirty data is SUSPECT (R241). -/
def loseSector (s : State) (l : Line) (k : Nat) : State := match l.sectors[k]? with
  | none => s
  | some x =>
    if !x.valid then s
    else
      let s := modSector s (4 * l.line + k) (fun y => { y with valid := false, dirty := false })
      if x.dirty then markPair s (4 * l.line + k) else s

/-- An uncorrectable error in sector `k` of a line (R241). `way` is 16 in the victim cache. -/
def cacheUe (s : State) (l : Line) (k : Nat) : State :=
  if !(l.sectors[k]?).any (fun x => x.valid) then s
  else
    let s := ((s.bump 0x100074).setBits 0x100018 2).raise evCcEccUe (lineSet l.line) l.way k
    ueWayOff (loseSector s l k) l.way

/-- An uncorrectable error in the tag word of a line: the rule of R241 for a sector holds of each of its sectors, and
the sector of the event, which the spec does not give, is a free value (DESIGN CHOICE; assumption 85). -/
def cacheTagUe (s : State) (l : Line) : State :=
  let (n, s) := draw s
  let s := ((s.bump 0x100074).setBits 0x100018 2).raise evCcEccUe (lineSet l.line) l.way (Config.openNat n % 4)
  let s := (List.range 4).foldl (fun s k => loseSector s l k) s
  ueWayOff (dropVictim (dropLine s l.line) l.line) l.way

/-- An uncorrectable error in a region of the activity store (R276); regions are numbered in the order of
R15 (assumption 60). -/
def storeUe (s : State) (region addr : Nat) : State := (s.bump 0x130124).raise evIntEccUe region addr

/-- Is the sector of position `p` cached? -/
def sectorHeld (s : State) (p : Nat) : Bool :=
  match (setLine s (p / 4)).or (vicLine s (p / 4)) with
  | some l => match l.sectors[p % 4]? with
    | some x => x.valid
    | none => false
  | none => false

/-- An error met by an operation at position `p` (R239, R241, R276). An error in a unit that holds
nothing, or that is not read, does not arise. -/
def cacheErr (s : State) (e : CacheErr) (p : Nat) : State :=
  let inWay := fun (w : Nat) => s.cache.lines.find? (fun (l : Line) => l.way == w && lineSet l.line == lineSet (p / 4))
  match e with
  | .ce w => cacheCe s w
  | .ueWay w k => match inWay w with
    | some l => cacheUe s l k
    | none => s
  | .ueTag w => match inWay w with
    | some l => cacheTagUe s l
    | none => s
  | .ueVictim i k => match s.cache.victim[i]? with
    | some l => cacheUe s l k
    | none => s
  | .ueVictimTag i => match s.cache.victim[i]? with
    | some l => cacheTagUe s l
    | none => s
  | .pairUe => if sectorHeld s p then s else storeUe (markPair s p) 0 (16 * p)

/-- One line of CACHE_MAINT: 0 FLUSH, 1 INVALIDATE, 2 DISCARD; the dirty sectors written or dropped,
and the state (R242 to R244). -/
def maintLine (s : State) (op n : Nat) : Nat × State :=
  let s := finishLine s n
  match (setLine s n).or (vicLine s n) with
  | none => (0, s)
  | some l =>
    let d := dirtyCount l
    if op = 2 then (d, (dropVictim (dropLine s n) n).bump 0x100080 d)
    else
      let s := writeBack s 2 l
      if op = 1 then (d, dropVictim (dropLine s n) n)
      else
        let g := fun (m : Line) => if m.line == n then { m with sectors := m.sectors.map (fun x => { x with dirty := false }) } else m
        (d, { s with cache := { s.cache with lines := s.cache.lines.map g, victim := s.cache.victim.map g } })

/-- The cache loses its contents with the activity store (R262). -/
def cacheLost (s : State) : State :=
  { pressTo s with cache := { s.cache with lines := [], victim := [], queue := [], fills := [], filter := [], press := none } }

end Sys2Proof.Machine
end

