-- ==== Sys2Proof/Machine/Glaze.lean ====
section
/-! DEFINITION. Generations (R169 to R173), sealing and glazes (R182 to R186), retention (R154) and
settle (R196 to R198), with the allocation of segment positions (R49, R216). -/

namespace Sys2Proof.Machine

/-! ### Masks and positions -/

/-- The slots of a table in states that satisfy `p`, as a visibility mask. -/
def stMask (x : Table) (p : SlotSt → Bool) : BitVec 4 := (slotsIn x p).foldl (fun m k => m ||| slotBit k) 0

/-- Slots that are not FREE. -/
def usedMask (x : Table) : BitVec 4 := stMask x (fun q => q != .free)

/-- Slots whose contents are still to be or now seen: LIVE, RETIRED, SEALED, OPEN (R197). -/
def keepMask (x : Table) : BitVec 4 := stMask x (fun q => q == .live || q == .retired || q == .sealed || q == .opened)

/-- Segment positions on one die (R10). -/
def posPerDie : Nat := 4194304

/-- The die of a segment position. -/
def posDie (p : Nat) : Nat := p / posPerDie

/-- The positions kept for snapshots (R216). -/
def parked (s : State) : List Nat :=
  s.snaps.foldl (fun l b => b.caps.foldl (fun l c => l ++ c.positions) l) []

/-- The segment positions of a row: its home position, and those of the copies of its data on other dies (R49, R64). -/
def Row.positions (r : Row) : List Nat := r.pos :: r.reps.map (fun p => p.2)

/-- Positions that cannot be given to a new entry: first position and number. -/
def posUsed (s : State) : List (Nat × Nat) :=
  (parked s).map (fun p => (p, 1)) ++
    (s.tables.map (fun p => (p.2.rows.map (fun r => r.positions.map (fun q => (q, taW s p.1)))).flatten)).flatten ++
    (s.dies.changes.map (fun k => k.reps.map (fun q => (q.2.2, taW s k.table)))).flatten

/-- The first free run of `w` positions of die `d` from index `i` on, in multiples of `w`. -/
def posFrom (used : List (Nat × Nat)) (d w : Nat) : Nat → Nat → Option Nat
  | 0, _ => none
  | k + 1, i =>
    let p := d * posPerDie + i * w
    if used.any (fun u => decide (u.1 < p + w) && decide (p < u.1 + u.2)) then
      posFrom used d w k ((i + 1) % (posPerDie / w))
    else some p

/-- A position for an entry of `w` segments on die `d` (R49; assumption 6), none of `avoid`. -/
def allocPos (s : State) (d w : Nat) (avoid : List Nat := []) : Option Nat × State :=
  let used := (posUsed s ++ avoid.map (fun p => (p, w))).filter (fun u => posDie u.1 == d)
  let fuel := min (posPerDie / w) (sumNat (used.map (fun u => u.2)) + 1)
  (posFrom used d w fuel (Config.freePos s.dies.allocs % (posPerDie / w)),
   { s with dies := { s.dies with allocs := s.dies.allocs + 1 } })

/-- Positions on the dies of the replicas `l` for the copies of the data of an entry of `w` segments (R64); `none` when
a die has none. -/
def allocReps (s : State) (w : Nat) : List BlkHold → List Nat → Option (List (Nat × Nat)) × State
  | [], _ => (some [], s)
  | h :: l, avoid => match allocPos s h.die w avoid with
    | (none, s) => (none, s)
    | (some p, s) => match allocReps s w l (p :: avoid) with
      | (none, s) => (none, s)
      | (some r, s) => (some ((h.replica, p) :: r), s)

/-- Free the positions of `ps` that no row of table `t` refers to any more. -/
def freeUnused (s : State) (t : Nat) (ps : List Nat) : State := match s.table t with
  | none => s
  | some x => (dedup ps).foldl (fun s p => if x.rows.any (fun r => r.pos == p) then s else freePosition s p) s

/-- Note which blocks of a table hold rows of it (R61). -/
def markHeld (s : State) (x : Table) : State :=
  (x.blocks.filter (fun h => x.rows.any (fun (r : Row) => r.die == h.die && r.block == h.block))).foldl
    (fun s h => s.setBlk h.die h.block { s.blk h.die h.block with held := true }) s

/-- Rows and covers that no slot in use sees are free at once (R173 rule 4, R186, R192). -/
def sweepRows (s : State) (t : Nat) : State := match s.table t with
  | none => s
  | some x =>
    let m := usedMask x
    let gone := x.rows.filter (fun r => r.vis &&& m == 0)
    freeUnused ((if gone.isEmpty then s else markHeld s x).setTable t { x with
      rows := x.rows.filter (fun r => r.vis &&& m != 0), covers := x.covers.filter (fun c => c.vis &&& m != 0) })
      t (gone.map (fun r => r.pos))

/-! ### The open generation -/

/-- Bit `o` of a mask takes the value of bit `p`. -/
def copyBit (m : BitVec 4) (o p : Nat) : BitVec 4 := if visIn m p then m ||| slotBit o else m &&& ~~~ slotBit o

/-- Does the table need a generation slot and have none (R178 item 2)? -/
def noSlot (x : Table) : Bool := (openSlot x).isNone && (slotsIn x (fun q => q == .free)).isEmpty

/-- The OPEN slot of table `t`, opened if there is none (R170, R173 rule 1); `none` when all four
slots are in use. -/
def openGen (s : State) (t : Nat) : Option (Nat × State) := match s.table t with
  | none => none
  | some x => match openSlot x with
    | some k => some (k, s)
    | none =>
      let p := headSlot x
      match ([(p + 1) % 4, (p + 2) % 4, (p + 3) % 4]).find? (fun k => (x.slot k).st == .free) with
      | none => none
      | some o =>
        let y := { x with
          rows := x.rows.map (fun (r : Row) => if r.vis = 0xF#4 then r else { r with vis := copyBit r.vis o p })
          covers := x.covers.map (fun (c : Cover) => if c.vis = 0xF#4 then c else { c with vis := copyBit c.vis o p })
          slots := x.slots.set o { Slot.empty with st := .opened } }
        some (o, s.setTable t y)

/-- The OPEN slot now holds a change by a command (`cmd`) or an internal one (R218). -/
def markChange (s : State) (t o : Nat) (cmd : Bool) : State :=
  s.modTable t (fun x => x.modSlot o (fun y => { y with hasCmd := y.hasCmd || cmd, hasInt := y.hasInt || !cmd }))

/-! ### Sealing and abort -/

/-- Seal slot `k` of table `t` for epoch `e` (R182): its sealing ends within 1.5 µs. -/
def sealSlot (s : State) (t k e : Nat) (by_ : Sealer) : Nat × State :=
  let (n, s) := draw s
  let no := s.seals + 1
  let s := s.modTable t (fun x => x.modSlot k (fun y => { y with
    st := .sealed, epoch := e, sealEnd := s.now + Config.openNat n % 15001, armed := false, sealNo := no, by_ := by_ }))
  (no, { s with seals := no })

/-- The latest epoch that a SEALED slot of the table names. -/
def sealedMax (x : Table) : Nat := maxNat ((slotsIn x (fun q => q == .sealed)).map (fun k => (x.slot k).epoch))

/-- Forget the aged-out positions that no row refers to any more, or whose delete was discarded. -/
def sweepAged (s : State) (t : Nat) : State :=
  s.modTable t (fun x => { x with aged := x.aged.filter (fun p =>
    x.rows.any (fun r => r.pos == p) && !x.rows.any (fun r => r.pos == p && visIn r.vis (headSlot x))) })

/-- The table keeps rows visible only in the generations that remain, after slots `ks` are discarded;
commands that wait for their glazes complete ABORTED (R186). -/
def discardSlots (s : State) (t : Nat) (ks : List Nat) : State := match s.table t with
  | none => s
  | some x =>
    let nos := ks.map (fun k => (x.slot k).sealNo)
    let s := s.setTable t { x with slots := ks.foldl (fun l k => l.set k Slot.empty) x.slots }
    let s := sweepAged (sweepRows s t) t
    s.cmds.foldl (fun s c => match c.st with
      | .waiting (.glaze u n) => if u = t ∧ nos.contains n then finish s c.id stAborted c.handle else s
      | _ => s) s

/-! ### Arming and taking effect -/

/-- Epoch at which slot `k` was superseded: the least FROM of the slots sealed after it. -/
def supersededAt (x : Table) (k : Nat) : Option Nat :=
  let later := ((slotsIn x (fun q => q == .live || q == .retired || q == .settling)).filter
    (fun j => decide ((x.slot k).sealNo < (x.slot j).sealNo))).map (fun j => (x.slot j).epoch)
  match minNat later with
  | some e => some e
  | none => x.removed

/-- At an epoch step the SEALED slots of a table whose sealing has ended are armed (R182). -/
def armTable (now count : Nat) (x : Table) : Table :=
  let f := fun (y : Slot) => if y.st == .sealed && !y.armed && decide (y.sealEnd ≤ now) then { y with armed := true, armEpoch := count } else y
  { x with slots := x.slots.map f
           destroyAt := x.destroyAt.map (fun y => if !y.armed && decide (y.sealEnd ≤ now) then { y with armed := true, armEpoch := count } else y) }

/-- May a glaze take effect at this step on its own: armed at an earlier step, its epoch reached, and
not held back by LOST (R37, R182)? -/
def glazeReady (s : State) (lostWas : Bool) (y : Slot) : Bool :=
  y.armed && decide (y.armEpoch < s.epoch.count) && decide (y.epoch ≤ s.epoch.count) && (y.by_ == .internal || !lostWas)

/-- The pending glazes of a table in the order of sealing: seal number, slot, and the slot index
(4 for a removal). -/
def pendingGlazes (x : Table) : List (Nat × Slot) :=
  let l := (slotsIn x (fun q => q == .sealed)).map (fun k => x.slot k)
  let l := match x.destroyAt with
    | some y => y :: l
    | none => l
  (sortBy (fun (a b : Slot) => decide (a.sealNo < b.sealNo)) l).map (fun y => (y.sealNo, y))

/-- The glazes of one table that take effect at this step, with the running arming epoch that orders
them: those before the first that is held back (R185). -/
def dueGlazes (s : State) (lostWas : Bool) (t : Nat) : Nat → List (Nat × Slot) → List (Nat × Nat × Nat)
  | _, [] => []
  | m, (n, y) :: r =>
    if glazeReady s lostWas y then (max m y.armEpoch, n, t) :: dueGlazes s lostWas t (max m y.armEpoch) r else []

/-- Every glaze due at this step, in the order of R42 item 4: table and seal number. -/
def allDueGlazes (s : State) (lostWas : Bool) : List (Nat × Nat) :=
  let l := s.tables.foldl (fun l p => if p.2.st = .proofing then l else l ++ dueGlazes s lostWas p.1 0 (pendingGlazes p.2)) []
  (sortBy (fun (a b : Nat × Nat × Nat) => decide (a.1 < b.1) || (a.1 == b.1 && decide (a.2.1 < b.2.1))) l).map
    (fun e => (e.2.2, e.2.1))

/-- Take a block from table `t`, with the covers that name it, and return it to its pool. -/
def loseBlock (s : State) (t : Nat) (h : BlkHold) : State :=
  freeBlock (s.modTable t (fun x => { x with
    blocks := x.blocks.filter (fun (b : BlkHold) => b.die != h.die || b.block != h.block)
    covers := x.covers.filter (fun (c : Cover) => !(c.die == h.die && c.block == h.block)) })) h.die h.block

/-- Has the block no row of the table? -/
def emptyBlock (x : Table) (h : BlkHold) : Bool := !x.rows.any (fun r => r.die == h.die && r.block == h.block)

/-- The blocks that leave a table with their die return to the pool once they are empty (R65). -/
def dropLeaving (s : State) (t : Nat) : State := match s.table t with
  | none => s
  | some x => (x.blocks.filter (fun h => h.leaving && emptyBlock x h)).foldl (fun s h => loseBlock s t h) s

/-- The change of the block set of a TBL_ALTER takes effect, with its attributes (R65). -/
def alterAt (s : State) (k : CopyChange) : State := match k.blocks with
  | none => s
  | some l =>
    let s := s.modTable k.table (fun x => alterTab x k)
    let s := l.foldl (fun s h => s.setBlk h.die h.block { s.blk h.die h.block with group := h.group }) s
    let s := k.leave.foldl (fun s h => freeBlock s h.die h.block) s
    dropLeaving (putAttrs s k.table k.attrs) k.table

/-- The relocation glaze with seal number `n` of table `t` brings the block set and the attributes of its TBL_ALTER
(R65). -/
def alterGlaze (s : State) (t n : Nat) : State :=
  let mine := fun (k : CopyChange) => k.table == t && k.glaze == some n
  (s.dies.changes.filter mine).foldl alterAt
    { s with dies := { s.dies with changes := s.dies.changes.filter (fun (k : CopyChange) => !mine k) } }

/-- GLZ_LATE for a glaze named for `e` that takes effect now (R183). -/
def glazeLate (s : State) (t e : Nat) : State :=
  if e < s.epoch.count then (s.bump 0x88004).raise evGlzLate t e s.epoch.count else s

/-- The image of slot `k` is glazed: words of other images that could not be rewritten stop no lookup any more (R167). -/
def freshImage (x : Table) (k : Nat) : Table :=
  if (x.slot k).tree.isNone then x
  else { x with slots := x.slots.mapIdx (fun j y => if j = k then y else { y with tree := y.tree.map (fun i => { i with stuck := [] }) }) }

/-- A generation becomes LIVE and the previous one RETIRED; TA_GLAZE is written (R182). -/
def switchGen (s : State) (t k : Nat) : State :=
  let s := s.modTable t (fun x =>
    let x := match liveSlot x with
      | some j => x.modSlot j (fun y => { y with st := .retired })
      | none => x
    let x := x.modSlot k (fun y => { y with st := .live, epoch := s.epoch.count })
    { freshImage x k with glazed := s.epoch.count, glazedHeld := s.epoch.held })
  s.bump 0x88000

/-- The glaze with seal number `n` of table `t` takes effect (R182, R185; R47 for a removal, where
the last generation, or what a table without one holds, stays as a retired one until it settles;
assumption 24). -/
def glazeAt (s : State) (t n : Nat) : State := match s.table t with
  | none => s
  | some x =>
    match x.slots.findIdx? (fun y => y.st == .sealed && y.sealNo == n) with
    | some k =>
      let y := x.slot k
      let s := switchGen s t k
      let s := alterGlaze s t n
      let s := if y.by_ == .command || y.by_ == .auto then glazeLate s t y.epoch else s
      let s := heldAction s (if y.by_ == .internal then 4 else 3) t
      let s := stageRec s 0x21 t none (tableBody s t)
      s.cmds.foldl (fun s c => if c.st == .waiting (.glaze t n) then finishAs s c.id stOk c.handle s.epoch.count s.epoch.held else s) s
    | none => match x.destroyAt with
      | some y =>
        if y.sealNo = n then
          let s := s.modTable t (fun x =>
            let x := match liveSlot x with
              | some j => x.modSlot j (fun z => { z with st := .retired })
              | none => { x with slots := x.slots.set 0 { Slot.empty with st := .retired } }
            { x with removed := some s.epoch.count, destroyAt := none, glazed := s.epoch.count, glazedHeld := s.epoch.held })
          let s := glazeLate (s.bump 0x88000) t y.epoch
          let s := heldAction s 3 t
          let s := stageRec s 0x21 t none (tableBody s t)
          s.cmds.foldl (fun s c => if c.st == .waiting (.glaze t n) then finishAs s c.id stOk c.handle s.epoch.count s.epoch.held else s) s
        else s
      | none => s

/-! ### Writes of direct-table words -/

/-- Port A (`portA`: the commands) or port B (the engines) writes direct-table word `k` in this hub cycle. When both
write one word in one hub cycle, A is applied first and both conflict counters go up; an A write that finds a B write
of its word applied is of the next hub cycle (R293; DEDUCED, assumption 82). -/
def dtMeet (s : State) (k : Nat) (portA : Bool) : State :=
  let same := s.spk.dtCycle == s.now / 8
  let s := if portA && same && s.spk.dtB.contains k then advance ((s.now / 8 + 1) * 8) s else s
  let same := s.spk.dtCycle == s.now / 8
  let a := if same then s.spk.dtA else []
  let b := if same then s.spk.dtB else []
  let s := { s with spk := { s.spk with dtCycle := s.now / 8, dtA := if portA then k :: a else a, dtB := if portA then b else k :: b } }
  if !portA && a.contains k then (s.bump 0x13012C).bump 0x130130 else s

/-! ### Retention and settle -/

/-- The retention of a superseded generation ends at the step that brings the counter past
E − 1 + RETAIN (R154). -/
def ripenTable (s : State) (t : Nat) (x : Table) : Table :=
  { x with slots := (List.range 4).map (fun k =>
      let y := x.slot k
      if y.st == .retired && y.ripe.isNone then
        match supersededAt x k with
        | some e => if e + taRetain s t ≤ s.epoch.count then { y with ripe := some s.epoch.count } else y
        | none => y
      else y) }

/-- RETIRED slots whose last request has been answered become SETTLING; the retention floor rises
(R151, R154). -/
def settleReady (s : State) (x : Table) : Table :=
  (List.range 4).foldl (fun x k =>
    let y := x.slot k
    match y.st, y.ripe with
    | .retired, some e =>
      if s.holds.any (fun h => decide (h.view < e)) then x
      else { x.modSlot k (fun z => { z with st := .settling }) with floor := max x.floor ((supersededAt x k).getD x.floor) }
    | _, _ => x) x

/-- Retention is looked at again, at an epoch step (`step`) or when a response is emitted. -/
def markSettling (s : State) (step : Bool) : State :=
  { s with tables := s.tables.map (fun p => (p.1, settleReady s (if step then ripenTable s p.1 p.2 else p.2))) }

/-- Does cover `c` contain the region (v, m) (R74)? -/
def coverContains (cv cm v m : BitVec 80) : Bool := cm &&& m == cm && (cv ^^^ v) &&& cm == 0

/-- Segment 0 of a key. -/
def seg0 (k : Key) : BitVec 80 := k.setWidth 80

/-- The tightest cover of a list of regions (R89). -/
def tightest : List (BitVec 80 × BitVec 80) → BitVec 80 × BitVec 80
  | [] => (0, 0)
  | [a] => (a.1 &&& a.2, a.2)
  | a :: l =>
    let (v, m) := tightest l
    let k := a.2 &&& m &&& ~~~ (a.1 ^^^ v)
    (v &&& k, k)

/-- Recompute one cover of a settled block; `none` when it contains no entry (R89). -/
def recover (x : Table) (m : BitVec 4) (c : Cover) : Option Cover :=
  let l := (x.rows.filter (fun r => r.die == c.die && r.block == c.block && r.vis &&& c.vis &&& m != 0 &&
    coverContains c.value c.mask (seg0 r.value) (seg0 r.mask))).map (fun r => (seg0 r.value, seg0 r.mask))
  if l.isEmpty then none
  else
    let (v, k) := tightest l
    some { c with value := v, mask := k }

/-- What settling slot `g` does to the mask of a row or cover (R197): `none` frees it. -/
def settleMask (k m : BitVec 4) (g : Nat) : Option (BitVec 4) :=
  if m = 0xF#4 then some m
  else if m &&& k = 0 then none
  else if m &&& k = k then some 0xF#4
  else some (m ||| slotBit g)

/-- The counters and the stamp of a freed row's position go where R194 and R212 send them. -/
def foldPosition (s : State) (t : Nat) (moved : Option Row) (r : Row) : State := match s.table t with
  | none => s
  | some x =>
    if x.rows.any (fun q => q.pos == r.pos) then s
    else
      let s := match moved with
        | some q =>
          let (v, s) := counterRead s 1 r.pos
          let s := if v = Pair.zero then s else counterAdd s 1 q.pos v.pkt.toNat v.byte.toNat
          let s := if s.act.suspect.contains r.pos ∧ !s.act.suspect.contains q.pos
            then { s with act := { s.act with suspect := q.pos :: s.act.suspect } } else s
          putStamp s q.pos (laterStamp (stampOf s r.pos) (stampOf s q.pos))
        | none =>
          if x.removed.isSome then s
          else
            let (v, s) := counterRead s 1 r.pos
            s.modTable t (fun x => { x with
              retPkt := (x.retPkt + v.pkt.toNat) % 2 ^ 64, retByte := (x.retByte + v.byte.toNat) % 2 ^ 64 })
      freePosition s r.pos

/-- Blocks of the table that have become empty return to the pool while it holds more than BLK_MIN, lower groups
first (R61, R98); a reserved block that never held an entry has not become empty. The replicas of an always-on group
stay (R63). A block that leaves with its die returns in any case (R65). -/
def returnBlocks (s : State) (t : Nat) : State := match s.table t with
  | none => s
  | some x =>
    let minB := if x.removed.isSome then 0 else taBlkMin s t
    let ao := structAO (ta s t 0)
    let s := dropLeaving s t
    let empty := (staying x).filter (fun h => emptyBlock x h &&
      (x.removed.isSome || ((s.blk h.die h.block).held && !(ao && h.group == 0))))
    (sortBy (fun (a b : BlkHold) => decide (a.group < b.group)) empty).foldl (fun s h => match s.table t with
      | none => s
      | some x => if (staying x).length ≤ minB then s else loseBlock s t h) s

/-- TBL_ATTR words of an ABSENT table (R70, R71). -/
def clearAttrs (s : State) (t : Nat) : State :=
  [0x0, 0x8, 0x10, 0x14, 0x18, 0x1C, 0x20, 0x24, 0x38, 0x3C].foldl
    (fun s o => s.setBoth (taAddr t o) (regReset (taAddr t o))) s

/-- The removed table has settled: its ID is ABSENT (R47). -/
def absentTable (s : State) (t : Nat) : State := match s.table t with
  | none => s
  | some x =>
    let s := x.blocks.foldl (fun s h => freeBlock s h.die h.block) s
    let rel := if s.stage.crumb.any (fun c => c.1 == t) then mapSet s.stage.release t s.now else s.stage.release
    let s := { s with stage := { s.stage with release := rel } }
    let s := { s with tables := mapErase s.tables t, direct := if x.kind = .direct
      then s.direct.filter (fun p => decide (p.1 < taDirBase s t) || decide (taDirBase s t + taDirSize s t ≤ p.1)) else s.direct }
    clearAttrs s t

/-- Settle of slot `g` of table `t` (R89, R194, R197, R212). -/
def settleSlot (s : State) (t g : Nat) : State := match s.table t with
  | none => s
  | some x =>
    let k := keepMask x
    let rowsAfter := fun (r : Row) => if x.removed.isSome && k == 0 then none else settleMask k r.vis g
    let gone := x.rows.filter (fun r => (rowsAfter r).isNone)
    let merged := x.rows.filter (fun r => r.vis != 0xF#4 && rowsAfter r == some 0xF#4)
    let touched := (x.rows.filter (fun r => rowsAfter r != some r.vis)).map (fun r => blkKey r.die r.block) ++
      (x.covers.filter (fun c => settleMask k c.vis g != some c.vis)).map (fun c => blkKey c.die c.block)
    let rows := x.rows.filterMap (fun (r : Row) => (rowsAfter r).map (fun m => { r with vis := m }))
    let covers := x.covers.filterMap (fun (c : Cover) =>
      if x.removed.isSome && k == 0 then none else (settleMask k c.vis g).map (fun m => { c with vis := m }))
    let y := { x with rows := rows }
    let covers := covers.filterMap (fun c => if touched.contains (blkKey c.die c.block) then recover y (~~~ slotBit g) c else some c)
    let w := taW s t
    let s := (markHeld s x).setTable t { y with covers := covers }
    let copies := fun (r : Row) => 1 + r.reps.length
    let s := s.bump 0x88014 (sumNat ((gone ++ merged).map (fun r => w * copies r)))
    let s := sweepAged (gone.foldl (fun s r => foldPosition s t (heir x (fun q => (rowsAfter q).isSome) 5 r) r) s) t
    let s := s.modTable t (fun x => { x with slots := x.slots.set g Slot.empty })
    let s := returnBlocks s t
    match s.table t with
    | none => s
    | some x => if x.removed.isSome && genUsed x == 0 then absentTable s t else s

/-- An OPEN slot that holds no change is given back (R181, R269). -/
def dropIdle (s : State) (t : Nat) : State := match s.table t with
  | none => s
  | some x => match openSlot x with
    | none => s
    | some k => if (x.slot k).hasCmd || (x.slot k).hasInt then s else discardSlots s t [k]

/-- A command whose record cannot be made durable completes VAULT_FAULT, and gives back the slot it had opened
(R181). -/
def failHeld (s : State) (c : Cmd) (handle : Nat) : State :=
  finish (if c.got = 1 then dropIdle s c.table else s) c.id stVaultFault handle

/-- The SETTLING slot of a table that was sealed first. -/
def settlingSlot (x : Table) : Option Nat :=
  (slotsIn x (fun q => q == .settling)).foldl (fun (m : Option Nat) k => match m with
    | none => some k
    | some j => if (x.slot k).sealNo < (x.slot j).sealNo then some k else m) none

/-- Settle finishes one SETTLING slot of table `t`, the one superseded first; with none, settle has
nothing to finish (assumption 4). -/
def settleTable (s : State) (t : Nat) : State := match s.table t with
  | none => s
  | some x => match settlingSlot x with
    | none => s
    | some g => settleSlot s t g

end Sys2Proof.Machine
end

