-- ==== Sys2Proof/Machine/Operands.lean ====
section
/-! DEFINITION. The operands of the Fresin commands: entry descriptors (R51, R52), batch lists
(R176), and the operand blocks of R175, R207, R210, R213, R220, R224, R242, R470 to R473. -/

namespace Sys2Proof.Machine

/-! ### Entry descriptors -/

/-- One entry as an entry descriptor carries it (R51), with its value stored by R50. -/
structure Entry where
  handle : Nat
  prio : Nat
  w : Nat
  value : Key
  mask : Key
  ad : BitVec 1024
  deriving DecidableEq, Repr

/-- Action word of an entry (R57). -/
def Entry.action (e : Entry) : Word := e.ad.setWidth 32

/-- The attribute word of an entry descriptor. -/
def entAttr (l : List Byte) : Nat := leAt l 4 4

/-- Segments named by WIDTH of an entry descriptor. -/
def entW (l : List Byte) : Nat := 2 ^ nfld (entAttr l) 25 24

/-- Length of an entry descriptor of `w` segments (R51). -/
def entLen (w : Nat) : Nat := 16 + 48 * w

/-- The complement bytes of an entry descriptor match (R52). -/
def entCompl (l : List Byte) : Bool := isCompl (slice l 0 8) (slice l 8 8)

/-- Reserved bits and bytes of an entry descriptor are zero (R51, R7). -/
def entReserved (l : List Byte) : Bool :=
  nfld (entAttr l) 31 26 == 0 &&
    (List.range (2 * entW l)).all (fun k => allZero (slice l (16 + 16 * k + 10) 6))

/-- Join 16-byte fields of `w` segments from byte `k` on: 80 bits each. -/
def joinSegs (l : List Byte) (k : Nat) : Nat → Nat
  | 0 => 0
  | n + 1 => joinSegs l k n + leAt l (k + 16 * n) 10 * 2 ^ (80 * n)

/-- The entry that a descriptor carries. -/
def parseEntry (l : List Byte) : Entry :=
  let w := entW l
  let m : Key := BitVec.ofNat 640 (joinSegs l (16 + 16 * w) w)
  { handle := leAt l 0 4, prio := nfld (entAttr l) 23 0, w := w
    value := BitVec.ofNat 640 (joinSegs l 16 w) &&& m, mask := m
    ad := BitVec.ofNat 1024 (leAt l (16 + 32 * w) (16 * w)) }

/-- The class of the action word may be stored (R120). -/
def entClassOk (e : Entry) : Bool := decide (fld e.action 31 28 < 6)

/-- Bytes of `w` segments of a key, 10 bytes and 6 zero bytes each. -/
def segBytes (k : Key) : Nat → Nat → List Byte
  | 0, _ => []
  | n + 1, i => bytesLE 10 (fld k (80 * i + 79) (80 * i)) ++ bytesLE 6 0 ++ segBytes k n (i + 1)

/-- The entry descriptor of a row, complement bytes filled in (R51, R52). -/
def entBytes (r : Row) (wcode : Nat) : List Byte :=
  let w := 2 ^ wcode
  let h := bytesLE 4 r.handle ++ bytesLE 4 (r.prio % 2 ^ 24 + wcode * 2 ^ 24)
  h ++ h.map (fun b => ~~~ b) ++ segBytes r.value w 0 ++ segBytes r.mask w 0 ++ bytesLE (16 * w) r.ad.toNat

/-! ### Changes -/

/-- One change of a table's contents: an entry command or a batch record. -/
inductive Change where
  | ins (e : Entry)
  | del (handle : Nat)
  | mod (e : Entry)
  | rep (handle prio : Nat)
  | word (id : Nat) (v : BitVec 256)
  deriving DecidableEq, Repr

/-- Body length of a batch record, `none` for an opcode that the kind does not take (R176). -/
def recLen (direct : Bool) (op : Nat) (body : List Byte) : Option Nat :=
  if direct then (if op = 0x22 then some 40 else none)
  else if op = 0x20 ∨ op = 0x22 then some (entLen (entW body))
  else if op = 0x21 ∨ op = 0x23 then some 16
  else none

/-- The complements of a record body match. -/
def bodyCompl (direct : Bool) (op : Nat) (b : List Byte) : Bool :=
  if direct then isCompl (slice b 0 4) (slice b 4 4)
  else if op = 0x20 ∨ op = 0x22 then entCompl b
  else if op = 0x21 then isCompl (slice b 0 4) (slice b 8 4)
  else isCompl (slice b 0 8) (slice b 8 8)

/-- The form of a record body (R51, R53, R120, R175, R176). -/
def bodyForm (direct : Bool) (op : Nat) (b : List Byte) : Bool :=
  if direct then true
  else if op = 0x20 then entReserved b && entClassOk (parseEntry b) && leAt b 0 4 != 0xFFFFFFFF
  else if op = 0x22 then entReserved b && entClassOk (parseEntry b)
  else if op = 0x21 then allZero (slice b 4 4) && allZero (slice b 12 4)
  else decide (leAt b 4 4 < 2 ^ 24)

/-- The change that a record body carries. -/
def bodyChange (direct : Bool) (op : Nat) (b : List Byte) : Change :=
  if direct then .word (leAt b 0 4) (BitVec.ofNat 256 (leAt b 8 32))
  else if op = 0x20 then .ins (parseEntry b)
  else if op = 0x22 then .mod (parseEntry b)
  else if op = 0x21 then .del (leAt b 0 4)
  else .rep (leAt b 0 4) (leAt b 4 4)

/-- The outcome of reading a batch list: the changes, or the status and the index of the first record
that fails the complement checks, then of the first that fails the form checks (R176, R337). -/
structure BatchRead where
  changes : List Change
  /-- Index of the first complement failure. -/
  compl : Option Nat
  /-- Index of the first failure of form. -/
  form : Option Nat
  deriving DecidableEq, Repr

/-- Read `n` records from the bytes `l`, record `i` first. -/
def batchRecs (direct : Bool) : Nat → Nat → List Byte → BatchRead
  | 0, i, l => { changes := [], compl := none, form := if l.isEmpty then none else some i }
  | n + 1, i, l =>
    let op := leAt l 0 4
    if l.length < 8 then { changes := [], compl := none, form := some i }
    else if !isCompl (slice l 0 4) (slice l 4 4) then { changes := [], compl := some i, form := none }
    else match recLen direct op (l.drop 8) with
      | none => { changes := [], compl := none, form := some i }
      | some k =>
        let b := slice l 8 k
        if b.length < k then { changes := [], compl := none, form := some i }
        else
          let r := batchRecs direct n (i + 1) (l.drop (8 + k))
          { changes := bodyChange direct op b :: r.changes
            compl := if bodyCompl direct op b then r.compl else some i
            form := if bodyForm direct op b then r.form else some i }

/-! ### Operand blocks -/

/-- The host address in descriptor bytes `k` to `k + 7`. -/
def Cmd.host (c : Cmd) (k : Nat) : Nat := c.le k 8

/-- Status of a chain of checks: the first that fails decides (R337). -/
def firstFail : List (Bool × Nat) → Nat
  | [] => stOk
  | (ok, st) :: l => if ok then firstFail l else st

/-- Form and complements of a command whose only operand is an 8-byte epoch in bytes 16–23. -/
def epochForm (c : Cmd) : Nat :=
  firstFail [(c.compl 16 24 8, stBadComplement), (!c.auto && !c.addr && c.le 22 2 == 0 && c.zeroFrom 32, stInvalid)]

/-- The state of a table that entry and most table commands need: LIVE (R47, R368). -/
def tableLive (s : State) (t : Nat) : Bool := match s.table t with
  | none => false
  | some x => x.st == .live

/-- Kind of table `t`, if it is not ABSENT. -/
def tableKind (s : State) (t : Nat) : Option Kind := (s.table t).map (fun x => x.kind)

/-- Is table `t` TERNARY? -/
def isTernary (s : State) (t : Nat) : Bool := tableKind s t == some .ternary

end Sys2Proof.Machine
end

