-- ==== Sys2Proof/Machine/Place.lean ====
section
/-! DEFINITION. Placement of entries: rows within a block (R191, R192), covers and groups (R86, R482),
splits (R87), replacement copies (R193, R195), and one change of an open generation (R177, R180). -/

namespace Sys2Proof.Machine

/-! ### Rows within a block -/

/-- Does the tuple (p, h) beat (q, k) (R56)? -/
def beats (p h q k : Nat) : Bool := decide (q < p) || (p == q && decide (h < k))

/-- Can one key match both regions (R191)? -/
def overlapK (v m v' m' : Key) : Bool := (v ^^^ v') &&& m &&& m' == 0

/-- Rows of a block. -/
def blockRows (x : Table) (d b : Nat) : List Row := x.rows.filter (fun r => r.die == d && r.block == b)

/-- The window of an entry in the open generation, as slots of `w` rows: first slot, and the slot
after the last (R191). -/
def window (rows : List Row) (o w : Nat) (h p : Nat) (v m : Key) : Nat × Nat :=
  let l := rows.filter (fun r => visIn r.vis o && r.handle != h && overlapK r.value r.mask v m)
  (maxNat ((l.filter (fun r => beats r.prio r.handle p h)).map (fun r => r.row / w + 1)),
   ((minNat ((l.filter (fun r => !beats r.prio r.handle p h)).map (fun r => r.row / w))).getD (4096 / w)))

/-- Free slots of a block from `lo` up to, not with, `hi` (R192). -/
def freeIn (rows : List Row) (w lo hi : Nat) : List Nat :=
  ((List.range (4096 / w)).drop lo).filter (fun i => decide (i < hi) && !rows.any (fun r => r.row / w == i))

/-- The slot nearest the middle row of the window, the lower on a tie (R192). -/
def nearest (w lo hi : Nat) (l : List Nat) : Option Nat :=
  let mid := (lo * w + (hi * w - 1)) / 2
  let dist := fun i => if i * w ≤ mid then mid - i * w else i * w - mid
  l.foldl (fun (m : Option Nat) i => match m with
    | none => some i
    | some j => if dist i < dist j then some i else m) none

/-- Move entry `z` to slot `i` of its block in the open generation: the copy keeps its position, and
the old rows lose the open bit (R173, R193, R195). -/
def moveRow (x : Table) (o w : Nat) (z : Row) (i : Nat) : Table :=
  let m := usedMask x
  let old := x.rows.filterMap (fun r => if r = z then
    (let v := r.vis &&& ~~~ slotBit o
     if v &&& m = 0 then none else some { r with vis := v }) else some r)
  { x with rows := old ++ [{ z with row := i * w, vis := slotBit o }] }

/-- Make room for an entry in a block by at most `fuel` moves: the slot for it, the table after the
moves, and the moves made (R192). -/
def makeRoom (o w d b h p : Nat) (v m : Key) : Nat → Table → Option (Nat × Table × Nat)
  | fuel, x =>
    let rows := blockRows x d b
    let (lo, hi) := window rows o w h p v m
    match nearest w lo hi (freeIn rows w lo hi) with
    | some i => some (i, x, 0)
    | none => match fuel with
      | 0 => none
      | f + 1 =>
        let at_ := fun i => rows.find? (fun r => visIn r.vis o && r.row / w == i && r.handle != h && overlapK r.value r.mask v m)
        let worse : Option (Row × Nat) := match at_ hi with
          | none => none
          | some z =>
            let (zl, zh) := window rows o w z.handle z.prio z.value z.mask
            ((freeIn rows w (max zl (hi + 1)) zh).getLast?).map (fun i => (z, i))
        let better : Option (Row × Nat) := if lo = 0 then none else match at_ (lo - 1) with
          | none => none
          | some z =>
            let (zl, zh) := window rows o w z.handle z.prio z.value z.mask
            ((freeIn rows w zl (min zh (lo - 1))).head?).map (fun i => (z, i))
        match worse.or better with
        | none => none
        | some (z, i) => (makeRoom o w d b h p v m f (moveRow x o w z i)).map (fun q => (q.1, q.2.1, q.2.2 + 1))

/-- Free rows of a block. -/
def freeRows (x : Table) (w d b : Nat) : Nat := 4096 - w * (blockRows x d b).length

/-- Has the block room for an entry of `w` segments, or target room when `room` is false (R72, R86,
R192)? -/
def fits (s : State) (x : Table) (t o w : Nat) (room : Bool) (d b : Nat) (e : Entry) : Bool :=
  decide (w ≤ freeRows x w d b) && (room || decide (w + taGap s t ≤ freeRows x w d b)) &&
    (makeRoom o w d b e.handle e.prio e.value e.mask 8 x).isSome

/-- Why a placement fails: 1 NO_PLACEMENT, 2 no block by R60, 3 no segment position by R216. -/
def pfNone : Nat := 1
def pfBlock : Nat := 2
def pfPark : Nat := 3

/-- The replicas, but for replica 0, of the group of block `b` of die `d`, when it is an always-on group 0 (R63). -/
def replicasBeside (s : State) (t : Nat) (x : Table) (d b : Nat) : List BlkHold :=
  if structAO (ta s t 0) && (replicas x).any (fun h => h.die == d && h.block == b) then
    (replicas x).filter (fun h => h.replica != 0)
  else []

/-- Write entry `e` into a block that has room, at position `keep` or at a new one with the stamp `stamp`, and its
data at a position on the die of each replica (R11, R49, R64, R204). -/
def placeIn (s : State) (t o d b : Nat) (e : Entry) (keep : Option Nat) (stamp : BitVec 64) : Except Nat State :=
  match s.table t with
  | none => .error pfNone
  | some x =>
    let w := taW s t
    match makeRoom o w d b e.handle e.prio e.value e.mask 8 x with
    | none => .error pfNone
    | some (i, y, n) =>
      let s := (s.setTable t y).bump 0x88010 n
      let (p, s) : Option Nat × State := match keep with
        | some q => (some q, s)
        | none => allocPos s d w
      match p, allocReps s w (replicasBeside s t x d b) (p.toList) with
      | none, _ => .error pfPark
      | some _, (none, _) => .error pfPark
      | some p, (some q, s) =>
        let r : Row := { handle := e.handle, prio := e.prio, value := e.value, mask := e.mask, ad := e.ad
                         die := d, block := b, row := i * w, pos := p, reps := q, vis := slotBit o }
        let s := s.modTable t (fun x => { x with rows := x.rows ++ [r] })
        .ok (if keep.isSome then s else putStamp s p stamp)

/-! ### Covers -/

/-- Mask bits set. -/
def ones (m : BitVec 80) : Nat := ((List.range 80).filter (fun i => bit m i)).length

/-- Do two covers, or a cover and a region, share a key? -/
def coverOverlap (v m v' m' : BitVec 80) : Bool := (v ^^^ v') &&& m &&& m' == 0

/-- Covers of group `g` visible in the open generation. -/
def groupCovers (x : Table) (g o : Nat) : List Cover := x.covers.filter (fun c => c.group == g && visIn c.vis o)

/-- A free cover entry of a block (R75, R80). -/
def freeCover (s : State) (x : Table) (d b : Nat) : Option Nat :=
  (List.range 16).find? (fun i => !x.covers.any (fun c => c.die == d && c.block == b && c.idx == i) &&
    !s.dies.siftRetired.contains (d * 16384 + b * 16 + i))

/-- Is the cover seen only by the open generation? -/
def coverOpenOnly (x : Table) (o : Nat) (c : Cover) : Bool := c.vis &&& usedMask x == slotBit o

/-- Drop a cover from the open generation (R482). -/
def hideCover (x : Table) (o : Nat) (c : Cover) : Table :=
  let m := usedMask x
  { x with covers := x.covers.filterMap (fun k => if k = c then
      (let v := k.vis &&& ~~~ slotBit o
       if v &&& m = 0 then none else some { k with vis := v }) else some k) }

/-- Add a cover to a block in the open generation. -/
def addCover (s : State) (x : Table) (o d b g : Nat) (v m : BitVec 80) : Option Table :=
  (freeCover s x d b).map (fun i => { x with covers := x.covers ++
    [{ value := v, mask := m, die := d, block := b, group := g, vis := slotBit o, idx := i }] })

/-- Replace cover `c` by (v, m) in its block, in the open generation (R482). -/
def replaceCover (s : State) (x : Table) (o : Nat) (c : Cover) (v m : BitVec 80) : Option Table :=
  if coverOpenOnly x o c then
    some { x with covers := x.covers.map (fun k => if k = c then { k with value := v, mask := m, err := none } else k) }
  else addCover s (hideCover x o c) o c.die c.block c.group v m

/-! ### Mirrors -/

/-- Add up to `n` mirrors to a block, spares taken by items 1 and 2 of R12: how many were added. -/
def addMirrors (s : State) (d b : Nat) (auto built : Bool) : Nat → Nat × State
  | 0 => (0, s)
  | n + 1 => match claimSpare s d b with
    | none => (0, s)
    | some k =>
      let s := s.setSpare d k { Spare.free with use := 1, auto := auto, primary := b, built := built }
      let (m, s) := addMirrors s d b auto built n
      (m + 1, s)

/-! ### Splits (R87) -/

/-- Entries of a block that cover `c` contains, in the open generation. -/
def coverRows (x : Table) (o : Nat) (c : Cover) : List Row :=
  (blockRows x c.die c.block).filter (fun r => visIn r.vis o && coverContains c.value c.mask (seg0 r.value) (seg0 r.mask))

/-- The bit by which R87 splits cover `c` for region (v, m). -/
def splitBit (x : Table) (o : Nat) (c : Cover) (v m : BitVec 80) : Option Nat :=
  let rows := coverRows x o c
  ((List.range 80).foldl (fun (best : Option (Nat × Nat)) i =>
    if bit c.mask i || !bit m i || rows.any (fun r => !bit (seg0 r.mask) i) then best
    else
      let ones := (rows.filter (fun r => bit (seg0 r.value) i)).length + b2n (bit v i)
      let all := rows.length + 1
      if ones = 0 ∨ ones = all then best
      else
        let diff := if 2 * ones ≤ all then all - 2 * ones else 2 * ones - all
        match best with
        | none => some (i, diff)
        | some (_, k) => if diff ≤ k then some (i, diff) else best) none).map (fun p => p.1)

/-- Copy one row of a moving half to the new block, to the rows R192 gives there: on the same die the copy keeps
its position (R11, R87, R193). -/
def relocate (s : State) (t o d b : Nat) (r : Row) : Except Nat State :=
  let (p, s) : Option Nat × State := if r.die = d then (some r.pos, s) else allocPos s d (taW s t)
  match p with
  | none => .error pfPark
  | some p =>
    let s := if r.die = d then s else putStamp s p (stampOf s r.pos)
    match s.table t with
    | none => .error pfNone
    | some x =>
      let v := r.vis &&& ~~~ slotBit o
      let x := { x with rows := x.rows.filterMap (fun q => if q = r then
          (if v &&& usedMask x = 0 then none else some { q with vis := v }) else some q) }
      let w := taW s t
      match makeRoom o w d b r.handle r.prio r.value r.mask 8 x with
      | none => .error pfNone
      | some (i, y, n) =>
        let s := s.setTable t { y with rows := y.rows ++ [{ r with die := d, block := b, row := i * w, pos := p, vis := slotBit o }] }
        .ok ((freeUnused s t [r.pos]).bump 0x88010 (n + 1))

/-- Relocate a list of rows. -/
def relocateRows (s : State) (t o d b : Nat) : List Row → Except Nat State
  | [] => .ok s
  | r :: l => match relocate s t o d b r with
    | .error f => .error f
    | .ok s => relocateRows s t o d b l

/-- Relocate rows, best entry first (R56). -/
def relocateAll (s : State) (t o d b : Nat) (l : List Row) : Except Nat State :=
  relocateRows s t o d b (sortBy (fun (x y : Row) => beats x.prio x.handle y.prio y.handle) l)

/-- Split cover `c` for entry `e` and place `e` in the half that contains it (R87). The rule does not say whether the
mirrors of the new block are manual or automatic: the model makes as many of each as the old block has (DESIGN CHOICE;
assumption 76). -/
def split (s : State) (t o : Nat) (c : Cover) (e : Entry) (stamp : BitVec 64) : Except Nat State :=
  match s.table t with
  | none => .error pfNone
  | some x =>
    let v := seg0 e.value
    let m := seg0 e.mask
    match splitBit x o c v m with
    | none => .error pfNone
    | some i =>
      if !coverOpenOnly x o c && (freeCover s x c.die c.block).isNone then .error pfNone
      else match growGroup s t c.group 0 (structDies (ta s t 0)) (taBlkMax s t) false with
        | none => .error pfBlock
        | some (h, s) =>
          let one := BitVec.ofNat 80 (2 ^ i)
          let side := v &&& one
          let moved := (coverRows x o c).filter (fun r => seg0 r.value &&& one == side)
          let old := mirrors s c.die c.block false
          let autos := (old.filter (fun k => (s.spare c.die k).auto)).length
          match relocateAll s t o h.die h.block moved with
          | .error f => .error f
          | .ok s =>
            let s := s.bump 0x8800C moved.length
            match s.table t with
            | none => .error pfNone
            | some x =>
              match replaceCover s x o c ((c.value &&& ~~~ one) ||| (one &&& ~~~ side)) (c.mask ||| one) with
              | none => .error pfNone
              | some x =>
                match addCover s x o h.die h.block c.group ((c.value &&& ~~~ one) ||| side) (c.mask ||| one) with
                | none => .error pfNone
                | some x =>
                  let s := s.setTable t x
                  let (a, s) := addMirrors s h.die h.block false true (old.length - autos)
                  let (b, s) := addMirrors s h.die h.block true true autos
                  let s := if a + b < old.length then s.raise (evSrcMirrorNospare c.die) else s
                  placeIn s t o h.die h.block e none stamp

/-! ### The placement procedure (R86) -/

/-- One step of the loop of R86: a placement, or the flag that only R60 stood in the way. -/
def placeGroup (s : State) (t o : Nat) (e : Entry) (stamp : BitVec 64) (room : Bool) (g : Nat) : Except Nat State :=
  match s.table t with
  | none => .error pfNone
  | some x =>
    let w := taW s t
    let v := seg0 e.value
    let m := seg0 e.mask
    let cs := groupCovers x g o
    match cs.find? (fun c => coverContains c.value c.mask v m) with
    | some c =>
      if fits s x t o w room c.die c.block e then placeIn s t o c.die c.block e none stamp
      else if room then split s t o c e stamp else .error pfNone
    | none =>
      match cs.filter (fun c => coverOverlap c.value c.mask v m) with
      | [c] =>
        let m2 := c.mask &&& m &&& ~~~ (c.value ^^^ v)
        let v2 := c.value &&& m2
        if decide (8 ≤ ones m2) && !cs.any (fun k => k != c && coverOverlap k.value k.mask v2 m2) &&
            fits s x t o w room c.die c.block e && (coverOpenOnly x o c || (freeCover s x c.die c.block).isSome) then
          match replaceCover s x o c v2 m2 with
          | none => .error pfNone
          | some y => placeIn (s.setTable t y) t o c.die c.block e none stamp
        else .error pfNone
      | [] =>
        if ones m < 8 then .error pfNone
        else
          let bs := (staying x).filter (fun h => h.group == g && (freeCover s x h.die h.block).isSome &&
            fits s x t o w room h.die h.block e)
          let best := bs.foldl (fun (q : Option BlkHold) h => match q with
            | none => some h
            | some k =>
              let fh := freeRows x w h.die h.block
              let fk := freeRows x w k.die k.block
              if fk < fh ∨ (fk = fh ∧ blkKey h.die h.block < blkKey k.die k.block) then some h else q) none
          match best with
          | some h => match addCover s x o h.die h.block g (v &&& m) m with
            | none => .error pfNone
            | some y => placeIn (s.setTable t y) t o h.die h.block e none stamp
          | none => match growGroup s t g 0 (structDies (ta s t 0)) (taBlkMax s t) false with
            | none => .error pfBlock
            | some (h, s) => match s.table t with
              | none => .error pfNone
              | some y => match addCover s y o h.die h.block g (v &&& m) m with
                | none => .error pfNone
                | some y => placeIn (s.setTable t y) t o h.die h.block e none stamp
      | _ => .error pfNone

/-- Try the steps in order; the first that succeeds decides. -/
def placeFirst : List (Unit → Except Nat State) → Nat → Except Nat State
  | [], f => .error f
  | k :: l, f => match k () with
    | .ok s => .ok s
    | .error g => if g = pfPark then .error pfPark else placeFirst l (if g = pfBlock then pfBlock else f)

/-- K6: place in the always-on group. -/
def placeAlways (s : State) (t o : Nat) (e : Entry) (stamp : BitVec 64) (room : Bool) : Except Nat State :=
  match s.table t with
  | none => .error pfNone
  | some x =>
    let w := taW s t
    match (replicas x).head? with
    | none => .error pfNone
    | some h =>
      if decide (((blockRows x h.die h.block).filter (fun r => visIn r.vis o)).length < 4096 / w) &&
          fits s x t o w room h.die h.block e then placeIn s t o h.die h.block e none stamp
      else .error pfNone

/-- Place entry `e` in the open generation (R86). -/
def place (s : State) (t o : Nat) (e : Entry) (stamp : BitVec 64) : Except Nat State :=
  let st := ta s t 0
  let gs := (List.range (structGroups st)).drop (b2n (structAO st))
  placeFirst
    (gs.map (fun g => fun _ => placeGroup s t o e stamp false g) ++
     gs.map (fun g => fun _ => placeGroup s t o e stamp true g) ++
     (if structAO st then [fun _ => placeAlways s t o e stamp false, fun _ => placeAlways s t o e stamp true] else []))
    pfNone

/-! ### Changes of the open generation -/

/-- Is the row seen by the open generation alone (R173 rule 4)? -/
def rowOpenOnly (x : Table) (o : Nat) (r : Row) : Bool := r.vis &&& usedMask x == slotBit o

/-- Remove a handle from the open generation (R173 rules 3 and 4). -/
def removeOpen (s : State) (t o h : Nat) : State :=
  sweepRows (s.modTable t (fun x => { x with rows := x.rows.map (fun (r : Row) =>
    if r.handle = h ∧ visIn r.vis o then { r with vis := r.vis &&& ~~~ slotBit o } else r) })) t

/-- Is the handle still held for an insert: in the open generation, or its deletion not yet in effect
(R54, R180)? -/
def handleHeld (x : Table) (h : Nat) : Bool :=
  x.rows.any (fun r => r.handle == h && (visIn r.vis (headSlot x) ||
    (slotsIn x (fun q => q == .live || q == .sealed || q == .opened)).any (fun k => visIn r.vis k)))

/-- The entry of a row. -/
def Row.entry (r : Row) (w : Nat) : Entry := { handle := r.handle, prio := r.prio, w := w, value := r.value, mask := r.mask, ad := r.ad }

/-- Write a replacement copy of row `r` with a new priority or new associated data (R193, R195). -/
def replaceCopy (s : State) (t o : Nat) (r : Row) (e : Entry) : Except Nat State := match s.table t with
  | none => .error pfNone
  | some x =>
    let w := taW s t
    let stamp := stampOf s r.pos
    if rowOpenOnly x o r then
      let (lo, hi) := window (blockRows x r.die r.block) o w e.handle e.prio e.value e.mask
      if lo ≤ r.row / w ∧ r.row / w < hi then
        .ok (s.setTable t { x with rows := x.rows.map (fun (q : Row) => if q = r then { q with prio := e.prio, ad := e.ad } else q) })
      else
        let y := { x with rows := x.rows.filter (fun (q : Row) => q != r) }
        match placeIn (s.setTable t y) t o r.die r.block e (some r.pos) stamp with
        | .ok s => .ok s
        | .error _ => place (removeOpen s t o r.handle) t o e stamp
    else
      let s := removeOpen s t o r.handle
      match placeIn s t o r.die r.block e none stamp with
      | .ok s => .ok s
      | .error f => if f = pfPark then .error f else place s t o e stamp

/-- Completion status of a failed placement (R88, R216). -/
def placeStatus (f : Nat) : Nat := if f = pfNone then stNoPlacement else stTableFull

/-- A failed change leaves its events: TBL_FULL for a shortage of blocks, CNT_PARK_FULL for one of
positions (R88, R216). -/
def placeEvents (s : State) (f : Nat) : State :=
  if f = pfBlock then s.raise evTblFull else if f = pfPark then s.raise evCntParkFull else s

/-- The handle lies in the table's learn range while learning is enabled (R220). -/
def inLearn (x : Table) (h : Nat) : Bool := match x.learn with
  | none => false
  | some l => l.en && decide (l.hbase ≤ h) && decide (h < l.hbase + l.hcount)

/-- Outcome of a change: the state, or a status with what the failed placement was. -/
abbrev ChangeRes := Except (Nat × Nat) State

/-- A placement as a change. -/
def placed (r : Except Nat State) : ChangeRes := match r with
  | .ok s => .ok s
  | .error f => .error (placeStatus f, f)

/-- The checks of a change against the table that need no resources (R52, R55, R180, R220, R337). -/
def changeCheck (s : State) (t : Nat) (c : Change) : Nat := match s.table t with
  | none => stNotFound
  | some x => match c with
    | .ins e =>
      if e.w ≠ taW s t then stInvalid
      else if taCasc s t && e.handle / 2 ^ 30 != s.csc.pos.toNat then stInvalid
      else if inLearn x e.handle then stInvalid
      else if handleHeld x e.handle then stDuplicate else stOk
    | .del h => if (rowIn x (headSlot x) h).isNone then stNotFound else stOk
    | .mod e =>
      if e.w ≠ taW s t then stInvalid
      else if (rowIn x (headSlot x) e.handle).isNone then stNotFound else stOk
    | .rep h _ => if (rowIn x (headSlot x) h).isNone then stNotFound else stOk
    | .word i _ => if taDirSize s t ≤ i then stInvalid else stOk

/-- Apply one checked change to the open generation `o` of TERNARY table `t`, or to the words of a
DIRECT table (R86, R177, R193). -/
def applyChange (s : State) (t o : Nat) (c : Change) : ChangeRes := match s.table t with
  | none => .error (stNotFound, 0)
  | some x => match c with
    | .ins e => placed (place s t o e (mkStamp s.epoch.count 0 false))
    | .del h => .ok (removeOpen s t o h)
    | .mod e => match rowIn x o e.handle with
      | none => .error (stNotFound, 0)
      | some r =>
        if r.value = e.value ∧ r.mask = e.mask then placed (replaceCopy s t o r e)
        else placed (place (removeOpen s t o e.handle) t o e (stampOf s r.pos))
    | .rep h p => match rowIn x o h with
      | none => .error (stNotFound, 0)
      | some r => placed (replaceCopy s t o r { r.entry (taW s t) with prio := p })
    | .word i v =>
      let k := taDirBase s t + i
      let s := dtMeet s k true
      .ok { s with direct := if v = 0 then mapErase s.direct k else mapSet s.direct k v }

/-- Apply the records of a batch in order; a failure names its index (R177). -/
def applyAll (s : State) (t o : Nat) : Nat → List Change → Except (Nat × Nat × Nat) State
  | _, [] => .ok s
  | i, c :: l =>
    let st := changeCheck s t c
    if st ≠ stOk then .error (st, 0, i)
    else match applyChange s t o c with
      | .error (st, f) => .error (st, f, i)
      | .ok s => applyAll s t o (i + 1) l

/-! ### Slots of copies (R254, R297, R298) -/

/-- The slots that copying rows of `w` segments, with shadow records at the positions `ps`, into unit `u` of die `d`
takes: reads of the shadow to copy and to compare, and row writes (R254). -/
def askRows (s : State) (d u w : Nat) (ps : List Nat) (who : Who) : State :=
  let s := askSlots s d (wheelGroup u) u 2 (w * ps.length) who
  ps.foldl (fun s p => askDram s drShadow (shadowBase + 64 * p) (2 * 64 * w) 0 who) s

/-- The slots that copying block `b` of die `d` into spare `k` takes. -/
def askCopy (s : State) (d b k : Nat) (who : Who) : State :=
  let t := (s.blk d b).table
  match s.table t with
  | none => s
  | some x =>
    let h := rowHome x d b
    askRows s d (1024 + k) (taW s t) ((x.rows.filter (fun r => r.die == h.1 && r.block == h.2)).map (fun r => r.pos)) who

end Sys2Proof.Machine
end

