-- ==== Sys2Proof/Machine/TableCmds.lean ====
section
/-! DEFINITION. The table-structure commands (R45 to R66, R73, R97, R470 to R472), the glaze commands
(R182 to R188), and TBL_STATS (R168, R228, R475). -/

namespace Sys2Proof.Machine

/-! ### Attribute words as they read -/

/-- TA_STATUS (R46, R71): DIRECT tables have no generations. -/
def taStatus (x : Table) : Nat :=
  (if x.kind = .direct then 0 else genUsed x) * 0x10000 +
    (match x.st with
     | .live => 1
     | .proofing => 2
     | .destroying => 3)

/-- Word `o` of TBL_ATTR[t] as it reads (R71). -/
def attrWord (s : State) (t o : Nat) : Word := match s.table t with
  | none => s.live (taAddr t o)
  | some x =>
    if o = 0x04 then word (taStatus x)
    else if o = 0x0C then word (tableLatMin s t)
    else if o = 0x28 then word (entryCount x)
    else if o = 0x2C then word (tableMirrors s x * 0x10000 + x.blocks.length)
    else if o = 0x30 then word x.glazed
    else if o = 0x34 then word (x.glazed / 2 ^ 32 % 2 ^ 16)
    else s.live (taAddr t o)

/-- Store words held by a table (R168). -/
def treeHeld (x : Table) : Nat := sumNat (x.slots.map (fun y => match y.tree with
  | some i => i.words.length
  | none => 0))

/-- Free words of the tree store (R156). -/
def treeFree (s : State) : Nat := 4194304 - sumNat (s.tables.map (fun p => treeHeld p.2))

/-- A statistic of table `t` goes up by `n` and saturates (R168, R228). -/
def statAdd (s : State) (t o : Nat) (n : Nat := 1) : State :=
  s.modTable t (fun x => { x with stats := mapMod x.stats o 0 (fun v => min 0xFFFFFFFF (v + n)) })

/-- Handles of the learn range held in the open generation (R228). -/
def learnHandles (x : Table) : Nat := match x.learn with
  | none => 0
  | some l => (x.rows.filter (fun r => visIn r.vis (headSlot x) && decide (l.hbase ≤ r.handle) &&
      decide (r.handle < l.hbase + l.hcount))).length

/-- The statistic at byte offset `o` of the TBL_STATS record. -/
def statWord (s : State) (x : Table) (o : Nat) : Nat :=
  if o = 0x54 then treeHeld x
  else if o = 0x58 then treeFree s
  else if o = 0x68 then learnHandles x
  else mapGetD x.stats o 0

/-- The 128-byte TBL_STATS record (R475). -/
def statsRecord (s : State) (t : Nat) (x : Table) : List Byte :=
  (List.range 16).foldl (fun l k => l ++ bytesLE 4 (attrWord s t (4 * k)).toNat) [] ++
    (List.range 16).foldl (fun l k => l ++ bytesLE 4 (statWord s x (0x40 + 4 * k))) []

/-! ### Checks of the structure words (R62, R63, R66, R71, R73) -/

/-- The eight words that TBL_CREATE and TBL_ALTER carry: attribute offset and value. -/
def cmdAttrs (c : Cmd) : List (Nat × Word) :=
  [(0x0, 16), (0x8, 20), (0x10, 24), (0x14, 28), (0x18, 32), (0x1C, 36), (0x20, 40), (0x24, 44)].map
    (fun p => (p.1, word (c.le p.2 4)))

/-- The kind named by TYPE. -/
def kindOf (st : Word) : Option Kind :=
  if fld st 1 0 = 1 then some .ternary else if fld st 1 0 = 2 then some .tree
  else if fld st 1 0 = 3 then some .direct else none

/-- Bits of an attribute word that are reserved for a kind (R71). -/
def attrReserved (k : Kind) (o : Nat) : Nat :=
  if o = 0x0 then (if k == .ternary then 0xF8CC else 0x07FFFFFC)
  else if o = 0x8 then 0xFFFFE000
  else if o = 0x14 then 0xFFFF8C00
  else if o = 0x18 then 0xFFFFFFE0
  else if o = 0x1C then 0xFFFFF800
  else if o = 0x20 then
    (match k with
     | .ternary => 0xE000E000
     | .tree => 0xFF800000
     | .direct => 0xFFF00000)
  else if o = 0x24 then
    (match k with
     | .direct => 0xFFE00000
     | _ => 0xFFFFFFFF)
  else 0

/-- Least BLK_MIN of a TA_STRUCT word (R62). -/
def blkNeed (st : Word) : Nat :=
  if structAO st then structGroups st - 1 + structRepl st else structGroups st

/-- Is n a power of two from 1,024 to 1,048,576 (R66)? -/
def dirSizeOk (n : Nat) : Bool := (List.range 11).any (fun k => n == 1024 * 2 ^ k)

/-- The resource words of a kind are in range, taken alone (R62, R63, R66, R71). -/
def resOk (k : Kind) (st r0 r1 : Word) : Bool := match k with
  | .ternary =>
    decide (1 ≤ fld r0 12 0) && decide (fld r0 12 0 ≤ 4096) && decide (1 ≤ fld r0 28 16) && decide (fld r0 28 16 ≤ 4096) &&
      decide (blkNeed st ≤ fld r0 12 0) && decide (fld r0 12 0 ≤ fld r0 28 16) &&
      (!structAO st || decide (structRepl st ≤ 8 * (structDies st).length))
  | .tree => decide (1 ≤ fld r0 22 0) && decide (fld r0 22 0 ≤ 4194304)
  | .direct => dirSizeOk (fld r1 20 0) && fld r0 19 0 % fld r1 20 0 == 0

/-- Conditions of R312 on a cascaded table. -/
def cascOk (s : State) (k : Kind) (st : Word) : Bool :=
  !bit st 20 || (k == .ternary && cscLen s != 1 && cscEn s && decide (2 ≤ (structDies st).length))

/-- The range of a DIRECT table overlaps that of another (R66). -/
def dirOverlap (s : State) (t base size : Nat) : Bool :=
  s.tables.any (fun p => p.1 != t && p.2.kind == .direct &&
    decide (base < taDirBase s p.1 + taDirSize s p.1) && decide (taDirBase s p.1 < base + size))

/-- Sum of RULE_MAX over the other tree tables (R73). -/
def ruleSum (s : State) (t : Nat) : Nat :=
  sumNat ((s.tables.filter (fun p => p.1 != t && p.2.kind == .tree)).map (fun p => taRuleMax s p.1))

/-! ### Creation -/

/-- A table just created in epoch `n` (R170, R470). -/
def Table.fresh (k : Kind) (n : Nat) : Table :=
  { kind := k, st := .live
    slots := (if k = .direct then Slot.empty else { Slot.empty with st := .live, epoch := n }) :: List.replicate 3 Slot.empty
    rows := [], covers := [], blocks := [], floor := n, glazed := 0, removed := none, destroyAt := none
    retPkt := 0, retByte := 0, retLate := 0, stats := [], learn := none, age := none, sweep := none
    restored := false, promoteAt := 0, restoreFail := false, aged := [], latOld := [] }

/-- Create table `t` with the eight structure words `raw`, or the status that refuses it (R45, R47, R62,
R66: a DIRECT table's range reads zero, R70, R73, R312, R470). -/
def createTable (s : State) (t : Nat) (raw : List (Nat × Word)) : Except Nat State :=
  let st := (raw.getD 0 (0, 0)).2
  let lat := (raw.getD 1 (0, 0)).2
  let r0 := (raw.getD 6 (0, 0)).2
  let r1 := (raw.getD 7 (0, 0)).2
  match kindOf st with
  | none => .error stInvalid
  | some k =>
    let lmin := latMin k st (cscLen s)
    let ws := raw.map (fun p => (p.1, if p.1 = 0x8 ∧ lat = 0 then word lmin else attrApplied p.1 p.2))
    if t == 255 || fld st 31 27 == 0 || raw.any (fun p => p.2 &&& word (attrReserved k p.1) != 0) || !resOk k st r0 r1 ||
        ws.any (fun p => !attrOk k st (cscLen s) p.1 p.2) || !cascOk s k st then .error stInvalid
    else match s.table t with
      | some x => .error (if x.st = .destroying then stBusyGlaze else stDuplicate)
      | none =>
        if k == .direct && dirOverlap s t (fld r0 19 0) (fld r1 20 0) then .error stInvalid
        else if k == .tree && decide (4194304 < ruleSum s t + fld r0 22 0) then .error stTableFull
        else
          let lo := fld r0 19 0
          let made := { (ws.foldl (fun s p => s.setBoth (taAddr t p.1) p.2) s).setTable t (Table.fresh k s.epoch.count) with
            direct := if k = .direct then s.direct.filter (fun p => decide (p.1 < lo) || decide (lo + fld r1 20 0 ≤ p.1)) else s.direct }
          match (if k = .ternary then reserve made t st (fld r0 12 0) else some made) with
          | none => .error stTableFull
          | some s => .ok s

/-- TBL_CREATE (R470). -/
def cmdTblCreate (s : State) (c : Cmd) : State :=
  let t := c.table
  if !c.compl 16 48 32 then finish s c.id stBadComplement
  else if c.auto || c.addr || !c.zeroFrom 80 then finish s c.id stInvalid
  else if lockWait s c then s
  else match createTable s t (cmdAttrs c) with
    | .error st => finish s c.id st
    | .ok s2 =>
      if vaultFails s c.op then finish s2 c.id stVaultFault 0xFFFFFFFF (s.epoch.count + 1)
      else needJournal s c (finish (stageCmd s2 c 0x01 (tableBody s2 t)) c.id stOk 0xFFFFFFFF (s.epoch.count + 1))

/-! ### Removal -/

/-- A TBL_ALTER whose relocation was discarded is withdrawn: the blocks it took return (R65). -/
def withdrawAlter (s : State) (t : Nat) : State :=
  let mine := fun (k : CopyChange) => k.table == t && k.glaze.isSome
  let s1 : State := { s with dies := { s.dies with changes := s.dies.changes.filter (fun (k : CopyChange) => !mine k) } }
  (s.dies.changes.filter mine).foldl (fun s k => k.join.foldl (fun s h => freeBlock s h.die h.block) s) s1

/-- The commands that hold the lock of table `t` while they wait for journal space, with changes that lie in the
generations just discarded, complete: ABORTED where the glaze is their own, else OK, as those that had completed
before (R186; DEDUCED, assumption 77). -/
def endHolders (s : State) (t : Nat) : State :=
  s.cmds.foldl (fun s c =>
    if c.table == t && c.got == 1 && (c.st == .waiting .journal || c.st == .running) && decide (0x20 ≤ c.op) && decide (c.op ≤ 0x40) then
      finish s c.id (if c.auto || c.op == 0x40 then stAborted else stOk) c.handle
    else s) s

/-- Discard the unglazed generations of a table (R186): the slots discarded, and the state. -/
def abortTable (s : State) (t : Nat) : List Nat × State := match s.table t with
  | none => ([], s)
  | some x =>
    let ks := slotsIn x (fun q => q == .opened || q == .sealed)
    if ks.isEmpty then ([], s) else (ks, endHolders (withdrawAlter (discardSlots s t ks) t) t)

/-- A TBL_DESTROY begins: the unglazed generations are discarded, and the table is DESTROYING (R471). -/
def destroyBegin (s : State) (c : Cmd) : State :=
  let s := (abortTable s c.table).2
  s.modTable c.table (fun x => { x with st := .destroying, restored := false })

/-- A TBL_DESTROY has the table lock, and the removal is sealed for its epoch (R471). -/
def destroySeal (s : State) (c : Cmd) : State :=
  let t := c.table
  let (n, s) := draw s
  let no := s.seals + 1
  let y := { Slot.empty with st := .sealed, epoch := c.le 16 6, sealEnd := s.now + Config.openNat n % 15001
                             sealNo := no, by_ := .destroy }
  let s := { s.modTable t (fun x => { x with destroyAt := some y, learn := none, age := none }) with seals := no }
  let s := stageCmd s c 0x02 (tableBody s t)
  cmdWait s c.id (.glaze t no)

/-- TBL_DESTROY (R47, R471). It begins when it starts, and goes on once it has the table lock and journal space. -/
def cmdTblDestroy (s : State) (c : Cmd) : State :=
  let t := c.table
  let f := epochForm c
  if f ≠ stOk then finish s c.id f
  else match s.table t with
    | none => finish s c.id stNotFound
    | some x =>
      if c.got = 0 ∧ x.st = .destroying then finish s c.id stNotFound
      else if vaultFails s c.op then
        finish (if c.got = 0 then s else s.modTable t (fun x => { x with st := .live })) c.id stVaultFault
      else
        let s := if c.got = 0 then destroyBegin s c else s
        if lockWait s c then holdCmd s c 2
        else needJournal s c (destroySeal s c)

/-! ### TBL_ALTER (R65) -/

/-- Add a copy-map change to be applied at a later step (R65, R97). New copies are written and verified after
a time that no rule bounds, a free value. -/
def addChange (s : State) (k : CopyChange) : Nat × State :=
  let id := s.dies.nextChange
  let (n, s) := draw s
  let who := match k.cmd with
    | some c => sequencerOf c
    | none => { unit := 5, idx := k.die }
  let s := k.add.foldl (fun s n => askCopy s k.die k.block n who) s
  let s := (k.join.filter (fun h => h.group == 0 && h.replica != 0 && h.replica < 32)).foldl (fun s h =>
    askRows s h.die h.block (taW s k.table) (k.reps.filter (fun q => q.2.1 == h.replica) |>.map (fun q => q.1)) who) s
  let k := { k with id := id, ready := if k.add.isEmpty && k.join.isEmpty then s.now else s.now + Config.openNat n }
  (id, { s with dies := { s.dies with changes := s.dies.changes ++ [k], nextChange := id + 1 } })

/-- Take blocks until the table holds what `st` and BLK_MIN ask for (R62, R65). -/
def alterReserve (s : State) (t : Nat) (st : Word) (minB maxB : Nat) : Nat → Option (List BlkHold × State)
  | 0 => some ([], s)
  | k + 1 => match s.table t with
    | none => none
    | some x =>
      let here := staying x
      let (g, r, isR) := nextGroup here st
      let short := ((List.range (structGroups st)).drop (b2n (structAO st))).any (fun j => !here.any (fun h => h.group == j))
      if !isR && !short && decide (minB ≤ here.length) then some ([], s)
      else match growGroup s t g r (structDies st) maxB isR with
        | none => none
        | some (h, s) => match alterReserve s t st minB maxB k with
          | none => none
          | some (l, s) => some (h :: l, s)

/-- Does a block keep its group and replica when TA_STRUCT goes from `was` to `st` (R65)? Of the blocks of a group 0
that becomes always-on, the first becomes replica 0. -/
def keepsGroup (was st : Word) (blocks : List BlkHold) (h : BlkHold) : Bool :=
  if structAO st && h.group == 0 then
    (if structAO was then decide (h.replica < structRepl st) else blocks.find? (fun k => k.group == 0) == some h)
  else decide (h.group < structGroups st) && h.replica == 0

/-- The group and the replica that R62 gives a block which its group no longer needs: a block that may not become the
next replica goes where the block after the replicas would. -/
def reassign (blocks : List BlkHold) (st : Word) (h : BlkHold) : Nat × Nat :=
  let (g, r, isR) := nextGroup blocks st
  if isR && !replicaOk blocks h.die h.block then
    ((leastGroup blocks 1 (structGroups st)).map (fun g => (g, 0))).getD (0, 32)
  else (g, r)

/-- The blocks of an altered table in the groups that `st` has: those that keep their place, and at most up to `minB`
of the others, in the places that R62 lays down (R65). -/
def regroup (blocks : List BlkHold) (was st : Word) (minB : Nat) : List BlkHold :=
  let stays := keepsGroup was st blocks
  (blocks.filter (fun h => !stays h)).foldl (fun (p : List BlkHold) h =>
    if minB ≤ p.length then p
    else
      let (g, r) := reassign p st h
      p ++ [{ h with group := g, replica := r }]) (blocks.filter stays)

/-- Move every row and cover of a block that leaves with its die into a new block of the group, in the
open generation (R65). -/
def moveBlock (s : State) (t o : Nat) (h n : BlkHold) : Option State := match s.table t with
  | none => none
  | some x =>
    let rows := (blockRows x h.die h.block).filter (fun r => visIn r.vis o)
    match relocateAll s t o n.die n.block rows with
    | .error _ => none
    | .ok s =>
      let s := s.bump 0x8800C rows.length
      ((x.covers.filter (fun c => c.die == h.die && c.block == h.block && visIn c.vis o)).foldl
        (fun (q : Option State) c => match q with
          | none => none
          | some s => match s.table t with
            | none => none
            | some x => match addCover s (hideCover x o c) o n.die n.block c.group c.value c.mask with
              | none => none
              | some x => some (s.setTable t x)) (some s))

/-- Move each block of `l` to a new block on the dies of `st` (R65): the blocks taken, and the state. -/
def moveBlocks (s : State) (t o : Nat) (st : Word) (maxB : Nat) : List BlkHold → Option (List BlkHold × State)
  | [] => some ([], s)
  | h :: l => match growGroup s t h.group h.replica (structDies st) maxB (structAO st && h.group == 0) with
    | none => none
    | some (n, s) => match moveBlock s t o h n with
      | none => none
      | some s => match moveBlocks s t o st maxB l with
        | none => none
        | some (r, s) => some (n :: r, s)

/-- Positions for the copies of the data of the rows `l` on the dies of new replicas (R64, R65): entry position,
replica, position. -/
def alterReps (s : State) (w : Nat) (new : List BlkHold) : List Row → List Nat → Option (List (Nat × Nat × Nat)) × State
  | [], _ => (some [], s)
  | r :: l, avoid => match allocReps s w new avoid with
    | (none, s) => (none, s)
    | (some q, s) => match alterReps s w new l (q.map (fun p => p.2) ++ avoid) with
      | (none, s) => (none, s)
      | (some m, s) => (some (q.map (fun p => (r.pos, p.1, p.2)) ++ m), s)

/-- What a TBL_ALTER of a TERNARY table prepares before it changes anything (R65): the block set to be, the blocks
taken, the positions of new replicas, and the open generation that holds the relocated rows, if there are any. In `s`
the blocks are taken and the rows written, and the table's block set is still the old one. -/
structure AlterPlan where
  blocks : List BlkHold
  join : List BlkHold
  reps : List (Nat × Nat × Nat)
  slot : Option Nat
  s : State
  deriving DecidableEq, Repr

/-- The plan of a TBL_ALTER of table `t`, which is `x`, or the status and the placement failure that refuse it (R62,
R63, R65): blocks on AFFINITY dies alone count. -/
def alterPlan (s : State) (t : Nat) (x : Table) (st : Word) (minB maxB : Nat) : Except (Nat × Nat) AlterPlan :=
  let here := staying x
  let onDie := fun (h : BlkHold) => (structDies st).contains h.die
  let kept := regroup (here.filter onDie) (ta s t 0) st minB
  let off := here.filter (fun h => !onDie h)
  let away := x.blocks.filter (fun h => h.leaving) ++ (off.filter (fun h => !emptyBlock x h)).map (fun h => { h with leaving := true })
  let move := off.filter (fun h => (blockRows x h.die h.block).any (fun r => visIn r.vis (headSlot x)))
  let s0 := s.setTable t { x with blocks := kept ++ away }
  match (if move.isEmpty then some (0, s0) else openGen s0 t) with
  | none => .error (stBusyGlaze, 0)
  | some (o, s1) => match moveBlocks s1 t o st maxB move with
    | none => .error (stTableFull, 0)
    | some (new, s2) => match alterReserve s2 t st minB maxB 4097 with
      | none => .error (stTableFull, 0)
      | some (more, s3) => match s3.table t with
        | none => .error (stNotFound, 0)
        | some y =>
          let l := if structAO st then replicas y else []
          let home := match l with
            | [] => []
            | h :: _ => blockRows y h.die h.block
          match alterReps s3 (taW s t) (l.filter (fun h => h.replica != 0 && !here.contains h)) home [] with
          | (none, _) => .error (stTableFull, pfPark)
          | (some q, s4) => .ok { blocks := y.blocks, join := new ++ more, reps := q, slot := if move.isEmpty then none else some o
                                  s := s4.modTable t (fun y => { y with blocks := x.blocks }) }

/-- The new TA_STRUCT and TA_RES0 of an altered table (R470). -/
def alterWords (s : State) (t : Nat) (k : Kind) (st r0 : Word) : List (Nat × Word) :=
  let m := if k = .ternary then 0xFFEF0700#32 else 0xF8000000#32
  let new := (ta s t 0 &&& ~~~ m) ||| (st &&& m)
  (0x0, new) :: (if k = .direct then [] else [(0x20, r0)])

/-- The change of a TBL_ALTER of table `x` that command `id` waits for, by its plan. -/
def alterChange (x : Table) (t id : Nat) (attrs : List (Nat × Word)) (p : AlterPlan) (glaze : Option Nat) : CopyChange :=
  { id := 0, table := t, cmd := some id, die := 0, block := 0, add := [], drop := []
    leave := x.blocks.filter (fun h => !p.blocks.any (fun k => k.die == h.die && k.block == h.block))
    join := p.join, blocks := some p.blocks, attrs := attrs, reps := p.reps, glaze := glaze }

/-- Carry out a TBL_ALTER of a TERNARY table by its plan (R65): at once when the block set stays, else with the glaze of
its relocation, or with a copy-map change. -/
def alterRun (s : State) (c : Cmd) (x : Table) (attrs : List (Nat × Word)) (p : AlterPlan) : State :=
  let t := c.table
  if p.slot.isNone && p.blocks == x.blocks then
    finish (stageCmd (putAttrs p.s t attrs) c 0x03 (tableBody (putAttrs p.s t attrs) t)) c.id stOk 0xFFFFFFFF (s.epoch.count + 1)
  else match p.slot with
    | some o =>
      let (n, s) := sealSlot (markChange p.s t o true) t o (max s.epoch.count (sealedMax x)) .auto
      let (_, s) := addChange s (alterChange x t c.id attrs p (some n))
      cmdWait (stageCmd s c 0x03 (tableBody s t)) c.id (.glaze t n)
    | none =>
      let (id, s) := addChange p.s (alterChange x t c.id attrs p none)
      cmdWait (stageCmd s c 0x03 (tableBody s t)) c.id (.copyMap id)

/-- Complete a checked TBL_ALTER of a TERNARY table (R65). -/
def alterTernary (s : State) (c : Cmd) (st r0 : Word) : State := match s.table c.table with
  | none => finish s c.id stNotFound
  | some x => match alterPlan s c.table x st (fld r0 12 0) (fld r0 28 16) with
    | .error (f, e) => finish (placeEvents s e) c.id f
    | .ok p => needJournal (if p.slot.isSome then ((openGen s c.table).map (fun q => q.2)).getD s else s) c
        (alterRun s c x (alterWords s c.table .ternary st r0) p)

/-- Is the table one that command `c` may change: LIVE, or one whose lock the command took before (R178, R471)? -/
def liveFor (s : State) (c : Cmd) : Bool := tableLive s c.table || (c.got == 1 && (s.table c.table).isSome)

/-- TBL_ALTER (R45, R47, R65, R73, R312, R368, R470). A table holds no entries in the sense of R65 when no row of it is
left: a deleted entry that has not settled counts as one (DESIGN CHOICE; assumption 78). -/
def cmdTblAlter (s : State) (c : Cmd) : State :=
  let t := c.table
  let ws := cmdAttrs c
  let st := (ws.getD 0 (0, 0)).2
  let r0 := (ws.getD 6 (0, 0)).2
  let r1 := (ws.getD 7 (0, 0)).2
  if !(c.compl 16 48 4 && c.compl 40 72 8) then finish s c.id stBadComplement
  else match kindOf st with
    | none => finish s c.id stInvalid
    | some k =>
      if c.auto || c.addr || !c.zeroFrom 80 || t == 255 || fld st 31 27 == 0 || !resOk k st r0 r1 ||
          ([(0x0, st), (0x20, r0), (0x24, r1)] : List (Nat × Word)).any (fun p => p.2 &&& word (attrReserved k p.1) != 0) then
        finish s c.id stInvalid
      else if !liveFor s c then finish s c.id stNotFound
      else if lockWait s c then s
      else
        let cur := ta s t 0
        let empty := match s.table t with
          | none => true
          | some x => x.rows.isEmpty
        if tableKind s t != some k || fld st 5 4 != fld cur 5 4 || bit st 20 != bit cur 20 ||
            (bit st 20 && decide ((structDies st).length < 2)) ||
            (k == .ternary && !empty && (fld st 10 8 != fld cur 10 8 || bit st 21 != bit cur 21)) ||
            (k == .direct && (r0 != ta s t 0x20 || r1 != ta s t 0x24)) ||
            decide (fld (ta s t 0x8) 12 0 < latMin k st (cscLen s)) then finish s c.id stInvalid
        else if k == .tree && decide (4194304 < ruleSum s t + fld r0 22 0) then finish s c.id stTableFull
        else if vaultFails s c.op then finish s c.id stVaultFault
        else if k == .ternary then alterTernary s c st r0
        else needJournal s c (
          let s := putAttrs s t (alterWords s t k st r0)
          let s := stageCmd s c 0x03 (tableBody s t)
          finish s c.id stOk 0xFFFFFFFF (s.epoch.count + 1))

/-! ### Mirrors (R97) -/

/-- TBL_MIRROR (R97, R472). Of the mirrors beyond M the rule names none to be removed: the model keeps those in the
lowest-numbered spares (DESIGN CHOICE; assumption 79). -/
def cmdTblMirror (s : State) (c : Cmd) : State :=
  let t := c.table
  let d := nfld (c.le 16 4) 11 10
  let b := nfld (c.le 16 4) 9 0
  let m := c.le 20 4
  if !c.compl 16 24 8 then finish s c.id stBadComplement
  else if c.auto || c.addr || !c.zeroFrom 32 || c.le 16 4 / 4096 != 0 || decide (4 < m) then finish s c.id stInvalid
  else if !liveFor s c then finish s c.id stNotFound
  else if lockWait s c then s
  else match s.table t with
    | none => finish s c.id stNotFound
    | some x => match x.blocks.find? (fun h => h.die == d && h.block == b) with
      | none => finish s c.id stInvalid
      | some h =>
        if structAO (ta s t 0) && h.group == 0 then finish s c.id stInvalid
        else
          let old := mirrors s d b false
          if (freeSpares s d).length + old.length < m then finish s c.id stTableFull
          else if vaultFails s c.op then finish s c.id stVaultFault
          else needJournal s c (
            let s : State := { s with dies := { s.dies with waiting := s.dies.waiting.filter (fun w => w != (d, 2048 + b)) } }
            let s := old.foldl (fun s k => s.setSpare d k { s.spare d k with auto := false }) s
            let (_, s) := addMirrors s d b false false (m - old.length)
            let new := (mirrors s d b false).filter (fun k => !old.contains k)
            let (id, s) := addChange s { id := 0, table := t, cmd := some c.id, die := d, block := b, add := new, drop := old.drop m }
            let s := stageCmd s c 0x04 (tableBody s t)
            cmdWait s c.id (.copyMap id))

/-- Spare `n` of die `d` was released by change `id`: the rebuild that waits for it claims it (R12 item 3). -/
def giveSpare (s : State) (id d n : Nat) : State :=
  match s.dies.builds.find? (fun (b : Build) => b.die == d && b.spare == n && b.hold == some id) with
  | none => s
  | some b =>
    let s := { s with dies := { s.dies with builds := s.dies.builds.map (fun (q : Build) => if q = b then { q with hold := none } else q) } }
    askCopy (s.setSpare d n { Spare.free with use := 2, primary := b.block }) d b.block n { unit := 5, idx := d }

/-- A copy-map change takes effect (R65, R97). -/
def copyMapAt (s : State) (id : Nat) : State := match s.dies.changes.find? (fun k => k.id == id && k.glaze.isNone) with
  | none => s
  | some k =>
    let s := { s with dies := { s.dies with changes := s.dies.changes.filter (fun (j : CopyChange) => j.id != id) } }
    let s := k.add.foldl (fun s n => s.setSpare k.die n { s.spare k.die n with built := true }) s
    let s := k.drop.foldl (fun s n => giveSpare
      (if (s.spare k.die n).use = 1 ∧ (s.spare k.die n).primary = k.block then releaseSpare s k.die n else s) id k.die n) s
    let s := alterAt s k
    match k.cmd with
    | none => heldAction s 4 k.table
    | some i => heldAction (finishAs s i stOk 0xFFFFFFFF s.epoch.count s.epoch.held) 3 k.table

/-! ### The glaze class -/

/-- GLAZE_SCHEDULE (R37, R182, R188). -/
def cmdGlazeSchedule (s : State) (c : Cmd) : State :=
  let t := c.table
  let e := c.le 16 6
  let f := epochForm c
  if f ≠ stOk then finish s c.id f
  else if !liveFor s c then finish s c.id stNotFound
  else if tableKind s t == some .direct then finish s c.id stInvalid
  else if lockWait s c then s
  else if s.epoch.qual = .lost ∧ c.got ≠ 1 then finish s c.id stExpired
  else match s.table t with
    | none => finish s c.id stNotFound
    | some x => match openSlot x with
      | none => finishAs s c.id stOk 0xFFFFFFFF x.glazed x.glazedHeld
      | some k =>
        if e < sealedMax x then finish s c.id stInvalid
        else if vaultFails s c.op then finish s c.id stVaultFault
        else needJournal s c (
          let (n, s) := sealSlot s t k e .command
          let s := stageCmd s c 0x20 (tableBody s t)
          cmdWait s c.id (.glaze t n))

/-- GLAZE_ABORT (R186). -/
def cmdGlazeAbort (s : State) (c : Cmd) : State :=
  let t := c.table
  if c.auto || c.addr || !c.zeroFrom 16 then finish s c.id stInvalid
  else if !tableLive s t then finish s c.id stNotFound
  else if tableKind s t == some .direct then finish s c.id stInvalid
  else
    let (ks, s1) := abortTable s t
    if ks.isEmpty then finish s c.id stNotFound
    else if vaultFails s c.op then finish s c.id stVaultFault
    else needJournal s c (finish (stageCmd s1 c 0x22 (tableBody s1 t)) c.id stOk)

/-- FENCE: every command accepted before it has completed (R187). -/
def fenceOpen (s : State) (c : Cmd) : Bool := !s.cmds.any (fun d => decide (d.id < c.id))

/-- FENCE (R187). -/
def cmdFence (s : State) (c : Cmd) : State :=
  if c.auto || c.addr || !c.zeroFrom 16 || c.table != 255 then finish s c.id stInvalid
  else if fenceOpen s c then finish s c.id stOk
  else cmdWait s c.id .fence

/-- Fences whose earlier commands have all completed complete in turn (R187). -/
def wakeFences (s : State) : State :=
  s.cmds.foldl (fun s c => if c.st == .waiting .fence && fenceOpen s c then finish s c.id stOk else s) s

/-! ### TBL_STATS -/

/-- TBL_STATS (R475). -/
def cmdTblStats (s : State) (c : Cmd) (io : HostIO) : State :=
  if !c.compl 24 28 4 then finish s c.id stBadComplement
  else if c.auto || c.addr || !c.zeroFrom 32 || c.host 16 % 32 != 0 || decide (c.le 24 4 < 128) then finish s c.id stInvalid
  else match s.table c.table with
    | none => finish s c.id stNotFound
    | some x => match busWrite s c io (c.host 16) (statsRecord s c.table x) with
      | (true, s) => finish s c.id stOk
      | (false, s) => dmaFail s c

end Sys2Proof.Machine
end

