-- ==== Sys2Proof/Machine/Tree.lean ====
section
/-! DEFINITION. Tree tables: the words of the store (R157, R158), the walk (R159), and the loading and
validation of an image (R164, R165). -/

namespace Sys2Proof.Machine

/-! ### Words (R157) -/

def twKind (w : BitVec 128) : Nat := fld w 95 94
def cutOff (w : BitVec 128) : Nat := fld w 93 85
/-- Width of the cut field, minus 1. -/
def cutWidth (w : BitVec 128) : Nat := fld w 84 82
def cutBase (w : BitVec 128) : Nat := fld w 81 60
def leafN (w : BitVec 128) : Nat := fld w 93 89
def leafByte (w : BitVec 128) : Nat := fld w 88 83
def leafBase (w : BitVec 128) : Nat := fld w 82 61
def rulePrio (w : BitVec 128) : Nat := fld w 93 70
def ruleNum (w : BitVec 128) : Nat := fld w 69 48
def ruleAct (w : BitVec 128) : Word := word (fld w 47 16)
def ruleCmask (w : BitVec 128) : Nat := fld w 15 8
def ruleCval (w : BitVec 128) : Nat := fld w 7 0

/-- Word `i` of an image. -/
def imgWord (ws : List (BitVec 128)) (i : Nat) : BitVec 128 := ws.getD i 0

/-! ### Validation (R165) -/

/-- The fields of a CUT word, and the kinds of its children. -/
def cutOk (ws : List (BitVec 128)) (w : BitVec 128) : Bool :=
  decide (cutOff w + cutWidth w + 1 ≤ 320) && decide (cutBase w + 2 ^ (cutWidth w + 1) ≤ ws.length) &&
    fld w 59 0 == 0 && fld w 127 96 == 0 &&
    (List.range (2 ^ (cutWidth w + 1))).all (fun v => [1, 2].contains (twKind (imgWord ws (cutBase w + v))))

/-- The fields of a LEAF word, and the kinds of the words it lists. -/
def leafOk (ws : List (BitVec 128)) (w : BitVec 128) : Bool :=
  decide (leafN w ≤ 16) && decide (leafByte w ≤ 39) && (leafN w == 0 || decide (leafBase w + leafN w ≤ ws.length)) &&
    fld w 60 0 == 0 && fld w 127 96 == 0 &&
    (List.range (leafN w)).all (fun k => twKind (imgWord ws (leafBase w + k)) == 3)

/-- Rules met so far: number, priority, action. -/
abbrev Seen := List (Nat × Nat × Word)

/-- The RULE words of a leaf, in ascending index. -/
def visitRules (ws : List (BitVec 128)) (ruleMax : Nat) : List Nat → Seen → Except Nat Seen
  | [], seen => .ok seen
  | i :: l, seen =>
    let w := imgWord ws i
    if ruleMax ≤ ruleNum w ∨ 5 < fld (ruleAct w) 31 28 ∨ fld w 127 96 ≠ 0 then .error i
    else match seen.find? (fun r => r.1 == ruleNum w) with
      | some r => if r.2 = (rulePrio w, ruleAct w) then visitRules ws ruleMax l seen else .error i
      | none => visitRules ws ruleMax l (seen ++ [(ruleNum w, rulePrio w, ruleAct w)])

/-- Visit children in order. -/
def visitAll (f : Nat → Seen → Except Nat Seen) : List Nat → Seen → Except Nat Seen
  | [], seen => .ok seen
  | i :: l, seen => match f i seen with
    | .error e => .error e
    | .ok seen => visitAll f l seen

/-- The depth-first walk of R165 from word `i`, below the CUT words of `path`: the rules met, or the
index of the first word that fails a check. At most 17 CUT words can be entered. -/
def visit (ws : List (BitVec 128)) (ruleMax : Nat) : Nat → List Nat → Nat → Seen → Except Nat Seen
  | 0, _, i, _ => .error i
  | f + 1, path, i, seen =>
    let w := imgWord ws i
    if twKind w = 1 then
      if path.contains i || decide (16 ≤ path.length) || !cutOk ws w then .error i
      else visitAll (visit ws ruleMax f (i :: path)) ((List.range (2 ^ (cutWidth w + 1))).map (fun v => cutBase w + v)) seen
    else if twKind w = 2 then
      if !leafOk ws w then .error i
      else visitRules ws ruleMax ((List.range (leafN w)).map (fun k => leafBase w + k)) seen
    else .error i

/-- The words of an image in host memory (R164). -/
def imgWords (l : List Byte) (n : Nat) : List (BitVec 128) :=
  (List.range n).map (fun i => BitVec.ofNat 128 (leAt l (32 + 16 * i) 16))

/-- The image header agrees with its complements. -/
def imgCompl (l : List Byte) : Bool :=
  isCompl (slice l 0 4) (slice l 4 4) && isCompl (slice l 8 8) (slice l 16 8)

/-- The image header passes item 2 of R165; `len` is the length in the descriptor. -/
def imgHeader (l : List Byte) (len : Nat) : Bool :=
  let n := leAt l 8 4
  leAt l 0 4 == 1 && decide (1 ≤ n) && decide (n ≤ 4194304) && decide (leAt l 12 4 < n) && allZero (slice l 24 8) && len == 32 + 16 * n

/-! ### The walk (R159) -/

/-- The best rule of a leaf's list for a key: priority, number, action. -/
def bestRule (ws : List (BitVec 96)) (keyByte : Nat) : List Nat → Option (Nat × Nat × Word)
  | [] => none
  | i :: l =>
    let w := (ws.getD i 0).setWidth 128
    let r := bestRule ws keyByte l
    if keyByte &&& ruleCmask w = ruleCval w &&& ruleCmask w then
      match r with
      | none => some (rulePrio w, ruleNum w, ruleAct w)
      | some (p, n, a) => if beats p n (rulePrio w) (ruleNum w) then some (p, n, a) else some (rulePrio w, ruleNum w, ruleAct w)
    else r

/-- The walk from word `i`, through at most `fuel` CUT words. -/
def walkTree (ws : List (BitVec 96)) (key : Key) : Nat → Nat → Option (Nat × Nat × Word)
  | 0, _ => none
  | f + 1, i =>
    let w := (ws.getD i 0).setWidth 128
    if twKind w = 1 then walkTree ws key f (cutBase w + fld key (cutOff w + cutWidth w) (cutOff w))
    else if twKind w = 2 then
      bestRule ws (fld key (8 * leafByte w + 7) (8 * leafByte w)) ((List.range (leafN w)).map (fun k => leafBase w + k))
    else none

/-- The result of a tree lookup in a slot: priority, handle, action, or a miss (R159). -/
def treeLookup (y : Slot) (key : Key) : Option (Nat × Nat × Word) := match y.tree with
  | none => none
  | some i => walkTree i.words key 17 i.root

/-! ### Entry commands on an open generation -/

/-- The end of an entry command whose change is in slot `o`: with AUTO the generation is sealed and the
command waits for its glaze (R178, R181, R184). -/
def endEntry (s : State) (c : Cmd) (o handle : Nat) : State :=
  let t := c.table
  if !c.auto then finish s c.id stOk handle
  else if s.epoch.qual = .lost then finish s c.id stExpired handle
  else match s.table t with
    | none => finish s c.id stOk handle
    | some x =>
      let (n, s) := sealSlot s t o (max s.epoch.count (sealedMax x)) .auto
      let s := stageCmd s c 0x20 (tableBody s t)
      let s := s.modCmds (fun d => d.id == c.id) (fun d => { d with handle := handle })
      cmdWait s c.id (.glaze t n)

/-- Load the tree image `l` into TREE table `t` (R165, items 1 to 6). -/
def loadImage (s : State) (c : Cmd) (l : List Byte) (len : Nat) : State := match s.table c.table with
  | none => finish s c.id stNotFound
  | some x =>
    let t := c.table
    let n := leAt l 8 4
    if !imgCompl l then finish s c.id stBadComplement
    else if !imgHeader l len then finish (s.raise evTreImageInvalid 0x3FFFFF) c.id stInvalid
    else if noSlot x then finish s c.id stBusyGlaze
    else if treeFree s < n then finish (s.raise evTblFull) c.id stTableFull
    else
      let ws := imgWords l n
      match visit ws (taRuleMax s t) 18 [] (leAt l 12 4) [] with
      | .error i => finish (s.raise evTreImageInvalid i) c.id stInvalid
      | .ok seen => match openGen s t with
        | none => finish s c.id stBusyGlaze
        | some (o, s1) =>
          if vaultFails s c.op then failHeld s c 0xFFFFFFFF
          else needJournal s1 c (
            let img : TreeImg := { root := leAt l 12 4, words := ws.map (fun w => w.setWidth 96), rules := seen.length, stuck := [] }
            let s := markChange (s1.modTable t (fun x => x.modSlot o (fun y => { y with tree := some img }))) t o true
            let s := stageCmd s c 0x18 (tableBody s t)
            endEntry s c o 0xFFFFFFFF)

end Sys2Proof.Machine
end

