-- ==== Sys2Proof/Machine/Entries.lean ====
section
/-! DEFINITION. The entry commands (R174 to R181): ENT_INSERT, ENT_DELETE, ENT_MODIFY, ENT_REPRIO and
ENT_BATCH. -/

namespace Sys2Proof.Machine

/-- Journal type of a change (R381). -/
def changeType : Change → Nat
  | .ins _ => 0x10
  | .del _ => 0x11
  | .mod _ => 0x12
  | .rep _ _ => 0x13
  | .word _ _ => 0x14

/-- Handle of a change (R179). -/
def changeHandle : Change → Nat
  | .ins e => e.handle
  | .del h => h
  | .mod e => e.handle
  | .rep h _ => h
  | .word i _ => i

/-- Write one word of a DIRECT table at once, through command port A (R179, R383). -/
def runDirect (s : State) (c : Cmd) (g : Change) : State :=
  if vaultFails s c.op then finish s c.id stVaultFault (changeHandle g)
  else match applyChange s c.table 0 g with
    | .error (st, _) => finish s c.id st
    | .ok s1 => needJournal s c (
        let i := taDirBase s c.table + changeHandle g
        let s := stageCmd (s1.bump 0x8800C) c 0x14 (.words [(i, mapGetD s1.direct i 0)])
        finish s c.id stOk (changeHandle g) (s.epoch.count + 1))

/-- A checked entry command changes its table: the checks against the table, the generation slot, the
placement, the journal, and the glaze of AUTO (R178). -/
def runChange (s : State) (c : Cmd) (g : Change) : State :=
  let t := c.table
  if !liveFor s c then finish s c.id stNotFound (changeHandle g)
  else if lockWait s c then s
  else match s.table t with
    | none => finish s c.id stNotFound (changeHandle g)
    | some x =>
      let isWord := match g with
        | .word _ _ => true
        | _ => false
      if x.kind == .tree || (x.kind == .direct) != isWord || (x.kind == .direct && c.auto) then finish s c.id stInvalid (changeHandle g)
      else
        let st := changeCheck s t g
        if st ≠ stOk then finish s c.id st (changeHandle g)
        else if isWord then runDirect s c g
        else if noSlot x then finish s c.id stBusyGlaze (changeHandle g)
        else match openGen s t with
          | none => finish s c.id stBusyGlaze (changeHandle g)
          | some (o, s1) => match applyChange s1 t o g with
            | .error (st, f) => finish (placeEvents s f) c.id st (changeHandle g)
            | .ok s2 =>
              if vaultFails s c.op then failHeld s c (changeHandle g)
              else needJournal s1 c (
                let s := markChange (s2.bump 0x8800C) t o true
                let s := stageCmd s c (changeType g) (tableBody s t)
                endEntry s c o (changeHandle g))

/-- The entry descriptor that a command carries or names, with its length: `none` when the bus read
failed (R175). -/
def entryOperand (s : State) (c : Cmd) (io : HostIO) : Option (List Byte × Nat) :=
  if c.addr then (busRead s c io (c.le 24 4)).map (fun l => (l, c.le 24 4))
  else
    let l := c.bytes 16 112
    some (l, entLen (entW l))

/-- Form of the operands that carry an entry descriptor (R51, R174, R175). -/
def entryOperandForm (c : Cmd) (l : List Byte) (len : Nat) : Bool :=
  len == entLen (entW l) && entReserved l &&
    (if c.addr then c.host 16 % 16 == 0 && c.zeroFrom 32 else decide (len ≤ 112) && c.zeroFrom (16 + len))

/-- ENT_INSERT and ENT_MODIFY of a TERNARY entry. -/
def entryCmd (s : State) (c : Cmd) (io : HostIO) (ins : Bool) : State :=
  if c.addr && !c.compl 24 28 4 then finish s c.id stBadComplement
  else match entryOperand s c io with
    | none => readFail s c io
    | some (l, len) =>
      if l.length < 16 then finish s c.id stInvalid
      else if !entCompl l then finish s c.id stBadComplement
      else
        let e := parseEntry l
        if !entryOperandForm c l len || !entClassOk e || (ins && e.handle == 0xFFFFFFFF) then finish s c.id stInvalid
        else runChange s c (if ins then .ins e else .mod e)

/-- ENT_INSERT. -/
def cmdEntInsert (s : State) (c : Cmd) (io : HostIO) : State := entryCmd s c io true

/-- ENT_DELETE. -/
def cmdEntDelete (s : State) (c : Cmd) : State :=
  if !c.compl 16 20 4 then finish s c.id stBadComplement
  else if c.addr || !c.zeroFrom 24 then finish s c.id stInvalid
  else runChange s c (.del (c.le 16 4))

/-- ENT_MODIFY: an entry, or a word of a DIRECT table (R175). -/
def cmdEntModify (s : State) (c : Cmd) (io : HostIO) : State :=
  if tableKind s c.table = some .direct then
    (if !c.compl 16 20 4 then finish s c.id stBadComplement
     else if c.addr || c.auto || !c.zeroFrom 56 then finish s c.id stInvalid
     else runChange s c (.word (c.le 16 4) (BitVec.ofNat 256 (c.le 24 32))))
  else entryCmd s c io false

/-- ENT_REPRIO. -/
def cmdEntReprio (s : State) (c : Cmd) : State :=
  if !c.compl 16 24 8 then finish s c.id stBadComplement
  else if c.addr || !c.zeroFrom 32 || decide (2 ^ 24 ≤ c.le 20 4) then finish s c.id stInvalid
  else runChange s c (.rep (c.le 16 4) (c.le 20 4))

/-- The records of a batch on a DIRECT table. The batch-end record carries the result in the model, so that a
replay without it has none (R387). Every record is checked before the first is written (R177). -/
def batchDirect (s : State) (c : Cmd) (gs : List Change) : State :=
  match findIdx (fun g => changeCheck s c.table g != stOk) gs 0 with
  | some i => finish s c.id stInvalid i
  | none =>
    if vaultFails s c.op then finish s c.id stVaultFault
    else match applyAll s c.table 0 0 gs with
      | .error (st, _, i) => finish s c.id st i
      | .ok s1 => needJournal s c (
          let s := s1.bump 0x8800C gs.length
          let ws := gs.map (fun g => (taDirBase s c.table + changeHandle g, mapGetD s.direct (taDirBase s c.table + changeHandle g) 0))
          let s := stageCmd s c 0x14 .mark
          let s := stageCmd s c 0x15 (.words ws)
          finish s c.id stOk 0xFFFFFFFF (s.epoch.count + 1))

/-- The records of a batch on a TERNARY table: all of them, or none (R177). -/
def batchTernary (s : State) (c : Cmd) (x : Table) (gs : List Change) : State :=
  let t := c.table
  if noSlot x then finish s c.id stBusyGlaze
  else match openGen s t with
    | none => finish s c.id stBusyGlaze
    | some (o, s1) => match applyAll s1 t o 0 gs with
      | .error (st, f, i) => finish (placeEvents s f) c.id st i
      | .ok s2 =>
        if vaultFails s c.op then failHeld s c 0xFFFFFFFF
        else needJournal s1 c (
          let s := markChange (s2.bump 0x8800C gs.length) t o true
          let s := stageCmd s c 0x10 .mark
          let s := stageCmd s c 0x15 (tableBody s t)
          endEntry s c o 0xFFFFFFFF)

/-- ENT_BATCH: a batch list, or a tree image (R165, R176, R177). -/
def cmdEntBatch (s : State) (c : Cmd) (io : HostIO) : State :=
  let t := c.table
  if !c.compl 24 28 4 then finish s c.id stBadComplement
  else if !c.addr then finish s c.id stInvalid
  else
    let tree := tableKind s t == some .tree
    let form := c.host 16 % 16 == 0 && c.zeroFrom 32
    if tree && !form then finish s c.id stInvalid
    else if tree && !liveFor s c then finish s c.id stNotFound
    else if lockWait s c then s
    else match busRead s c io (c.le 24 4) with
      | none => readFail s c io
      | some l =>
        if tree then loadImage s c l (c.le 24 4)
        else
          let direct := tableKind s t == some .direct
          let count := leAt l 4 4
          let countOk := decide (1 ≤ count) && decide (count ≤ 65536)
          if l.length < 16 then finish s c.id stInvalid
          else if !isCompl (slice l 0 8) (slice l 8 8) then finish s c.id stBadComplement
          else
            let r := batchRecs direct (if countOk then count else 0) 0 (l.drop 16)
            match r.compl with
            | some i => finish s c.id stBadComplement i
            | none =>
              if !form || leAt l 0 4 != 2 || !countOk then finish s c.id stInvalid
              else match r.form with
                | some i => finish s c.id stInvalid (if i < count then i else 0xFFFFFFFF)
                | none =>
                  if !liveFor s c then finish s c.id stNotFound
                  else match s.table t with
                    | none => finish s c.id stNotFound
                    | some x =>
                      if direct && c.auto then finish s c.id stInvalid
                      else if direct then batchDirect s c r.changes
                      else batchTernary s c x r.changes

end Sys2Proof.Machine
end

