-- ==== Sys2Proof/Machine/Query.lean ====
section
/-! DEFINITION. What a table answers for a key in one slot (R56, R78, R84, R85, R114, R117, R159), and
the query commands ENT_READ, QUERY_SEARCH and QUERY_FIND (R473, R474). -/

namespace Sys2Proof.Machine

/-! ### Answers -/

/-- An answer of a table: priority, handle, action word, returned data, and the row that won, for a
TERNARY table. -/
structure Found where
  prio : Nat
  handle : Nat
  action : Word
  data : BitVec 256
  row : Option Row
  deriving DecidableEq, Repr

/-- Does the row match the key in every segment (R84)? -/
def rowMatch (r : Row) (key : Key) : Bool := (r.value ^^^ key) &&& r.mask == 0

/-- Does the cover match key bits [79:0] (R78)? -/
def coverMatch (c : Cover) (key : Key) : Bool := (c.value ^^^ seg0 key) &&& c.mask == 0

/-- The covers that a sift search of slot `k` selects (R78). -/
def sifted (x : Table) (k : Nat) (key : Key) : List Cover := x.covers.filter (fun c => visIn c.vis k && coverMatch c key)

/-- The best row of a list (R56). -/
def bestRow : List Row → Option Row
  | [] => none
  | r :: l => match bestRow l with
    | none => some r
    | some q => if beats q.prio q.handle r.prio r.handle then some q else some r

/-- The block lies in the always-on group of its table. -/
def inAlwaysOn (s : State) (t : Nat) (x : Table) (d b : Nat) : Bool :=
  structAO (ta s t 0) && x.blocks.any (fun h => h.group == 0 && h.die == d && h.block == b)

/-- The winner of a ternary search of slot `k` (R84, R85). -/
def ternaryWinner (s : State) (t : Nat) (x : Table) (k : Nat) (key : Key) : Option Row :=
  let cs := sifted x k key
  bestRow (x.rows.filter (fun r => visIn r.vis k && rowMatch r key &&
    (inAlwaysOn s t x r.die r.block || cs.any (fun c => c.die == r.die && c.block == r.block))))

/-- The visible rows of the blocks that a search of slot `k` selects (R78). -/
def selectedRows (s : State) (t : Nat) (x : Table) (k : Nat) (key : Key) : List Row :=
  let cs := sifted x k key
  x.rows.filter (fun r => visIn r.vis k &&
    (inAlwaysOn s t x r.die r.block || cs.any (fun c => c.die == r.die && c.block == r.block)))

/-- Associated data bits of TA_POLICY word `p` (R58). -/
def adBits (p : Word) : Nat := if fld p 9 8 = 1 then 128 else if fld p 9 8 = 2 then 256 else 0

/-- The associated data a lookup returns under TA_POLICY word `p` (R58). -/
def adData (p : Word) (ad : Nat) : BitVec 256 := BitVec.ofNat 256 ((ad >>> (128 * fld p 14 12)) % 2 ^ adBits p)

/-- What a ternary row answers under TA_POLICY word `p`. -/
def rowFound (p : Word) (r : Row) : Found :=
  { prio := r.prio, handle := r.handle, action := r.ad.setWidth 32, data := adData p r.ad.toNat, row := some r }

/-- The answer of table `x` in slot `k` under TA_POLICY word `p`. -/
def answerIn (s : State) (t : Nat) (x : Table) (p : Word) (k : Nat) (key : Key) : Option Found := match x.kind with
  | .ternary => (ternaryWinner s t x k key).map (rowFound p)
  | .tree => (treeLookup (x.slot k) key).map (fun r => { prio := r.1, handle := r.2.1, action := r.2.2, data := 0, row := none })
  | .direct =>
    let i := fld key 23 0
    if i < taDirSize s t then
      let w := mapGetD s.direct (taDirBase s t + i) 0
      some { prio := 0, handle := i, action := w.setWidth 32, data := adData p w.toNat, row := none }
    else none

/-- The slot that view `v` sees (R171): the LIVE or RETIRED slot with the largest FROM at or below it. -/
def viewSlot (x : Table) (v : Nat) : Option Nat :=
  (slotsIn x (fun q => q == .live || q == .retired)).foldl (fun (m : Option Nat) k =>
    if v < (x.slot k).epoch then m
    else match m with
      | none => some k
      | some j => if (x.slot j).epoch < (x.slot k).epoch ∨
          ((x.slot j).epoch = (x.slot k).epoch ∧ (x.slot j).sealNo < (x.slot k).sealNo) then some k else some j) none

/-! ### The query commands -/

/-- ENT_READ (R473). -/
def cmdEntRead (s : State) (c : Cmd) (io : HostIO) : State :=
  let t := c.table
  if !(c.compl 16 20 4 && c.compl 32 36 4) then finish s c.id stBadComplement
  else if c.auto || c.addr || !c.zeroFrom 40 || c.host 24 % 16 != 0 then finish s c.id stInvalid
  else if !tableLive s t then finish s c.id stNotFound
  else match s.table t with
    | none => finish s c.id stNotFound
    | some x =>
      let bytes : Option (List Byte) × Nat := match x.kind with
        | .tree => (none, 0)
        | .direct => (if c.le 16 4 < taDirSize s t then some (bytesLE 32 (mapGetD s.direct (taDirBase s t + c.le 16 4) 0).toNat) else none, 32)
        | .ternary => ((match liveSlot x with
            | none => none
            | some k => (rowIn x k (c.le 16 4)).map (fun r => entBytes r (fld (ta s t 0) 5 4))), entLen (taW s t))
      if x.kind = .tree ∨ c.le 32 4 < bytes.2 then finish s c.id stInvalid
      else match bytes.1 with
        | none => finish s c.id stNotFound
        | some l => match busWrite s c io (c.host 24) l with
          | (true, s) => finish s c.id stOk (c.le 16 4)
          | (false, s) => dmaFail s c

/-- QUERY_SEARCH (R474). -/
def cmdQuerySearch (s : State) (c : Cmd) : State :=
  let t := c.table
  let opn := bit c.desc (8 * 96)
  if c.auto || c.addr || !c.zeroFrom 100 || decide (2 ≤ c.le 96 4) then finish s c.id stInvalid
  else if !tableLive s t then finish s c.id stNotFound
  else if opn && lockHeld s t then s
  else match s.table t with
    | none => finish s c.id stNotFound
    | some x =>
      let k := if opn then headSlot x else (liveSlot x).getD 0
      match answerIn s t x (ta s t 0x14) k (BitVec.ofNat 640 (c.le 16 80)) with
      | none => finish s c.id stNotFound
      | some f => if opn then finish s c.id stOk f.handle else finishAs s c.id stOk f.handle s.epoch.count s.epoch.held

/-- QUERY_FIND (R474). Several entries of the OPEN slot can have the value and the mask; the spec does
not say which handle is reported, so that choice is a free value (assumption 25). -/
def cmdQueryFind (s : State) (c : Cmd) (io : HostIO) : State :=
  let t := c.table
  if !c.compl 24 28 4 then finish s c.id stBadComplement
  else if !c.addr then finish s c.id stInvalid
  else match busRead s c io (c.le 24 4) with
    | none => readFail s c io
    | some l =>
      if l.length < 16 then finish s c.id stInvalid
      else if !entCompl l then finish s c.id stBadComplement
      else if c.auto || !entryOperandForm c l (c.le 24 4) then finish s c.id stInvalid
      else if !tableLive s t then finish s c.id stNotFound
      else if lockHeld s t then s
      else match s.table t with
        | none => finish s c.id stNotFound
        | some x =>
          let e := parseEntry l
          if x.kind != .ternary || e.w != taW s t then finish s c.id stInvalid
          else
            let rs := x.rows.filter (fun r => visIn r.vis (headSlot x) && r.value == e.value && r.mask == e.mask)
            let (n, s) := draw s
            match rs[Config.openNat n % max 1 rs.length]? with
            | none => finish s c.id stNotFound
            | some r => finish s c.id stOk r.handle

end Sys2Proof.Machine
end

