-- ==== Sys2Proof/Machine/Activity.lean ====
section
/-! DEFINITION. Entry activity as the control plane sees it (R206 to R216): the positions of an entry
that moves, the retired-counter accumulator, CNT_READ, CNT_CLEAR and the counter snapshots. -/

namespace Sys2Proof.Machine

/-! ### Entries that move -/

/-- The home positions of the entry whose row in slot `k` is `e` (R194, R209). -/
def entryPositions (x : Table) (k : Nat) (e : Row) : List Nat :=
  let l := x.rows.filter (fun r => r.handle == e.handle &&
    (reaches (rowAfter x) k 5 r == some e || reaches (rowBefore x) k 5 r == some e))
  e.pos :: (dedup (l.map (fun r => r.pos))).filter (fun p => p != e.pos)

/-- The stamp of an entry: the later of those at its positions (R194). -/
def entryStamp (s : State) (ps : List Nat) : BitVec 64 := ps.foldl (fun w p => laterStamp w (stampOf s p)) 0

/-- The home positions of deleted entries that settle has not freed (R212). -/
def deletedPositions (x : Table) : List Nat := match liveSlot x with
  | none => []
  | some k =>
    let old := slotsIn x (fun q => q == .retired || q == .settling)
    dedup ((x.rows.filter (fun r => !visIn r.vis k && old.any (fun j => visIn r.vis j) &&
      (reaches (rowAfter x) k 5 r).isNone)).map (fun r => r.pos))

/-! ### Records (R208) -/

/-- The handle lies in the table's learn range (R209, R220). -/
def learnedHandle (x : Table) (h : Nat) : Bool := match x.learn with
  | none => false
  | some l => decide (l.hbase ≤ h) && decide (h < l.hbase + l.hcount)

/-- A 32-byte output record. -/
def actRecord (h flags : Nat) (v : Pair) (last : Nat) : List Byte :=
  bytesLE 4 h ++ bytesLE 4 flags ++ bytesLE 8 v.pkt.toNat ++ bytesLE 8 v.byte.toNat ++ bytesLE 8 last

/-- The sum of the pairs at `ps`, read in class `cls` (R194, R231). -/
def readSum (s : State) (cls : Nat) : List Nat → Pair × State
  | [] => (Pair.zero, s)
  | p :: l =>
    let (v, s) := counterRead s cls p
    let (w, s) := readSum s cls l
    (v.add w, s)

/-- The flags of an entry: SUSPECT and MOVING (R208). -/
def actFlags (s : State) (ps : List Nat) : Nat :=
  2 * b2n (ps.any (fun p => s.act.suspect.contains p)) + 4 * b2n (decide (1 < ps.length))

/-- The record of the entry with row `e` in the LIVE slot `k`. -/
def entryRecord (s : State) (x : Table) (k : Nat) (e : Row) : List Byte × State :=
  let ps := entryPositions x k e
  let (v, s1) := readSum s 2 ps
  (actRecord e.handle (actFlags s ps + 8 * b2n (learnedHandle x e.handle)) v (entryStamp s ps).toNat, s1)

/-- A handle that is not visible (R209). -/
def missRecord (h : Nat) : List Byte := actRecord h 1 Pair.zero 0

/-- The accumulator with the counters still held by deleted entries (R212). -/
def accTotal (s : State) (cls : Nat) (x : Table) : Pair × State :=
  let (v, s) := readSum s cls (deletedPositions x)
  (v.add { pkt := BitVec.ofNat 64 x.retPkt, byte := BitVec.ofNat 64 x.retByte }, s)

/-- The table record of ALL mode (R208, R209). -/
def tableRecord (s : State) (x : Table) : List Byte × State :=
  let (v, s) := accTotal s 2 x
  (actRecord 0xFFFFFFFF 16 v x.retLate, s)

/-- The entries of slot `k` with handle at or above `h`, in ascending handle. -/
def handlesFrom (x : Table) (k h : Nat) : List Row :=
  sortBy (fun (a b : Row) => decide (a.handle < b.handle)) ((rowsIn x k).filter (fun r => decide (h ≤ r.handle)))

/-- Records of rows, one after another. -/
def recordsOf (s : State) (x : Table) (k : Nat) : List Row → List Byte × State
  | [] => ([], s)
  | e :: l =>
    let (b, s) := entryRecord s x k e
    let (r, s) := recordsOf s x k l
    (b ++ r, s)

/-- Records of listed handles. -/
def recordsListed (s : State) (x : Table) (k : Nat) : List Nat → List Byte × State
  | [] => ([], s)
  | h :: l =>
    let (b, s) := match rowIn x k h with
      | none => (missRecord h, s)
      | some e => entryRecord s x k e
    let (r, s) := recordsListed s x k l
    (b ++ r, s)

/-! ### Operands -/

/-- AS0 or AS1 is lost (R262, R374). -/
def asLost (s : State) : Bool := s.stage.stage == 4 && bit s.stage.fsCause 1

/-- MODE of CNT_READ and CNT_CLEAR. -/
def Cmd.mode (c : Cmd) : Nat := c.le 32 4
def Cmd.all (c : Cmd) : Bool := c.mode.testBit 0

/-- Complements of the operands of R207; `out`: bytes 16 to 31 are used. -/
def cntCompl (c : Cmd) (out : Bool) : Bool := (!out || c.compl 24 28 4) && (!c.all || c.compl 48 52 4)

/-- Form of the operands of R207; `modes`: the MODE bits the command has. -/
def cntForm (c : Cmd) (out : Bool) (modes : Nat) : Bool :=
  !c.auto && !c.addr && c.zeroFrom 56 && c.mode &&& modes == c.mode &&
    (if out then c.host 16 % 32 == 0 && c.le 24 4 % 32 == 0 && decide (32 ≤ c.le 24 4) else c.le 16 16 == 0) &&
    (if c.all then c.le 36 12 == 0 else decide (1 ≤ c.le 44 4) && decide (c.le 44 4 ≤ 65536) && c.le 48 8 == 0)

/-- The handles listed in the bytes read from the host. -/
def listHandles (l : List Byte) : Nat → List Nat
  | 0 => []
  | n + 1 => leAt l 0 4 :: listHandles (l.drop 4) n

/-- The handle list of LIST mode, cut at `n` handles; `none` when the read failed. -/
def readList (s : State) (c : Cmd) (io : HostIO) (n : Nat) : Option (List Nat) :=
  if c.all then some [] else (busRead s c io (4 * c.le 44 4)).map (fun l => (listHandles l (c.le 44 4)).take n)

/-- The table checks of the activity commands: its state, its kind, and the activity store. -/
def actCheck (s : State) (t : Nat) : Nat :=
  firstFail [(tableLive s t, stNotFound), (isTernary s t, stInvalid), (!asLost s, stVaultFault)]

/-! ### CNT_READ -/

/-- The records of a snapshot read (R216). -/
def snapRecords (x : Table) (a : SnapTable) (c : Cmd) (hs : List Nat) (n : Nat) : List (List Byte) :=
  let rec_ := fun (e : Nat × Pair × Nat) => actRecord e.1 (e.2.2 + 8 * b2n (learnedHandle x e.1)) e.2.1 0
  if c.all then
    (actRecord 0xFFFFFFFF 16 { pkt := BitVec.ofNat 64 a.retPkt, byte := BitVec.ofNat 64 a.retByte } a.retLate ::
      (a.entries.filter (fun e => decide (c.le 48 4 ≤ e.1))).map rec_).take n
  else hs.map (fun h => match a.entries.find? (fun e => e.1 == h) with
    | none => missRecord h
    | some e => rec_ e)

/-- CNT_READ (R207, R208, R209, R216). -/
def cmdCntRead (s : State) (c : Cmd) (io : HostIO) : State :=
  let t := c.table
  let n := c.le 24 4 / 32
  if !cntCompl c true then finish s c.id stBadComplement
  else if !cntForm c true 7 then finish s c.id stInvalid
  else if actCheck s t ≠ stOk then finish s c.id (actCheck s t)
  else match s.table t with
    | none => finish s c.id stNotFound
    | some x =>
      let b := b2n (c.mode.testBit 2)
      let snap := s.snaps.getD b Snap.reset
      if c.mode.testBit 1 && snap.st == 2 then cmdWait s c.id (.snapRead b)
      else match readList s c io n with
        | none => readFail s c io
        | some hs =>
          let out : Option (List Byte × State) :=
            if c.mode.testBit 1 then
              match (if snap.st = 3 then snap.caps.find? (fun a => a.table == t) else none) with
              | none => none
              | some a => some ((snapRecords x a c hs n).foldl (fun l r => l ++ r) [], s)
            else
              let k := (liveSlot x).getD 0
              some (if c.all then
                let (h, s) := tableRecord s x
                let (r, s) := recordsOf s x k ((handlesFrom x k (c.le 48 4)).take (n - 1))
                (h ++ r, s)
              else recordsListed s x k hs)
          match out with
          | none => finish s c.id stNotFound
          | some (l, s) => match busWrite s c io (c.host 16) l with
            | (true, s) => finish s c.id stOk (l.length / 32)
            | (false, s) => dmaFail s c

/-! ### CNT_CLEAR -/

/-- Clear the counters of one entry (R210, R211). -/
def clearEntry (s : State) (x : Table) (k : Nat) (e : Row) : State :=
  (entryPositions x k e).foldl (fun s p => counterClear s 2 p) s

/-- Clear the accumulator, with the counters of deleted entries that have not settled (R210). -/
def clearAcc (s : State) (t : Nat) : State := match s.table t with
  | none => s
  | some x => (deletedPositions x).foldl (fun s p => counterClear s 2 p)
      (s.setTable t { x with retPkt := 0, retByte := 0, retLate := 0 })

/-- CNT_CLEAR (R210). `written` is the number of output records issued before a failing write. -/
def cmdCntClear (s : State) (c : Cmd) (io : HostIO) (written : Nat) : State :=
  let t := c.table
  let out := c.mode.testBit 4
  let n := if out then c.le 24 4 / 32 else 2 ^ 32
  if !cntCompl c out then finish s c.id stBadComplement
  else if !cntForm c out 25 || (!c.all && c.mode.testBit 3) then finish s c.id stInvalid
  else if actCheck s t ≠ stOk then finish s c.id (actCheck s t)
  else match s.table t with
    | none => finish s c.id stNotFound
    | some x => match readList s c io n with
      | none => readFail s c io
      | some hs =>
        let k := (liveSlot x).getD 0
        let rows : List (Option Row) := if c.all then none :: ((handlesFrom x k (c.le 48 4)).take (n - 1)).map some
          else hs.map (fun h => rowIn x k h)
        let clear := fun (s : State) (l : List (Option Row)) => (l.filterMap id).foldl (fun s e => clearEntry s x k e) s
        if !out then
          let s := clear s rows
          finish (if c.mode.testBit 3 then clearAcc s t else s) c.id stOk
        else
          let (l, s) := if c.all then
              let (h, s) := tableRecord s x
              let (r, s) := recordsOf s x k ((rows.drop 1).filterMap id)
              (h ++ r, s)
            else recordsListed s x k hs
          match busWrite s c io (c.host 16) l with
          | (true, s) =>
            let s := clear s rows
            finish (if c.mode.testBit 3 then clearAcc s t else s) c.id stOk rows.length
          | (false, s) =>
            let done := rows.take written
            finish (mbErr (clear s done) c.mb 0) c.id stAborted ((done.filterMap id).length)

/-! ### Snapshots (R213 to R216) -/

/-- Change snapshot buffer `b`. -/
def modSnap (s : State) (b : Nat) (f : Snap → Snap) : State := { s with snaps := listMod s.snaps b f }

/-- CNT_SNAPSHOT (R213, R215). -/
def cmdCntSnapshot (s : State) (c : Cmd) : State :=
  let t := c.table
  let ctrl := c.le 32 4
  let b := ctrl % 2
  let snap := s.snaps.getD b Snap.reset
  if !c.compl 16 24 8 then finish s c.id stBadComplement
  else if c.auto || c.addr || c.le 22 2 != 0 || decide (8 ≤ ctrl) || !c.zeroFrom 36 then finish s c.id stInvalid
  else if t ≠ 255 ∧ !tableLive s t then finish s c.id stNotFound
  else if t ≠ 255 ∧ !isTernary s t then finish s c.id stInvalid
  else if asLost s then finish s c.id stVaultFault
  else if ctrl.testBit 2 then
    (if snap.st = 3 then finish (modSnap s b (fun _ => Snap.reset)) c.id stOk else finish s c.id stInvalid)
  else if snap.st = 1 ∨ snap.st = 2 then finish s c.id stInvalid
  else
    cmdWait (modSnap s b (fun _ => { st := 1, table := t, epoch := c.le 16 6, clr := ctrl.testBit 1, cmd := some c.id, caps := [] }))
      c.id (.snapStep b)

/-- The entries of a table as a snapshot captures them. -/
def captureRows (s : State) (x : Table) (k : Nat) : List Row → List (Nat × Pair × Nat) × State
  | [] => ([], s)
  | e :: l =>
    let ps := entryPositions x k e
    let f := actFlags s ps
    let (v, s) := readSum s 3 ps
    let (r, s) := captureRows s x k l
    ((e.handle, v, f) :: r, s)

/-- Capture one table, and with CLR set its counters and its accumulator to zero (R214). -/
def captureTable (s : State) (t : Nat) (x : Table) (clr : Bool) : SnapTable × State :=
  let k := (liveSlot x).getD 0
  let rows := handlesFrom x k 0
  let (es, s) := captureRows s x k rows
  let (a, s) := accTotal s 3 x
  let ps := (rows.map (fun e => entryPositions x k e)).flatten
  let w := taW s t
  let s := if clr then
      (ps ++ deletedPositions x).foldl (fun s p => counterZero s 3 p)
        (s.setTable t { x with retPkt := 0, retByte := 0, retLate := 0 })
    else s
  let s := ps.foldl (fun s p => askDram s drSnap (snapBase + 16 * p) (16 * w)) s
  ({ table := t, retPkt := a.pkt.toNat, retByte := a.byte.toNat, retLate := x.retLate, entries := es
     homes := rows.map (fun e => (e.handle, entryPositions x k e))
     positions := (ps.map (fun p => (List.range w).map (fun i => p + i))).flatten }, s)

/-- Capture a list of tables. -/
def captureAll (s : State) (clr : Bool) : List Nat → List SnapTable × State
  | [] => ([], s)
  | t :: l => match s.table t with
    | none => captureAll s clr l
    | some x =>
      let (a, s) := captureTable s t x clr
      let (r, s) := captureAll s clr l
      (a :: r, s)

/-- Does a snapshot of `t` capture this table? -/
def snapCovers (want t : Nat) (x : Table) : Bool :=
  (want == 255 || want == t) && x.kind == .ternary && x.st != .proofing && x.removed.isNone

/-- An armed snapshot is taken at this step (R214), unless an activity store die has been lost (R262). -/
def snapshotAt (s : State) (b : Nat) : State :=
  let snap := s.snaps.getD b Snap.reset
  if snap.st ≠ 1 ∨ s.epoch.count < snap.epoch then s
  else if asLost s then
    let s := modSnap s b (fun _ => Snap.reset)
    match snap.cmd with
    | none => s
    | some i => finish s i stVaultFault
  else
    let (caps, s) := captureAll s snap.clr ((s.tables.filter (fun p => snapCovers snap.table p.1 p.2)).map (fun p => p.1))
    let s := modSnap s b (fun q => { q with st := 2, epoch := s.epoch.count, cmd := none, caps := caps })
    let s := match snap.cmd with
      | none => s
      | some i => finishAs s i stOk 0xFFFFFFFF s.epoch.count s.epoch.held
    heldAction s 7 b

/-- The copy of a snapshot ends (R214): the reads that waited for it go on. -/
def snapDone (s : State) (b : Nat) : State :=
  let snap := s.snaps.getD b Snap.reset
  if snap.st ≠ 2 then s
  else
    let s := (modSnap s b (fun q => { q with st := 3 })).raise evCntSnapDone b snap.epoch
    s.modCmds (fun c => c.st == .waiting (.snapRead b)) (fun c => { c with st := .running })

/-- Add a late-posted update to a captured table: at the entry captured with its home position, else, the entry having
left the LIVE slot, in the accumulator, which holds the counters of deleted entries (R212, R214). -/
def capAdd (u : CntUpd) (a : SnapTable) : SnapTable :=
  if a.homes.any (fun p => p.1 == u.handle && p.2.contains u.pos) && !u.late then
    { a with entries := a.entries.map (fun e => if e.1 = u.handle
      then (e.1, e.2.1.add { pkt := 1, byte := BitVec.ofNat 64 u.len }, e.2.2) else e) }
  else { a with retPkt := (a.retPkt + 1) % 2 ^ 64, retByte := (a.retByte + u.len) % 2 ^ 64
                retLate := (a.retLate + b2n u.late) % 2 ^ 64 }

/-- The snapshots that hold table `t` and were taken after epoch `e`, the earlier first: buffers. -/
def snapsAfter (s : State) (t e : Nat) : List Nat :=
  let has := fun (b : Nat) =>
    let q := s.snaps.getD b Snap.reset
    (q.st == 2 || q.st == 3) && decide (e < q.epoch) && q.caps.any (fun a => a.table == t)
  let l := [0, 1].filter has
  sortBy (fun (a b : Nat) => decide ((s.snaps.getD a Snap.reset).epoch < (s.snaps.getD b Snap.reset).epoch)) l

/-- A counter update of a request whose t0 lies before a snapshot's step belongs to that snapshot
(R214): the snapshots that take it, and whether the live counters still take it. -/
def snapPost (s : State) (u : CntUpd) : List Nat → Bool × State
  | [] => (true, s)
  | b :: l =>
    let q := s.snaps.getD b Snap.reset
    let s := modSnap s b (fun q => { q with caps := q.caps.map (fun (a : SnapTable) => if a.table = u.table then capAdd u a else a) })
    if q.clr then (false, s) else snapPost s u l

/-- PARKED.COUNT: captured positions that no row refers to any more (R216). -/
def parkedCount (s : State) : Nat :=
  ((dedup (parked s)).filter (fun p => !s.tables.any (fun q =>
    q.2.rows.any (fun r => decide (r.pos ≤ p) && decide (p < r.pos + taW s q.1))))).length

end Sys2Proof.Machine
end

