-- ==== Sys2Proof/Machine/Learn.lean ====
section
/-! DEFINITION. Changes the module makes itself (R217 to R219), learning (R220 to R223) and aging
(R224 to R228). -/

namespace Sys2Proof.Machine

/-- Internal changes run: LA_EN is 1 and the stage is FULL (R219). -/
def internalOn (s : State) : Bool := bit (s.live 0x111000) 0 && s.stage.stage == 3

/-- TA_FEATURE bits of a table. -/
def taFeat (s : State) (t i : Nat) : Bool := bit (ta s t 0x18) i

/-! ### Learning -/

/-- The operands of LEARN_CFG. -/
def learnOperands (c : Cmd) : LearnCfg :=
  { en := c.le 16 4 % 2 = 1, evt := c.le 16 4 / 2 % 2 = 1, profile := c.le 20 1, slot := c.le 21 1, prio := c.le 24 3
    action := word (c.le 28 4), hbase := c.le 36 4, hcount := c.le 40 4, byteMask := BitVec.ofNat 80 (c.le 44 10)
    data := BitVec.ofNat 128 (c.le 28 4 + c.le 56 12 * 2 ^ 32) }

/-- The form of LEARN_CFG (R220). -/
def learnForm (c : Cmd) : Bool :=
  !c.auto && !c.addr && decide (c.le 16 4 < 4) && decide (c.le 21 1 ≤ 3) && c.le 22 2 == 0 && c.le 27 1 == 0 &&
    decide (c.le 28 4 / 2 ^ 28 ≤ 5) && decide (1 ≤ c.le 40 4) && decide (c.le 40 4 ≤ 16777216) && c.le 54 2 == 0 &&
    c.le 68 4 == 0 && c.zeroFrom 80

/-- The conditions of R220 that need the table, the profile and the chain. -/
def learnFits (s : State) (t : Nat) (l : LearnCfg) : Bool :=
  !taCasc s t && decide (l.byteMask.toNat < 2 ^ (10 * taW s t)) && bit (s.live (pfAddr l.profile 0)) 31 &&
    decide (l.slot ≤ s.cfg (pfAddr l.profile 0) 25 24) && s.cfg (pfAddr l.profile (0x10 + l.slot * 0x30)) 31 24 == t &&
    decide (l.hbase + l.hcount ≤ 0xFFFFFFFF) &&
    (!(cscEn s && cscLen s != 1) ||
      (l.hbase / 2 ^ 30 == s.csc.pos.toNat && (l.hbase + l.hcount - 1) / 2 ^ 30 == s.csc.pos.toNat))

/-- LEARN_CFG (R220). -/
def cmdLearnCfg (s : State) (c : Cmd) : State :=
  let t := c.table
  let l := learnOperands c
  if !(c.compl 28 32 4 && c.compl 36 72 8) then finish s c.id stBadComplement
  else if !learnForm c then finish s c.id stInvalid
  else if !liveFor s c then finish s c.id stNotFound
  else if lockWait s c then s
  else if !isTernary s t || !learnFits s t l then finish s c.id stInvalid
  else if vaultFails s c.op then finish s c.id stVaultFault
  else needJournal s c (
    let s := s.modTable t (fun x => { x with learn := some l })
    let s := stageCmd s c 0x30 (tableBody s t)
    finish s c.id stOk)

/-- Records the learn queue and its overflow region hold (R221). -/
def learnMax : Nat := 8192 + 8388608

/-- A learn record joins the queue, or is dropped when both parts are full (R221), or in any stage but FULL (R219). -/
def learnPush (s : State) (r : LearnRec) : State :=
  let s := s.bump 0x111040
  if s.stage.stage ≠ 3 then (statAdd s r.target 0x64).bump 0x11104C
  else if learnMax ≤ s.learnQ.length then
    ((statAdd s r.target 0x64).bump 0x11104C).raiseOnce evLrnQfull 0
  else { s with learnQ := s.learnQ ++ [r] }

/-- The mask of a learned entry: byte j is 0xFF where BYTE_MASK[j] is 1 (R222). -/
def learnMask (m : BitVec 80) : Key :=
  BitVec.ofNat 640 ((List.range 80).foldl (fun n j => if bit m j then n + 255 * 2 ^ (8 * j) else n) 0)

/-- The lowest handle from `h` on that is not in `held`, within `fuel` tries. -/
def lowestHandle (held : List Nat) : Nat → Nat → Nat
  | 0, h => h
  | f + 1, h => if held.contains h then lowestHandle held f (h + 1) else h

/-- The handle that R222 gives the next learned entry. -/
def learnHandle (x : Table) (l : LearnCfg) : Option Nat :=
  let held := ((x.rows.map (fun r => r.handle)).filter (fun h => decide (l.hbase ≤ h) && handleHeld x h))
  let h := lowestHandle held (held.length + 1) l.hbase
  if h < l.hbase + l.hcount then some h else none

/-- A learn record is dropped: the counter at `a` and the table's statistic go up. -/
def learnDrop (s : State) (t a : Nat) : State := (statAdd s t 0x64).bump a

/-- Insert the entry of a learn record (R222); `none` while it must wait for a lock, a slot or journal
space (R217). -/
def learnInsert (s : State) (x : Table) (l : LearnCfg) (r : LearnRec) : Option State :=
  let t := r.target
  let m := learnMask l.byteMask
  let v := r.key &&& m
  if lockHeld s t then none
  else if x.rows.any (fun q => visIn q.vis (headSlot x) && q.value == v && q.mask == m) then some (learnDrop s t 0x111048)
  else match learnHandle x l with
    | none => some ((learnDrop s t 0x111050).raise evLrnHfull)
    | some h =>
      if !journalRoom s then none
      else match openGen s t with
        | none => none
        | some (o, s1) =>
          let e : Entry := { handle := h, prio := l.prio, w := taW s t, value := v, mask := m, ad := l.data.setWidth 1024 }
          match place s1 t o e (mkStamp s.epoch.count 0 false) with
          | .error f =>
            let s := placeEvents (learnDrop s t 0x111050) f
            some ((s.setBits (taAddr t 0x3C) (if placeStatus f = stTableFull then 2 else 1)).raiseOnce evLrnNoplace t)
          | .ok s2 =>
            let s := markChange (s2.bump 0x8800C) t o false
            let s := stageRec s 0x10 t none (tableBody s t)
            let s := (statAdd s t 0x60).bump 0x111044
            some (if l.evt then s.raise evLrnEntry t h else s)

/-- Sequencer 7 applies the oldest learn record (R222). -/
def learnApply (s : State) : State := match s.learnQ with
  | [] => s
  | r :: rest =>
    let s1 := { s with learnQ := rest }
    match s.table r.target with
    | none => s1.bump 0x11104C
    | some x => match x.learn with
      | none => learnDrop s1 r.target 0x11104C
      | some l =>
        if !internalOn s || x.st != .live || !taFeat s r.target 3 || !l.en then learnDrop s1 r.target 0x11104C
        else (learnInsert s1 x l r).getD s

/-! ### The internal glaze (R218) -/

/-- GLAZE_INT of LA_CFG; 0 is applied as 1. -/
def glazeInt (s : State) : Nat := max 1 (s.cfg 0x111000 31 16)

/-- Seal the OPEN slot of every table in which it holds internal changes and no change by a command,
for three epochs ahead. A seal takes no journal space that is not there: it is tried again at the next step (R217,
R265). -/
def internalSealAt (s : State) : State :=
  s.tables.foldl (fun s p => match s.table p.1 with
    | none => s
    | some x => match openSlot x with
      | none => s
      | some k =>
        if (x.slot k).hasInt && !(x.slot k).hasCmd && x.st == .live then
          if (!journalRoom s && vaultTakes s) || lockHeld s p.1 then { s with vault := { s.vault with sealWait := true } } else
          let (_, s) := sealSlot s p.1 k (s.epoch.count + 3) .internal
          stageRec s 0x20 p.1 none (tableBody s p.1)
        else s) { s with vault := { s.vault with sealWait := false } }

/-! ### Aging -/

/-- AGE_SWEEP (R224). -/
def cmdAgeSweep (s : State) (c : Cmd) : State :=
  let t := c.table
  let op := c.le 40 4
  let cfg : AgeCfg := { next := c.le 16 6, th := c.le 32 3, period := c.le 36 4, op := op, delMax := c.le 44 4
                        addr := c.host 48, len := c.le 56 4, port := c.mb }
  if !(c.compl 16 24 8 && c.compl 56 60 4) then finish s c.id stBadComplement
  else if c.auto || c.addr || c.le 22 2 != 0 || c.le 35 1 != 0 || decide (2 < op) || !c.zeroFrom 64 ||
      (op != 2 && c.le 32 3 == 0) || (op == 1 && (c.host 48 % 16 != 0 || c.le 56 4 % 16 != 0)) then finish s c.id stInvalid
  else if actCheck s t ≠ stOk then finish s c.id (actCheck s t)
  else if lockWait s c then s
  else if vaultFails s c.op then finish s c.id stVaultFault
  else needJournal s c (
    let s := s.modTable t (fun x => { x with age := if op = 2 then none else some cfg })
    let s := stageCmd s c 0x30 (tableBody s t)
    finish s c.id stOk)

/-- The next epoch of a sweep that started at its epoch `e`, after epoch `now` (R40, R225). -/
def nextSweep (e period now : Nat) : Nat := e + period * ((now - e) / period + 1)

/-- The candidates of a sweep (R226): entries of the LIVE slot that the OPEN slot still holds and whose
stamps are old enough. -/
def ageCands (s : State) (x : Table) (th : Nat) : List (Nat × BitVec 64) := match liveSlot x with
  | none => []
  | some k =>
    let l := (rowsIn x k).filter (fun e => (rowIn x (headSlot x) e.handle).isSome)
    (l.map (fun e => (e.handle, entryStamp s (entryPositions x k e)))).filter
      (fun c => decide (stampEpoch c.2 + th ≤ s.epoch.count))

/-- A sweep of table `t` starts at this step, or is skipped (R225). -/
def ageStartAt (s : State) (t : Nat) : State := match s.table t with
  | none => s
  | some x => match x.age with
    | none => s
    | some g =>
      if s.epoch.count < g.next then s
      else
        let g2 : Option AgeCfg := if g.period = 0 then none else some { g with next := nextSweep g.next g.period s.epoch.count }
        let s := s.modTable t (fun x => { x with age := g2 })
        if !taFeat s t 2 || !internalOn s || x.st != .live then s
        else if x.sweep.isSome then s.raise evAgeOverrun
        else
          let w : Sweep := { cfg := g, handled := 0, written := 0, deleted := 0, rescued := 0, cands := ageCands s x g.th }
          heldAction (statAdd (s.modTable t (fun x => { x with sweep := some w })) t 0x6C) 8 t

/-- Change the sweep of a table. -/
def modSweep (s : State) (t : Nat) (f : Sweep → Sweep) : State :=
  s.modTable t (fun x => { x with sweep := x.sweep.map f })

/-- A sweep in REPORT mode handles one candidate (R226): its record is written unless the output is full. -/
def ageReport (s : State) (t : Nat) (w : Sweep) (h : Nat) (st : BitVec 64) (wr : Bool) : State :=
  if w.cfg.len < 16 * (w.written + 1) then statAdd s t 0x7C
  else
    let a := w.cfg.addr + 16 * w.written
    let l := bytesLE 4 h ++ bytesLE 4 0 ++ bytesLE 8 st.toNat
    let s := modSweep s t (fun w => { w with written := w.written + 1 })
    if wr && busUp s w.cfg.port then emit (.dma w.cfg.port a l) s
    else
      let (n, s) := draw s
      mbErr (emit (.dma w.cfg.port a (Config.partialWrite n l)) s) w.cfg.port 0

/-- A sweep in DELETE mode compares one candidate under the table lock (R226); `none` while it must
wait (R217). -/
def ageDelete (s : State) (t : Nat) (x : Table) (h : Nat) (st : BitVec 64) : Option State :=
  if lockHeld s t then none
  else match rowIn x (headSlot x) h with
    | none => some s
    | some e =>
      if entryStamp s (entryPositions x (headSlot x) e) ≠ st then
        some (modSweep ((statAdd s t 0x74).bump 0x111058) t (fun w => { w with rescued := w.rescued + 1 }))
      else if !journalRoom s then none
      else match openGen s t with
        | none => none
        | some (o, s) =>
          let ps := entryPositions x (headSlot x) e
          let s := markChange (removeOpen s t o h) t o false
          let s := s.modTable t (fun x => { x with aged := x.aged ++ ps.filter (fun p => x.rows.any (fun r => r.pos == p)) })
          let s := stageRec (s.bump 0x8800C) 0x11 t none (tableBody s t)
          some (modSweep ((statAdd s t 0x70).bump 0x111054) t (fun w => { w with deleted := w.deleted + 1 }))

/-- A running sweep handles the candidate with handle `h`. A handle that is no candidate of the sweep,
or that lies beyond DEL_MAX, is not handled (assumption 4). -/
def ageCompare (s : State) (t h : Nat) (wr : Bool) : State := match s.table t with
  | none => s
  | some x => match x.sweep with
    | none => s
    | some w => match w.cands.find? (fun c => c.1 == h) with
      | none => s
      | some c =>
        if w.cfg.delMax ≠ 0 ∧ w.cfg.delMax ≤ w.handled then s
        else
          let s1 := modSweep s t (fun w => { w with handled := w.handled + 1, cands := w.cands.filter (fun d => d.1 != h) })
          if !internalOn s || x.st != .live then s1
          else if w.cfg.op = 1 then ageReport s1 t w h c.2 wr
          else (ageDelete s1 t x h c.2).getD s

/-- A sweep ends when every candidate is handled, or DEL_MAX of them (R225, R226). -/
def ageDone (s : State) (t : Nat) : State := match s.table t with
  | none => s
  | some x => match x.sweep with
    | none => s
    | some w =>
      if !w.cands.isEmpty && (w.cfg.delMax == 0 || decide (w.handled < w.cfg.delMax)) then s
      else
        let s := statAdd s t 0x7C w.cands.length
        let s := s.modTable t (fun x => { x with sweep := none })
        s.raise evAgeSweepDone t w.deleted w.rescued

end Sys2Proof.Machine
end

