-- ==== Sys2Proof/Machine/CacheCmds.lean ====
section
/-! DEFINITION. CACHE_MAINT (R242 to R244), whose three operations are FLUSH, INVALIDATE and DISCARD,
and the ends of the cache's own sweeps and fills. -/

namespace Sys2Proof.Machine

/-- OP and SCOPE of a CACHE_MAINT. -/
def maintOp (c : Cmd) : Nat := c.le 16 4 % 4
def maintScope (c : Cmd) : Nat := c.le 16 4 / 4 % 4

/-- Run CACHE_MAINT over a list of lines: dirty sectors written back or dropped (R243, R244). -/
def maintLines (s : State) (op : Nat) : List Nat → Nat × State
  | [] => (0, s)
  | n :: l =>
    let (a, s) := maintLine s op n
    let (b, s) := maintLines s op l
    (a + b, s)

/-- Every line that the cache holds or fills. -/
def cachedLines (s : State) : List Nat :=
  dedup (s.cache.lines.map (fun (l : Line) => l.line) ++ s.cache.victim.map (fun (l : Line) => l.line))

/-- The lines in the scope of a CACHE_MAINT, or the status that stops it (R242). -/
def maintTarget (s : State) (c : Cmd) : Except Nat (List Nat) :=
  let t := c.table
  if t = 255 then
    if maintScope c = 2 then .ok (cachedLines s)
    else if maintScope c = 3 then
      .ok ((s.cache.lines.filter (fun (l : Line) => l.way == c.le 16 4 / 16 % 16)).map (fun (l : Line) => l.line))
    else .error stInvalid
  else if 2 ≤ maintScope c then .error stInvalid
  else if !tableLive s t then .error stNotFound
  else if !isTernary s t then .error stInvalid
  else match s.table t with
    | none => .error stNotFound
    | some x =>
      if maintScope c = 1 then .ok (dedup (x.rows.map (fun r => r.pos / 4)))
      else
        let k := (liveSlot x).getD 0
        match rowIn x k (c.le 20 4) with
        | none => .error stNotFound
        | some e => .ok (dedup ((entryPositions x k e).map (fun p => p / 4)))

/-- CACHE_MAINT (R242 to R244). -/
def cmdCacheMaint (s : State) (c : Cmd) : State :=
  if !c.compl 16 24 8 then finish s c.id stBadComplement
  else if c.auto || c.addr || c.le 16 4 / 256 != 0 || maintOp c == 3 || !c.zeroFrom 32 ||
      (maintOp c == 2 && decide (2 ≤ maintScope c)) then finish s c.id stInvalid
  else match maintTarget s c with
    | .error st => finish s c.id st
    | .ok l =>
      let (n, s) := maintLines s (maintOp c) l
      finish s c.id stOk (min 0xFFFFFFFF n)

end Sys2Proof.Machine
end

