-- ==== Sys2Proof/Machine/Walk.lean ====
section
/-! DEFINITION. The header walker (R126 to R136): it turns a header window into a key vector. -/

namespace Sys2Proof.Machine

/-- What a walk reads and where it ends: window bytes, frame end F and window end W (R127). -/
structure WalkIn where
  win : List Byte
  f : Nat
  w : Nat
  /-- Address of a parse memory word whose next read finds a parity error (R138). -/
  par : Option Nat := none
  deriving DecidableEq, Repr

/-- The extracted fields: key bytes 0 to 75 and the field-valid bits (R128). -/
structure Fields where
  bytes : List Byte
  fv : Nat
  deriving DecidableEq, Repr

/-- The result of a walk: the fields, and the exception bit if one is set (R136). -/
structure WalkOut where
  fields : Fields
  exc : Option Nat
  /-- A read of parse memory found a parity error, which ended the walk (R138). -/
  par : Bool := false
  deriving DecidableEq, Repr

/-- Does a read of `n` bytes of parse memory at `a` find the parity error? -/
def WalkIn.meets (i : WalkIn) (a n : Nat) : Bool := i.par.any (fun w => decide (a ≤ w) && decide (w < a + n))

def excDepth : Nat := 0
def excLength : Nat := 1
def excWindow : Nat := 2
def excUnknown : Nat := 3
def excOption : Nat := 4
def excTruncated : Nat := 5
def excLimit : Nat := 6

/-- Window byte `i`, zero past its end. -/
def winByte (i : WalkIn) (k : Nat) : Nat := (i.win.getD k 0).toNat

/-- A header word at window byte `k`, shifted and cut to a field (R131). -/
def headerField (i : WalkIn) (k shift width : Nat) : Nat :=
  ((winByte i k * 256 + winByte i (k + 1)) >>> shift) % 2 ^ (width + 1)

/-- Word `o` of node `n`. -/
def nodeWord (s : State) (n o : Nat) : Word := s.live (0xE4000 + n * 0x10 + o)

/-- Copy `l` over the bytes from index `k` on. -/
def putBytes (b : List Byte) (k : Nat) : List Byte → List Byte
  | [] => b
  | v :: l => putBytes (b.set k v) (k + 1) l

/-- Carry out extraction word `x` from a source that starts at window byte `base` and is `lim` bytes
long (R133). -/
def extractOne (i : WalkIn) (base lim : Nat) (x : Word) (q : Fields) : Fields :=
  let n := fld x 23 20 + 1
  if bit x 31 && q.fv.testBit (fld x 12 8) then q
  else if lim < fld x 29 24 + n then q
  else { bytes := putBytes q.bytes (fld x 19 13) ((List.range n).map (fun j => i.win.getD (base + fld x 29 24 + j) 0))
         fv := q.fv ||| 2 ^ fld x 12 8 }

/-- Extraction word `k` of a node. -/
def extractAddr (s : State) (node k : Nat) : Nat := 0xE2000 + (fld (nodeWord s node 0xC) 17 8 + k) * 4

/-- One of the extraction words of a node has the parity error. -/
def extractPar (s : State) (i : WalkIn) (node : Nat) : Bool :=
  (List.range (fld (nodeWord s node 0xC) 22 18)).any (fun k => i.meets (extractAddr s node k) 4)

/-- The extractions of a node with OPT = `opt`, in order, from a source (R133, R134), up to a word with a parity
error. -/
def extractAll (s : State) (i : WalkIn) (node : Nat) (opt : Bool) (base lim : Nat) (q : Fields) : Fields :=
  let e := nodeWord s node 0xC
  ((List.range (fld e 22 18)).takeWhile (fun k => !i.meets (extractAddr s node k) 4)).foldl (fun q k =>
    let x := s.live (0xE2000 + (fld e 17 8 + k) * 4)
    if bit x 30 == opt then extractOne i base lim x q else q) q

/-- What walking the options of a header gives (R134). -/
structure OptOut where
  visits : Nat
  exc : Option Nat
  /-- Start and length of the matched option. -/
  hit : Option (Nat × Nat)
  deriving DecidableEq, Repr

/-- Walk the options from window byte `o` up to the header's end (R134). -/
def walkOptions (i : WalkIn) (stop optMax match_ visitMax : Nat) : Nat → Nat → Nat → Nat → Option (Nat × Nat) → OptOut
  | 0, _, _, visits, hit => { visits := visits, exc := none, hit := hit }
  | fuel + 1, o, count, visits, hit =>
    if stop ≤ o then { visits := visits, exc := none, hit := hit }
    else
      let ty := winByte i o
      if ty = 0 then { visits := visits, exc := none, hit := hit }
      else if ty = 1 then walkOptions i stop optMax match_ visitMax fuel (o + 1) count visits hit
      else if visitMax < visits + 1 then { visits := visits + 1, exc := some excLimit, hit := hit }
      else
        let n := winByte i (o + 1)
        if stop ≤ o + 1 ∨ n < 2 ∨ stop < o + n ∨ optMax < count + 1 then { visits := visits + 1, exc := some excOption, hit := hit }
        else
          let hit := if ty = match_ ∧ hit.isNone then some (o, n) else hit
          walkOptions i stop optMax match_ visitMax fuel (o + n) (count + 1) (visits + 1) hit

/-- The first transition of a node that a selector matches (R132). -/
def transFor (s : State) (node sel : Nat) : Option Nat :=
  let base := fld (nodeWord s node 0xC) 31 23
  (List.range (fld (nodeWord s node 8) 13 9)).find? (fun k =>
    let w := s.live (0xE1000 + (base + k) * 8)
    sel &&& fld w 31 16 == fld w 15 0 &&& fld w 31 16)

/-- A transition read up to the first match has the parity error. -/
def transPar (s : State) (i : WalkIn) (node sel : Nat) : Bool :=
  let base := fld (nodeWord s node 0xC) 31 23
  let n := fld (nodeWord s node 8) 13 9
  (List.range (((transFor s node sel).map (fun k => k + 1)).getD n)).any (fun k => i.meets (0xE1000 + (base + k) * 8) 8)

/-- The next node of a node for a selector (R132). -/
def nextNode (s : State) (node sel : Nat) : Option Nat :=
  let g := nodeWord s node 8
  let base := fld (nodeWord s node 0xC) 31 23
  match transFor s node sel with
  | some k => some (s.cfg (0xE1000 + (base + k) * 8 + 4) 8 0)
  | none => if bit g 16 then some (fld g 8 0) else none

/-- The length of the header of a node at `pos`, by R131. -/
def headerLen (s : State) (i : WalkIn) (node pos : Nat) : Nat :=
  let a := nodeWord s node 0
  if fld a 30 29 = 1 then headerField i (pos + fld a 26 21) (fld a 20 17) (fld a 16 13) * 2 ^ fld a 28 27 + fld a 7 0
  else fld a 7 0

/-- The walk from `node` at `pos` (R135); `fuel` bounds the headers, which DEPTH_MAX bounds at 31. -/
def walkFrom (s : State) (i : WalkIn) : Nat → Nat → Nat → Nat → Nat → Fields → WalkOut
  | 0, _, _, _, _, q => { fields := q, exc := some excDepth }
  | fuel + 1, node, pos, depth, visits, q =>
    let depthMax := s.cfg 0xE0000 4 0
    let visitMax := s.cfg 0xE0000 21 16
    let a := nodeWord s node 0
    let lim := nodeWord s node 4
    let g := nodeWord s node 8
    if depth = depthMax then { fields := q, exc := some excDepth }
    else if visits = visitMax then { fields := q, exc := some excLimit }
    else if i.meets (0xE4000 + node * 0x10) 16 then { fields := q, exc := none, par := true }
    else if fld a 30 29 = 1 ∧ i.f < pos + fld a 26 21 + 2 then { fields := q, exc := some excTruncated }
    else if fld a 30 29 = 1 ∧ i.w < pos + fld a 26 21 + 2 then { fields := q, exc := some excWindow }
    else
      let len := headerLen s i node pos
      if len < fld lim 31 24 ∨ fld lim 23 16 < len then { fields := q, exc := some excLength }
      else if i.f < pos + len then { fields := q, exc := some excTruncated }
      else if i.w < pos + len then { fields := q, exc := some excWindow }
      else
        let q1 := extractAll s i node false pos len q
        let sel := headerField i (pos + fld g 31 26) (fld g 25 22) (fld g 21 18)
        if extractPar s i node then { fields := q1, exc := none, par := true } else
        let o : OptOut := if fld lim 15 12 = 0 then { visits := visits + 1, exc := none, hit := none }
          else walkOptions i (pos + len) (fld lim 15 12) (fld (nodeWord s node 0xC) 7 0) visitMax 256 (pos + fld lim 11 6) 0 (visits + 1) none
        match o.exc with
        | some e => { fields := if e = excOption then q1 else q, exc := some e }
        | none =>
          let q2 := match o.hit with
            | none => q1
            | some (b, n) => extractAll s i node true b n q1
          if bit g 17 then { fields := q2, exc := none }
          else if transPar s i node sel then { fields := q2, exc := none, par := true }
          else match nextNode s node sel with
            | none => { fields := q, exc := some excUnknown }
            | some m => walkFrom s i fuel m (pos + len) (depth + 1) o.visits q2

/-- No field extracted. -/
def Fields.none : Fields := { bytes := List.replicate 76 0, fv := 0 }

/-- The walk of a header-form request under root `r` (R135). -/
def walk (s : State) (r : Nat) (i : WalkIn) : WalkOut :=
  let w := s.live (0xE0040 + r * 4)
  if i.meets (0xE0040 + r * 4) 4 then { fields := Fields.none, exc := none, par := true }
  else if bit w 31 then walkFrom s i 33 (fld w 8 0) 0 0 0 Fields.none else { fields := Fields.none, exc := some excUnknown }

/-- The limits F and W of a window (R127). -/
def walkIn (winLen frameLen : Nat) (win : List Byte) : WalkIn :=
  let f := if frameLen = 0 then 65535 else frameLen
  { win := win.take 192, f := f, w := min (min (min winLen 192) f) win.length }

/-- The key vector of a header-form request in its first pass (R104, R128). -/
def headerVec (out : WalkOut) (hostClass port : Nat) : KeyVec :=
  let exc := match out.exc with
    | none => 0
    | some e => 2 ^ e
  BitVec.ofNat 704 (natLE out.fields.bytes + out.fields.fv % 2 ^ 32 * 2 ^ 608 + port % 16 * 2 ^ 684 +
    hostClass % 256 * 2 ^ 688 + (128 + exc) * 2 ^ 696)

/-- The key vector of a key-form request in its first pass (R104). -/
def keyFormVec (v : KeyVec) (port : Nat) : KeyVec :=
  BitVec.ofNat 704 (fld v 639 0 + port % 16 * 2 ^ 684 + fld v 695 688 * 2 ^ 688 + fld v 702 696 * 2 ^ 696)

/-- The key vector of pass `p` (R104, R146). -/
def passVec (v : KeyVec) (p : Nat) : KeyVec :=
  BitVec.ofNat 704 (fld v 681 0 + p % 4 * 2 ^ 682 + fld v 703 684 * 2 ^ 684)

end Sys2Proof.Machine
end

