-- ==== Sys2Proof/Machine/Search.lean ====
section
/-! DEFINITION. Admission of a ternary lookup (R81 to R83, R92 to R94, R251, R300, R302): sift keys,
the copies of the selected blocks, their SEARCH slots, and the issue on the dies. -/

namespace Sys2Proof.Machine

/-- Round up to a hub cycle. -/
def hubCeil (x : Nat) : Nat := (x + 7) / 8 * 8

/-- Enter FAULTSAFE for the cause of bit `b`, with the die for bit 0 (R374). -/
def enterFs (s : State) (b die : Nat) : State :=
  let s := { s with stage := { s.stage with
    fsCause := s.stage.fsCause ||| BitVec.ofNat 5 (2 ^ b)
    fsDie := if b = 0 then s.stage.fsDie ||| BitVec.ofNat 4 (2 ^ die) else s.stage.fsDie } }
  if s.stage.stage = 4 then s
  else if s.stage.stage = 0 then { s with stage := { s.stage with fsPending := true } }
  else
    let old := s.stage.stage
    { s with stage := { s.stage with stage := 4 } }.raise { src := 16, sev := 4 } old 4 s.epoch.count

/-! ### Rates of five hub cycles (R81, R161) -/

/-- Keys or walks that start in the five hub cycles from `c` on. -/
def fiveSum (m : NMap Nat) (c : Nat) : Nat := sumNat ((List.range 5).map (fun i => mapGetD m (c + i) 0))

/-- One more may start in cycle `c` with at most `n` in any five consecutive cycles. -/
def fiveOk (m : NMap Nat) (n c : Nat) : Bool :=
  (List.range 5).all (fun i => decide (c < i) || decide (fiveSum m (c - i) < n))

/-- The first cycle from `c` on that `ok` allows, among the next `fuel`. -/
def firstCycle (ok : Nat → Bool) : Nat → Nat → Option Nat
  | 0, _ => none
  | k + 1, c => if ok c then some c else firstCycle ok k (c + 1)

/-- One more starts in cycle `c`; cycles before `old` can no longer matter. -/
def fiveTake (m : NMap Nat) (old c : Nat) : NMap Nat :=
  mapMod (m.filter (fun p => decide (old ≤ p.1 + 5))) c 0 (fun n => n + 1)

/-! ### Slot wheels (R297, R303, R304, R480) -/

/-- Address of live word `j` of wheel `i` (R307). -/
def wheelAddr (i j : Nat) : Nat := if i < 64 then 0x120000 + i * 0x100 + j * 4 else 0x128000 + (i - 64) * 0x100 + j * 4

/-- Owner of slot `k` of a wheel, in the words that `w` gives. -/
def ownerIn (w : Nat → Word) (k : Nat) : Nat := fld (w (k / 8 % 32)) (4 * (k % 8) + 3) (4 * (k % 8))

/-- The turn counter of a wheel (R480): one per die, and one per stack. -/
def wheelPhase (s : State) (i : Nat) : Nat := Config.turnPhase (if i < 64 then i / 16 else i - 60) s.power.resets

/-- Owner of the slot of wheel `i` in cycle `c` of its clock, as it is known in cycle `k`: a copy that has reached the
die or the hub counts from its wrap on (R303, R304). -/
def ownerBy (s : State) (i c k : Nat) : Nat :=
  let n := (c + wheelPhase s i) % 256
  match ((mapGetD s.regs.wheelPend i []).filter (fun p => decide (p.1 ≤ k) && decide (p.2.1 ≤ c))).getLast? with
  | some p => ownerIn (fun j => p.2.2.getD j 0) n
  | none => ownerIn (fun j => s.live (wheelAddr i j)) n

/-- Owner of the slot of block wheel `i` in pipe cycle `c`, as admission knows it now. -/
def wheelOwner (s : State) (i c : Nat) : Nat := ownerBy s i c (s.now / 10)

/-- Keys booked at a unit in a pipe cycle. -/
def keysAt (s : State) (d u c : Nat) : Nat :=
  match s.dies.book.find? (fun (b : Booking) => b.die == d && b.unit == u && b.cycle == c) with
  | some b => b.keys
  | none => 0

/-- May a key be booked at a unit in a pipe cycle (R82)? Admission releases a SEARCH slot that has no booking 4 pipe
cycles before it begins (R302). -/
def slotOpen (s : State) (d u c : Nat) : Bool :=
  wheelOwner s (16 * d + wheelGroup u) c == 1 && decide (keysAt s d u c < 2) &&
    (decide (s.now / 10 + 4 ≤ c) || keysAt s d u c != 0)

/-- Searches that wait on pipe `p` of a die in pipe cycle `c` (R83). -/
def pipeWaits (s : State) (d p c : Nat) : Nat :=
  (s.dies.issue.filter (fun (i : Issue) => i.die == d && i.pipe == p && decide (i.from_ ≤ c) && decide (c ≤ i.cycle))).length

/-- A pipe issues at most one search in a pipe cycle (R83). -/
def pipeOpen (s : State) (d p c : Nat) : Bool := !s.dies.issue.any (fun (i : Issue) => i.die == d && i.pipe == p && i.cycle == c)

/-- The pipe of die `d` that takes a search which reaches it in pipe cycle `lo`, and the cycle in which it issues: of
the eight pipes that can issue it by cycle `hi`, the one with the fewest searches waiting, the lowest on a tie (R83,
R93). -/
def choosePipe (s : State) (d lo hi : Nat) : Option Issue :=
  ((List.range 8).filterMap (fun p => (firstCycle (pipeOpen s d p) (hi + 1 - lo) lo).map (fun c =>
      (pipeWaits s d p lo, ({ die := d, pipe := p, from_ := lo, cycle := c } : Issue))))).foldl
    (fun (m : Option (Nat × Issue)) q => match m with
      | none => some q
      | some b => if q.1 < b.1 then some q else m) none |>.map (fun q => q.2)

/-! ### Copies (R92) -/

/-- What a lookup has to activate: the copies in the order in which they are tried, each as die and
unit, the block whose counters record it, and whether that block is a block at all (a crumb spare is
not). -/
structure Target where
  cands : List (Nat × Nat)
  /-- The copies from the round-robin pointer as it stands after this lookup (R92). -/
  next : List (Nat × Nat)
  die : Nat
  block : Nat
  real : Bool
  /-- No healthy copy is left, and QUARANTINE is 1 (R253). -/
  closed : Bool
  deriving DecidableEq, Repr

/-- A chosen copy and the pipe cycle booked on it. -/
structure Pick where
  die : Nat
  unit : Nat
  block : Nat
  real : Bool
  start : Nat
  deriving DecidableEq, Repr

/-- Rotate a list to begin at element `k`. -/
def rotate {α : Type} (l : List α) (k : Nat) : List α := l.drop (k % max 1 l.length) ++ l.take (k % max 1 l.length)

/-- Is the copy at unit `u` of die `d` a suspect mirror, which the copy set no longer holds (R257)? -/
def withdrawn (s : State) (d u : Nat) : Bool := decide (1024 ≤ u) && (s.spare d (u - 1024)).use == 1 && unitSuspect s d u

/-- The target with copies `l` and block `b` of die `d`, its round-robin pointer `key` advanced for this lookup (R92,
R253, R257). The value of a pointer at reset, and after a change of the copy set, is not given: the model starts it at
0 and takes it modulo the number of copies (DESIGN CHOICE; assumption 80). -/
def chooseFrom (s : State) (key d b : Nat) (l : List (Nat × Nat)) : Target × State :=
  let n := mapGetD s.dies.rr key 0
  let ok := fun (r : List (Nat × Nat)) => r.filter (fun c => !unitSuspect s c.1 c.2)
  let order := fun (r : List (Nat × Nat)) => if (ok r).isEmpty then r.filter (fun c => !withdrawn s c.1 c.2) else ok r
  ({ cands := order (rotate l n), next := order (rotate l (n + 1)), die := d, block := b, real := true
     closed := (ok l).isEmpty && bit (s.live 0x13F000) 1 },
   if l.length < 2 then s else
    { s with dies := { s.dies with rr := mapMod s.dies.rr key 0 (fun n => (n + 1) % l.length) } })

/-- The target of the block that a cover selects. -/
def coverTarget (s : State) (d b : Nat) : Target × State :=
  chooseFrom s (blkKey d b) d b ((copies s d b).map (fun u => (d, u)))


/-- The target of an always-on group. -/
def aoTarget (s : State) (t : Nat) (x : Table) : Option (Target × State) := match replicas x with
  | [] => none
  | h :: r => some (chooseFrom s (4096 + t) h.die h.block ((h :: r).map (fun b => (b.die, primaryUnit s b.die b.block))))

/-- The targets of the covers a sift search selects. -/
def coverTargets (s : State) : List (Nat × Nat) → List Target × State
  | [] => ([], s)
  | (d, b) :: l =>
    let (t, s) := coverTarget s d b
    let (r, s) := coverTargets s l
    (t :: r, s)

/-- Drop repeated blocks. -/
def dedupBlocks : List (Nat × Nat) → List (Nat × Nat)
  | [] => []
  | a :: l => if l.contains a then dedupBlocks l else a :: dedupBlocks l

/-- Everything a ternary lookup of slot `k` selects (R78). -/
def targetsOf (s : State) (t : Nat) (x : Table) (k : Nat) (key : Key) : List Target × State :=
  let (l, s) := coverTargets s (dedupBlocks ((sifted x k key).map (fun c => (c.die, c.block))))
  if structAO (ta s t 0) then
    match aoTarget s t x with
    | some (a, s) => (a :: l, s)
    | none => (l, s)
  else (l, s)

/-- The crumb spares of a table (R369). -/
def crumbTargets (s : State) (t : Nat) : List Target :=
  (([0, 1, 2, 3].map (fun d => ([28, 29, 30, 31].filter (fun k => (s.spare d k).crumb == some t)).map (fun k =>
    ({ cands := [(d, 1024 + k)], next := [], die := d, block := 0, real := false, closed := false } : Target))))).flatten

/-! ### Admission (R93) -/

/-- The block that unit `u` of die `d` serves. -/
def unitBlock (s : State) (d u : Nat) : Nat := if u < 1024 then u else (s.spare d (u - 1024)).primary

/-- The first copy that can start in the pipe cycles `lo` to `hi`: its activation counts at the block it serves, of a
replica the replica's own (R100). -/
def pickCopy (s : State) (t : Target) (lo hi : Nat) : List (Nat × Nat) → Option Pick
  | [] => none
  | (d, u) :: l => match firstCycle (slotOpen s d u) (hi + 1 - lo) lo with
    | some c => some { die := d, unit := u, block := unitBlock s d u, real := t.real, start := c }
    | none => pickCopy s t lo hi l

/-- Grants of the SEARCH requester of a unit's wheel, and activations of its block (R99, R308). -/
def countPick (s : State) (p : Pick) : State :=
  let s := s.bump (0x12A000 + (16 * p.die + wheelGroup p.unit) * 0x40)
  if p.real then s.setBlk p.die p.block { s.blk p.die p.block with actNow := min 0xFFFFFFFF ((s.blk p.die p.block).actNow + 1) } else s

/-- Book an activation. -/
def bookPick (s : State) (p : Pick) : State :=
  let keep := s.dies.book.filter (fun (b : Booking) => decide (s.now ≤ 10 * (b.cycle + 1)))
  let has := keep.any (fun (b : Booking) => b.die == p.die && b.unit == p.unit && b.cycle == p.start)
  let book := if has then keep.map (fun (b : Booking) =>
      if b.die = p.die ∧ b.unit = p.unit ∧ b.cycle = p.start then { b with keys := b.keys + 1 } else b)
    else { die := p.die, unit := p.unit, cycle := p.start, keys := 1 } :: keep
  countPick { s with dies := { s.dies with book := book } } p

/-- A search takes its place on a pipe; those that have issued are forgotten. -/
def bookIssue (s : State) (i : Issue) : State :=
  { s with dies := { s.dies with issue := i :: s.dies.issue.filter (fun (p : Issue) => decide (s.now ≤ 10 * (p.cycle + 1))) } }

/-- Block `b` of die `d` refuses a lookup of table `t` (R94). -/
def refuseAt (s : State) (t d b : Nat) : State :=
  let s := s.bump (sdAddr d (0x3000 + 4 * b))
  if (s.blk d b).refused then s
  else (s.setBlk d b { s.blk d b with refused := true }).raise (evSrcOverload d) t b

/-- The outcome of admission: the copies activated, or a refusal. -/
structure Adm where
  picks : List Pick
  refused : Bool
  s : State
  deriving DecidableEq, Repr

/-- Admit or refuse a lookup of table `t` whose keys reach the dies at time `arr` with slack `slack`. -/
def admitKeys (s : State) (t : Nat) (ts : List Target) (arr slack : Nat) : Adm :=
  let lo := (arr + 9) / 10
  let hi := (arr + 160 + slack) / 10
  let tried := ts.map (fun (x : Target) => (x, pickCopy s x lo hi x.cands))
  let bad := tried.filter (fun p => p.2.isNone && p.1.real)
  if tried.any (fun p => p.2.isNone) then
    { picks := [], refused := true, s := bad.foldl (fun s p => refuseAt s t p.1.die p.1.block) s }
  else
    let picks := tried.filterMap (fun p => p.2)
    let ds := dedup (picks.map (fun p => p.die))
    let full := ds.filter (fun d => (choosePipe s d lo hi).isNone)
    if full.isEmpty then
      { picks := picks, refused := false, s := picks.foldl bookPick ((ds.filterMap (fun d => choosePipe s d lo hi)).foldl bookIssue s) }
    else
      { picks := [], refused := true
        s := (picks.filter (fun p => p.real && full.contains p.die)).foldl (fun s p => refuseAt s t p.die p.block) s }

/-- Activation wait beyond the 16 pipe cycles of R90. -/
def lateness (ps : List Pick) (arr : Nat) : Nat := maxNat (ps.map (fun p => 10 * p.start - (arr + 160)))

/-! ### Faults on the search path (R250 to R253) -/

/-- The copy at unit `u` of die `d` becomes suspect (R253). -/
def markSuspect (s : State) (d u : Nat) : State :=
  if unitSuspect s d u then s
  else
    let s := s.bump 0x13F048
    if u < 1024 then s.setBlk d u { s.blk d u with st := 2 }
    else s.setSpare d (u - 1024) { s.spare d (u - 1024) with suspect := true }

/-- A complement-carried value is repaired (R273). The spec gives no code for the kind of the value: it
is a free value. -/
def cxRepair (s : State) (loc : Nat) : State :=
  let (n, s) := draw s
  (s.bump 0x130128).raise evIntCxRepair (Config.openNat n) loc

/-- A mismatch of parity met at a register that is not CX (R360). -/
def parityAt (s : State) (a : Nat) : State := match regDesc a with
  | none => s
  | some d =>
    if d.cx ≠ 0 ∨ d.rw = 0 then s
    else
      let s := s.bump 0x244
      let s := if bit (s.live 0x240) 31 then s else s.setLive 0x240 (word (0x80000000 + a % 0x1000000))
      if s.regs.parityErr.contains a then s
      else { s with regs := { s.regs with parityErr := s.regs.parityErr ++ [a] } }.raise evCfgParity a

/-- Is the value at `a` carried with its complement: a register with CX fields, or the lease (R272, R361)? -/
def carriesCx (a : Nat) : Bool := ((regDesc a).map (fun d => d.cx)).getD 0 != 0 || a == 0x10010 || a == 0x10014

/-- What a read or a use that meets an error does first (R360, R361). An error that the register cannot have does not
arise (assumption 4). -/
def readErr (s : State) (a : Nat) (e : RegErr) : State := match e with
  | .parity => parityAt s a
  | .cxOneGood => if carriesCx a then cxRepair s a else s
  | .cxShadow => if carriesCx a then cxRepair s a else s
  | .cxLost => if carriesCx a then enterFs (s.raise evCfgCxLost a) 4 0 else s
  | _ => s

/-- A result-store row is rewritten from the shadow (R256). -/
def rsRepair (s : State) (d : Nat) : State := ((s.bump 0x130124).bump 0x13F050).raise evRcvRsRepair d

/-- RCV_FAULT, at most once for a block in an epoch (R252). -/
def faultEvent (s : State) (t d b : Nat) : State := s.raiseOnce evRcvFault (d * 2048 + b) t d b

/-- Try a copy retry (R251): the pick, when the first other copy from the pointer as it stands is admitted (R92). `arr` is the arrival at the die
with the wait beyond 16 cycles, and `slack` what remains of the slack. -/
def copyRetry (s : State) (tg : Target) (bad : Pick) (arr slack : Nat) : Option Pick :=
  match tg.next.filter (fun c => c != (bad.die, bad.unit)) with
  | [] => none
  | c :: _ => if slack < 1900 then none else pickCopy s tg ((arr + 1900 + 9) / 10) ((arr + 160 + slack) / 10) [c]

/-- What became of the faults of an admitted lookup: whether a verified answer stands, the time a retry
took, and the state. -/
structure Retried where
  good : Bool
  took : Nat
  s : State
  deriving DecidableEq, Repr

/-- A path fault that a lookup met on unit `unit` of die `die`; `stuck` are the blocks whose rows refer to
the winner's segment position. -/
structure Met where
  fault : PathFault
  die : Nat
  unit : Nat
  again : Bool
  stuck : List (Nat × Nat)
  deriving DecidableEq, Repr

/-- What a path fault does to the copies and the result store at once (R253, R256). -/
def metFault (s : State) (q : Met) : State := match q.fault with
  | .linkCrc => s
  | .blockParity => markSuspect s q.die q.unit
  | .tagTable => markSuspect s q.die q.unit
  | .tagUe => rsRepair s q.die
  | .adUe => rsRepair s q.die
  | .tagStuck => q.stuck.foldl (fun s c => markSuspect s c.1 c.2) (rsRepair s q.die)
  | .adStuck => q.stuck.foldl (fun s c => markSuspect s c.1 c.2) (rsRepair s q.die)

/-- The slack that the retry of a fault needs, in time units, when its path is no other copy (R250). -/
def directRetry : PathFault → Option Nat
  | .linkCrc => some 600
  | .tagUe | .adUe | .tagStuck | .adStuck => some 3000
  | .blockParity | .tagTable => none

/-- Handle the path faults that a lookup met. `slack` is its remaining slack after admission. The
targets name the copies a retry may take, a faulty copy counting as suspect at once. -/
def pathFaults (s : State) (t : Nat) (ts : List Target) (picks : List Pick) (arr slack : Nat)
    (fs : List Met) : Retried :=
  match fs with
  | [] => { good := true, took := 0, s := s }
  | q :: more =>
    let (d, u, again) := (q.die, q.unit, q.again)
    let s := fs.foldl metFault s
    let p := (picks.find? (fun p => p.die == d && p.unit == u)).getD { die := d, unit := u, block := 0, real := false, start := 0 }
    let fail := fun (s : State) => { good := false, took := 0, s := (faultEvent (s.bump 0x13F044) t d p.block : State) : Retried }
    let on := bit (s.live 0x13F000) 0 && more.isEmpty
    match directRetry q.fault with
    | some need => if on && decide (need ≤ slack) && !again then { good := true, took := need, s := s.bump 0x13F040 } else fail s
    | none =>
      match ts.find? (fun (x : Target) => x.cands.contains (d, u)) with
      | none => fail s
      | some tg =>
        let tg := { tg with next := tg.next.filter (fun c => !unitSuspect s c.1 c.2) }
        match copyRetry s tg p arr slack with
        | none => fail s
        | some q =>
          if !on then fail s
          else
            let s := bookPick s q
            if again then fail s else { good := true, took := 1900 + (10 * q.start - (arr + 2060)), s := s.bump 0x13F040 }

end Sys2Proof.Machine
end

