-- ==== Sys2Proof/Machine/Frames.lean ====
section
/-! DEFINITION. Frames as bits (R8, R116, R119, R315, R429) and the flit slots of a port's transmit
schedule (R125, R428, R479). -/

namespace Sys2Proof.Machine

/-! ### Frames -/

/-- The flits of a frame of `n` bits, its most significant bit first, padded with zeros (R8, R429). -/
def frameFlits (n v : Nat) : List Flit :=
  let m := (n + 255) / 256
  (List.range m).map (fun i => BitVec.ofNat 256 ((v * 2 ^ (256 * m - n)) >>> (256 * (m - 1 - i))))

/-- The bits of a list of flits as one number, the first flit highest. -/
def flitsNat : List Flit → Nat
  | [] => 0
  | f :: l => f.toNat * 2 ^ (256 * l.length) + flitsNat l

/-- Bits [hi:lo] of the `n`-flit payload, numbered from its first bit: bit 0 is sent first. -/
def payload (fl : List Flit) (first n : Nat) : Nat :=
  if first + n ≤ 256 * fl.length then (flitsNat fl >>> (256 * fl.length - first - n)) % 2 ^ n
  else if first < 256 * fl.length then
    (flitsNat fl % 2 ^ (256 * fl.length - first)) * 2 ^ (first + n - 256 * fl.length)
  else 0

/-- A view token (R105). -/
def tokenWord (v : Nat) : Nat := v % 2 ^ 24 * 256 + (255 - v % 256)

/-- A lookup record of 128 bits (R119). -/
def recordBits (st : Nat) (r : Rec) : Nat :=
  st % 256 * 2 ^ 120 + r.prio % 2 ^ 24 * 2 ^ 96 + r.handle % 2 ^ 32 * 2 ^ 64 + r.action.toNat * 2 ^ 32 +
    (2 ^ 32 - 1 - r.action.toNat)

/-- Records with their associated data, packed after `acc` (R117). -/
def packRecs (acc : Nat) : List Rec → Nat
  | [] => acc
  | r :: l => packRecs ((acc * 2 ^ 128 + recordBits r.status r) * 2 ^ r.bits + r.data.toNat % 2 ^ r.bits) l

/-- Bits of a response whose records carry the given data lengths (R117). -/
def responseLen (bits : List Nat) (merge : Bool) : Nat :=
  64 + sumNat (bits.map (fun b => 128 + b)) + (if merge then 256 else 0)

/-! ### Flit slots -/

/-- Length of a round in units of 100 ps (R425). -/
def roundLen (l : Link) : Nat := if l.nrz then 2048 else 1024

/-- Slots of a round (R428). -/
def roundSlots (l : Link) : Nat := 20 * l.width

/-- Start of slot `g` of the grid. -/
def slotStart (l : Link) (g : Nat) : Nat := l.grid + g * roundLen l / max 1 (roundSlots l)

/-- Skip a link-control slot (R428). -/
def frameSlot (l : Link) (g : Nat) : Nat := if g % max 1 (roundSlots l) = 0 then g + 1 else g

/-- The first frame slot that begins at or after time `t` (R479). -/
def firstSlot (l : Link) (t : Nat) : Nat :=
  frameSlot l (((t - l.grid) * roundSlots l + roundLen l - 1) / roundLen l)

/-- The last of `n` consecutive frame slots from `g` on. -/
def lastOf (l : Link) : Nat → Nat → Nat
  | 0, g => g
  | 1, g => g
  | n + 2, g => lastOf l (n + 1) (frameSlot l (g + 1))

/-- Are the slots from `g` to `h` free? -/
def slotsFree (l : Link) (g h : Nat) : Bool := !l.booked.any (fun b => decide (b.1 ≤ h) && decide (g ≤ b.2))

/-- Book the slots from `g` to `h`; bookings that lie before `now` no longer matter. -/
def bookSlots (l : Link) (now g h : Nat) : Link :=
  { l with booked := (g, h) :: l.booked.filter (fun b => decide (now ≤ slotStart l (b.2 + 1))) }

/-- The first run of `n` free frame slots from `g` on, among the next `fuel`. -/
def freeRun (l : Link) (n : Nat) : Nat → Nat → Option Nat
  | 0, _ => none
  | k + 1, g => if slotsFree l g (lastOf l n g) then some g else freeRun l n k (frameSlot l (g + 1))

/-- The port carries frames. -/
def linkUp (l : Link) : Bool := l.st == 2 || l.st == 3

end Sys2Proof.Machine
end

