-- ==== Sys2Proof/Machine/Lookup.lean ====
section
/-! DEFINITION. One lookup of a request (R108 to R111, R122, R123, R149 to R152, R158, R171, R221,
R227, R252, R314 to R321, R369): its key, its view, its search and its record. -/

namespace Sys2Proof.Machine

/-- What every lookup of a request shares. -/
structure Ask where
  port : Nat
  ctx : Nat
  tag : Nat
  len : Nat
  t0 : Nat
  /-- L in hub cycles. -/
  lat : Nat
  view : Nat
  phase : Nat
  /-- The view of a good token (R105). -/
  tok : Option Nat
  /-- A token failed its complement check (R106). -/
  tokBad : Bool
  hform : Bool
  /-- The walk met a parity error (R138). -/
  parseErr : Bool
  faults : List FaultAt
  deriving DecidableEq, Repr

/-- The outcome of one lookup: its record, the time it waited beyond what R90 allows, a cascaded part
under way, whether the presented view answered it, and the state. -/
structure LkRes where
  record : Rec
  wait : Nat
  csc : Option CscWait
  tokUsed : Bool
  s : State
  deriving DecidableEq, Repr

/-! ### Profiles and keys -/

/-- PF_LKP of a slot. -/
def pfLkp (s : State) (n k : Nat) : Word := s.live (pfAddr n (0x10 + k * 0x30))

/-- Table of a slot. -/
def pfTable (s : State) (n k : Nat) : Nat := fld (pfLkp s n k) 31 24

/-- Slots of a profile in use. -/
def pfSlots (s : State) (n : Nat) : Nat := s.cfg (pfAddr n 0) 25 24 + 1

/-- The ranges of a slot: start and length in bytes (R107). -/
def pfRanges (s : State) (n k : Nat) : List (Nat × Nat) :=
  (List.range (fld (pfLkp s n k) 4 0)).map (fun r =>
    let w := s.live (pfAddr n (0x14 + k * 0x30 + r / 2 * 4))
    if r % 2 = 0 then (fld w 6 0, fld w 14 8) else (fld w 22 16, fld w 30 24))

/-- Join the ranges of a key vector (R108). -/
def joinRanges (v : List Byte) (rs : List (Nat × Nat)) : List Byte := (rs.map (fun r => slice v r.1 r.2)).flatten

/-- Joined length of the ranges. -/
def joinedLen (rs : List (Nat × Nat)) : Nat := sumNat (rs.map (fun r => r.2))

/-- The table key of a slot (R108). -/
def slotKey (s : State) (n k : Nat) (v : KeyVec) : Key :=
  BitVec.ofNat 640 (natLE (joinRanges (bytesLE 88 v.toNat) (pfRanges s n k)))

/-- Key width of a table in bytes (R109). -/
def keyWidth (s : State) (t : Nat) (x : Table) : Nat := match x.kind with
  | .ternary => 10 * taW s t
  | .tree => 40
  | .direct => 3

/-- TA_LAT of a table for a request with this t0 (R69). -/
def taLat (s : State) (t t0 : Nat) : Nat := match s.table t with
  | none => 0
  | some x => match x.latOld.find? (fun p => t0 < p.2) with
    | some p => p.1
    | none => fld (ta s t 8) 12 0

/-- L of a request under profile `n`, in hub cycles (R149). -/
def requestLat (s : State) (n t0 : Nat) : Nat :=
  let l := ((List.range (pfSlots s n)).map (fun k => pfTable s n k)).filter (fun t => (s.table t).isSome)
  if bit (s.live (pfAddr n 0)) 31 && !l.isEmpty then maxNat (l.map (fun t => taLat s t t0)) else 450

/-- The path minimum of a lookup of table `t` in pass `p` (R149). -/
def pathMin (s : State) (t p : Nat) (hform : Bool) : Nat :=
  hubCeil (8 * tableLatMin s t + 1500 * p + (if hform then 960 else 0))

/-! ### Records -/

/-- A record that carries no answer (R122). -/
def bareRec (s : State) (t st : Nat) (act : Word) (safe : Bool) : Rec :=
  { table := t, status := st, prio := 0, handle := 0xFFFFFFFF, action := act, data := 0
    bits := adBits (ta s t 0x14), upd := none, learn := none, safe := safe, trig := false, awBad := false }

/-- The safe result of a table (R67). -/
def safeRec (s : State) (t st : Nat) : Rec := bareRec s t st (ta s t 0x10) (s.table t).isSome

/-- A MISS or TABLE_ABSENT record. -/
def missRec (s : State) (t st : Nat) : Rec := bareRec s t st 0 false

/-- A record with the fields of an answer. -/
def foundRec (s : State) (t st : Nat) (f : Found) : Rec :=
  { table := t, status := st, prio := f.prio, handle := f.handle, action := f.action, data := f.data
    bits := adBits (ta s t 0x14), upd := none, learn := none, safe := st == luSafe, trig := false, awBad := false }

/-- A lookup that ends with a record and nothing else. -/
def answered (r : Rec) (s : State) : LkRes := { record := r, wait := 0, csc := none, tokUsed := false, s := s }

/-! ### Learning and counting -/

/-- The learn record of a class-3 answer (R221): none when its target does not learn, or when the
configured slot no longer names the target, which raises LRN_STALE. -/
def makeLearn (s : State) (a : Ask) (v : KeyVec) (t : Nat) (f : Found) : Option LearnRec × State :=
  let g := fld f.action 27 20
  if fld f.action 31 28 ≠ 3 then (none, s)
  else match s.table g with
    | none => (none, s)
    | some x => match x.learn with
      | none => (none, s)
      | some l =>
        if !l.en || !bit (ta s g 0x18) 3 then (none, s)
        else if pfTable s l.profile l.slot ≠ g ∨ pfSlots s l.profile ≤ l.slot then
          (none, (statAdd s g 0x64).raise evLrnStale)
        else (some { target := g, key := slotKey s l.profile l.slot v, source := t, handle := f.handle, epoch := a.view
                     phase := a.phase, port := a.port, ctx := a.ctx }, s)

/-- The counter and stamp update of an answer (R124, R212, R227). -/
def makeUpd (s : State) (a : Ask) (t : Nat) (x : Table) (tok : Bool) (r : Row) : CntUpd :=
  { table := t, handle := r.handle, pos := r.pos, len := a.len, epoch := a.view, phase := a.phase
    cnt := bit (ta s t 0x18) 0, stamp := bit (ta s t 0x18) 1
    late := tok && (match liveSlot x with
      | some k => (reaches (rowAfter x) k 5 r).isNone
      | none => false)
    aged := x.aged.contains r.pos }

/-- An answer of the table's contents under a view: HIT, MISS, SAFE in FAULTSAFE, or VIEW_ADVANCED, with
what the answer counts, learns and asks for (R122, R124, R144, R221). -/
def contentsRec (s : State) (a : Ask) (v : KeyVec) (t : Nat) (x : Table) (tok adv : Bool) (f : Option Found) : Rec × State :=
  let fs := s.stage.stage == 4
  let st := fun (base : Nat) => if fs then luSafe else if adv then luViewAdvanced else base
  match f with
  | none =>
    let r := missRec s t (st luMiss)
    ({ r with safe := fs }, s)
  | some f =>
    let r := foundRec s t (st luHit) f
    if fs || x.kind == .direct then (r, s)
    else
      let (l, s) := if taCasc s t then (none, s) else makeLearn s a v t f
      ({ r with upd := f.row.map (makeUpd s a t x tok), learn := l, trig := fld f.action 31 28 == 1 }, s)

/-! ### The view of a lookup (R151) -/

/-- How a lookup takes its view: `none` when its token has expired under a strict policy, else the view,
whether the token's view is used, and whether the token was advanced. -/
def lookupView (s : State) (a : Ask) (t : Nat) (x : Table) : Option (Nat × Bool × Bool) :=
  if a.tokBad then none
  else match a.tok with
    | none => some (a.view, false, false)
    | some v =>
      if v ≤ a.view ∧ a.view - v ≤ taRetain s t ∧ x.floor ≤ v ∧ x.st ≠ .proofing then some (v, true, false)
      else if bit (ta s t 0x14) 7 then some (a.view, false, true) else none

/-- A floor that no view reaches: that of a table which was never promoted. -/
def noFloor : Nat := 2 ^ 48

/-- The table is answered from the crumb table or with the safe result (R369): it is PROOFING, or it is
being removed and was never promoted. -/
def crumbOnly (x : Table) : Bool := x.st == .proofing || decide (noFloor ≤ x.floor)

/-- Does the table have contents on a lost die (R262)? -/
def onLostDie (s : State) (t : Nat) (x : Table) : Bool :=
  s.stage.stage == 4 && (x.blocks.any (fun h => bit s.stage.fsDie h.die) ||
    (crumbOnly x && s.stage.crumb.any (fun c => c.1 == t && bit s.stage.fsDie c.2.die)))

/-- The lookup faults placed at one pass and slot. -/
def faultsAt (a : Ask) (p k : Nat) : List LookupFault :=
  (a.faults.filter (fun f => f.pass == p && f.slot == k)).map (fun f => f.fault)

/-- The answer is FAULT by R252 with no search-path event of its own. -/
def faultRes (s : State) (t : Nat) : LkRes := answered (safeRec s t luFault) s

/-! ### Sift (R78 to R81) -/

/-- A cover of the sift array entry of `c` is changed. -/
def modCover (s : State) (t : Nat) (c : Cover) (f : Cover → Cover) : State :=
  s.modTable t (fun x => { x with covers := x.covers.map (fun (k : Cover) =>
    if k.die = c.die ∧ k.block = c.block ∧ k.idx = c.idx then f k else k) })

/-- Sift faults (R80): the events, and what a second occurrence on one cover does. What numbers the cover index
counts is not given: the model gives the place in the sift array of 65,536 entries, die × 16,384 + block × 16 + entry
of the block (DESIGN CHOICE; assumption 83). -/
def siftFault (s : State) (t : Nat) (x : Table) (c : Cover) (e : Ev) : State :=
  let i := c.die * 16384 + c.block * 16 + c.idx
  let s := s.raise e t i
  let now := s.epoch.count
  if c.err.any (fun e0 => decide (now - e0 < 2 ^ 20)) then
    let s := { s with dies := { s.dies with siftRetired := i :: s.dies.siftRetired } }
    match freeCover s x c.die c.block with
    | some j => modCover s t c (fun k => { k with idx := j, err := none })
    | none => enterFs (s.raise evSftRetireFail) 4 0
  else modCover s t c (fun k => { k with err := some now })

/-- The first sift fault of a lookup whose cover is one of the table's. -/
def siftFaultOf (x : Table) (k : Nat) : List LookupFault → Option (Cover × Ev)
  | [] => none
  | f :: l =>
    let at_ := fun (i : Nat) => x.covers.find? (fun c => c.die * 16384 + c.block * 16 + c.idx == i && visIn c.vis k)
    match f with
    | .siftParity i => match at_ i with
      | some c => some (c, evSftParity)
      | none => siftFaultOf x k l
    | .siftMulti i => match at_ i with
      | some c => some (c, evSftMulti)
      | none => siftFaultOf x k l
    | _ => siftFaultOf x k l

/-- The blocks whose rows refer to the segment position of winner `r`, which unit `u` of die `d` answered
with (R256): an always-on replica has a position of its own (R64). -/
def stuckUnits (s : State) (t d u : Nat) (r : Row) : List (Nat × Nat) := match s.table t with
  | none => []
  | some x =>
    if inAlwaysOn s t x r.die r.block then [(d, u)]
    else dedupBlocks ((x.rows.filter (fun (q : Row) => q.die == r.die && q.pos == r.pos)).map (fun (q : Row) => (q.die, primaryUnit s q.die q.block)))

/-- Did the copy `p` give the winning answer: the winner's block, or a replica of its always-on group? -/
def pickWon (s : State) (t : Nat) (f : Option Found) (p : Pick) : Option Row := match f with
  | none => none
  | some a => match a.row with
    | none => none
    | some r => match s.table t with
      | none => none
      | some x =>
        if !p.real then (if p.die = r.die ∧ p.unit = 1024 + r.block then some r else none)
        else if inAlwaysOn s t x r.die r.block then
          (if (replicas x).any (fun h => h.die == p.die && primaryUnit s h.die h.block == p.unit) then some r else none)
        else if p.die = r.die ∧ p.block = r.block then some r else none

/-- Does the lookup meet this path fault: on a copy it activated, in the winner's tag or data row (R250)?
The data row that holds the action word is returned by every hit (R57). -/
def pathMet (s : State) (t : Nat) (ps : List Pick) (f : Option Found) : LookupFault → Option Met
  | .path q d u again => match ps.find? (fun p => p.die == d && p.unit == u) with
    | none => none
    | some p =>
      let bare : Met := { fault := q, die := d, unit := u, again := again, stuck := [] }
      match q with
      | .linkCrc => some bare
      | .blockParity => some bare
      | .tagTable => some bare
      | _ => match pickWon s t f p with
        | none => none
        | some r => some { bare with stuck := stuckUnits s t d u r }
  | _ => none

/-! ### The ternary search -/

/-- The outcome of a ternary search: refused, faulty or answered; the time beyond R90 it took. -/
inductive Searched where
  | overload | fault | found (f : Option Found)
  deriving DecidableEq, Repr

/-- Activate targets and handle the path faults: the result for an answer `f`. -/
def activate (s : State) (t : Nat) (ts : List Target) (arr slack : Nat) (fs : List LookupFault) (f : Option Found) :
    Searched × Nat × State :=
  if ts.isEmpty then (.found f, 0, s)
  else match ts.find? (fun (x : Target) => x.closed) with
    | some x => (.fault, 0, faultEvent s t x.die x.block)
    | none =>
      let a := admitKeys s t ts arr slack
      if a.refused then (.overload, 0, a.s)
      else
        let late := lateness a.picks arr
        let r := pathFaults a.s t ts a.picks (arr + late) (slack - late) (fs.filterMap (pathMet a.s t a.picks f))
        (if r.good then .found f else .fault, late + r.took, r.s)

/-- The answer of the array for the searched rows `l`, `f` but for a cell that fails undetected (R258). -/
def cellAnswer (p : Word) (l : List Row) (fs : List LookupFault) (f : Option Found) : Option Found :=
  match fs.findSome? (fun g => match g with
    | .cell h => some h
    | _ => none) with
  | none => f
  | some none => none
  | some (some h) => ((l.find? (fun r => r.handle == h)).map (rowFound p)).or f

/-- The ternary search of slot `k`: sift, admission, activation (R78 to R94). `arr` is the time at which
the key reaches the sift stage; `p` is the TA_POLICY word that shapes the answer. -/
def searchTernary (s : State) (t : Nat) (x : Table) (p : Word) (k : Nat) (key : Key) (arr slack : Nat) (fs : List LookupFault) :
    Searched × Nat × State :=
  let c0 := hubCeil arr / 8
  match firstCycle (fiveOk s.dies.sift 128) (slack / 8 + 1) c0 with
  | none => (.overload, 0, s)
  | some c =>
    let wait := 8 * (c - c0)
    let s := { s with dies := { s.dies with sift := fiveTake s.dies.sift (s.now / 8) c } }
    match siftFaultOf x k fs with
    | some (v, e) => (.fault, wait, siftFault s t x v e)
    | none =>
      let (ts, s) := targetsOf s t x k key
      let (r, w, s) := activate s t ts (arr + wait + 800) (slack - wait) fs
        (cellAnswer p (selectedRows s t x k key) fs (answerIn s t x p k key))
      (r, wait + w, s)

/-! ### Tree and direct lookups -/

/-- A tree walk (R159, R161, R167). `arr` is the time at which the key reaches the tree stage. -/
def searchTree (s : State) (t : Nat) (x : Table) (k : Nat) (key : Key) (arr slack : Nat) (fs : List LookupFault) :
    Searched × Nat × State :=
  let c0 := hubCeil arr / 8
  match firstCycle (fiveOk s.dies.walks 8) (slack / 8 + 1) c0 with
  | none => (.overload, 0, if fiveOk s.dies.walks 8 c0 then s else statAdd s t 0x5C)
  | some c =>
    let s := if c = c0 then s else statAdd s t 0x5C
    let s := { s with dies := { s.dies with walks := fiveTake s.dies.walks (s.now / 8) c } }
    let stuck := x.slots.any (fun y => y.tree.any (fun i => !i.stuck.isEmpty))
    let ue := fs.findSome? (fun f => match f with
      | .treeUe a b => if (x.slot k).tree.isSome then some (a, b) else none
      | _ => none)
    if stuck then (.fault, 8 * (c - c0), s)
    else match ue with
      | none => (.found (answerIn s t x (ta s t 0x14) k key), 8 * (c - c0), s)
      | some (a, b) =>
        let s := (s.bump 0x130124).raise evTreEccUncorr a t
        let s := if b then
            (s.modTable t (fun x => x.modSlot k (fun y => { y with tree := y.tree.map (fun i => { i with stuck := a :: i.stuck }) }))).raise
              evTreEccStuck
          else s
        (.fault, 8 * (c - c0), s)

/-- A DIRECT slot (R114, R294). -/
def searchDirect (s : State) (t : Nat) (x : Table) (key : Key) (fs : List LookupFault) : Searched × Nat × State :=
  let f := answerIn s t x (ta s t 0x14) 0 key
  let i := taDirBase s t + fld key 23 0
  if f.isSome && fs.any (fun q => q == .directUe i) then (.fault, 0, (s.bump 0x130124).raise evIntDtUe i)
  else (.found f, 0, s)

/-! ### The crumb table (R369) -/

/-- The best crumb entry of a table for a key. -/
def crumbWinner (s : State) (t : Nat) (key : Key) : Option Row :=
  bestRow ((s.stage.crumb.filter (fun c => c.1 == t && rowMatch c.2 key)).map (fun c => c.2))

/-- The answer of a table in PROOFING (R369). -/
def crumbLookup (s : State) (t : Nat) (x : Table) (key : Key) (arr slack : Nat) (fs : List LookupFault) : LkRes :=
  let ts := crumbTargets s t
  if x.kind != .ternary || ts.isEmpty then answered (safeRec s t luSafe) s
  else if fs.contains .datapath then faultRes s t
  else
    let s := if fs.contains .corrected then s.bump 0x130120 (fs.count .corrected) else s
    let p := ta s t 0x14
    let f := cellAnswer p ((s.stage.crumb.filter (fun c => c.1 == t)).map (fun c => c.2)) fs ((crumbWinner s t key).map (rowFound p))
    let (r, w, s) := activate s t ts arr slack fs f
    let q := match r with
      | .overload => safeRec s t luOverload
      | .fault => safeRec s t luFault
      | .found none => safeRec s t luSafe
      | .found (some f) =>
        let q := foundRec s t luSafe f
        let bad := fs.contains .actionWord
        { q with trig := fld q.action 31 28 == 1 && !bad, awBad := bad }
    { record := q, wait := w, csc := none, tokUsed := false, s := s }

/-! ### Cascaded lookups at the head (R314 to R321) -/

/-- A SEALED slot whose GLAZE_SCHEDULE named an epoch at or before view `v` (R321 step 3). -/
def splitSlot (x : Table) (v : Nat) : Option Nat :=
  (slotsIn x (fun q => q == .sealed)).findSome? (fun k =>
    let y := x.slot k
    if y.by_ == .command && decide (y.epoch ≤ v) then some y.epoch else none)

/-- A split glaze is found (R321). -/
def splitFound (s : State) (t e : Nat) : State :=
  ((s.bump 0x140050).setBits 0x140008 2).raise evCscGlazeSplit t e

/-- A search frame (R315): header, view word and key, in `n` bits. -/
def searchFrame (t : Nat) (st p : Word) (budget ctag v : Nat) (key : Key) : List Flit :=
  let w := structW st
  let h := 0xC * 2 ^ 60 + t % 256 * 2 ^ 52 + fld st 5 4 * 2 ^ 50 + fld p 9 8 * 2 ^ 48 + fld p 14 12 * 2 ^ 45 +
    budget % 2 ^ 13 * 2 ^ 32 + ctag % 2 ^ 16 * 2 ^ 16
  let vw := v % 2 ^ 48 * 2 ^ 16 + (0xFFFF - v % 2 ^ 16)
  let k := natBE (bytesLE (10 * w) key.toNat)
  frameFlits (128 + 80 * w) ((h * 2 ^ 64 + vw) * 2 ^ (80 * w) + k)

/-- A frame of `fl` leaves on link `p` at or after time `t`, its last flit within `slack`: the time at which that flit
leaves. -/
def sendOn (s : State) (p t slack : Nat) (fl : List Flit) : Option (Nat × State) :=
  let l := s.link p
  if !linkUp l then none
  else match freeRun l fl.length 4096 (firstSlot l t) with
    | none => none
    | some g =>
      let e := lastOf l fl.length g
      if slack < slotStart l e - t then none
      else some (slotStart l e, emit (.frame p (slotStart l g) fl) (s.modLink p (fun l => bookSlots l s.now g e)))

/-- The own part of a cascaded lookup (R318), with what it counts when it wins: part status, record and home
position. -/
def ownPart (s : State) (a : Ask) (v : KeyVec) (t : Nat) (x : Table) (tok adv : Bool) (r : Searched) : (Nat × Rec × Nat) × State :=
  match r with
  | .fault => ((3, safeRec s t luFault, 0), s)
  | .overload => ((2, safeRec s t luOverload, 0), s)
  | .found none => ((1, missRec s t luMiss, 0), s)
  | .found (some f) =>
    let (q, s) := contentsRec s a v t x tok adv (some f)
    ((0, { q with status := luHit }, match f.row with
      | some r => r.pos
      | none => 0), s)

/-- A cascaded lookup at the head, with its own part: part status, record and home position (R316). The search frame
goes down and the answer is awaited, unless BUDGET would be too small. `leave` is when its flits can leave, with the
head's remaining slack `slack`. -/
def sendDown (s : State) (a : Ask) (slot t view : Nat) (tok adv : Bool) (key : Key) (own : Nat × Rec × Nat)
    (wait leave slack : Nat) : LkRes :=
  let fin := a.t0 + 8 * a.lat
  let ov := fun (s : State) => answered (safeRec s t luOverload) s
  let tag := s.csc.nextTag
  let need := 3000 + 2600 * (cscLen s - 2)
  let room := fun (last : Nat) => fin - 1800 - (last + 1200)
  if room leave < need then ov s
  else
    let l := s.link 17
    let st := ta s t 0
    let n := (128 + 80 * structW st + 255) / 256
    let last := slotStart l (lastOf l n ((freeRun l n 4096 (firstSlot l leave)).getD 0))
    let sent := if room last < need then none else
      sendOn s 17 leave slack (searchFrame t st (ta s t 0x14) (room last / 8) tag view key)
    match sent with
    | none => ov (s.bump 0x140054)
    | some (_, s) =>
      { record := { own.2.1 with trig := false }, wait := wait, tokUsed := false
        s := { s.bump 0x140040 with csc := { s.csc with nextTag := (tag + 1) % 65536 } }
        csc := some { ctag := tag, slot := slot, table := t, pstat := own.1, part := own.2.1, pos := own.2.2, due := fin - 600
                      ans := none, tok := tok, advanced := adv, fate := 0, gone := false } }

/-! ### The whole lookup -/

/-- A lookup of an existing table that is to be answered from its contents in the slot its view sees. The 220 ns of a
tree walk (R150) are spent by the passes that follow. -/
def searchTable (s : State) (a : Ask) (v : KeyVec) (pass slot t : Nat) (x : Table) (key : Key) (view : Nat) (tok adv : Bool)
    (arr slack : Nat) : LkRes :=
  let fs := faultsAt a pass slot
  let s := if fs.contains .corrected then s.bump 0x130120 (fs.count .corrected) else s
  let casc := taCasc s t
  let safe := fun (q st : Nat) (s : State) => sendDown s a slot t view tok adv key (q, safeRec s t st, 0) 0 (arr + 200) slack
  match (if casc then splitSlot x view else none) with
  | some e => safe 5 luCascadeLost (splitFound s t e)
  | none =>
    if casc && crumbOnly x then safe 4 luSafe s
    else if fs.contains .glazePtr then
      (let s := cxRepair (s.raise evGlzPtrRepair t) t
       if casc then safe 3 luFault s else faultRes s t)
    else if fs.contains .datapath then (if casc then safe 3 luFault s else faultRes s t)
    else if casc && s.stage.stage == 4 then safe 4 luSafe s
    else
      let (r, w, s1) : Searched × Nat × State := match x.kind with
        | .direct => searchDirect s t x key fs
        | .tree => (match viewSlot x view with
          | some k => searchTree s t x k key (arr + 500) slack fs
          | none => (.found none, 0, s))
        | .ternary => (match viewSlot x view with
          | some k => searchTernary s t x (ta s t 0x14) k key arr slack fs
          | none => (.found none, 0, s))
      let walk := if x.kind = .tree then 2200 else 0
      if casc then
        (let (own, s2) := ownPart s1 a v t x tok adv r
         sendDown s2 a slot t view tok adv key own w (arr + 200) slack)
      else match r with
        | .overload => { answered (safeRec s1 t luOverload) s1 with wait := w }
        | .fault => { answered (safeRec s1 t luFault) s1 with wait := w + walk }
        | .found f =>
          let (q, s2) := contentsRec s1 a v t x tok adv f
          let s2 := if tok then statAdd s2 t 0x48 else s2
          let q := if fs.contains .actionWord then { q with awBad := true, trig := false } else q
          { record := q, wait := w + walk, csc := none, tokUsed := tok, s := s2 }

/-- One lookup of a request: slot `slot` of profile `prof` in pass `pass`, when `spent` has been waited
so far (R122). -/
def lookupOne (s : State) (a : Ask) (v : KeyVec) (pass spent prof slot : Nat) : LkRes :=
  let t := pfTable s prof slot
  let key := slotKey s prof slot v
  if a.parseErr then faultRes s t
  else match s.table t with
    | none => answered (if a.tokBad then safeRec s t luViewExpired else missRec s t luTableAbsent) s
    | some x =>
      let stale := decide (keyWidth s t x < joinedLen (pfRanges s prof slot))
      let s := if stale then s.raise evKaeProfStale prof slot else s
      let casc := taCasc s t
      let head := s.csc.pos == 0
      let pm := pathMin s t pass a.hform
      let arr := a.t0 + 1500 * pass + spent + 600 + (if a.hform then 960 else 0)
      if casc && !head then
        (if a.tokBad then answered (safeRec s t luViewExpired) (statAdd s t 0x4C)
         else answered (missRec s t luTableAbsent) (s.raiseOnce evCscNotHead t a.port t))
      else if onLostDie s t x then faultRes s t
      else if casc && s.csc.chain != 2 then answered (safeRec s t luCascadeLost) (s.bump 0x14004C)
      else if 8 * a.lat < pm then answered (safeRec s t luOverload) (s.raiseOnce evKaeHfShortL t t)
      else if 8 * a.lat < pm + spent then answered (safeRec s t luOverload) s
      else match lookupView s a t x with
        | none => answered (safeRec s t luViewExpired) (statAdd s t 0x4C)
        | some (view, tok, adv) =>
          if (match x.removed with
              | some e => decide (e ≤ view)
              | none => false) then
            { answered (missRec s t luTableAbsent) (if tok then statAdd s t 0x48 else s) with tokUsed := tok }
          else if crumbOnly x && !casc then crumbLookup s t x key (arr + 800) (8 * a.lat - pm - spent) (faultsAt a pass slot)
          else if stale then answered (missRec s t luTableAbsent) s
          else searchTable s a v pass slot t x key view tok adv arr (8 * a.lat - pm - spent)

end Sys2Proof.Machine
end

