-- ==== Sys2Proof/Machine/Wheels.lean ====
section
/-! DEFINITION. Grants of the slots of the wheels (R297, R298, R300 to R302, R308), and the slots that
changes of tables and copies ask for (R173, R178, R197, R254). A change of a table is made at once; its row writes are
counted in the slots that they then take (DESIGN CHOICE; assumption 64). -/

namespace Sys2Proof.Machine

/-! ### Grants -/

/-- The counters of a requester of a wheel: GRANT, then WAIT, then MAXWAIT (R307, R308). -/
def whlCnt (wheel req : Nat) : Nat :=
  (if wheel < 64 then 0x12A000 + wheel * 0x40 else 0x12B000 + (wheel - 64) * 0x80) + (req - 1) * 0x10

/-- A wheel counter goes up by `n` and saturates. What a read of the same cycle sees is settled by the cycle up to
which grants are counted before it (R308). -/
def countUp (s : State) (a n : Nat) : State := s.setLive a (word (min 0xFFFFFFFF ((s.live a).toNat + n)))

/-- The requesters in the order of a rank register of `n` fields (R302). -/
def rankOrder (w : Word) (n : Nat) : List Nat := (List.range n).map (fun i => fld w (4 * i + 2) (4 * i))

/-- The requester that takes a slot: its owner, when it has a request, else the highest-ranked that has one. -/
def slotTaker (owner : Nat) (rank : List Nat) (wants : Nat → Bool) : Option Nat :=
  if wants owner then some owner else rank.find? wants

/-- Is a request pending 4 cycles before the slot of cycle `c` (R300, R302)? -/
def SlotAsk.ready (a : SlotAsk) (c : Nat) : Bool := decide (a.made + 5 ≤ c)

/-- Does request `a` get the slot of pipe cycle `c` at its unit: no search is booked, its requester takes the slot, and
no request before it is to be served first? `before`: the requests before it. Sprinkle scrubs one run at a time on a
wheel (R297). -/
def granted (s : State) (c : Nat) (before : List SlotAsk) (a : SlotAsk) : Bool :=
  let wants := fun (r : Nat) => s.dies.asks.any (fun b => b.wheel == a.wheel && b.unit == a.unit && b.req == r && b.ready c)
  a.ready c && keysAt s (a.wheel / 16) a.unit c == 0 &&
    slotTaker (ownerBy s a.wheel c (c - 4)) (rankOrder (s.live 0x129000) 3) wants == some a.req &&
    !before.any (fun b => b.wheel == a.wheel && b.req == a.req && (b.unit == a.unit || a.req == 4))

/-- The requests of a list, with what each is granted of the slot of cycle `c`. -/
def blockGrants (s : State) (c : Nat) : List (SlotAsk × Nat) :=
  s.dies.asks.mapIdx (fun i a => (a, b2n (granted s c (s.dies.asks.take i) a)))

/-- Up to `room` bursts for the requests of stack `k` and class `r` in order (R298). -/
def giveBursts (c k r : Nat) : List SlotAsk → Nat → List (SlotAsk × Nat)
  | [], _ => []
  | a :: l, room =>
    let n := if a.wheel == 64 + k && a.req == r && a.ready c then min a.left room else 0
    (a, n) :: giveBursts c k r l (room - n)

/-- The requests for DRAM slots, with the bursts that each issues in the slot of hub cycle `c`. -/
def dramGrants (s : State) (c : Nat) : List (SlotAsk × Nat) :=
  let taker := fun (k : Nat) => (slotTaker (ownerBy s (64 + k) c (c - 4)) (rankOrder (s.live 0x129004) 6)
    (fun r => s.dies.dram.any (fun a => a.wheel == 64 + k && a.req == r && a.ready c))).getD 0
  let l := giveBursts c 0 (taker 0) s.dies.dram 15
  l.zipWith (fun p q => (p.1, p.2 + q.2)) (giveBursts c 1 (taker 1) s.dies.dram 15)

/-- The counters of one requester of one wheel after a cycle in which its requests were granted as `l` says: a grant for
each slot, a cycle of waiting when it got none, and the longest wait of a request (R308). -/
def countCycle (s : State) (w r c : Nat) (l : List (SlotAsk × Nat)) : State :=
  let mine := l.filter (fun p => p.1.wheel == w && p.1.req == r && p.1.ready c)
  let got := mine.filter (fun p => p.2 != 0)
  let a := whlCnt w r
  if mine.isEmpty then s
  else if got.isEmpty then countUp s (a + 4) 1
  else
    let s := countUp s a (if w < 64 then got.length else 1)
    let run := maxNat (got.map (fun p => p.1.run))
    if (s.live (a + 8)).toNat < run then s.setLive (a + 8) (word (min 0xFFFFFFFF run)) else s

/-- The requests after a cycle: what is granted is done, and the rest waits. -/
def afterCycle (c : Nat) (l : List (SlotAsk × Nat)) : List SlotAsk :=
  l.filterMap (fun p =>
    if p.1.left ≤ p.2 then none
    else some (if p.1.ready c then { p.1 with left := p.1.left - p.2, run := if p.2 = 0 then p.1.run + 1 else 0 } else p.1))

/-- The wheels and requesters that have requests. -/
def requesters (l : List SlotAsk) : List (Nat × Nat) := dedupBlocks (l.map (fun a => (a.wheel, a.req)))

/-- The slots of block wheels that begin in pipe cycle `c` are granted. -/
def blockCycle (s : State) (c : Nat) : State :=
  let l := blockGrants s c
  let s := (requesters s.dies.asks).foldl (fun s q => countCycle s q.1 q.2 c l) s
  { s with dies := { s.dies with asks := afterCycle c l, askAt := c + 1 } }

/-- The slots of DRAM wheels that begin in hub cycle `c` are granted. -/
def dramCycle (s : State) (c : Nat) : State :=
  let l := dramGrants s c
  let s := (requesters s.dies.dram).foldl (fun s q => countCycle s q.1 q.2 c l) s
  { s with dies := { s.dies with dram := afterCycle c l, dramAt := c + 1 } }

/-- Grants of block wheels over at most `n` pipe cycles, while a request is left. -/
def blockSlots : Nat → State → State
  | 0, s => s
  | n + 1, s => if s.dies.asks.isEmpty then s else blockSlots n (blockCycle s s.dies.askAt)

/-- Grants of DRAM wheels over at most `n` hub cycles, while a request is left. -/
def dramSlots : Nat → State → State
  | 0, s => s
  | n + 1, s => if s.dies.dram.isEmpty then s else dramSlots n (dramCycle s s.dies.dramAt)

/-- Every grant made before the present cycle of each clock: grants are made 4 cycles before their slot (R300). -/
def wheelsTo (s : State) : State :=
  let t := dramSlots (s.now / 8 + 4 - s.dies.dramAt) (blockSlots (s.now / 10 + 4 - s.dies.askAt) s)
  { s with regs := t.regs, dies := t.dies }

/-! ### Slots that changes ask for -/

/-- The units that hold the rows listed under block `b` of die `d`, those still being built among them (R98, R195,
R254): those of each replica for an always-on group. -/
def rowUnits (s : State) (x : Table) (d b : Nat) : List (Nat × Nat) :=
  let home := (replicas x).head?.any (fun h => h.die == d && h.block == b)
  let bs := if home then (replicas x).map (fun h => (h.die, h.block)) else [(d, b)]
  (bs.map (fun p => dedupBlocks (((primaryUnit s p.1 p.2 :: (mirrors s p.1 p.2 false).map (fun k => 1024 + k)) ++
    ((s.dies.builds.filter (fun (q : Build) => q.die == p.1 && q.block == p.2 && q.hold.isNone)).map (fun (q : Build) => 1024 + q.spare))).map
      (fun u => (p.1, u))))).flatten

/-- Row and cover writes that make table `y` of table `x`, with entries of `w` rows: die, block, number. -/
def rowWrites (x y : Table) (w : Nat) : List (Nat × Nat × Nat) :=
  let put := y.rows.filter (fun r => !x.rows.contains r)
  let gone := x.rows.filter (fun r => !y.rows.any (fun q => q.die == r.die && q.block == r.block && q.row == r.row))
  let cov := y.covers.filter (fun c => !x.covers.contains c) ++
    x.covers.filter (fun c => !y.covers.any (fun q => q.die == c.die && q.block == c.block && q.idx == c.idx))
  let at_ := (put ++ gone).map (fun r => (r.die, r.block)) ++ cov.map (fun c => (c.die, c.block))
  (dedupBlocks at_).map (fun p => (p.1, p.2,
    w * ((put ++ gone).filter (fun r => r.die == p.1 && r.block == p.2)).length +
      (cov.filter (fun c => c.die == p.1 && c.block == p.2)).length))

/-- The slots for the writes that make table `t` what it is in `s` out of `x`: requester `req` of each unit, and the
shadow records (R173, R178, R197). -/
def askWrites (s : State) (t req : Nat) (x y : Table) (who : Nat → Who) : State :=
  let w := taW s t
  let s := (rowWrites x y w).foldl (fun s p => (rowUnits s y p.1 p.2.1).foldl (fun s u =>
    askSlots s u.1 (wheelGroup u.2) u.2 req p.2.2 (who u.1)) s) s
  let put := y.rows.filter (fun r => !x.rows.contains r)
  let gone := x.rows.filter (fun r => !y.rows.any (fun q => q.pos == r.pos))
  ((dedup ((put ++ gone).map (fun r => r.pos)))).foldl (fun s p => askDram s drShadow (shadowBase + 64 * p) (64 * w) 0 (who 4)) s

/-- The words of the direct table that differ between `u` and `s`, in the shadow. -/
def askDirect (u s : State) (who : Who) : State :=
  let l := dedup (((s.direct.filter (fun p => !u.direct.contains p)) ++ (u.direct.filter (fun p => !s.direct.any (fun q => q.1 == p.1)))).map
    (fun p => p.1))
  l.foldl (fun s i => askDram s drShadow (shadowBase + 1072 * 2 ^ 20 + 32 * i) 32 0 who) s

/-- The slots that the change of `u` to `s` asks for: requester `req` at the blocks, and for the unit that `who` gives for a
die, 4 being the hub. Requests of the cache for this work are its own, but those of lookups. -/
def askChange (u s : State) (req : Nat) (who : Nat → Who) : State :=
  let ts := dedup (s.tables.map (fun p => p.1) ++ u.tables.map (fun p => p.1))
  let s := { s with dies := { s.dies with
    dram := s.dies.dram.map (fun a => if a.who == {} && a.req != drHit && !u.dies.dram.contains a then { a with who := who 4 } else a) } }
  let s := ts.foldl (fun s t =>
    let x := u.table t
    let y := s.table t
    if x == y then s
    else match x, y with
      | some x, some y => askWrites s t req x y who
      | none, some y => askWrites s t req { y with rows := [], covers := [] } y who
      | _, none => s) s
  if s.direct == u.direct then s else askDirect u s (who 4)

/-- The state `s` that a change made of `u`, with the slots that the change asks for. -/
def withSlots (u s : State) (req : Nat) (who : Nat → Who) : State := { s with dies := (askChange u s req who).dies }

/-- Run `f` on the running command of a mailbox, and ask for the slots of what it changes (R178). -/
def withCmdSlots (s : State) (m op : Nat) (f : State → Cmd → State) : State :=
  withCmd s m op (fun s c => withSlots s (f s c) 2 (fun _ => sequencerOf c.id))

/-- A QUERY_SEARCH takes an UPDATE slot at each block that its key selects (R474). -/
def askQuery (s : State) (c : Cmd) : State :=
  match s.cmds.find? (fun d => d.id == c.id && d.st == .finished && (d.status == stOk || d.status == stNotFound)), s.table c.table with
  | some _, some x =>
    let k := if bit c.desc (8 * 96) then headSlot x else (liveSlot x).getD 0
    let ao := if structAO (ta s c.table 0) then ((replicas x).head?.map (fun h => (h.die, h.block))).toList else []
    if x.kind = .ternary then
      (ao ++ dedupBlocks ((sifted x k (BitVec.ofNat 640 (c.le 16 80))).map (fun v => (v.die, v.block)))).foldl (fun s b =>
        let u := primaryUnit s b.1 b.2
        askSlots s b.1 (wheelGroup u) u 2 1 (sequencerOf c.id)) s
    else s
  | _, _ => s

end Sys2Proof.Machine
end

