-- ==== Sys2Proof/Machine/Request.lean ====
section
/-! DEFINITION. Requests: acceptance at t0 (R21, R125, R139, R143, R232), their passes (R144 to R149),
the merge (R115) and the emission of the response (R20, R116, R117, R121, R124, R153, R231). -/

namespace Sys2Proof.Machine

/-! ### Passes -/

/-- The outcome of the slots of one pass. -/
structure PassOut where
  recs : List Rec
  /-- The longest wait of a lookup of the pass. -/
  wait : Nat
  csc : List CscWait
  tokUsed : Bool
  s : State
  deriving DecidableEq, Repr

/-- The lookups of slots `k`, `k + 1`, … of a pass, `n` in all. -/
def runSlots (a : Ask) (v : KeyVec) (pass spent prof : Nat) : Nat → Nat → State → PassOut
  | 0, _, s => { recs := [], wait := 0, csc := [], tokUsed := false, s := s }
  | n + 1, k, s =>
    let r := lookupOne s a v pass spent prof k
    let o := runSlots a v pass spent prof n (k + 1) r.s
    { recs := r.record :: o.recs, wait := max r.wait o.wait, csc := r.csc.toList ++ o.csc
      tokUsed := r.tokUsed || o.tokUsed, s := o.s }

/-- Cut or fill the data of a record to the length of its position (R147). -/
def fitRec (r : Rec) (bits : Nat) : Rec := { r with bits := bits, data := BitVec.ofNat 256 (r.data.toNat % 2 ^ bits) }

/-- Put the records of a pass into positions `0`, `1`, … of `old` (R147). -/
def overlay : List Rec → List Rec → List Rec
  | [], _ => []
  | o :: l, [] => o :: l
  | o :: l, r :: m => fitRec r o.bits :: overlay l m

/-- Keep what the records `l` still post at emission, which are replaced or emitted (R121, R122, R124, R148, R168): a record whose words disagree is
FAULT, posts nothing and counts as one. -/
def keepOld (h : Hold) (l : List Rec) : Hold :=
  let good := l.filter (fun r => !r.awBad)
  let bad := l.filter (fun r => r.awBad)
  { h with upds := h.upds ++ good.filterMap (fun r => r.upd)
           learns := h.learns ++ good.filterMap (fun r => r.learn)
           safes := h.safes ++ (good.filter (fun r => r.safe)).map (fun r => r.table) ++ bad.map (fun r => r.table)
           advs := h.advs ++ (good.filter (fun r => r.status == luViewAdvanced)).map (fun r => r.table)
           bads := h.bads ++ bad.map (fun r => (r.table, r.handle)) }

/-- Write the records of the present pass into the hold entry; those at the positions `wait` are replaced before they
are known. -/
def placeRecs (h : Hold) (l : List Rec) (wait : List Nat) : Hold :=
  if h.pass = 0 then { h with recs := l }
  else
    let known := ((h.recs.take l.length).zipIdx.filter (fun p => !wait.contains p.2)).map (fun p => p.1)
    { keepOld h known with recs := overlay h.recs l }

/-- Change the triggering records among the first `n` (R145): a record with such a status is counted neither per entry
nor in TA_SAFE_CNT (R122, R124). -/
def markTrigs (h : Hold) (n st : Nat) : Hold :=
  { h with recs := h.recs.mapIdx (fun (i : Nat) (r : Rec) =>
      if i < n && r.trig then { r with status := st, trig := false, upd := none, safe := false } else r) }

/-- The tables of the triggering records among the first `n`. -/
def trigTables (h : Hold) (n : Nat) : List Nat := ((h.recs.take n).filter (fun r => r.trig)).map (fun r => r.table)

/-- What the records of a pass ask for (R144, R145): the next profile when a further pass runs, and what a record of the
pass that is still to come gets (`CscWait.fate`). `s0` holds the registers as live at t0. -/
def nextPass (s0 s : State) (h : Hold) (n : Nat) : Option Nat × Nat × State × Hold :=
  match (h.recs.take n).find? (fun r => r.trig) with
  | none => (none, 0, s, h)
  | some r =>
    let q := fld r.action 27 20
    let lose := fun (s : State) => (trigTables h n).foldl (fun s t => statAdd s t 0x44) s
    if s0.cfg (pfAddr h.profile 0) 18 16 ≤ h.pass + 1 then (none, luPassLimit, lose s, markTrigs h n luPassLimit)
    else if !bit (s0.live (pfAddr q 0)) 31 then
      (none, luTableAbsent, (lose s).raise evPasNoProfile h.port h.ctx q, markTrigs h n luTableAbsent)
    else (some q, 1, (dedup (trigTables h n)).foldl (fun s t => statAdd s t 0x40) s, h)

/-- Do the records that a pass has decide what follows it, though cascaded lookups of the pass still wait for answers:
does one ask for a pass in a slot below theirs (R144)? -/
def decided (h : Hold) (n : Nat) (csc : List CscWait) : Bool :=
  csc.isEmpty || (match findIdx (fun (r : Rec) => r.trig) (h.recs.take n) 0 with
    | some i => csc.all (fun c => decide (i < c.slot))
    | none => false)

/-- Run pass `p` under profile `prof`, and the passes it asks for. -/
def runPasses (a : Ask) (v : KeyVec) (n0 : Nat) : Nat → State → Hold → Nat → Nat → State × Hold
  | 0, s, h, _, _ => (s, h)
  | fuel + 1, s, h, prof, p =>
    let n := min (pfSlots s prof) n0
    let o := runSlots a (passVec v p) p h.spent prof n 0 s
    let old := h.csc.map (fun (c : CscWait) => { c with gone := c.gone || decide (c.slot < n) })
    let h := placeRecs { h with pass := p, prof := prof } o.recs (h.csc.filterMap (fun c => if c.gone then none else some c.slot))
    let h := { h with spent := h.spent + o.wait, csc := old ++ o.csc, tokUsed := h.tokUsed || o.tokUsed }
    if !decided h n o.csc then (o.s, h)
    else
      let (q, f, s, h) := nextPass s o.s h n
      let h := { h with csc := old ++ o.csc.map (fun (c : CscWait) => { c with fate := f }) }
      match q with
      | none => (s, h)
      | some q => runPasses a v n0 fuel s h q (p + 1)

/-! ### The direct-table merge (R115) -/

/-- The word of the merge and DM_HIT. -/
def mergeRead (s : State) (a : Ask) (v : KeyVec) (prof : Nat) : BitVec 256 × Bool × State :=
  let t := s.cfg (pfAddr prof 0) 15 8
  let w := s.live (pfAddr prof 4)
  let i := natLE (slice (bytesLE 88 v.toNat) (fld w 6 0) (fld w 9 8))
  match s.table t with
  | none => (0, false, s)
  | some x =>
    if x.kind = .direct ∧ x.st = .live ∧ i < taDirSize s t then
      let k := taDirBase s t + i
      if (faultsAt a 0 4).contains (.directUe k) then (0, false, (s.bump 0x130124).raise evIntDtUe k)
      else (mapGetD s.direct k 0, true, s)
    else (0, false, s)

/-! ### Acceptance -/

/-- The hold entry of a request at t0. -/
def newHold (a : Ask) (r : Req) (v : KeyVec) (live : NMap Word) : Hold :=
  { port := a.port, ctx := a.ctx, tag := a.tag, profile := r.profile, length := a.len, hform := a.hform, vec := v
    t0 := a.t0, lat := a.lat, view := a.view, phase := a.phase, tok := r.tok, tokUsed := false, recs := [], dm := none
    dmHit := false, upds := [], learns := [], safes := [], advs := [], bads := [], spent := 0, pass := 0, prof := r.profile, csc := []
    faults := a.faults, live0 := live }

/-- The machine with the registers as live at t0 of a hold entry (R69, R113). -/
def atT0 (s : State) (h : Hold) : State := { s with regs := { s.regs with live := h.live0 } }

/-- The view that a token presents at epoch `n` (R105), and whether it fails its complement (R106). A token ahead of
every epoch so far gives a view beyond `n`, modulo 2^48, which no table retains. -/
def tokenView (n : Nat) : Option (BitVec 32) → Option Nat × Bool
  | none => (none, false)
  | some w =>
    if fld w 7 0 + fld w 15 8 ≠ 255 then (none, true)
    else (some ((n + 2 ^ 48 - (n + 2 ^ 24 - fld w 31 8) % 2 ^ 24) % 2 ^ 48), false)

/-- The data lengths of the records of a profile's slots (R117). -/
def profileBits (s : State) (n : Nat) : List Nat := (List.range (pfSlots s n)).map (fun k => adBits (ta s (pfTable s n k) 0x14))

/-- Bits of the response to a request under a profile (R112, R117). -/
def profileLen (s : State) (n : Nat) : Nat :=
  if bit (s.live (pfAddr n 0)) 31 then responseLen (profileBits s n) (s.cfg (pfAddr n 0) 15 8 != 255) else 64

/-- Walk the header of a request at t0 (R128, R137, R138, R143): its key vector, and whether the walk met the parity
error of word `parse`. -/
def walkReq (s : State) (r : Req) (port : Nat) (parse : Option Nat) : KeyVec × Bool × State :=
  if !r.hform then (keyFormVec r.vec port, false, s)
  else
    let s := s.bump 0xE0004
    let o := walk s r.root { walkIn r.winLen r.frameLen r.window with par := parse }
    let s := match o.exc with
      | none => s
      | some b => s.bump (0xE0010 + 4 * b)
    (headerVec o r.hostClass.toNat port, o.par, match o.par, parse with
      | true, some w => s.raise evKaeParseParity w
      | _, _ => s)

/-- The hub uses registers with errors at t0 of a request (R360, R361). -/
def regFaults (s : State) (l : List FaultAt) : State := l.foldl (fun s f => match f.fault with
  | .reg a e => readErr s a e
  | _ => s) s

/-- The accepted request runs all its lookups at t0. -/
def holdFor (s : State) (port : Nat) (r : Req) (lat t0 : Nat) (faults : List FaultAt) (parse : Option Nat) : State :=
  let s := regFaults s faults
  let live := s.regs.live
  let (v, par, s) := walkReq s r port parse
  let (tok, bad) := tokenView s.epoch.count r.tok
  let a : Ask := { port := port, ctx := r.ctx, tag := r.tag, len := r.length, t0 := t0, lat := lat, view := s.epoch.count
                   phase := s.phase, tok := tok, tokBad := bad, hform := r.hform, parseErr := par, faults := faults }
  let s := if bad then s.raise evLkpTokenBad port r.ctx r.tag else s
  let h := newHold a r v live
  if !bit (s.live (pfAddr r.profile 0)) 31 then
    let s := s.raise evLkpNoProfile port r.profile
    { s with holds := s.holds ++ [h] }
  else
    let (s, h) := runPasses a v (pfSlots s r.profile) 4 s h r.profile 0
    let (h, s) := if s.cfg (pfAddr r.profile 0) 15 8 = 255 then (h, s)
      else
        let (w, hit, s) := mergeRead s a v r.profile
        ({ h with dm := some w, dmHit := hit }, s)
    { s with holds := s.holds ++ [h] }

/-- Mark the waiting request of a context. -/
def markWaited (s : State) (port ctx : Nat) : State :=
  s.modLink port (fun l => { l with rx := match findIdx (fun (r : Req) => r.ctx == ctx) l.rx 0 with
    | some i => listMod l.rx i (fun r => { r with waited := true })
    | none => l.rx })

/-- Remove the oldest request of a context from the receive buffer. -/
def dropReq (l : Link) (ctx : Nat) : Link := match findIdx (fun (r : Req) => r.ctx == ctx) l.rx 0 with
  | some i => { l with rx := l.rx.eraseIdx i }
  | none => l

/-- The hub accepts requests: from CRUMB on, and not while a reset flushes (R365, R375). -/
def takesRequests (s : State) : Bool := s.stage.stage != 0 && s.power.flush.isNone && s.power.pwrGood

/-- The hub fixes t0 of the oldest request of a context, when every condition holds (R125, R139, R232);
otherwise the request waits. -/
def acceptRequest (s : State) (port ctx t : Nat) (faults : List FaultAt) (parse : Option Nat) : State :=
  let l := s.link port
  match l.rx.find? (fun (r : Req) => r.ctx == ctx) with
  | none => s
  | some r =>
    let t0 := hubCeil (max t s.now)
    let lat := requestLat s r.profile t0
    let g := firstSlot l (t0 + 8 * lat)
    let e := lastOf l ((profileLen s r.profile + 255) / 256) g
    let walking := s.walkEnds.filter (fun w => decide (t0 < w))
    if !takesRequests s || !linkUp l || !slotsFree l g e || decide (g ≤ natAt l.lastSlot ctx) ||
        decide (256 ≤ (s.holds.filter (fun h => h.port == port && h.ctx == ctx)).length) then s
    else if queueFull s then pressAt s t0
    else if r.hform ∧ 768 ≤ walking.length then
      (if r.waited then s else (markWaited s port ctx).bump 0xE0008)
    else
      let s := wheelsTo { s with now := t0, walkEnds := if r.hform then (t0 + 960) :: walking else walking }
      let s := s.modLink port (fun l =>
        let l := bookSlots (dropReq l ctx) t0 g e
        { l with lastSlot := l.lastSlot.set ctx e })
      holdFor s port r lat t0 faults parse

/-! ### Emission -/

/-- Post a counter and stamp update (R124, R205, R212, R227, R231). -/
def postUpd (s : State) (u : CntUpd) : State :=
  if asLost s then s
  else
    let s := if u.aged && !u.late then (statAdd s u.table 0x78).bump 0x11105C else s
    let (count, s) := if u.cnt then snapPost s u (snapsAfter s u.table u.epoch) else (false, s)
    if u.late then
      if count then s.modTable u.table (fun x => { x with
        retPkt := (x.retPkt + 1) % 2 ^ 64, retByte := (x.retByte + u.len) % 2 ^ 64, retLate := (x.retLate + 1) % 2 ^ 64 })
      else s
    else
      let s := if count then counterAdd s 0 u.pos 1 u.len else s
      if u.stamp then stampHit s u.pos u.epoch u.phase else s

/-- Post updates, the first of which meets a cache error. -/
def postAll (s : State) (err : Option CacheErr) (l : List CntUpd) : State :=
  let s := match err, l.find? (fun u => u.cnt && !u.late) with
    | some e, some u => cacheErr s e u.pos
    | _, _ => s
  l.foldl postUpd s

/-- A record whose words disagree is sent as FAULT with the safe result (R121). -/
def checkWords (s0 : State) (bad : List Nat) (i : Nat) (s : State) (r : Rec) : Rec × State :=
  if r.awBad || bad.contains i then
    (fitRec (safeRec s0 r.table luFault) r.bits, s.raise evLkpAwMismatch r.table r.handle)
  else (r, s)

/-- Check the words of records from position `i` on. -/
def checkAll (s0 : State) (bad : List Nat) : Nat → List Rec → State → List Rec × State
  | _, [], s => ([], s)
  | i, r :: l, s =>
    let (q, s) := checkWords s0 bad i s r
    let (m, s) := checkAll s0 bad (i + 1) l s
    (q :: m, s)

/-- The response frame of a hold entry (R116, R117, R153). -/
def responseFrame (h : Hold) : List Flit :=
  let st := luOverall (h.recs.map (fun r => r.status))
  let tv := match h.tokUsed, (tokenView h.view h.tok).1 with
    | true, some v => v
    | _, _ => h.view
  let hd := 0x9 * 2 ^ 60 + h.ctx % 8 * 2 ^ 57 + h.tag % 2 ^ 16 * 2 ^ 41 + st % 256 * 2 ^ 33 + b2n h.dmHit * 2 ^ 32 + tokenWord tv
  let n := responseLen (h.recs.map (fun r => r.bits)) h.dm.isSome
  let body := packRecs hd h.recs
  frameFlits n (match h.dm with
    | some w => body * 2 ^ 256 + w.toNat
    | none => body)

/-- Return one credit of a context in the next LINK flit (R432). -/
def returnCredit (s : State) (port ctx : Nat) : State :=
  s.modLink port (fun l => { l with back := listMod l.back ctx (fun n => n + 1) })

/-- The response of a hold entry leaves, and its updates post. -/
def emitHold (s : State) (h : Hold) (bad : List Nat) (err : Option CacheErr) : State :=
  let s := h.bads.foldl (fun s b => s.raise evLkpAwMismatch b.1 b.2) s
  let (recs, s) := checkAll (atT0 s h) bad 0 h.recs s
  let h := { h with recs := recs }
  let h := keepOld h recs
  let s := h.advs.foldl (fun s t => statAdd s t 0x50) s
  let s := h.safes.foldl (fun s t => if (s.table t).isSome then s.bump (taAddr t 0x38) else s) s
  let s := postAll s err h.upds
  let s := if asLost s then s else h.learns.foldl learnPush s
  let s := if linkUp (s.link h.port) then emit (.frame h.port (h.t0 + 8 * h.lat) (responseFrame h)) s
    else s.bump (hpAddr h.port 0x54)
  markSettling (returnCredit s h.port h.ctx) false

end Sys2Proof.Machine
end

