-- ==== Sys2Proof/Machine/Cascade.lean ====
section
/-! DEFINITION. The cascade (R309 to R321, R440): hellos, search and answer frames, the merge at the
head with its later passes, and win notices. -/

namespace Sys2Proof.Machine

/-! ### The chain (R309 to R311) -/

/-- Is cascade port `c` used (R309)? -/
def cpUsed (s : State) (c : Nat) : Bool :=
  cscEn s && (if c = 0 then s.csc.pos != 0 else decide (s.csc.pos.toNat + 1 < cscLen s))

/-- The port is used and its link runs. -/
def cpRuns (s : State) (c : Nat) : Bool := cpUsed s c && linkUp (s.link (16 + c))

/-- Reach of this module (R310). -/
def reach (s : State) : Nat :=
  if !cscEn s then 0 else 1 + (if cpUsed s 1 && s.csc.dnVer then s.csc.below else 0)

/-- The reach that makes the chain below this module whole. -/
def reachNeed (s : State) : Nat := max 1 (cscLen s - s.csc.pos.toNat)

/-- The chain becomes BROKEN, if it was ACTIVE (R311). -/
def chainBreak (s : State) : State :=
  if s.csc.chain = 2 then
    ({ s with csc := { s.csc with chain := 3 } }.setBits 0x140008 1).raise evCscChainLost
  else s

/-- Cascade port `c` has no verified link any more. -/
def unverify (s : State) (c : Nat) : State :=
  if c = 0 then { s with csc := { s.csc with upVer := false, upRun := 0 } }
  else chainBreak { s with csc := { s.csc with dnVer := false, dnRun := 0, below := 0 } }

/-- A cause of R311 on a cascade port: the link is gone, or two hellos in a row are missing on a verified
link. A cause that the state does not bear out does not arise (assumption 4). -/
def chainLost (s : State) (w : ChainLoss) : State := match w with
  | .linkLost c => if cpUsed s c.val && !linkUp (s.link (16 + c.val)) then unverify s c.val else s
  | .hellosMissing c =>
    if cpUsed s c.val && (if c.val = 0 then s.csc.upVer else s.csc.dnVer) then unverify s c.val else s

/-- An epoch step: the chain is ACTIVE once the reach equals LEN (R311). -/
def chainStep (s : State) : State :=
  if (s.csc.chain = 1 ∨ s.csc.chain = 3) ∧ reach s = reachNeed s then
    let was := s.csc.chain
    let s := { s with csc := { s.csc with chain := 2 } }
    if was = 3 then s.raise evCscChainUp else s
  else s

/-- CSC_CFG has been applied: the chain is OFF, or it forms anew (R311). -/
def cscApplied (s : State) (enWas : Bool) : State :=
  let c := s.csc
  if !cscEn s || cscLen s == 1 then
    { s with csc := { c with chain := 0, upVer := false, dnVer := false, upRun := 0, dnRun := 0, below := 0 } }
  else if !enWas || c.chain == 0 then { s with csc := { c with chain := 1 } }
  else if c.chain = 2 ∧ reach s ≠ reachNeed s then chainBreak s
  else s

/-- The hello this module sends (R440). -/
def helloFlit (s : State) : Flit :=
  let id := (s.live 4).toNat
  BitVec.ofNat 256 (0xE * 2 ^ 252 + s.csc.pos.toNat * 2 ^ 250 + cscLen s % 8 * 2 ^ 247 + reach s % 8 * 2 ^ 244 +
    b2n s.epoch.numbered * 2 ^ 243 + s.epoch.count % 2 ^ 48 * 2 ^ 192 + id * 2 ^ 160 + (2 ^ 32 - 1 - id) * 2 ^ 128)

/-- Time at which the phase of the present epoch reaches 512. -/
def midEpoch (e : Epoch) : Nat := e.phase0 + ((512 - e.off) * e.p16 + 16383) / 16384

/-- Every used cascade port sends a hello at phase 512 (R310). -/
def helloSend (s : State) : State :=
  if !(cpRuns s 0 || cpRuns s 1) || s.csc.helloAt == some s.epoch.count then s
  else
    let s := advance (midEpoch s.epoch) { s with csc := { s.csc with helloAt := some s.epoch.count } }
    let t := s.now
    let s := if cpRuns s 0 then emit (.frame 16 t [helloFlit s]) s else s
    if cpRuns s 1 then emit (.frame 17 t [helloFlit s]) s else s

/-- CSC_ERR bits that a received hello sets (R310, R323). -/
def helloErr (s : State) (c : Nat) (f : Flit) : Nat :=
  let pos := fld f 251 250
  let own := s.csc.pos.toNat
  (if (if c = 1 then pos == own + 1 else pos + 1 == own) then 0 else 0x20) +
  (if fld f 249 247 = cscLen s then 0 else 0x10) +
  (if fld f 191 160 = (s.live 4).toNat ∧ fld f 191 160 + fld f 159 128 = 2 ^ 32 - 1 then 0 else 8) +
  (if fld f 239 192 = s.epoch.count % 2 ^ 48 ∧ bit f 243 ∧ s.epoch.numbered then 0 else 4)

/-- A hello arrives on cascade port `c` (R310). -/
def helloIn (s : State) (c : Nat) (f : Flit) : State :=
  if !cpRuns s c || fld f 255 252 != 0xE then s
  else
    let s := s.bump (hpAddr (16 + c) 0x40)
    let e := helloErr s c f
    if e ≠ 0 then
      let s := s.setBits 0x140008 e
      let s := if e.testBit 2 then s.raise evCscEpochSkew else s
      unverify s c
    else if c = 0 then
      { s with csc := { s.csc with upRun := min 2 (s.csc.upRun + 1), upVer := decide (1 ≤ s.csc.upRun) } }
    else
      let ver := decide (1 ≤ s.csc.dnRun)
      let s := { s with csc := { s.csc with
        dnRun := min 2 (s.csc.dnRun + 1), dnVer := ver, below := if ver then fld f 246 244 else 0 } }
      if s.csc.chain = 2 ∧ reach s ≠ reachNeed s then chainBreak s else s

/-! ### Merging parts (R318) -/

/-- Place of a part status in the order of R318. -/
def partRank (p : Nat) : Nat :=
  if p = 3 then 0 else if p = 5 then 1 else if p = 6 then 2 else if p = 2 then 3 else if p = 7 then 4
  else if p = 4 then 5 else 6

/-- Merge two parts: part status, record, home position, and whether the second part won. -/
def mergeParts (a b : Nat × Rec × Nat) : Nat × Rec × Nat × Bool :=
  if partRank a.1 < partRank b.1 then (a.1, a.2.1, a.2.2, false)
  else if partRank b.1 < partRank a.1 then (b.1, b.2.1, b.2.2, true)
  else if partRank a.1 < 6 then (a.1, a.2.1, a.2.2, false)
  else if b.1 ≠ 0 then (a.1, a.2.1, a.2.2, false)
  else if a.1 ≠ 0 then (b.1, b.2.1, b.2.2, true)
  else if beats b.2.1.prio b.2.1.handle a.2.1.prio a.2.1.handle then (b.1, b.2.1, b.2.2, true)
  else (a.1, a.2.1, a.2.2, false)

/-- The record that an answer frame carries, with `bits` data bits, from payload bit `first` on (R315). -/
def frameRec (fl : List Flit) (t bits : Nat) : Rec :=
  let act := payload fl (64 + 64) 32
  { table := t, status := luHit, prio := payload fl (64 + 8) 24, handle := payload fl (64 + 32) 32, action := word act
    data := BitVec.ofNat 256 (payload fl 192 bits), bits := bits, upd := none, learn := none, safe := false, trig := false
    awBad := act + payload fl (64 + 96) 32 != 2 ^ 32 - 1 }

/-! ### Search frames below the head (R317, R321) -/

/-- Glazes that take effect by view `v`, in order: those before the first that is not armed for it
(R321 step 2). -/
def armedBy (v : Nat) : List (Nat × Slot) → List Nat
  | [] => []
  | (n, y) :: l => if y.armed && decide (y.epoch ≤ v) then n :: armedBy v l else []

/-- The slot a receiving module resolves view `v` to, and the epoch of a split glaze (R321). -/
def resolveDown (s : State) (x : Table) (v : Nat) : Option Nat × Option Nat :=
  let early := if v = s.epoch.count + 1 ∧ s.epoch.qual ≠ .lost then armedBy v (pendingGlazes x) else []
  let k := (slotsIn x (fun q => q == .sealed)).foldl (fun (m : Option Nat) k =>
    if early.contains (x.slot k).sealNo then (match m with
      | none => some k
      | some j => if (x.slot j).sealNo < (x.slot k).sealNo then some k else m)
    else m) none
  let split := (slotsIn x (fun q => q == .sealed)).findSome? (fun k =>
    let y := x.slot k
    if y.by_ == .command && decide (y.epoch ≤ v) && !early.contains y.sealNo then some y.epoch else none)
  (match k with
   | some k => some k
   | none => viewSlot x v, split)

/-- The own part of a module below the head: part status, record, home position, state. -/
def partBelow (s : State) (t wc : Nat) (p : Word) (v : Nat) (ok : Bool) (key : Key) (now budget : Nat) (faults : List FaultAt) :
    (Nat × Rec × Nat) × State :=
  let miss := fun (s : State) (q : Nat) => ((q, { missRec s t luMiss with bits := adBits p }, 0), s)
  if !ok then miss s 6
  else match s.table t with
    | none => miss s 6
    | some x =>
      if x.st == .destroying || !taCasc s t || fld (ta s t 0) 5 4 != wc then miss s 6
      else if s.epoch.count + 1 < v then miss ((s.setBits 0x140008 4).raise evCscEpochSkew) 5
      else if onLostDie s t x then miss s 3
      else if crumbOnly x then miss s 4
      else
        let (k, split) := resolveDown s x v
        match split with
        | some e => miss (splitFound s t e) 5
        | none =>
          match k with
          | none => miss s (if x.slots.any (fun y => y.by_ == .promotion && decide (v < y.epoch)) then 4 else 7)
          | some k =>
            if v < x.floor then miss s (if x.slots.any (fun y => y.by_ == .promotion && decide (v < y.epoch)) then 4 else 7)
            else if 8 * budget < 3000 then miss s 2
            else if s.stage.stage = 4 then miss s 4
            else
              let fs := (faults.filter (fun f => f.pass == 0 && f.slot == 0)).map (fun f => f.fault)
              if fs.contains .glazePtr then miss (cxRepair (s.raise evGlzPtrRepair t) t) 3
              else if fs.contains .datapath then miss s 3
              else
                let s := if fs.contains .corrected then s.bump 0x130120 (fs.count .corrected) else s
                let (r, _, s) := searchTernary s t x p k key now (8 * budget - 3000) fs
                match r with
                | .overload => miss s 2
                | .fault => miss s 3
                | .found none => miss s 1
                | .found (some f) =>
                  ((0, { foundRec s t luHit f with bits := adBits p }, (match f.row with
                    | some r => r.pos
                    | none => 0)), s)

/-- A search frame arrives on CP0 (R317). -/
def searchIn (s : State) (fl : List Flit) (t : Nat) (faults : List FaultAt) : State :=
  if !cpRuns s 0 || payload fl 0 4 != 0xC then s
  else
    let s := (wheelsTo (advance t s)).bump (hpAddr 16 0x40)
    let tb := payload fl 4 8
    let wc := payload fl 12 2
    let ad := payload fl 14 2
    let p : Word := at_ ad 2 8 ||| at_ (payload fl 16 3) 3 12
    let budget := payload fl 19 13
    let tag := payload fl 32 16
    let v := payload fl 64 48
    let ok := v % 2 ^ 16 + payload fl 112 16 == 0xFFFF
    let w := 2 ^ wc
    let key : Key := BitVec.ofNat 640 (natBE (bytesLE (10 * w) (payload fl 128 (80 * w))))
    let now := s.now
    let (part, s) := partBelow s tb wc p v ok key now budget faults
    let sendAt := now + 8 * budget
    let fwd := if cpRuns s 1 && decide (325 ≤ budget) then
        sendOn s 17 now (8 * budget) (searchFrame tb (at_ wc 2 4) p (budget - 325) s.csc.nextTag v key)
      else none
    let (down, s) := match fwd with
      | some (_, s) => (some s.csc.nextTag,
          { s.bump 0x140040 with csc := { s.csc with nextTag := (s.csc.nextTag + 1) % 65536 } })
      | none => (none, s)
    let e : CscServe := { ctag := tag, table := tb, bits := adBits p, sendAt := sendAt, pstat := part.1, part := part.2.1
                          pos := part.2.2, down := down, due := sendAt - 200, ans := none }
    { s with csc := { s.csc with serves := s.csc.serves ++ [e] } }

/-- The bits of an answer frame (R315); a record whose words disagree is passed on as it came (R121). -/
def answerFrame (pst home tag : Nat) (r : Rec) : List Flit :=
  let hd := 0xD * 2 ^ 60 + pst % 16 * 2 ^ 56 + home % 2 ^ 24 * 2 ^ 32 + tag % 2 ^ 16 * 2 ^ 16
  let rb := if pst = 0 then recordBits 0 r else recordBits 0 { r with prio := 0, handle := 0xFFFFFFFF, action := 0 }
  let rb := if r.awBad then rb - rb % 2 ^ 32 + r.action.toNat else rb
  frameFlits (192 + r.bits) ((hd * 2 ^ 128 + rb) * 2 ^ r.bits + (if pst = 0 then r.data.toNat % 2 ^ r.bits else 0))

/-- The merged answer to the oldest search frame with tag `ctag` leaves, exactly BUDGET after its receipt
(R317). -/
def answerSend (s : State) (ctag : Nat) : State := match findIdx (fun (e : CscServe) => e.ctag == ctag) s.csc.serves 0 with
  | none => s
  | some i => match s.csc.serves[i]? with
    | none => s
    | some e =>
      let s := { advance e.sendAt s with csc := { s.csc with serves := s.csc.serves.eraseIdx i } }
      let own := (e.pstat, e.part, e.pos)
      let lost : Nat × Rec × Nat := (5, e.part, 0)
      let (q, r, h, _) := if cpUsed s 1 then mergeParts own (e.ans.getD lost) else (e.pstat, e.part, e.pos, false)
      if cpRuns s 0 then emit (.frame 16 e.sendAt (answerFrame q (if q = 0 then h else 0) e.ctag r)) s else s

/-- An answer frame arrives on CP1 at time `t` (R317). -/
def answerIn_ (s : State) (fl : List Flit) (t : Nat) : State :=
  if !cpRuns s 1 || payload fl 0 4 != 0xD then s
  else
    let s := (advance t s).bump (hpAddr 17 0x40)
    let tag := payload fl 32 16
    let pst := payload fl 4 4
    let home := payload fl 8 24
    let now := s.now
    let isW := fun (c : CscWait) => c.ctag == tag && c.ans.isNone && decide (now ≤ c.due)
    let isS := fun (e : CscServe) => e.down == some tag && e.ans.isNone && decide (now ≤ e.due)
    if s.holds.any (fun h => h.csc.any isW) then
      { s.bump 0x140044 with holds := s.holds.map (fun (h : Hold) => { h with csc := h.csc.map (fun (c : CscWait) =>
        if isW c then { c with ans := some (pst, frameRec fl c.table c.part.bits, home) } else c) }) }
    else if s.csc.serves.any isS then
      { s.bump 0x140044 with csc := { s.csc with serves := s.csc.serves.map (fun (e : CscServe) =>
        if isS e then { e with ans := some (pst, frameRec fl e.table e.bits, home) } else e) } }
    else s.bump 0x140048

/-! ### The merge at the head (R318, R320) -/

/-- The win notice of a hit on module `target`, as 128 bits (R320, R440). -/
def winWord (h : Hold) (target home : Nat) : Nat :=
  0xB * 2 ^ 124 + target % 4 * 2 ^ 122 + home % 2 ^ 24 * 2 ^ 98 + h.length % 2 ^ 16 * 2 ^ 82 +
    h.view % 2 ^ 48 * 2 ^ 34 + h.phase % 1024 * 2 ^ 24

/-- Win notices leave on CP1, in order, two to a flit (R320); those that cannot be sent are dropped. -/
def sendWins : List Nat → State → State
  | [], s => s
  | n :: l, s =>
    if s.csc.chain = 3 ∨ !cpRuns s 1 then s.bump 0x140058 (l.length + 1)
    else match l with
      | [] => emit (.frame 17 s.now [BitVec.ofNat 256 (n * 2 ^ 128)]) s
      | m :: l => sendWins l (emit (.frame 17 s.now [BitVec.ofNat 256 (n * 2 ^ 128 + m)]) s)

/-- The record of a cascaded lookup at emission (R318), whether the presented view answered it, and the
home of a winner on another module. `s0` holds the registers as live at t0. -/
def headRec (s0 s : State) (c : CscWait) : Rec × Bool × Option (Nat × Nat) × State :=
  let t := c.table
  let lost : Nat × Rec × Nat := (5, c.part, 0)
  let (q, r, home, below) := mergeParts (c.pstat, c.part, c.pos) (c.ans.getD lost)
  let safe := fun (s : State) (st : Nat) => (fitRec (safeRec s0 t st) c.part.bits, false, none, s)
  if q = 3 then safe s luFault
  else if q = 5 then safe (s.bump 0x14004C) luCascadeLost
  else if q = 6 then safe ((s.bump 0x14004C).raise evCscPartAbsent) luCascadeLost
  else if q = 2 then safe s luOverload
  else if q = 7 then safe (statAdd s t 0x4C) luViewExpired
  else if q = 4 then safe s luSafe
  else
    let s := if c.tok then statAdd s t 0x48 else s
    let st := fun (b : Nat) => if c.advanced then luViewAdvanced else b
    if q = 1 then (fitRec (missRec s0 t (st luMiss)) c.part.bits, c.tok, none, s)
    else
      let r := { r with table := t, status := st luHit, trig := fld r.action 31 28 == 1 && !r.awBad }
      (r, c.tok, if below then some (r.handle / 2 ^ 30, home) else none, s)

/-- A merged record that asks for a pass, by the fate of its lookup (R144, R145): a further pass runs already, or the
record gets its status and is counted as such. -/
def fateRec (s : State) (c : CscWait) (r : Rec) : Rec × State :=
  if !r.trig || c.fate = 0 then (r, s)
  else if c.fate = 1 then ({ r with trig := false }, statAdd s c.table 0x40)
  else ({ r with status := c.fate, trig := false, upd := none, safe := false }, statAdd s c.table 0x44)

/-- Put the records of the cascaded lookups into their positions, or keep what those that a later pass replaced post;
`bad` are the positions whose words disagree. The wins on other modules, by position. -/
def headAll (s0 : State) (bad : List Nat) : List CscWait → State → Hold → List (Nat × Nat × Nat) → State × Hold × List (Nat × Nat × Nat)
  | [], s, h, w => (s, h, w)
  | c :: l, s, h, w =>
    let (r, tok, win, s) := headRec s0 s c
    let r := if bad.contains c.slot && !c.gone then { r with awBad := true, trig := false } else r
    let (r, s) := fateRec s c r
    let h := if c.gone then keepOld h [r]
      else { h with recs := listMod h.recs c.slot (fun (o : Rec) => fitRec r o.bits) }
    headAll s0 bad l s { h with tokUsed := h.tokUsed || tok } (match win with
      | some (m, home) => if c.gone then w else w ++ [(c.slot, m, home)]
      | none => w)

/-- A pass that would follow a cascaded one comes too late for every table (R149, R319): its records. -/
def lateRec (s0 s : State) (h : Hold) (prof k : Nat) : Rec × State :=
  let t := pfTable s0 prof k
  match s.table t with
  | none => (missRec s0 t luTableAbsent, s)
  | some x =>
    if onLostDie s t x then (safeRec s0 t luFault, s)
    else if taCasc s0 t && s.csc.pos == 0 && s.csc.chain != 2 then (safeRec s0 t luCascadeLost, s.bump 0x14004C)
    else if 8 * h.lat < pathMin s0 t (h.pass + 1) h.hform then (safeRec s0 t luOverload, s.raiseOnce evKaeHfShortL t t)
    else (safeRec s0 t luOverload, s)

/-- The records of such a pass. -/
def lateRecs (s0 : State) (h : Hold) (prof : Nat) : Nat → Nat → State → List Rec × State
  | 0, _, s => ([], s)
  | n + 1, k, s =>
    let (r, s) := lateRec s0 s h prof k
    let (l, s) := lateRecs s0 h prof n (k + 1) s
    (r :: l, s)

/-- Is the record at position `i` one whose hit is counted (R124, R320)? -/
def countedAt (h : Hold) (i : Nat) : Bool := match h.recs[i]? with
  | none => false
  | some r => !r.awBad && (r.status == luHit || r.status == luViewAdvanced)

/-- Finish a hold entry that waited for answers from below: the merge, the check of the words that came
up, the pass that the merged records ask for, and the notices of the records that are emitted. The answers arrive 60 ns
before t0 + L at the earliest (R316, R317), so that a pass that waits for them has no BUDGET and no slack left
(DEDUCED; assumption 87). -/
def finishCsc (s : State) (h : Hold) (bad : List Nat) : State × Hold :=
  if h.csc.isEmpty then (s, h)
  else
    let s0 := atT0 s h
    let open_ := h.csc.any (fun c => c.fate == 0 && !c.gone)
    let (s, h, wins) := headAll s0 bad h.csc s h []
    let h := { h with csc := [], recs := h.recs.mapIdx (fun (i : Nat) (r : Rec) =>
      if bad.contains i then { r with awBad := true, trig := false } else r) }
    let n := min (pfSlots s0 h.prof) h.recs.length
    let (q, _, s, h) := if open_ then nextPass s0 s h n else (none, 0, s, h)
    let (k, s, h) : Nat × State × Hold := match q with
      | none => (0, s, h)
      | some q =>
        let m := min (pfSlots s0 q) h.recs.length
        let (l, s) := lateRecs s0 h q m 0 s
        (m, s, placeRecs { h with pass := h.pass + 1, prof := q } l [])
    (sendWins ((wins.filter (fun w => decide (k ≤ w.1) && countedAt h w.1)).map (fun w => winWord h w.2.1 w.2.2)) s, h)

/-- Of the responses that leave in one hub cycle, does another come before one of `port` and `ctx` due at time `t`: those
of lower ports first, and within a port those of lower contexts (R231)? -/
def emitsLater (s : State) (port ctx t : Nat) : Bool :=
  s.holds.any (fun g => g.t0 + 8 * g.lat == t && (decide (g.port < port) || (g.port == port && decide (g.ctx < ctx))))

/-- The response to the oldest request of a context leaves at t0 + L (R20, R318), in the order of its hub cycle. -/
def emitResponse (s : State) (port ctx : Nat) (bad : List Nat) (err : Option CacheErr) : State :=
  match findIdx (fun (h : Hold) => h.port == port && h.ctx == ctx) s.holds 0 with
  | none => s
  | some i => match s.holds[i]? with
    | none => s
    | some h =>
      if emitsLater s port ctx (h.t0 + 8 * h.lat) then s else
      let s := { advance (h.t0 + 8 * h.lat) s with holds := s.holds.eraseIdx i }
      let single := h.csc.isEmpty
      let (s, h) := finishCsc s h bad
      emitHold s h (if single then bad else []) err

/-! ### Win notices (R320) -/

/-- The table and the row at a home position. -/
def rowAt (s : State) (p : Nat) : Option (Nat × Row) :=
  s.tables.findSome? (fun q => (q.2.rows.find? (fun r => r.pos == p)).map (fun r => (q.1, r)))

/-- The hit of a notice came at or after the step that deleted its entry (R212). -/
def winLate (x : Table) (r : Row) (e : Nat) : Bool := match liveSlot x with
  | none => false
  | some k => (reaches (rowAfter x) k 5 r).isNone && (match slotAfter r.vis (genOrder x) with
    | some n => decide ((x.slot n).epoch ≤ e) && ((x.slot n).st == .live || (x.slot n).st == .retired || (x.slot n).st == .settling)
    | none => false)

/-- One notice of a WIN flit, 128 bits, that may be for this module. -/
def winNotice (s : State) (n : Nat) : State :=
  if nfld n 127 124 ≠ 0xB ∨ nfld n 123 122 ≠ s.csc.pos.toNat then s
  else match rowAt s (nfld n 121 98) with
    | none => s
    | some (t, r) => match s.table t with
      | none => s
      | some x =>
        postUpd s { table := t, handle := r.handle, pos := r.pos, len := nfld n 97 82, epoch := nfld n 81 34, phase := nfld n 33 24
                    cnt := bit (ta s t 0x18) 0, stamp := bit (ta s t 0x18) 1, late := winLate x r (nfld n 81 34)
                    aged := x.aged.contains r.pos }

/-- A WIN flit arrives on CP0 (R320, R440): notices for modules further down are relayed in order. -/
def winIn (s : State) (f : Flit) : State :=
  if !cpRuns s 0 || fld f 255 252 != 0xB then s
  else
    let l := [fld f 255 128, fld f 127 0]
    let s := l.foldl winNotice (s.bump (hpAddr 16 0x40))
    sendWins (l.filter (fun n => nfld n 127 124 == 0xB && decide (s.csc.pos.toNat < nfld n 123 122))) s

end Sys2Proof.Machine
end

