-- ==== Sys2Proof/Machine/Recovery.lean ====
section
/-! DEFINITION. Rebuild and copy swap (R12, R254, R255, R257), destructive tests (R281 to R285), the
scrub pass (R277 to R280), shared-bank tests (R288 to R290), and the commands SPRINKLE_CFG and
BLOCK_RETIRE (R286, R287). -/

namespace Sys2Proof.Machine

/-- Any temperature sensor is at LIMIT (R408). -/
def atLimit (s : State) : Bool := s.mgmt.limit.any (fun l => l != 0)

/-! ### Rebuild (R254, R257) -/

/-- A spare for block `b` of die `d` by R12: free ones first, then one that serves an automatic mirror, which a
copy-map change releases first: the spare, and the change. R12 names no order among several of either kind: the model
takes the lowest number (DESIGN CHOICE; assumption 74). -/
def claimR12 (s : State) (d b : Nat) : Option (Nat × Option Nat × State) := match claimSpare s d b with
  | some k => some (k, none, s)
  | none => match (List.range 32).find? (fun k => (s.spare d k).use == 1 && (s.spare d k).auto && (s.spare d k).built &&
      !s.dies.builds.any (fun (q : Build) => q.die == d && q.spare == k) &&
      !s.dies.changes.any (fun q => q.die == d && q.drop.contains k)) with
    | some k =>
      let p := (s.spare d k).primary
      let (id, s) := addChange s { id := 0, table := (s.blk d p).table, cmd := none, die := d, block := p, add := [], drop := [k] }
      some (k, some id, s)
    | none => none

/-- The build that replaces a unit. -/
def buildOf (s : State) (d u : Nat) : Option Build := s.dies.builds.find? (fun (b : Build) => b.die == d && b.unit == u)

/-- Drop the build of a unit. -/
def dropBuild (s : State) (d u : Nat) : State :=
  { s with dies := { s.dies with builds := s.dies.builds.filter (fun (b : Build) => !(b.die == d && b.unit == u)) } }

/-- Change the build of a unit. -/
def modBuild (s : State) (d u : Nat) (f : Build → Build) : State :=
  { s with dies := { s.dies with builds := s.dies.builds.map (fun (b : Build) => if b.die = d ∧ b.unit = u then f b else b) } }

/-- The copy of a unit into spare `k` begins; the spare gets USE `use`, once change `hold` has released it. -/
def beginBuild (s : State) (d u b k use : Nat) (why : BuildFor) (hold : Option Nat := none) : State :=
  let s := if hold.isSome then s else askCopy (s.setSpare d k { Spare.free with use := use, primary := b }) d b k { unit := 5, idx := d }
  let r : Build := { die := d, unit := u, block := b, spare := k, why := why, tries := 0, verified := false, hold := hold }
  { s with dies := { s.dies with
    builds := s.dies.builds ++ [r]
    waiting := s.dies.waiting.filter (fun (w : Nat × Nat) => !(w.1 == d && w.2 == u)) } }

/-- A rebuild finds no spare: it waits, and RCV_NO_SPARE is raised once (R257, R481). -/
def noSpare (s : State) (d u b kind : Nat) : State :=
  if s.dies.waiting.contains (d, u) then s
  else { s with dies := { s.dies with waiting := s.dies.waiting ++ [(d, u)] } }.raise evRcvNoSpare d b kind

/-- A mirror made by TBL_MIRROR that was released suspect is made again for block `b`, once a spare is free (R257). A
block that lacks none has nothing to make (assumption 4). -/
def remakeMirror (s : State) (d b : Nat) : State :=
  if !s.dies.waiting.contains (d, 2048 + b) then s
  else match claimSpare s d b with
    | none => s
    | some k =>
      let s : State := { s with dies := { s.dies with waiting := s.dies.waiting.erase (d, 2048 + b) } }
      (beginBuild s d (1024 + k) b k 2 .mirror).raise evRcvRebuildStart d b k

/-- A suspect unit is rebuilt, when a spare can be claimed (R254, R257, R285); AUTO_REBUILD governs blocks, and not
mirrors. A unit that is not suspect, whose rebuild runs or has failed, or that is an automatic mirror, is not rebuilt
(assumption 4). -/
def rebuildStart (s : State) (d u : Nat) : State :=
  let mirror := decide (1024 ≤ u) && (s.spare d (u - 1024)).use == 1
  if decide (u < 1024) && !unitSuspect s d u then remakeMirror s d u
  else if (!bit (s.live 0x13F000) 2 && !mirror) || !unitSuspect s d u || (buildOf s d u).isSome then s
  else if u < 1024 then
    match claimR12 s d u with
    | some (k, q, s) => (beginBuild s d u u k 2 .rebuild q).raise evRcvRebuildStart d u k
    | none => noSpare s d u u 0
  else
    let x := s.spare d (u - 1024)
    let b := x.primary
    if x.crumb.isSome then s
    else if x.use = 1 then
      (if x.auto then s
       else match claimSpare s d b with
        | some k => (beginBuild s d u b k 2 .mirror).raise evRcvRebuildStart d b k
        | none => noSpare s d u b 1)
    else if x.use = 3 then
      let s := match s.spk.tests[d]? with
        | some t => (match t.cmd with
          | some i => finish { s with spk := { s.spk with tests := s.spk.tests.set d { t with phase := 3, cmd := none } } } i stInvalid
          | none => { s with spk := { s.spk with tests := s.spk.tests.set d { t with phase := 3 } } })
        | none => s
      let s := dropBuild (skipTest s b) d b
      let r : Build := { die := d, unit := u, block := b, spare := u - 1024, why := .back, tries := 0, verified := false }
      { s with dies := { s.dies with builds := s.dies.builds ++ [r] } }
    else if x.use = 2 then
      match claimR12 s d b with
      | some (k, q, s) => (beginBuild s d u b k 2 .rebuild q).raise evRcvRebuildStart d b k
      | none => noSpare s d u b 0
    else s

/-- The test on a die ends, and its command completes with handle `h`, or a status (R286). -/
def endTest (s : State) (d st h : Nat) : State := match s.spk.tests[d]? with
  | none => s
  | some t =>
    let s := { s with spk := { s.spk with tests := s.spk.tests.set d { t with phase := 0, spare := none, cmd := none } } }
    match t.cmd with
    | some i => finish s i st h
    | none => s

/-- A copy and its verification end (R254). A failed copy is repeated once, on another spare if one is
free; a second failure raises RCV_REBUILD_FAIL. -/
def rebuildVerified (s : State) (d u : Nat) (good : Bool) : State := match buildOf s d u with
  | none => s
  | some b =>
    if b.verified || b.tries == 2 || b.hold.isSome then s
    else if good then modBuild s d u (fun b => { b with verified := true })
    else if b.tries = 0 then
      (if b.why == .back then modBuild s d u (fun b => { b with tries := 1 })
       else
        let s := askCopy s d b.block b.spare { unit := 5, idx := d }
        match claimSpare s d b.block with
        | some k =>
          let s := (s.setSpare d k (s.spare d b.spare)).setSpare d b.spare Spare.free
          let s := { s with spk := { s.spk with tests := s.spk.tests.mapIdx (fun (i : Nat) (t : TestRun) =>
            if i = d ∧ t.spare = some b.spare then { t with spare := some k } else t) } }
          modBuild s d u (fun b => { b with tries := 1, spare := k })
        | none => modBuild s d u (fun b => { b with tries := 1 }))
    else
      let s := s.raise evRcvRebuildFail
      match b.why with
      | .rebuild => modBuild (releaseSpare s d b.spare) d u (fun b => { b with tries := 2 })
      | .mirror => modBuild (releaseSpare s d b.spare) d u (fun b => { b with tries := 2 })
      | .takeover => endTest (skipTest (dropBuild (releaseSpare s d b.spare) d u) b.block) d stInvalid 0xFFFFFFFF
      | .back => modBuild s d u (fun b => { b with tries := 0 })
      | .retire =>
        let s := dropBuild (releaseSpare s d b.spare) d u
        finishWaiting s (fun w => w == .retire d u) stTableFull (fun _ => 0xFFFFFFFF) 0 false

/-- Suspect mirrors of a die are released at a copy swap; the block of one made by TBL_MIRROR waits for another, to keep
the count M (R257). -/
def releaseSuspects (s : State) (d : Nat) : State :=
  (List.range 32).foldl (fun s k =>
    let x := s.spare d k
    if x.use = 1 ∧ x.suspect ∧ (buildOf s d (1024 + k)).isNone then
      let s := releaseSpare s d k
      if x.auto then s else { s with dies := { s.dies with waiting := s.dies.waiting ++ [(d, 2048 + x.primary)] } }
    else s) s

/-- A position is retired for good (R284). -/
def retirePos (s : State) (d p : Nat) : State :=
  let s := { s with spk := { s.spk with retired := if s.spk.retired.contains (d * 1056 + p) then s.spk.retired else s.spk.retired ++ [d * 1056 + p] } }
  if p < 1024 then s.setBlk d p { s.blk d p with st := 3 } else s.setSpare d (p - 1024) Spare.free

/-- A position is retired and its record staged, for which the commands `ids` wait (R284, R287, R383). -/
def retireDone (s : State) (d p : Nat) (ids : Cmd → Bool) : State :=
  let s := retirePos s d p
  let s := stageRec s 0x30 255 none (configBody s [])
  if vaultTakes s then s.modCmds ids (fun c => { c with jneed := some s.vault.seq }) else s

/-- A position is retired for command `c`, which completes. -/
def retireNow (s : State) (d p : Nat) (c : Cmd) : State := finish (retireDone s d p (fun q => q.id == c.id)) c.id stOk

/-- A verified copy replaces its unit at this step (R255). -/
def copySwapAt (s : State) (d u : Nat) : State := match buildOf s d u with
  | none => s
  | some b =>
    if !b.verified then s
    else
      let s := dropBuild s d u
      let sp := s.spare d b.spare
      let s := match b.why with
        | .rebuild =>
          let s := s.setSpare d b.spare { sp with built := true }
          if u < 1024 then s.setBlk d u { s.blk d u with st := 3 } else releaseSpare s d (u - 1024)
        | .mirror =>
          let s := if u = 1024 + b.spare then s else releaseSpare s d (u - 1024)
          s.setSpare d b.spare { sp with use := 1, auto := false, built := true }
        | .takeover =>
          let s := (s.setSpare d b.spare { sp with built := true }).setBlk d u { s.blk d u with st := 3 }
          { s with spk := { s.spk with tests := listMod s.spk.tests d (fun t => { t with phase := 2 }) } }
        | .back =>
          let s := (releaseSpare s d b.spare).setBlk d b.block { s.blk d b.block with st := 1 }
          endTest s d stInvalid 0xFFFFFFFF
        | .retire =>
          let s := if u < 1024 then s.setSpare d b.spare { sp with use := 2, built := true }
            else s.setSpare d b.spare { sp with use := (s.spare d (u - 1024)).use, auto := (s.spare d (u - 1024)).auto, built := true }
          finishWaiting (retireDone s d u (fun c => c.st == .waiting (.retire d u))) (fun w => w == .retire d u) stOk (fun _ => 0xFFFFFFFF) s.epoch.count s.epoch.held
      let s := releaseSuspects s d
      let s := (s.bump 0x13F04C).raise evRcvRebuildDone b.block b.spare s.epoch.count
      heldAction s 6 (d * 1024 + b.block)

/-! ### Destructive tests (R281 to R285) -/

/-- May a new destructive test begin on a die now (R12, R286, R408)? -/
def testMayStart (s : State) (d : Nat) : Bool :=
  decide (s.spk.holdUntil ≤ s.epoch.count) && !atLimit s && !s.dies.waiting.any (fun w => w.1 == d) &&
    (match s.spk.tests[d]? with
     | some t => t.phase == 0
     | none => false)

/-- A test of position `p` of die `d` begins, or is skipped (R282). -/
def testStart (s : State) (d p : Nat) (cmd : Option Nat) : State :=
  let go := fun (s : State) (ph : Nat) (k : Option Nat) =>
    ({ s with spk := { s.spk with tests := s.spk.tests.set d { phase := ph, pos := p, spare := k, cmd := cmd } } } : State)
  let skip := fun (s : State) (st : Nat) =>
    let s := skipTest { s with spk := { s.spk with tests := s.spk.tests.set d { phase := 0, pos := p, spare := none, cmd := none } } } p
    match cmd with
    | some i => finish s i st
    | none => s
  if s.spk.retired.contains (d * 1056 + p) then skip s stInvalid
  else if 1024 ≤ p then
    (if spareFree s d (p - 1024) then go s 2 none else skip s stInvalid)
  else if (s.blk d p).st = 0 then go s 2 none
  else if (s.blk d p).st ≠ 1 ∨ (buildOf s d p).isSome then skip s stInvalid
  else match claimSpare s d p with
    | none => skip s stTableFull
    | some k => go (beginBuild s d p p k 3 .takeover) 1 (some k)

/-- Length of a test pass in epochs (R281). -/
def testPeriod (s : State) : Nat := s.cfg 0x130008 23 0 * 65536

/-- The next test of the schedule is due on die `d` (R281). -/
def windowDue (s : State) (d : Nat) : Bool :=
  bit (s.live 0x130000) 2 && decide (natAt s.spk.nextPos d < 1056) &&
    decide (s.spk.passStart + natAt s.spk.nextPos d * (testPeriod s / 1056) ≤ s.epoch.count)

/-- The next test on die `d` begins at this step: a TEST_BLOCK first, then the schedule. -/
def testWindowAt (s : State) (d : Nat) : State :=
  if !testMayStart s d then s
  else match s.spk.testDue.find? (fun (q : Nat × Nat × Nat) => q.1 == d) with
    | some q =>
      let s := { s with spk := { s.spk with testDue := s.spk.testDue.filter (fun (r : Nat × Nat × Nat) => r != q) } }
      testStart s d q.2.1 (some q.2.2)
    | none =>
      if windowDue s d then
        let p := natAt s.spk.nextPos d
        testStart { s with spk := { s.spk with nextPos := s.spk.nextPos.set d (p + 1) } } d p none
      else s

/-- The array test on die `d` ends (R283, R284). -/
def arrayTestDone (s : State) (d : Nat) (pass : Bool) : State := match s.spk.tests[d]? with
  | none => s
  | some t =>
    if t.phase ≠ 2 then s
    else
      let p := t.pos
      if pass then
        let s := s.bump 0x130108
        match t.spare with
        | none => endTest s d stOk 0
        | some k =>
          let s := match t.cmd with
            | some i => finish s i stOk 0
            | none => s
          let r : Build := { die := d, unit := p, block := p, spare := k, why := .back, tries := 0, verified := false }
          { s with dies := { s.dies with builds := s.dies.builds ++ [r] }
                   spk := { s.spk with tests := s.spk.tests.set d { t with phase := 3, cmd := none } } }
      else
        let s := (s.bump 0x13010C).raise evSpkTestFail p
        let s := match t.spare with
          | some k => s.setSpare d k { s.spare d k with use := 2 }
          | none => s
        endTest (retireDone s d p (fun _ => false)) d stOk 1

/-! ### The scrub pass (R277 to R280) -/

/-- Units that a scrub pass compares: blocks in use and spares that serve (R277 item 1). -/
def scrubUnits (s : State) : NMap Nat :=
  let bs := (s.dies.blocks.filter (fun p => p.2.table != 255 && (p.2.st == 1 || p.2.st == 2))).map (fun p => (p.1 / 1024 * 1056 + p.1 % 1024, 0))
  let ss := (s.dies.spares.filter (fun p => p.2.use != 0 && p.2.built)).map (fun p => (p.1 / 32 * 1056 + 1024 + p.1 % 32, 0))
  (bs ++ ss).foldl (fun m p => mapSet m p.1 p.2) []

/-- A scrub pass begins at this step (R277, R280). -/
def scrubAt (s : State) : State :=
  let periodic := bit (s.live 0x130000) 0 && s.epoch.crossed (max 1 (s.cfg 0x130004 23 0))
  if s.spk.scrub then (if periodic then s.raise evSpkPassLate else s)
  else if periodic || s.spk.scrubDue then
    heldAction { s with spk := { s.spk with scrub := true, scrubDue := false, runs := scrubUnits s } } 9 0
  else s

/-- The shadow records of the rows of a unit (R15, R63): those of the block it serves, with the home block of a replica
standing for it, or the crumb entries in a spare. -/
def unitRows (s : State) (d u : Nat) : List Row :=
  match (if u < 1024 then none else (s.spare d (u - 1024)).crumb) with
  | some _ => (s.stage.crumb.map (fun p => p.2)).filter (fun r => r.die == d && r.block == u - 1024)
  | none =>
    let b := unitBlock s d u
    match s.table (s.blk d b).table with
    | none => []
    | some x =>
      let h := rowHome x d b
      x.rows.filter (fun r => r.die == h.1 && r.block == h.2)

/-- The 168 bits that a row of a block gives to the signature of its run (R278): value, mask, row-valid bit and
visibility mask of the segment that its shadow record holds, or zeros. -/
def rowBits (w : Nat) (rows : List Row) (i : Nat) : BitVec 168 :=
  match rows.find? (fun r => decide (r.row ≤ i) && decide (i < r.row + w)) with
  | none => 0
  | some r =>
    let seg := fun (k : Key) => (k >>> (80 * (i - r.row))).toNat % 2 ^ 80
    BitVec.ofNat 168 (seg r.value + seg r.mask * 2 ^ 80 + 2 ^ 160 + r.vis.toNat * 2 ^ 161)

/-- CRC-32 over rows in order, each with its least significant bit first (R278). -/
def runCrc (l : List (BitVec 168)) : Word := crc32 ((l.map (fun r => bytesLE 21 r.toNat)).flatten)

/-- The rows of run `run` of a unit as the ternary shadow holds them. -/
def shadowRun (s : State) (d u run : Nat) : List (BitVec 168) :=
  let rows := unitRows s d u
  let w := taW s (s.blk d (unitBlock s d u)).table
  (List.range 64).map (fun k => rowBits w rows (64 * run + k))

/-- The signature of a run. Every write of a shadow record updates it in the same write, so it is always that of the
rows the shadow holds (R278). -/
def runSig (s : State) (d u run : Nat) : Word := runCrc (shadowRun s d u run)

/-- The rows of a run as they are read, where those of `diff` do not read as the shadow holds them. -/
def readRun (l : List (BitVec 168)) (diff : List (Nat × BitVec 168)) : List (BitVec 168) :=
  l.mapIdx (fun (i : Nat) r => mapGetD diff i r)

/-- Sprinkle reads a run: its 64 rows, 8 in a slot, and its signature, whose place is free (R279, R297). -/
def askRun (s : State) (d u : Nat) : State :=
  let (n, s) := draw s
  askDram (askSlots s d (wheelGroup u) u 4 8) drShadow (shadowBase + 64 * (Config.openNat n % 2 ^ 24)) 4

/-- One run of a pass is compared with its signature; a mismatch reads it once more, and one that persists is looked
for row by row (R279). `first`, `second`: the rows of the run that the two readings give other than the shadow. A run
that is compared already, or of a unit that is no longer in use, does not arise (assumption 4). -/
def scrubRun (s : State) (d u run : Nat) (first second : List (Nat × BitVec 168)) : State :=
  match mapGet s.spk.runs (d * 1056 + u) with
  | none => s
  | some m =>
    if !s.spk.scrub || m.testBit run || (mapGet (scrubUnits s) (d * 1056 + u)).isNone then s
    else
      let s := { s with spk := { s.spk with runs := mapSet s.spk.runs (d * 1056 + u) (m ||| 2 ^ run) } }
      let l := shadowRun s d u run
      let s := askRun s d u
      if runCrc (readRun l first) = runSig s d u run then s
      else
        let s := askRun (s.bump 0x130104) d u
        if runCrc (readRun l second) = runSig s d u run then s
        else
          let row := (findIdx (fun (q : BitVec 168 × BitVec 168) => q.1 != q.2) (l.zip (readRun l second)) 0).getD 0
          (markSuspect s d u).raise evSpkSigMismatch d u (64 * run + row)

/-- Is the unit still one that the pass compares? -/
def stillScrubbed (s : State) (k : Nat) : Bool := (mapGet (scrubUnits s) k).isSome

/-- The pass ends once every run of every unit still in use is compared (R277). -/
def scrubDone (s : State) : State :=
  if !s.spk.scrub || s.spk.runs.any (fun p => p.2 != 2 ^ 64 - 1 && stillScrubbed s p.1) then s
  else
    let cs := s.spk.scrubCmds
    let s := { s with spk := { s.spk with scrub := false, runs := [], scrubCmds := [] } }
    cs.foldl (fun s i => finish s i stOk) (s.bump 0x130100)

/-! ### Shared-bank tests (R288 to R290) -/

/-- A region test begins at this step (R288). How long the march takes is not given but for the bound of 20 µs: a free
value. -/
def sbTestAt (s : State) : State :=
  let gap := max 1 (s.cfg 0x13000C 15 0)
  if !bit (s.live 0x130000) 3 || !s.epoch.crossed gap || s.spk.sb.isSome || atLimit s ||
      decide (s.epoch.count < s.spk.holdUntil) then s
  else
    let n := s.spk.sbNext
    let (k, s) := draw s
    let t : SbTest := { bank := n / 16, region := n % 16, start := s.now, aborted := false
                        restore := s.now + 8192 + Config.openNat k % 183616 }
    heldAction { s with spk := { s.spk with sb := some t, sbLast := n } } 9 2

/-- Remap the failed rows of a bank (R290). -/
def remapRows (s : State) (bank : Nat) (rows : List Nat) : State :=
  rows.foldl (fun s r =>
    if mapGetD s.spk.sbRows bank 0 < 4 then
      ({ s with spk := { s.spk with sbRows := mapMod s.spk.sbRows bank 0 (fun n => n + 1) } } : State).bump 0x13011C
    else s.raise evSpkSbFail bank r) s

/-- The end of the restore of the region test in progress: 1,024 hub cycles after it began (R288, R289). -/
def sbEnd (s : State) : Nat := match s.spk.sb with
  | none => s.now
  | some t => t.restore + 8192

/-- A region test ends with its restore (R289, R290); `failed` lists rows of the region, 0 to 31. -/
def sbTestDone (s : State) (failed : List Nat) : State := match s.spk.sb with
  | none => s
  | some t =>
    let s := { s with spk := { s.spk with sb := none } }
    let s := remapRows s t.bank ((dedup (failed.filter (fun r => decide (r < 32)))).map (fun r => t.region * 32 + r))
    if t.aborted then
      if s.spk.sbAborts = 7 then { s with spk := { s.spk with sbAborts := 0, sbNext := (s.spk.sbNext + 1) % 1024 } }
      else { s with spk := { s.spk with sbAborts := s.spk.sbAborts + 1 } }
    else
      let s := { s with spk := { s.spk with sbAborts := 0, sbNext := (s.spk.sbNext + 1) % 1024 } }
      s.bump 0x130114

/-! ### Commands (R286, R287) -/

/-- OP of a SPRINKLE_CFG. -/
def spkOp (c : Cmd) : Nat := c.le 16 4 % 4

/-- SPRINKLE_CFG (R286). -/
def cmdSprinkle (s : State) (c : Cmd) : State :=
  let d := c.le 16 4 / 4 % 4
  if !c.compl 16 32 8 then finish s c.id stBadComplement
  else if c.table != 255 || c.auto || c.addr || c.le 16 4 / 16 != 0 || spkOp c == 3 || c.le 30 2 != 0 || !c.zeroFrom 40 ||
      (spkOp c == 1 && decide (1055 < c.le 20 4)) then finish s c.id stInvalid
  else if spkOp c = 0 then
    (if s.spk.scrub then finish s c.id stOk
     else cmdWait { s with spk := { s.spk with scrubDue := true, scrubCmds := s.spk.scrubCmds ++ [c.id] } } c.id .scrub)
  else if spkOp c = 1 then
    cmdWait { s with spk := { s.spk with testDue := s.spk.testDue ++ [(d, c.le 20 4, c.id)] } } c.id (.test d)
  else finish { s with spk := { s.spk with holdUntil := c.le 24 6 } } c.id stOk

/-- Move the crumb entries of one spare to another (R287, R369). -/
def moveCrumb (s : State) (d k j : Nat) : State :=
  let s := s.setSpare d j (s.spare d k)
  { s with stage := { s.stage with crumb := s.stage.crumb.map (fun (p : Nat × Row) =>
    if p.2.die = d ∧ p.2.block = k then (p.1, { p.2 with block := j }) else p) } }

/-- The block at position `p` of die `d` is retired while its test has it replaced: its spare keeps its role for good,
and the test and the copy back end (R284, R287). -/
def retireTested (s : State) (d p : Nat) : State := match s.spk.tests[d]? with
  | none => s
  | some t => match t.spare with
    | none => s
    | some k =>
      if t.pos = p ∧ (t.phase = 2 ∨ t.phase = 3) then
        let s := { s with dies := { s.dies with builds := s.dies.builds.filter (fun (b : Build) => !(b.die == d && b.block == p && b.why == BuildFor.back)) } }
        endTest (s.setSpare d k { s.spare d k with use := 2 }) d stInvalid 0xFFFFFFFF
      else s

/-- BLOCK_RETIRE (R287). -/
def cmdBlockRetire (s : State) (c : Cmd) : State :=
  let d := c.le 16 4 % 4
  let p := c.le 20 4
  if !c.compl 16 24 8 then finish s c.id stBadComplement
  else if c.table != 255 || c.auto || c.addr || c.le 16 4 / 4 != 0 || decide (1055 < p) || !c.zeroFrom 32 then finish s c.id stInvalid
  else if s.spk.retired.contains (d * 1056 + p) then finish s c.id stDuplicate
  else if !vaultTakes s then finish s c.id stVaultFault
  else
    let s := if testedInPlace s d p then abortTest s d else s
    if p < 1024 then
      let st := (s.blk d p).st
      if st = 0 ∨ st = 3 then retireNow (retireTested s d p) d p c
      else match buildOf s d p with
        | some b =>
          if b.tries < 2 then
            let s := if b.why == .takeover then endTest s d stInvalid 0xFFFFFFFF else s
            let s := if b.hold.isSome then s else s.setSpare d b.spare { s.spare d b.spare with use := 2 }
            cmdWait (modBuild s d p (fun b => { b with why := .retire })) c.id (.retire d p)
          else (match claimR12 s d p with
            | none => finish s c.id stTableFull
            | some (k, q, s) => cmdWait (beginBuild (dropBuild s d p) d p p k 2 .retire q) c.id (.retire d p))
        | none => match claimR12 s d p with
          | none => finish s c.id stTableFull
          | some (k, q, s) => cmdWait (beginBuild s d p p k 2 .retire q) c.id (.retire d p)
    else
      let k := p - 1024
      let x := s.spare d k
      if x.use = 0 then retireNow s d p c
      else match claimSpare s d x.primary with
        | none => finish s c.id stTableFull
        | some j =>
          if x.crumb.isSome then retireNow (moveCrumb s d k j) d p c
          else if x.built then cmdWait (beginBuild (dropBuild s d p) d p x.primary j 2 .retire) c.id (.retire d p)
          else
            let s := s.setSpare d j x
            let s := { s with dies := { s.dies with builds := s.dies.builds.map (fun (b : Build) =>
              if b.die = d ∧ b.spare = k then { b with spare := j, verified := false } else b) } }
            retireNow s d p c

end Sys2Proof.Machine
end

