-- ==== Sys2Proof/Machine/Watchdog.lean ====
section
/-! DEFINITION. The stall watchdog (R266 to R270), automatic mirrors (R99) and wheel copies (R303 to
R305). -/

namespace Sys2Proof.Machine

/-! ### Waits that the watchdog times -/

/-- A wait of a unit: its record, the epoch it began in, whether it has been reported, and whose it is:
a command, a ring of a mailbox, or a unit that waits for slots. -/
structure Waiter where
  unit : Nat
  idx : Nat
  cls : Nat
  inst : Nat
  holdUnit : Nat
  holdIdx : Nat
  since : Nat
  told : Bool
  cmd : Option Nat
  ring : Nat
  slots : Option Who := none
  deriving DecidableEq, Repr

/-- Port × 2 + ring of a command. -/
def Cmd.ringIdx (c : Cmd) : Nat := c.mb * 2 + c.ring

/-- Commands that take the table lock (R178, R264). -/
def lockOp (o : Nat) : Bool := decide (o < 0x41) || o == 0x51 || o == 0x52 || o == 0x60 || o == 0x61 || o == 0x71

/-- The command that holds the lock command `c` waits for. -/
def lockHolder (s : State) (c : Cmd) : Nat :=
  match s.dies.changes.find? (fun k => k.table == c.table && k.blocks.isSome && k.cmd.isSome && k.cmd != some c.id) with
  | some k => k.cmd.getD 0
  | none => match s.cmds.find? (fun d => d.table == c.table && d.got == 1 && (d.st == .waiting .journal || d.st == .running) && d.id != c.id) with
    | some d => d.id
    | none => 0

/-- The wait of a command, when it is one that the watchdog times (R268). -/
def cmdWaiter (s : State) (c : Cmd) : Option Waiter :=
  let w : Waiter := { unit := 2, idx := Config.sequencer c.id % 8, cls := 0, inst := 0, holdUnit := 0, holdIdx := 0
                      since := c.since, told := c.stalled, cmd := some c.id, ring := 0 }
  match c.st with
  | .waiting .journal => some { w with cls := 5, holdUnit := 4 }
  | .waiting .fence => match s.cmds.find? (fun d => decide (d.id < c.id)) with
    | some d => some { w with unit := 7, idx := c.ringIdx, cls := 7, inst := d.seq, holdUnit := 1, holdIdx := d.ringIdx }
    | none => none
  | .waiting (.snapRead _) => some { w with unit := 7, idx := c.ringIdx, cls := 7, inst := Config.waitInst c.id }
  | .running =>
    if decide (c.table < 255) && lockOp c.op && lockWait s c then
      some { w with cls := 2, inst := c.table, holdUnit := 2, holdIdx := Config.sequencer (lockHolder s c) % 8 }
    else none
  | _ => none

/-- The wait of a ring whose mailbox accepts nothing: rank 1 of R264. -/
def ringWaiter (s : State) (k : Nat) : Option Waiter :=
  match (s.box (k / 2)).waits.getD (k % 2) none with
  | some (e, told) => some { unit := 1, idx := k, cls := 1, inst := k, holdUnit := 0, holdIdx := 0, since := e, told := told
                             cmd := none, ring := k }
  | none => none

/-- A request that stands before request `a` at its unit and holds the rows that `a` writes: the run that a rebuild
copies, or that sprinkle reads (R254, R279). -/
def rowHolder (s : State) (a : SlotAsk) : Option SlotAsk :=
  (s.dies.asks.takeWhile (fun b => b != a)).find? (fun b => b.wheel == a.wheel && b.unit == a.unit && b.who != a.who &&
    (b.who.unit == 5 || b.req == 4))

/-- The wait that a request for slots is (R264): for the write slots of rows that another unit holds, rank 4, or for the
slots of a DRAM class, rank 6. A command that has completed waits no more. -/
def slotWaiter (s : State) (a : SlotAsk) : Option Waiter :=
  let w : Waiter := { unit := a.who.unit, idx := a.who.idx, cls := 6, inst := a.req, holdUnit := 0, holdIdx := 0
                      since := a.since, told := a.told, cmd := none, ring := 0, slots := some a.who }
  if a.who.unit = 0 ∨ (a.who.cmd.isSome ∧ !s.cmds.any (fun c => some c.id == a.who.cmd)) then none
  else if 64 ≤ a.wheel then some w
  else (rowHolder s a).map (fun b => { w with
    cls := 4, inst := a.wheel / 16 * 1024 + unitBlock s (a.wheel / 16) a.unit, holdUnit := b.who.unit, holdIdx := b.who.idx })

/-- The first wait of each unit. -/
def firstWaits : List Waiter → List Waiter → List Waiter
  | _, [] => []
  | seen, w :: l => if seen.any (fun v => v.slots == w.slots) then firstWaits seen l else w :: firstWaits (w :: seen) l

/-- Every wait that the watchdog times now. -/
def waiters (s : State) : List Waiter :=
  s.cmds.filterMap (cmdWaiter s) ++ (List.range 8).filterMap (ringWaiter s) ++
    firstWaits [] ((s.dies.asks ++ s.dies.dram).filterMap (slotWaiter s))

/-- WD_LIMIT of a class. -/
def wdLimit (s : State) (cls : Nat) : Nat := s.cfg (0x13F010 + 4 * (cls - 1)) 15 0
/-- ABORT_MULT of a class. -/
def wdMult (s : State) (cls : Nat) : Nat := s.cfg (0x13F010 + 4 * (cls - 1)) 23 16

/-- Is the class of this wait watched? WD_STAT.WAITING counts such waits. -/
def watched (s : State) (w : Waiter) : Bool := wdLimit s w.cls != 0

/-- The record of a wait (R270). -/
def Waiter.record (s : State) (w : Waiter) : WaitRec :=
  { unit := w.unit, idx := w.idx, cls := w.cls, inst := w.inst, holdUnit := w.holdUnit, holdIdx := w.holdIdx
    waited := min 0xFFFFFFFF (s.epoch.count - w.since) }

/-- A wait-graph snapshot as of now. -/
def snapNow (s : State) (trig : Nat) : WaitSnap :=
  { epoch := s.epoch.count, phase := s.phase, trig := trig, recs := (waiters s).map (fun w => w.record s) }

/-- Mark a wait as reported. -/
def tellWait (s : State) (w : Waiter) : State := match w.slots, w.cmd with
  | some q, _ =>
    let tell := fun (a : SlotAsk) => if a.who = q then { a with told := true } else a
    { s with dies := { s.dies with asks := s.dies.asks.map tell, dram := s.dies.dram.map tell } }
  | none, some i => s.modCmds (fun c => c.id == i) (fun c => { c with stalled := true })
  | none, none => s.modBox (w.ring / 2) (fun b => { b with waits := listMod b.waits (w.ring % 2) (fun q => q.map (fun p => (p.1, true))) })

/-- WDG_STALL for the wait of index `i` (R268). A wait that has not passed its limit, or that has been
reported, raises nothing (assumption 4). -/
def wdgStall (s : State) (i : Nat) : State := match (waiters s)[i]? with
  | none => s
  | some w =>
    if w.told || wdLimit s w.cls == 0 || decide (s.epoch.count - w.since ≤ wdLimit s w.cls) then s
    else
      let s := (tellWait s w).bump 0x13F054
      let s := s.setLive 0x13F008 (word (w.cls * 2 ^ 29 + w.unit * 2 ^ 26 + w.idx * 2 ^ 19 + w.holdUnit * 2 ^ 16 + w.holdIdx * 2 ^ 9))
      let s := s.raise evWdgStall (w.unit + 256 * w.idx) w.cls (w.holdUnit + 256 * w.holdIdx)
      if s.waitSnap.isSome then s.bumpField 0x13F004 15 8 else { s with waitSnap := some (snapNow s i) }

/-- The wait of a command is long enough to be aborted (R269). -/
def abortDue (s : State) (c : Cmd) : Bool := match cmdWaiter s c with
  | some w => wdLimit s w.cls != 0 && wdMult s w.cls != 0 && decide (wdLimit s w.cls * wdMult s w.cls < s.epoch.count - w.since)
  | none => false

/-- The wait of a command for slots is long enough for its change to be withdrawn (R269): its record is not yet in NAND,
and nothing of it can be seen or has its glaze armed. -/
def slotsDue (s : State) (c : Cmd) : Bool :=
  ((waiters s).any (fun w => w.slots == some (sequencerOf c.id) && wdLimit s w.cls != 0 && wdMult s w.cls != 0 &&
    decide (wdLimit s w.cls * wdMult s w.cls < s.epoch.count - w.since))) &&
  c.jneed.any (fun q => decide (s.vault.nand < q)) && !(c.st == .finished && c.vis != 0) && (c.st == .finished || !cmdDone s c)

/-- Bytes of one record. -/
def waitBytes (r : WaitRec) : List Byte :=
  bytesLE 1 r.unit ++ bytesLE 1 r.idx ++ bytesLE 1 r.cls ++ bytesLE 1 0 ++ bytesLE 4 r.inst ++ bytesLE 1 r.holdUnit ++
    bytesLE 1 r.holdIdx ++ bytesLE 2 0 ++ bytesLE 4 r.waited

/-- WAITGRAPH_READ (R270). With no held snapshot and NOW = 0 there is no record, and the epoch that the
header reports is a free value. -/
def cmdWaitgraph (s : State) (c : Cmd) (io : HostIO) : State :=
  let n := c.le 24 4
  if !c.compl 24 28 4 then finish s c.id stBadComplement
  else if c.table != 255 || c.auto || c.addr || c.le 16 8 % 16 != 0 || decide (n < 48) || decide (4128 < n) || n % 16 != 0 ||
      c.le 32 4 / 4 != 0 || !c.zeroFrom 36 then finish s c.id stInvalid
  else
    let (k, s) := draw s
    let g : WaitSnap :=
      if c.le 32 4 % 2 = 1 then snapNow s 0xFFFFFFFF
      else s.waitSnap.getD { epoch := Config.openNat k % 2 ^ 48, phase := Config.openNat k / 2 ^ 48 % 1024, trig := 0xFFFFFFFF, recs := [] }
    let rs := g.recs.take ((n - 32) / 16)
    let out := bytesLE 8 (g.epoch % 2 ^ 48 + g.phase % 1024 * 2 ^ 48) ++ bytesLE 4 g.recs.length ++ bytesLE 4 g.trig ++
      bytesLE 4 (s.cfg 0x13F004 15 8) ++ bytesLE 12 0 ++ (rs.map waitBytes).flatten
    match busWrite s c io (c.le 16 8) out with
    | (true, s) => finish (if c.le 32 4 / 2 % 2 = 1 && c.ownerRight then { s with waitSnap := none } else s) c.id stOk rs.length
    | (false, s) => dmaFail s c

/-! ### Automatic mirrors (R99) -/

/-- SEARCH slots of a block's live wheel. -/
def searchSlots (s : State) (d u : Nat) : Nat :=
  sumNat ((List.range 32).map (fun j =>
    let w := s.live (0x120000 + (16 * d + wheelGroup u) * 0x100 + j * 4)
    ((List.range 8).filter (fun k => fld w (4 * k + 3) (4 * k) == 1)).length))

/-- Key ports of SEARCH slots that one copy of a block offers in a window of `win` epochs: two in each
SEARCH slot, over whole turns of 256 pipe cycles. -/
def offered (s : State) (d u win : Nat) : Nat := 2 * searchSlots s d u * (win * s.epoch.p16 / 160 / 256)

/-- AM_CFG.WIN as applied. -/
def amWin (s : State) (d : Nat) : Nat := max 1 (s.cfg (sdAddr d 4) 31 16)

/-- The end of a window for one block of table `t`. Replicas of an always-on group have no mirrors. A suspect mirror,
which has left the copy set (R257), is no copy, but it still takes one of the four places. R99 names neither the mirror
to release nor whether the low windows before an action count again after it: the model releases the lowest-numbered
automatic mirror that serves, and counts anew (DESIGN CHOICE; assumption 81). -/
def windowBlock (s : State) (t d b : Nat) : State :=
  let x := s.blk d b
  let all := mirrors s d b false
  let c := 1 + (all.filter (fun k => !(s.spare d k).suspect)).length
  let cap := offered s d b (amWin s d)
  let hi := s.cfg (sdAddr d 8) 15 8
  let lo := s.cfg (sdAddr d 8) 7 0
  let low := if x.actNow * 100 < lo * (c - 1) * cap then x.low + 1 else 0
  let s := s.setBlk d b { x with low := low }
  let add := (decide (hi * c * cap < x.actNow * 100) || x.refused) && decide (c < 5) && decide (all.length < 4)
  let autos := (mirrors s d b true).filter (fun k => (s.spare d k).auto && !(s.spare d k).suspect &&
    !s.dies.changes.any (fun q => q.die == d && q.drop.contains k))
  if add then match claimSpare s d b with
    | none => s.raise (evSrcMirrorNospare d)
    | some k =>
      let s := s.setSpare d k { Spare.free with use := 1, auto := true, primary := b }
      let (_, s) := addChange s { id := 0, table := t, cmd := none, die := d, block := b, add := [k], drop := [] }
      (s.setBlk d b { x with low := 0 }).raise (evSrcMirrorAdd d) b (c + 1)
  else if decide (4 ≤ low) then match autos.head? with
    | some k =>
      let (_, s) := addChange s { id := 0, table := t, cmd := none, die := d, block := b, add := [], drop := [k] }
      (s.setBlk d b { x with low := 0 }).raise (evSrcMirrorDrop d) b (c - 1)
    | none => s
  else s

/-- A new window begins for every block of a die: BLK_ACT holds the count of the last one. -/
def newWindow (s : State) (d : Nat) : State :=
  { s with dies := { s.dies with blocks := s.dies.blocks.map (fun (p : Nat × Blk) =>
    if p.1 / 1024 = d then (p.1, { p.2 with act := p.2.actNow, actNow := 0, refused := false }) else p) } }

/-- The auto-mirror window of a die ends at this step (R99). -/
def mirrorWindowAt (s : State) (d : Nat) : State :=
  let s := if bit (s.live (sdAddr d 4)) 0 then
      s.tables.foldl (fun s p =>
        if p.2.kind == .ternary && p.2.removed.isNone && bit (ta s p.1 0x18) 4 then
          (p.2.blocks.filter (fun h => h.die == d && !(structAO (ta s p.1 0) && h.group == 0))).foldl
            (fun s h => windowBlock s p.1 d h.block) s
        else s) s
    else s
  newWindow s d

/-! ### Wheel copies (R303 to R305, R480) -/

/-- Slots of the wheel whose words begin at `a`, in the copy that `get` reads. -/
def wheelOwners (get : Nat → Word) : List Nat :=
  ((List.range 32).map (fun j => (List.range 8).map (fun k => fld (get j) (4 * k + 3) (4 * k)))).flatten

/-- Length of the clock cycle of a wheel, in units of 100 ps. -/
def wheelClock (i : Nat) : Nat := if i < 64 then 10 else 8

/-- The longest run of slots that are not SEARCH in a turn that repeats: its first slot and length. -/
def longestRun (l : List Nat) : Nat × Nat :=
  let run := fun (k : Nat) => (((List.range 256).map (fun i => l.getD ((k + i) % 256) 0)).takeWhile (fun o => o != 1)).length
  (List.range 256).foldl (fun (best : Nat × Nat) k => if best.2 < run k then (k, run k) else best) (0, 0)

/-- WHL_LONG_RUN for a live block wheel with a long run without SEARCH (R304). -/
def tellLongRun (s : State) (i : Nat) : State :=
  if i < 64 then
    let (k, n) := longestRun (wheelOwners (fun j => s.live (wheelAddr i j)))
    if 16 < n then s.raise evWhlLongRun i k n else s
  else s

/-- The copy of wheel `i` becomes live at its wrap (R303); a wheel with no copy waiting keeps its own
(assumption 4). -/
def wheelLiveAt (s : State) (i : Nat) : State := match mapGetD s.regs.wheelPend i [] with
  | [] => s
  | (_, w, ws) :: l =>
    let s := wheelsTo (advance (w * wheelClock i) s)
    let s := (List.range 32).foldl (fun s j => s.setLive (wheelAddr i j) (ws.getD j 0)) s
    let s := { s with regs := { s.regs with wheelPend := if l.isEmpty then mapErase s.regs.wheelPend i else mapSet s.regs.wheelPend i l } }
    tellLongRun s i

/-- The copies of wheel `i` whose wrap has passed are live. -/
def wheelPassed (i : Nat) : Nat → State → State
  | 0, s => s
  | n + 1, s => match mapGetD s.regs.wheelPend i [] with
    | (_, w, _) :: _ => if w * wheelClock i ≤ s.now then wheelPassed i n (wheelLiveAt s i) else s
    | [] => s

/-- A strobe takes a copy of the shadow of wheel `i` (R303): it is refused, or waits for the first wrap after it
arrives, `n` cycles after the strobe (R305). A copy that waits for the same wrap never becomes live. -/
def strobeWheel (s : State) (i n : Nat) : State :=
  let s := wheelPassed i (mapGetD s.regs.wheelPend i []).length s
  let get := fun (j : Nat) => s.buffer (wheelAddr i j)
  match findIdx (fun o => decide ((if i < 64 then 4 else 6) < o)) (wheelOwners get) 0 with
  | some k => s.raise evWhlCfgInvalid i k
  | none =>
    let a := s.now / wheelClock i + n
    let w := a + (256 - (a + wheelPhase s i) % 256)
    let old := (mapGetD s.regs.wheelPend i []).filter (fun p => p.2.1 != w)
    { s with regs := { s.regs with wheelPend := mapSet s.regs.wheelPend i (old ++ [(a, w, (List.range 32).map get)]) } }

/-- A strobe of the wheels `l` of one die, or of the two DRAM wheels: it arrives after at most 16 cycles, a free value
for each strobe and die (R305). -/
def strobeDie (s : State) (l : List Nat) : State :=
  if l.isEmpty then s
  else
    let (n, s) := draw s
    l.foldl (fun s i => strobeWheel s i (1 + Config.openNat n % 16)) s

end Sys2Proof.Machine
end

