-- ==== Sys2Proof/Machine/Links.lean ====
section
/-! DEFINITION. The Milud links (R424 to R439, R479): training and widths, credits, replay, LINK flits,
and the frames that host ports receive. -/

namespace Sys2Proof.Machine

/-! ### Lanes and widths (R427, R434) -/

/-- Lanes in a port's group (R427). -/
def groupLanes (p : Nat) : Nat := if p < 16 then 28 else 32

/-- The lanes of a port that its registers enable (R446). -/
def laneEnable (s : State) (p : Nat) : Word :=
  let lo := s.cfg (hpAddr p 0) 27 0
  word (if p < 16 then lo else lo + s.cfg (hpAddr p 8) 11 8 * 2 ^ 28)

/-- Widest width of HP_CTRL.WIDTH; a cascade port uses 32 (R446). -/
def widest (s : State) (p : Nat) : Nat :=
  if 16 ≤ p then 32
  else match s.cfg (hpAddr p 8) 4 3 with
    | 0 => 4
    | 1 => 8
    | 2 => 14
    | _ => 28

/-- Lanes of the group that are enabled and good in both directions, ascending. -/
def goodLanes (p : Nat) (l : Link) : List Nat :=
  (List.range (groupLanes p)).filter (fun j => bit (l.good &&& l.peer &&& l.enabled) j)

/-- The widths of a port, widest first. -/
def widths (p : Nat) : List Nat := if p < 16 then [28, 14, 8, 4] else [32, 28, 14, 8, 4]

/-- The largest width that is below `lim` and for which enough lanes are good (R434 step 3). -/
def pickWidth (p : Nat) (l : Link) (lim : Nat) : Option Nat :=
  (widths p).find? (fun w => decide (w < lim) && decide (w ≤ (goodLanes p l).length))

/-- The lanes in use: the lowest good ones (R427). -/
def lanesInUse (p : Nat) (l : Link) : List Nat := (goodLanes p l).take l.width

/-- The port and the lane of its group of lane `n` of the module (R427). -/
def laneOf (n : Nat) : Nat × Nat := if n < 448 then (n / 28, n % 28) else (16 + (n - 448) / 32, (n - 448) % 32)

/-! ### Credits (R432) -/

/-- Requests of a context that the module holds: received or accepted, and not answered. -/
def heldIn (s : State) (p c : Nat) : Nat :=
  ((s.link p).rx.filter (fun (r : Req) => r.ctx == c)).length +
    (s.holds.filter (fun h => h.port == p && h.ctx == c)).length

/-- Flits in the receive buffer of a port. -/
def rxFlits (l : Link) : Nat := sumNat (l.rx.map (fun (r : Req) => r.flits))

/-- HP_CTX_CRED[c].INIT. -/
def credInit (s : State) (p c : Nat) : Nat := min 256 (s.cfg (hpAddr p (0x10 + 4 * c)) 8 0)

/-- Credits that the module may grant now to context `c`, of the `n` it wants to (R21, R432). -/
def grantable (s : State) (p c n : Nat) : Nat :=
  let l := s.link p
  min n (min (256 - heldIn s p c - natAt l.creds c) ((4096 - rxFlits l) / 7 - sumNat l.creds))

/-- Grant what may be granted of the credits that wait, in ascending order of context: what each context
gets, and the state after it. -/
def grantAll (s : State) (p : Nat) : List Nat × State :=
  (List.range 8).foldl (fun (a : List Nat × State) c =>
    let n := grantable a.2 p c (natAt (a.2.link p).back c)
    (a.1 ++ [n], a.2.modLink p (fun l => { l with
      creds := listMod l.creds c (fun k => k + n), back := listMod l.back c (fun k => k - n) }))) ([], s)

/-- The credits of a host port after training; none before CRUMB (R367, R432). -/
def startCredits (s : State) (p : Nat) : State :=
  if 16 ≤ p ∨ s.stage.stage = 0 then
    s.modLink p (fun l => { l with creds := List.replicate 8 0, back := List.replicate 8 0, dcred := 0, dback := 0 })
  else
    (grantAll (s.modLink p (fun l => { l with
      creds := List.replicate 8 0, back := (List.range 8).map (credInit s p), dcred := 64, dback := 0 })) p).2

/-! ### Up and down -/

/-- The port goes DOWN: no credit is granted, and what is booked on it is dropped when due (R437). -/
def linkDown (s : State) (p : Nat) : State :=
  let s := s.modLink p (fun l => { l with
    st := 0, width := 0, change := none, widen := false, creds := List.replicate 8 0, dcred := 0, back := List.replicate 8 0
    dback := 0, nak := false, resends := 0 })
  if 16 ≤ p ∧ cpUsed s (p - 16) then unverify s (p - 16) else s

/-- The port begins to train, when HP_CTRL.EN is 1 (R434). -/
def startTraining (s : State) (p : Nat) : State :=
  if bit (s.live (hpAddr p 8)) 7 then s.modLink p (fun l => { l with st := 1 }) else s

/-- A write of 1 to HP_CTRL.RETRAIN, or a cause of R433 or R434, makes the port train anew. -/
def retrain (s : State) (p : Nat) : State := startTraining (linkDown s p) p

/-- Training of a port ends, with the lanes in codeword lock here and at the peer (R434): the width is
fixed and credits are granted, or the port stays DOWN. A port that does not train, has no power or is held in reset ends
no training (assumption 4). -/
def trainEnd (s : State) (p : Nat) (good peer : Word) : State :=
  let l0 := s.link p
  if !s.power.pwrGood || !s.power.mrstN || !bit (s.live (hpAddr p 8)) 7 || decide (1 < l0.st) then s
  else
    let m := word (2 ^ groupLanes p - 1)
    let rate := bit (s.live (hpAddr p 8)) 5
    let l := { l0 with good := good &&& m, peer := peer &&& m, enabled := laneEnable s p, maxW := widest s p, nrz := rate }
    match pickWidth p l (l.maxW + 1) with
    | none => s.modLink p (fun _ => { l with st := 0, width := 0 })
    | some w =>
      let s := s.modLink p (fun _ => { l with
        st := 2, width := w, grid := s.now, change := none, widen := false, ackRound := 0, nak := false, resends := 0
        booked := [], lastSlot := List.replicate 8 0 })
      (startCredits s p).raise (evLnkUp p) p w (b2n rate)

/-- After a module reset every port that is DOWN trains (R434). -/
def trainAll (s : State) : State :=
  (List.range 18).foldl (fun s p => if (s.link p).st = 0 then startTraining s p else s) s

/-- A lane reaches codeword lock (R425). -/
def laneLock (s : State) (n : Nat) : State :=
  let (p, j) := laneOf n
  s.modLink p (fun l => { l with good := l.good ||| word (2 ^ j) })

/-! ### Width changes (R435, R436) -/

/-- The round under way, numbered from the start of the grid. -/
def roundNow (l : Link) (now : Nat) : Nat := (now - l.grid) / roundLen l

/-- Start of the next round whose number is `sw` modulo 64. -/
def switchTime (l : Link) (now sw : Nat) : Nat :=
  let r := roundNow l now
  l.grid + (r + (sw + 64 - r % 64) % 64) * roundLen l

/-- The LINK flit that the module sends: LSTATE, its lane map, credits returned and SWITCH (R431). -/
def linkFlitOf (l : Link) (state : Nat) (creds : List Nat) (dcred sw : Nat) : Flit :=
  BitVec.ofNat 256 (0xF * 2 ^ 252 + state % 16 * 2 ^ 248 + l.good.toNat * 2 ^ 216 +
    sumNat ((List.range 8).map (fun c => natAt creds c % 512 * 2 ^ (207 - 9 * c))) + dcred % 128 * 2 ^ 137 +
    sw % 64 * 2 ^ 131)

/-- Send a LINK flit that returns no credit. -/
def sendLink (s : State) (p state sw : Nat) : State :=
  emit (.frame p s.now [linkFlitOf (s.link p) state [] 0 sw]) s

/-- The port is to narrow at time `t`: to the next narrower width, or DOWN when none is left (R435). -/
def narrowAt (s : State) (p t : Nat) : State :=
  let l := s.link p
  match pickWidth p l l.width with
  | none => linkDown s p
  | some w => s.modLink p (fun l => { l with st := 3, change := some (w, t) })

/-- A failed lane makes the module ask for a narrower width, 4 rounds ahead (R435). -/
def degrade (s : State) (p : Nat) : State :=
  let l := s.link p
  let sw := roundNow l s.now + 4
  narrowAt (sendLink s p 1 sw) p (l.grid + sw * roundLen l)

/-- Lane `j` of a port fails (R435); a lane out of lock already does not fail again (assumption 4). -/
def laneFails (s : State) (p j : Nat) : State :=
  let l := s.link p
  if groupLanes p ≤ j || !bit l.good j then s
  else
    let used := (lanesInUse p l).contains j
    let s := s.modLink p (fun l => { l with good := l.good &&& ~~~ word (2 ^ j) })
    if linkUp l && used then degrade s p else s

/-- Frame slots from `g` to `h` that begin at or after `t`. -/
def slotsAfter (l : Link) (t g h : Nat) : Nat :=
  ((List.range (h + 1 - g)).filter (fun i => decide (t ≤ slotStart l (g + i)) && (g + i) % max 1 (roundSlots l) != 0)).length

/-- Bookings, in order, renumbered for a new width from time `t` on: the old last slot and the new
booking (R435: what is left is sent in order at the new width). -/
def rebook (old new : Link) (t : Nat) : Nat → List (Nat × Nat) → List (Nat × Nat × Nat)
  | _, [] => []
  | prev, (g, h) :: r =>
    match slotsAfter old t g h with
    | 0 => rebook old new t prev r
    | n + 1 =>
      let g2 := max (firstSlot new (max t (slotStart old g))) (frameSlot new prev)
      let h2 := lastOf new (n + 1) g2
      (h, g2, h2) :: rebook old new t (h2 + 1) r

/-- A width change takes effect at time `t` (R435, R436). -/
def widthChange (s : State) (p w t : Nat) : State :=
  let old := s.link p
  let new := { old with st := 2, width := w, change := none, widen := false }
  let bs := rebook old new t 0 (sortBy (fun (a b : Nat × Nat) => decide (a.1 < b.1)) old.booked)
  let last := old.lastSlot.map (fun e => match bs.find? (fun b => b.1 == e) with
    | some b => b.2.2
    | none => 0)
  let s := s.modLink p (fun _ => { new with booked := bs.map (fun b => b.2), lastSlot := last })
  if w < old.width then (s.bump (hpAddr p 0x50)).raise (evLnkDegrade p) p old.width w else s

/-- Width changes whose round SWITCH has begun take effect. -/
def settleLinks (s : State) : State :=
  (List.range 18).foldl (fun s p =>
    match (s.link p).change with
    | some (w, t) => if t ≤ s.now then widthChange s p w t else s
    | none => s) s

/-- A WIDEN_REQ of the peer, or its WIDEN_ACK to the module's own (R436). -/
def widenFlit (s : State) (p : Nat) (f : Flit) : State :=
  let l := s.link p
  let state := fld f 251 248
  if !linkUp l || fld f 255 252 != 0xF || !(state == 3 || (state == 4 && l.widen)) then s
  else
    let s := s.modLink p (fun l => { l with peer := word (fld f 247 216) &&& word (2 ^ groupLanes p - 1), widen := false })
    let s := if state = 3 then sendLink s p 4 (fld f 136 131) else s
    let l := s.link p
    match pickWidth p l (l.maxW + 1) with
    | some w => if l.width < w then s.modLink p (fun l => { l with st := 3, change := some (w, switchTime l s.now (fld f 136 131)) }) else s
    | none => s

/-- A write of 1 to HP_CTRL.WIDEN (R436). -/
def widenStart (s : State) (p : Nat) : State :=
  let l := s.link p
  if linkUp l then sendLink (s.modLink p (fun l => { l with widen := true })) p 3 (roundNow l s.now + 4) else s

/-! ### Link-control slots -/

/-- A LINK flit arrives in its slot, and the module's own goes out with the credits that return (R431,
R432). The round passed its check, so a replay under way is over. -/
def linkFlitIn (s : State) (p : Nat) (f : Flit) : State :=
  let l := s.link p
  let state := fld f 251 248
  if !linkUp l || fld f 255 252 != 0xF then s
  else if state = 3 ∨ state = 4 then widenFlit s p f
  else
    let lost := (lanesInUse p l).any (fun j => !bit (word (fld f 247 216)) j)
    let s := s.modLink p (fun l => { l with
      peer := word (fld f 247 216) &&& word (2 ^ groupLanes p - 1), nak := false, resends := 0 })
    if state = 1 then narrowAt (sendLink s p 2 (fld f 136 131)) p (switchTime l s.now (fld f 136 131))
    else
      let s := if lost && l.change.isNone then degrade s p else s
      if 16 ≤ p || !linkUp (s.link p) then s
      else
        let (cr, s) := if s.stage.stage = 0 then ([], s) else grantAll s p
        let d := (s.link p).dback
        let s := s.modLink p (fun l => { l with dcred := l.dcred + d, dback := 0 })
        emit (.frame p s.now [linkFlitOf (s.link p) 0 cr d 0]) s

/-! ### Replay (R433) -/

/-- A flit of round `r` fails its check: the round is refused until it arrives again. -/
def checkFail (s : State) (p r : Nat) : State :=
  let l := s.link p
  let ack := (r + 63) % 64
  if !linkUp l then s
  else if l.nak && l.ackRound == ack then s.modLink p (fun l => { l with resends := l.resends + 1 })
  else (s.modLink p (fun l => { l with nak := true, ackRound := ack, resends := 0 })).bump (hpAddr p 0x4C)

/-- A round resent 8 times without success takes the port down (R433); with fewer, it does not
(assumption 4). -/
def replayLimit (s : State) (p : Nat) : State :=
  if (s.link p).resends < 8 then s else retrain (s.raise (evLnkReplayLimit p)) p

/-! ### Frames that host ports receive -/

/-- A frame is discarded with TYPE `t` for reason `r` (R430, R481). -/
def frameErr (s : State) (p t r : Nat) : State := (s.bump (hpAddr p 0x44)).raiseOnce (evLnkFrameErr p) p p t r

/-- TYPE values that the port may receive (R430). -/
def typeAllowed (p t : Nat) : Bool :=
  if p < 16 then [0x0, 0x1, 0x2, 0x3, 0x4, 0xF].contains t
  else if p = 16 then [0x0, 0xB, 0xC, 0xE, 0xF].contains t
  else [0x0, 0xD, 0xE, 0xF].contains t

/-- TYPE values that are defined (R430). -/
def typeDefined (t : Nat) : Bool := [0x0, 0x1, 0x2, 0x3, 0x4, 0x9, 0xB, 0xC, 0xD, 0xE, 0xF].contains t

/-- Use one credit of a context. -/
def useCredit (s : State) (p c : Nat) : State := s.modLink p (fun l => { l with creds := listMod l.creds c (fun n => n - 1) })

/-- A discarded request returns its credit (R430, R432). -/
def creditBack (s : State) (p c : Nat) : State :=
  if natAt (s.link p).creds c = 0 then s else returnCredit (useCredit s p c) p c

/-- A flit opens a frame that is discarded (R430). A flit that agrees with its slot and its port opens no
such frame (assumption 4). -/
def frameErrIn (s : State) (p : Nat) (f : Flit) (slot0 : Bool) : State :=
  let t := fld f 255 252
  if !linkUp (s.link p) then s
  else
    let s1 := if p < 16 && (t == 1 || t == 2) then creditBack s p (fld f 251 249) else s
    if !typeDefined t then frameErr s1 p t 0
    else if !typeAllowed p t then frameErr s1 p t 1
    else if (t == 0xF) != slot0 then frameErr s1 p t 2
    else s

/-- The request that a frame carries (R101, R103, R126, R127). -/
def parseReq (hform : Bool) (fl : List Flit) : Req :=
  let tok := payload fl 47 1 == 1
  let b := if tok then 96 else 64
  let win := payload fl b 8
  { hform := hform, ctx := payload fl 4 3, tag := payload fl 7 16, profile := payload fl 23 8, length := payload fl 31 16
    tok := if tok then some (BitVec.ofNat 32 (payload fl 64 32)) else none
    vec := if hform then 0 else BitVec.ofNat 704 (payload fl b 704)
    winLen := win, hostClass := BitVec.ofNat 8 (payload fl (b + 8) 8), root := payload fl (b + 16) 4
    frameLen := payload fl (b + 24) 16
    window := if hform then (List.range (min (min win 192) ((256 * fl.length - b - 64) / 8))).map
        (fun i => BitVec.ofNat 8 (payload fl (b + 64 + 8 * i) 8)) else []
    flits := fl.length, waited := false }

/-- Flits of a request frame, from its first ones (R103, R126). -/
def reqFlits (hform : Bool) (fl : List Flit) : Nat :=
  let b := if payload fl 47 1 = 1 then 96 else 64
  if hform then (b + 64 + 8 * min 192 (payload fl b 8) + 255) / 256 else (b + 704 + 255) / 256

/-- A request frame arrives whole on a host port (R432, R433). -/
def requestIn (s : State) (p : Nat) (hform : Bool) (fl : List Flit) : State :=
  if !linkUp (s.link p) || payload fl 0 4 != (if hform then 2 else 1) then s
  else
    let r := parseReq hform (fl.take (reqFlits hform fl))
    if natAt (s.link p).creds r.ctx = 0 then s.bump (hpAddr p 0x48)
    else (useCredit (s.modLink p (fun l => { l with rx := l.rx ++ [r] })) p r.ctx).bump (hpAddr p 0x40)

/-- The word that an inline write leaves: plain, set or clear (R439). -/
def dtWord (op : Nat) (old d : BitVec 256) : BitVec 256 := if op = 0 then d else if op = 1 then old ||| d else old &&& ~~~ d

/-- Inline writes of one hub cycle apply in ascending order of port: one that would have to come before a write already
applied is of the next cycle (R439; assumption 82). -/
def dtOrder (s : State) (p : Nat) : State :=
  let s := if s.spk.dtLast.1 = s.now / 8 ∧ p < s.spk.dtLast.2 then advance ((s.now / 8 + 1) * 8) s else s
  { s with spk := { s.spk with dtLast := (s.now / 8, p) } }

/-- A DT_WRITE frame arrives on a host port (R439). -/
def dtWriteIn (s : State) (p : Nat) (fl : List Flit) : State :=
  if !linkUp (s.link p) || payload fl 0 4 != 3 then s
  else if (s.link p).dcred = 0 then s.bump (hpAddr p 0x48)
  else
    let s := s.modLink p (fun l => { l with dcred := l.dcred - 1, dback := l.dback + 1 })
    let op := payload fl 4 2
    let t := payload fl 6 8
    let i := payload fl 14 20
    let live := match s.table t with
      | some x => x.kind == .direct && x.st == .live && x.removed.isNone && decide (i < taDirSize s t)
      | none => false
    if !bit (s.live (hpAddr p 8)) 6 || !live || op == 3 || payload fl 34 222 != 0 then
      (s.bump (hpAddr p 0x5C)).raiseOnce (evLnkDwReject p) p p t i
    else
      let k := taDirBase s t + i
      let s := dtMeet (dtOrder s p) k false
      let v := dtWord op (mapGetD s.direct k 0) (BitVec.ofNat 256 (payload fl 256 256))
      let s := { s with direct := if v = 0 then mapErase s.direct k else mapSet s.direct k v }
      (s.bump (hpAddr p 0x58)).bump (hpAddr p 0x40)

/-- A BEACON flit arrives on a host port (R38, R438). -/
def beaconIn (s : State) (p : Nat) (f : Flit) : State :=
  let next := fld f 251 204
  if !linkUp (s.link p) || fld f 255 252 != 4 then s
  else if !bit (s.live 0x30010) 8 || s.cfg 0x30010 3 0 != p then s.bump (hpAddr p 0x60)
  else if next + fld f 191 144 ≠ 2 ^ 48 - 1 then frameErr s p 4 3
  else
    let s := { s with epoch := { s.epoch with beacon := some next } }
    ((s.setLive 0x30030 (word next)).setLive 0x30034 (word (next / 2 ^ 32))).bump (hpAddr p 0x40)

end Sys2Proof.Machine
end

