-- ==== Sys2Proof/Machine/Apply.lean ====
section
/-! DEFINITION. An apply of an update group (R355, R356): the checks of each unit, the copy of the
buffers that pass, and what a new live value does. -/

namespace Sys2Proof.Machine

/-- Update group of the BUF fields of a register; those of a table's words are named by its UGRP (R355). -/
def regGroup (s : State) (a : Nat) : Option Nat := match (regDesc a).bind (fun d => d.group) with
  | none => none
  | some g =>
    if g < 100 then some g
    else if (s.table (g - 100)).isSome then some (fld (ta s (g - 100) 0) 31 27)
    else none

/-- The registers of a group whose buffer or live copy has ever been written, ascending. -/
def groupAddrs (s : State) (g : Nat) : List Nat :=
  sortBy (fun (a b : Nat) => decide (a < b)) (dedup (((s.regs.buf.map (fun p => p.1)) ++ (s.regs.live.map (fun p => p.1))).filter
    (fun a => regGroup s a == some g)))

/-! ### Checks of one register -/

/-- LIMIT of a temperature sensor, in 1/16 °C (R408). -/
def tempLimit (n : Nat) : Int :=
  if n < 20 then 1680 else if n < 24 then 1520 else if n < 26 then 1360 else if n < 30 then 2000 else 1280

/-- Are the low `n` nibbles of a rank word a permutation of `l`? -/
def rankOk (w : Word) (n : Nat) (l : List Nat) : Bool :=
  let fs := (List.range n).map (fun i => fld w (4 * i + 2) (4 * i))
  l.all (fun c => fs.contains c)

/-- Would this LEN leave every cascaded table with a TA_LAT of at least its minimum (R312)? -/
def lenFits (s : State) (len : Nat) : Bool :=
  s.tables.all (fun p => !taCasc s p.1 || decide (latMin p.2.kind (ta s p.1 0) len ≤ fld (ta s p.1 8) 12 0))

/-- The table whose TBL_ATTR holds this register, when it is one. -/
def attrTable (a : Nat) : Option Nat := if 0x80000 ≤ a ∧ a < 0x80000 + 255 * 0x40 then some ((a - 0x80000) / 0x40) else none

/-- Replace the field [hi:lo] when it is 0. -/
def zeroAs (v : Word) (hi lo d : Nat) : Word := if fld v hi lo = 0 then v ||| at_ d (hi + 1 - lo) lo else v

/-- The value that an apply writes to a register whose buffer holds `v`, or the event of a rejection with
its third operand (R43, R44, R71, R99, R100, R323, R401, R422, and the registers of R274). -/
def applyVal (s : State) (a : Nat) (v : Word) : Except (Ev × Nat) Word :=
  match attrTable a with
  | some t => match s.table t with
    | none => .error (evTblCfgInvalid, t)
    | some x =>
      if attrOk x.kind (ta s t 0) (cscLen s) (a % 0x40) v then .ok (attrApplied (a % 0x40) v) else .error (evTblCfgInvalid, t)
  | none =>
    if a = 0x3000C then (if 200 ≤ fld v 13 0 ∧ fld v 13 0 ≤ 10000 then .ok v else .error (evEpoCfgInvalid, 0))
    else if a = 0x30014 then (if fld v 16 0 ≤ 65536 then .ok (zeroAs v 16 0 1) else .error (evEpoCfgInvalid, 0))
    else if 0xA0000 ≤ a ∧ a < 0xE0000 then
      let d := (a - 0xA0000) / 0x10000
      if a % 0x10000 = 8 then
        (if 1 ≤ fld v 15 8 ∧ fld v 15 8 ≤ 100 ∧ fld v 7 0 < fld v 15 8 then .ok v else .error (evSrcCfgInvalid d, d))
      else .ok (zeroAs v 31 16 1)
    else if a = 0x111000 then .ok (zeroAs v 31 16 1)
    else if a = 0x130004 then (if 100000 ≤ fld v 23 0 then .ok v else .error (evSpkCfgInvalid, 0))
    else if a = 0x130008 then (if 16 ≤ fld v 23 0 then .ok v else .error (evSpkCfgInvalid, 0))
    else if a = 0x13000C then .ok (zeroAs v 15 0 1)
    else if a = 0x140000 then
      (if 1 ≤ fld v 2 0 ∧ fld v 2 0 ≤ 4 ∧ lenFits s (fld v 2 0) then .ok v else .error (evCscCfgInvalid, 0))
    else if a = 0x150004 then (if 256 ≤ fld v 23 0 then .ok v else .error (evVltCfgInvalid, 0))
    else if a = 0x16000C then .ok (zeroAs v 16 0 1)
    else if 0x160400 ≤ a ∧ a < 0x160480 then
      (if signed 16 (fld v 15 0) < tempLimit ((a - 0x160400) / 4) then .ok v else .error (evMgtCfgInvalid, 0))
    else if 0x180000 ≤ a ∧ a < 0x1A4000 ∧ 0x10 ≤ a % 0x2000 ∧ a % 0x2000 < 0x30 then
      .ok (if 256 < fld v 8 0 then 256#32 else v)
    else .ok v

/-- A register of an apply is rejected (R356, R481). -/
def rejectReg (s : State) (a : Nat) (v : Word) (e : Ev) (o : Nat) : State :=
  let s := match attrTable a with
    | some t => s.setBits (taAddr t 0x3C) 4
    | none => s
  s.raise e a v.toNat o

/-- TA_LAT of table `t` changes from `old` to `new` (R69). When a strobe raises the latency before the time up to which
an earlier lowering keeps the old value, R69 gives both values: the raise ends the earlier times (DESIGN CHOICE;
assumption 84). -/
def latChange (s : State) (t old new : Nat) : State :=
  s.modTable t (fun x => { x with latOld :=
    if new < old then x.latOld ++ [(old, s.now + 8 * (old - new))] else if old < new then [] else x.latOld })

/-- What a new live value does beyond being the live value: R43, R69, R311, R434. -/
def afterReg (s : State) (a : Nat) (old new : Word) : State :=
  match attrTable a with
  | some t => if a % 0x40 = 8 then latChange s t (fld old 12 0) (fld new 12 0) else s
  | none =>
    if a = 0x3000C then (if old = new then s else { s with regs := { s.regs with nominalPend := true } })
    else if a = 0x140000 then cscApplied s (bit old 8)
    else if 0x180000 ≤ a ∧ a < 0x1A4000 ∧ a % 0x2000 = 8 then
      let p := (a - 0x180000) / 0x2000
      if !bit new 7 then linkDown s p else if (s.link p).st = 0 then startTraining s p else s
    else s

/-- Apply one register: `s0` is the state at the start of the apply. -/
def applyReg (s0 s : State) (a : Nat) : State :=
  let v := s0.buffer a
  match applyVal s0 a v with
  | .error (e, o) => rejectReg s a v e o
  | .ok w => afterReg (s.setLive a w) a (s0.live a) w

/-! ### Profiles (R110) -/

/-- Does the buffered slot `k` of profile `n` pass? -/
def slotPasses (s : State) (n k : Nat) : Bool :=
  let l := s.buffer (pfAddr n (0x10 + k * 0x30))
  let rs := (List.range (fld l 4 0)).map (fun r =>
    let w := s.buffer (pfAddr n (0x14 + k * 0x30 + r / 2 * 4))
    if r % 2 = 0 then (fld w 6 0, fld w 14 8) else (fld w 22 16, fld w 30 24))
  match s.table (fld l 31 24) with
  | none => false
  | some x => decide (1 ≤ fld l 4 0) && decide (fld l 4 0 ≤ 16) &&
      rs.all (fun r => decide (1 ≤ r.2) && decide (r.2 ≤ 80) && decide (r.1 + r.2 ≤ 88)) &&
      decide (joinedLen rs ≤ keyWidth s (fld l 31 24) x)

/-- Does the buffered profile `n` pass the checks of R110? -/
def profilePasses (s : State) (n : Nat) : Bool :=
  let c := s.buffer (pfAddr n 0)
  let m := s.buffer (pfAddr n 4)
  !bit c 31 ||
    ((List.range (fld c 25 24 + 1)).all (slotPasses s n) && decide (1 ≤ fld c 18 16) && decide (fld c 18 16 ≤ 4) &&
      (fld c 15 8 == 255 || ((match s.table (fld c 15 8) with
        | some x => x.kind == .direct
        | none => false) && decide (1 ≤ fld m 9 8) && decide (fld m 9 8 ≤ 3) && decide (fld m 6 0 + fld m 9 8 ≤ 88))))

/-- Apply UG2, profile by profile, for the registers `l`. -/
def applyProfiles (s : State) (l : List Nat) : State :=
  (dedup (l.map (fun a => (a - 0xF0000) / 0x100))).foldl (fun s n =>
    if profilePasses s n then (l.filter (fun a => (a - 0xF0000) / 0x100 == n)).foldl (fun q a => q.setLive a (s.buffer a)) s
    else s.raise evKaeProfInvalid n) s

/-! ### Parse memory (R141) -/

/-- Word `o` of buffered node `n`. -/
def bufNode (s : State) (n o : Nat) : Word := s.buffer (0xE4000 + n * 0x10 + o)

/-- Is buffered node `n` valid? -/
def nodeValid (s : State) (n : Nat) : Bool := bit (bufNode s n 0) 31

/-- Does buffered node `n` pass items 2 to 7, and name only valid nodes? Items 5 and 6 hold of every node. -/
def nodePasses (s : State) (n : Nat) : Bool :=
  let a := bufNode s n 0
  let lim := bufNode s n 4
  let g := bufNode s n 8
  let e := bufNode s n 0xC
  let exts := (List.range (fld e 22 18)).map (fun i => s.buffer (0xE2000 + (fld e 17 8 + i) * 4))
  decide (fld e 31 23 + fld g 13 9 ≤ 512) && decide (fld g 13 9 ≤ 16) && decide (fld e 17 8 + fld e 22 18 ≤ 1024) &&
    decide (fld e 22 18 ≤ 16) &&
    (!bit a 31 || (decide (fld a 30 29 ≤ 1) && decide (1 ≤ fld lim 31 24) && decide (fld lim 31 24 ≤ fld lim 23 16) &&
      decide (fld lim 15 12 ≤ 8) && (fld a 30 29 != 1 || decide (fld a 26 21 + 2 ≤ fld lim 31 24)) &&
      (bit g 17 || decide (fld g 31 26 + 2 ≤ fld lim 31 24)) &&
      exts.all (fun x => decide (fld x 19 13 + fld x 23 20 + 1 ≤ 76) && decide (fld x 29 24 + fld x 23 20 + 1 ≤ 64))))

/-- Nodes that valid roots and valid nodes name (item 8). -/
def namedNodes (s : State) : List Nat :=
  ((List.range 16).map (fun r => s.buffer (0xE0040 + r * 4))).filterMap (fun (w : Word) => if bit w 31 then some (fld w 8 0) else none) ++
    (((List.range 512).filter (nodeValid s)).map (fun n =>
      let g := bufNode s n 8
      let base := fld (bufNode s n 0xC) 31 23
      (if bit g 16 then [fld g 8 0] else []) ++ (List.range (min (fld g 13 9) (512 - base))).map (fun i =>
        fld (s.buffer (0xE1000 + (base + i) * 8 + 4)) 8 0))).flatten

/-- The operand of KAE_PARSE_INVALID: 0x3FF, or the lowest node that fails. A node that is named and not
valid is the one that fails item 8 (DEDUCED; assumption 34). -/
def parseFails (s : State) : Option Nat :=
  let c := s.buffer 0xE0000
  if fld c 4 0 = 0 ∨ 16 < fld c 4 0 ∨ fld c 21 16 = 0 ∨ 32 < fld c 21 16 then some 0x3FF
  else
    let named := namedNodes s
    (List.range 512).find? (fun n => !nodePasses s n || (!nodeValid s n && named.contains n))

/-! ### Wheels (R303) -/

/-- A rank register is applied or rejected. -/
def applyRank (s : State) (a n : Nat) (l : List Nat) (idx : Nat) : State :=
  if rankOk (s.buffer a) n l then s.setLive a (s.buffer a) else s.raise evWhlCfgInvalid idx 0xFFFFFFFF

/-- Wheel whose word lies at `a`, when it is a wheel word. -/
def wheelOf (a : Nat) : Option Nat :=
  if 0x120000 ≤ a ∧ a < 0x124000 then some ((a - 0x120000) / 0x100)
  else if 0x128000 ≤ a ∧ a < 0x128200 then some (64 + (a - 0x128000) / 0x100)
  else none

/-- Apply the wheels and the rank registers among the registers `l`. -/
def applyWheels (s : State) (l : List Nat) : State :=
  let ws := sortBy (fun (a b : Nat) => decide (a < b)) (dedup (l.filterMap wheelOf))
  let s := [0, 1, 2, 3, 4].foldl (fun s d => strobeDie s (ws.filter (fun i => i / 16 == d))) s
  let s := if l.contains 0x129000 then applyRank s 0x129000 3 [2, 3, 4] 128 else s
  if l.contains 0x129004 then applyRank s 0x129004 6 [1, 2, 3, 4, 5, 6] 129 else s

/-! ### The apply -/

/-- Buffered writes to words of ABSENT tables are discarded at a strobe (R70). -/
def discardAbsent (s : State) : State :=
  { s with regs := { s.regs with buf := s.regs.buf.filter (fun p => match attrTable p.1 with
    | some t => (s.table t).isSome
    | none => true) } }

/-- A configuration record is staged, as a change to the BUF or CX fields of registers `l` asks (R381, R383). -/
def journalConfig (s : State) (l : List Nat) : State := stageRec s 0x30 255 none (configBody s l)

/-- Apply the words of group `g`, each unit after its check (R356). -/
def applyWords (s : State) (g : Nat) : State :=
  let l := groupAddrs s g
  let isProf := fun (a : Nat) => decide (0xF0000 ≤ a) && decide (a < 0x100000)
  let isParse := fun (a : Nat) => decide (0xE0000 ≤ a) && decide (a < 0xF0000)
  let isWheel := fun (a : Nat) => decide (0x120000 ≤ a) && decide (a < 0x130000)
  let s := (l.filter (fun a => !isProf a && !isParse a && !isWheel a)).foldl (applyReg s) s
  let s := applyProfiles s (l.filter isProf)
  let s := (l.filter isParse).foldl (fun q a => q.setLive a (s.buffer a)) s
  journalConfig (applyWheels s (l.filter isWheel)) l

/-- The buffers as they stood at the start of the hub cycle: a write of the cycle of an apply lands after its copy
(R357, R362). -/
def startBuf (s : State) : NMap Word := match s.regs.bufStart with
  | some (c, b) => if c = s.now / 8 then b else s.regs.buf
  | none => s.regs.buf

/-- Apply group `g` (R356), from the buffers of the state; UG3 applies whole or not at all (R141). -/
def applyBuffers (s : State) (g : Nat) : State :=
  let s := discardAbsent s
  match (if g = 3 then parseFails s else none) with
  | some n => s.raise evKaeParseInvalid n
  | none => applyWords s g

/-- Apply group `g` (R356), from the buffers as they stood at the start of the hub cycle. -/
def applyGroup (s : State) (g : Nat) : State :=
  let z := applyBuffers { s with regs := { s.regs with buf := startBuf s } } g
  { z with regs := { z.regs with buf := (discardAbsent s).regs.buf } }

/-- Apply the groups of a strobe word, from UG0 upward (R357). -/
def applyStrobe (s : State) (v : Word) : State :=
  ((List.range 32).filter (fun g => bit v g)).foldl applyGroup s

/-! ### Scheduled applies (R358) -/

/-- Epoch in the UPD_SCHED_EPOCH pair. -/
def schedEpoch (s : State) : Nat := (s.live 0x10104).toNat + s.cfg 0x10108 15 0 * 2 ^ 32

/-- Arm the groups of a word for the epoch in the pair. -/
def armGroups (s : State) (v : Word) : State :=
  let e := schedEpoch s
  ((List.range 32).filter (fun g => bit v g)).foldl (fun s g =>
    { s with regs := { s.regs with armed := mapSet s.regs.armed g e } }) s

/-- Disarm the groups of a word. -/
def disarmGroups (s : State) (v : Word) : State :=
  { s with regs := { s.regs with armed := s.regs.armed.filter (fun p => !bit v p.1) } }

/-- An armed group applies at this step (R358). -/
def applyArmed (s : State) (g : Nat) : State := match mapGet s.regs.armed g with
  | none => s
  | some _ =>
    let s := applyGroup s g
    let s := { s with regs := { s.regs with
      armed := mapErase s.regs.armed g, lastApply := mapSet s.regs.lastApply g s.epoch.count } }
    heldAction s 2 g

end Sys2Proof.Machine
end

