-- ==== Sys2Proof/Machine/Mgmt.lean ====
section
/-! DEFINITION. The management island (R402 to R423): sensors and levels, the log, the key store, the
commands LOG_READ, SENSOR_READ and KEY_PROVISION, and the SMBus sideband. -/

namespace Sys2Proof.Machine

/-- The island is powered: PWR_GOOD is high, or a thermal trip has left it alone (R408, R419). -/
def islandOn (s : State) : Bool := s.power.pwrGood || s.mgmt.tripped

/-- Tables in state PROOFING. -/
def proofN (s : State) : Nat := (s.tables.filter (fun p => p.2.st == .proofing)).length

/-- The table whose restore is in progress: the lowest that is neither verified nor failed, from PROOFING on,
and in FAULTSAFE among those whose dies are intact (R373, R374). -/
def curTable (s : State) : Nat :=
  if s.stage.stage = 2 ∨ (s.stage.stage = 4 ∧ vaultTakes s ∧ !asLost s) then
    ((s.tables.find? (fun p => p.2.st == .proofing && !p.2.restored && !p.2.restoreFail &&
      (s.stage.stage == 2 || !(structDies (ta s p.1 0)).any (fun d => bit s.stage.fsDie d)))).map (fun p => p.1)).getD 255
  else 255

/-- STAGE_STATUS (R376). -/
def stageStatus (s : State) : Nat :=
  s.stage.stage * 2 ^ 29 + s.stage.fsCause.toNat * 2 ^ 24 + s.stage.fsDie.toNat * 2 ^ 20 + b2n s.stage.crumbOk * 2 ^ 19 +
    b2n s.stage.vaultEmpty * 2 ^ 18 + s.stage.image % 4 * 2 ^ 16 + curTable s * 2 ^ 8 + min 255 (proofN s)

/-- FAULT_N is asserted (R455). -/
def faultN (s : State) : Bool :=
  atLimit s || s.mgmt.tripped || !s.mgmt.rails.isEmpty || s.stage.stage == 4 || s.power.holdupBad || s.power.late

/-! ### SMBus alert (R421) -/

/-- The causes of ALERT_STATUS that hold now. -/
def alertCauses (s : State) : Nat :=
  b2n (s.mgmt.warn.any (fun l => l != 0)) + 2 * b2n (atLimit s) + 4 * b2n (faultN s) + 8 * b2n (s.stage.stage == 4)

/-- Bits of `c` newly set in ALERT_STATUS assert SMB_ALERT_N. -/
def alertSet (s : State) (c : Nat) : State :=
  let m := s.mgmt
  { s with mgmt := { m with alert := m.alert ||| c, alertN := m.alertN || m.alert ||| c != m.alert } }

/-- ALERT_STATUS follows its causes. -/
def alertUpdate (s : State) : State := if islandOn s then alertSet s (alertCauses s) else s

/-! ### Sensors (R405 to R408) -/

/-- WARN level of a temperature sensor, in 1/16 °C. -/
def tempWarn (s : State) (n : Nat) : Int := signed 16 (s.cfg (0x160400 + 4 * n) 15 0)

/-- TRIP level of a temperature sensor, 10 °C above its LIMIT. -/
def tempTrip (n : Nat) : Int := tempLimit n + 160

/-- A level after a reading: entered when reached, left after three readings in a row 5 °C below (R408). -/
def levelNext (cur : Nat) (lvl reading : Int) : Nat :=
  if lvl ≤ reading then 1
  else if cur = 0 then 0
  else if reading ≤ lvl - 80 then (if 3 ≤ cur then 0 else cur + 1)
  else 1

/-- Nominal voltage of a rail in mV (R405). -/
def railNominal (n : Nat) : Nat :=
  [750, 750, 750, 750, 750, 1100, 1100, 1800, 2500, 1200, 900, 1200, 800, 1800].getD n 0

/-- A rail reading lies outside ±5 % of its nominal value (R408). -/
def railOut (n mv : Nat) : Bool := decide (railNominal n * 105 < mv * 100) || decide (mv * 100 < railNominal n * 95)

/-- The 65 values of R407 in their order. -/
def sensorValues (m : Mgmt) : List Int :=
  m.temp ++ m.volt.map Int.ofNat ++ m.curr.map Int.ofNat ++ [Int.ofNat m.power]

/-- Compare temperature sensor `n` with its levels. -/
def tempCompare (s : State) (n : Nat) : State :=
  let t := s.mgmt.temp.getD n 0
  let w0 := natAt s.mgmt.warn n
  let l0 := natAt s.mgmt.limit n
  let w := levelNext w0 (tempWarn s n) t
  let l := levelNext l0 (tempLimit n) t
  let s := { s with mgmt := { s.mgmt with warn := s.mgmt.warn.set n w, limit := s.mgmt.limit.set n l } }
  let s := if w0 = 0 ∧ w ≠ 0 then s.raise evMgtTempWarn n (intBits 16 t) else s
  if l0 = 0 ∧ l ≠ 0 then s.raise evMgtTempLimit else s

/-- The mean of the last ten readings of the input power is above 560 W. -/
def powerHigh (l : List Nat) : Bool := l.length == 10 && decide (56000 < sumNat l)

/-- One scan of the sensors (R405, R407, R408). -/
def sensorScan (s : State) (r : Readings) : State :=
  let m := { s.mgmt with temp := r.temp, volt := r.volt, curr := r.curr, power := r.power, bad := r.bad }
  let vs := sensorValues m
  let pwr := (r.power :: m.pwr).take 10
  let hi := powerHigh pwr
  let m := { m with
    mins := if m.valid then (m.mins.zip vs).map (fun p => min p.1 p.2) else vs
    maxs := if m.valid then (m.maxs.zip vs).map (fun p => max p.1 p.2) else vs
    valid := true, pwr := pwr, pwrHi := hi
    rails := m.rails.filter (fun n => railOut n (natAt r.volt n)) }
  let was := s.mgmt.pwrHi
  let s := { s with mgmt := m }
  let s := (List.range 32).foldl tempCompare s
  if hi && !was then s.raise evMgtPwrHi else s

/-- A rail reading has been out of range for 100 µs (R408). -/
def railFault (s : State) (n mv : Nat) : State :=
  if !railOut n mv then s
  else { s with mgmt := { s.mgmt with rails := if s.mgmt.rails.contains n then s.mgmt.rails else s.mgmt.rails ++ [n] } }.raise evMgtRailFault n mv

/-- A sensor register: VALID, and the low 16 bits of the value. -/
def snsWord (s : State) (idx : Nat) (v : Int) : Word :=
  word (b2n (s.mgmt.valid && !s.mgmt.bad.contains idx) * 2 ^ 31 + intBits 16 v)

/-! ### The log (R412 to R415) -/

/-- The 64 bytes of a log record (R412). -/
def LogRec.bytes (r : LogRec) : List Byte :=
  let h := r.src % 2 ^ 16 + r.sev % 256 * 2 ^ 16
  let b := bytesLE 6 r.epoch ++ bytesLE 2 (r.phase % 1024 + b2n r.held * 1024 + b2n r.dropped * 2048) ++ bytesLE 4 h ++
    bytesLE 4 (2 ^ 32 - 1 - h) ++ bytesLE 4 r.op0.toNat ++ bytesLE 4 r.op1.toNat ++ bytesLE 4 r.op2.toNat ++ bytesLE 4 0 ++
    bytesLE 8 r.seq ++ bytesLE 20 0
  b ++ bytesLE 4 (crc32 b).toNat

/-- Records that the island ring holds. -/
def ringSize : Nat := 65536

/-- A record enters the ring; one that it overwrites before it was copied is lost (R414). -/
def ringPush (s : State) (r : LogRec) : State :=
  let l := s.mgmt.ring ++ [r]
  if l.length ≤ ringSize then { s with mgmt := { s.mgmt with ring := l } }
  else
    let s := match l.head? with
      | some q => if s.mgmt.copied < q.seq then s.bump 0x20924 else s
      | none => s
    { s with mgmt := { s.mgmt with ring := l.tail } }

/-- Write the record of one event (R411, R413, R420, R421). -/
def writeRecord (s : State) (e : EvRec) : State :=
  let q := s.mgmt.logSeq + 1
  let r : LogRec := { epoch := e.epoch, phase := e.phase, held := e.held, dropped := s.mgmt.dropped, src := e.src, sev := e.sev
                      op0 := e.op0, op1 := e.op1, op2 := e.op2, seq := q, wrote := s.epoch.count }
  let s := ringPush s r
  let s := bankWrite s mstMgmt (0x20000 + q % 4096 * 0x40) r.bytes
  let m := s.mgmt
  let bad := decide (3 ≤ e.sev)
  let s := { s with mgmt := { m with
    logSeq := q, dropped := false
    warns := m.warns + b2n (e.sev == 2), errs := m.errs + b2n (e.sev == 3), crits := m.crits + b2n (e.sev == 4)
    lastBad := if bad then some r else m.lastBad } }
  if bad then alertSet s 16 else s

/-- The processor takes the oldest queued event (R411): it runs its program from then on. -/
def logWrite (s : State) : State := match s.mgmt.evq with
  | [] => s
  | e :: l => writeRecord { s with mgmt := { s.mgmt with evq := l, run := true } } e

/-- Records that the log partition holds (R414). -/
def logPartition : Nat := 16777216

/-- Copy the waiting records with sequence up to `q` to the log partition. -/
def logCopy (s : State) (q : Nat) : State :=
  let new := s.mgmt.ring.filter (fun r => decide (s.mgmt.copied < r.seq) && decide (r.seq ≤ q))
  let l := s.vault.log ++ new
  let excess := (l.length - logPartition + 255) / 256 * 256
  { s with vault := { s.vault with log := l.drop excess }
           mgmt := { s.mgmt with copied := max s.mgmt.copied (maxNat (new.map (fun r => r.seq))) } }

/-- Records that wait to be copied. -/
def logWaiting (s : State) : List LogRec := s.mgmt.ring.filter (fun r => decide (s.mgmt.copied < r.seq))

/-- A page of 256 records is copied, or every waiting record once the oldest has waited long enough
(R414). -/
def logFlush (s : State) : State :=
  let w := logWaiting s
  if !vaultTakes s then s
  else if 256 ≤ w.length then logCopy s ((w[255]?.map (fun r => r.seq)).getD 0)
  else match w.head? with
    | some r => if max 1 (s.cfg 0x16000C 16 0) ≤ s.epoch.count - r.wrote then logCopy s s.mgmt.logSeq else s
    | none => s

/-- Does a record pass the filters of a LOG_READ (R415)? -/
def logPasses (start sev s0 s1 : Nat) (r : LogRec) : Bool :=
  decide (start ≤ r.seq) && decide (sev ≤ r.sev) && decide (s0 ≤ r.src) && decide (r.src ≤ s1)

/-- LOG_READ. -/
def cmdLogRead (s : State) (c : Cmd) (io : HostIO) : State :=
  let n := c.le 24 4
  let w := c.le 44 4
  if !c.compl 24 28 4 then finish s c.id stBadComplement
  else if c.table != 255 || c.auto || !c.addr || c.le 16 8 % 64 != 0 || n % 64 != 0 || c.le 41 3 != 0 ||
      nfld w 15 10 != 0 || nfld w 31 26 != 0 || !c.zeroFrom 48 then finish s c.id stInvalid
  else
    let first := ((s.mgmt.ring.head?).map (fun r => r.seq)).getD 1
    let old := if s.vault.st = 3 ∨ s.vault.st = 0 then [] else s.vault.log.filter (fun r => decide (r.seq < first))
    let rs := ((old ++ s.mgmt.ring).filter (logPasses (c.le 32 8) (c.le 40 1) (nfld w 9 0) (nfld w 25 16))).take (n / 64)
    match busWrite s c io (c.le 16 8) ((rs.map LogRec.bytes).flatten) with
    | (true, s) => finish s c.id stOk rs.length
    | (false, s) => dmaFail s c

/-! ### SENSOR_READ (R407) -/

/-- Flag word of entry `i`. -/
def sensorFlags (m : Mgmt) (i : Nat) : Nat :=
  b2n (i < 32 && natAt m.warn i != 0) + 2 * b2n (i < 32 && natAt m.limit i != 0) + 4 * b2n (m.bad.contains i)

/-- The 528 bytes of a SENSOR_READ. -/
def sensorRecord (s : State) : List Byte :=
  let vs := sensorValues s.mgmt
  bytesLE 6 s.epoch.count ++ bytesLE 2 65 ++ ((List.range 65).map (fun i =>
    bytesLE 2 (intBits 16 (vs.getD i 0)) ++ bytesLE 2 (intBits 16 (s.mgmt.mins.getD i 0)) ++
      bytesLE 2 (intBits 16 (s.mgmt.maxs.getD i 0)) ++ bytesLE 2 (sensorFlags s.mgmt i))).flatten

/-- SENSOR_READ. -/
def cmdSensorRead (s : State) (c : Cmd) (io : HostIO) : State :=
  if !c.compl 24 28 4 then finish s c.id stBadComplement
  else if c.table != 255 || c.auto || !c.addr || c.le 16 8 % 16 != 0 || decide (c.le 24 4 < 528) || c.le 32 4 / 2 != 0 ||
      !c.zeroFrom 36 then finish s c.id stInvalid
  else match busWrite s c io (c.le 16 8) (sensorRecord s) with
    | (true, s) =>
      let s := if c.le 32 4 % 2 = 1 ∧ c.ownerRight then
          { s with mgmt := { s.mgmt with mins := sensorValues s.mgmt, maxs := sensorValues s.mgmt } } else s
      finish s c.id stOk
    | (false, s) => dmaFail s c

/-! ### Keys (R416, R417) -/

/-- An empty slot. -/
def KeySlot.empty : KeySlot := { type := 0, pub := 0, gen := 0 }

/-- Slot `k` of the key store. -/
def keySlot (s : State) (k : Nat) : KeySlot := s.vault.keys.getD k KeySlot.empty

/-- Write a slot. -/
def setKey (s : State) (k : Nat) (x : KeySlot) : State := { s with vault := { s.vault with keys := s.vault.keys.set k x } }

/-- The 97 bytes of a public key. -/
def pubBytes (x : BitVec 776) : List Byte := bytesBE 97 x.toNat

/-- KEY_SLOT_STAT (R422). -/
def keyStat (s : State) (k : Nat) : Word :=
  let x := keySlot s k
  word (x.type * 2 ^ 30 + (if x.type = 2 ∨ x.type = 3 then fld (Config.sha384 (pubBytes x.pub)) 15 0 else 0))

/-- Is the authorisation good: a signature of the root key over the slot, the operation and the 96 bytes
of the key (R417)? -/
def authOk (s : State) (slot op : Nat) (key sig : List Byte) : Bool :=
  Config.ecdsaVerify (keySlot s 1).pub (Config.sha384 (bytesLE 1 slot ++ bytesLE 1 op ++ key)) (BitVec.ofNat 768 (natBE sig))

/-- The root slot holds a key. -/
def rooted (s : State) : Bool := (keySlot s 1).type != 0

/-- OP, SLOT and the form of a KEY_PROVISION (R417). -/
def keyOp (c : Cmd) : Nat := c.le 16 4 % 4
def keySlotOf (c : Cmd) : Nat := nfld (c.le 16 4) 11 8

/-- The form checks of a KEY_PROVISION that takes `inLen` bytes and gives `outLen`. -/
def keyForm (c : Cmd) (inLen outLen : Nat) : Nat :=
  if !c.compl 16 20 4 then stBadComplement
  else if c.table != 255 || c.auto || !c.addr || nfld (c.le 16 4) 7 2 != 0 || c.le 16 4 / 4096 != 0 || keySlotOf c == 0 ||
      c.le 24 8 % 16 != 0 || c.le 36 8 % 16 != 0 || c.le 32 4 != inLen || c.le 44 4 != outLen ||
      (inLen == 0 && c.le 24 8 != 0) || (outLen == 0 && c.le 36 8 != 0) || !c.zeroFrom 48 then stInvalid
  else stOk

/-- Read the input of a key operation; an operation without one reads nothing. -/
def keyInput (s : State) (c : Cmd) (io : HostIO) (n : Nat) : Option (List Byte) := if n = 0 then some [] else busRead s c io n

/-- An authorisation failed. -/
def authFail (s : State) (c : Cmd) : State := finish (s.raise evMgtKeyAuthFail) c.id stInvalid

/-- Both copies of the key store are written, or the command completes VAULT_FAULT. -/
def keyWrite (s : State) (c : Cmd) (programmed : Bool) (x : KeySlot) : State :=
  if programmed && vaultTakes s then finish (setKey s (keySlotOf c) x) c.id stOk (keySlotOf c) else finish s c.id stVaultFault

/-- INSTALL: a VERIFY key enters an EMPTY slot. -/
def cmdInstall (s : State) (c : Cmd) (io : HostIO) (programmed : Bool) : State :=
  let k := keySlotOf c
  let n := if k = 1 ∧ !rooted s then 97 else 193
  let f := keyForm c n 0
  if f ≠ stOk then finish s c.id f
  else match keyInput s c io n with
    | none => readFail s c io
    | some l =>
      if l.head? ≠ some 4 then finish s c.id stInvalid
      else if rooted s && !authOk s k 0 (slice l 1 96) (slice l 97 96) then authFail s c
      else if (keySlot s k).type ≠ 0 then finish s c.id stDuplicate
      else keyWrite s c programmed { type := 2, pub := BitVec.ofNat 776 (natBE (l.take 97)), gen := 0 }

/-- GENERATE: a SIGN key pair is made in an EMPTY slot. -/
def cmdGenerate (s : State) (c : Cmd) (io : HostIO) (programmed : Bool) : State :=
  let k := keySlotOf c
  let n := if rooted s then 96 else 0
  let f := keyForm c n 97
  if f ≠ stOk then finish s c.id f
  else if k = 1 then finish s c.id stInvalid
  else match keyInput s c io n with
    | none => readFail s c io
    | some l =>
      if rooted s && !authOk s k 1 (bytesLE 96 0) l then authFail s c
      else if (keySlot s k).type ≠ 0 then finish s c.id stDuplicate
      else if !programmed || !vaultTakes s then finish s c.id stVaultFault
      else
        let g := s.vault.gens
        let pub := Config.genPublicKey g
        match busWrite s c io (c.le 36 8) (pubBytes pub) with
        | (true, s) => keyWrite { s with vault := { s.vault with gens := g + 1 } } c programmed { type := 3, pub := pub, gen := g }
        | (false, s) => dmaFail s c

/-- ERASE: the slot becomes EMPTY. -/
def cmdErase (s : State) (c : Cmd) (io : HostIO) (programmed : Bool) : State :=
  let k := keySlotOf c
  let n := if rooted s then 96 else 0
  let f := keyForm c n 0
  if f ≠ stOk then finish s c.id f
  else match keyInput s c io n with
    | none => readFail s c io
    | some l =>
      if rooted s && !authOk s k 2 (bytesLE 96 0) l then authFail s c
      else if (keySlot s k).type = 0 then finish s c.id stNotFound
      else keyWrite s c programmed KeySlot.empty

/-- READ_PUB: the public key of a slot. -/
def cmdReadPub (s : State) (c : Cmd) (io : HostIO) : State :=
  let k := keySlotOf c
  let f := keyForm c 0 97
  if f ≠ stOk then finish s c.id f
  else if (keySlot s k).type = 0 then finish s c.id stNotFound
  else match busWrite s c io (c.le 36 8) (pubBytes (keySlot s k).pub) with
    | (true, s) => finish s c.id stOk
    | (false, s) => dmaFail s c

/-- The processor restarts: the command it executes completes ABORTED (R404). -/
def mgtRestart (s : State) : State :=
  let s := { s with mgmt := { s.mgmt with run := false } }
  let s := (s.bumpField 0x160004 7 0).raise evMgtRestart
  match s.cmds.find? (fun c => c.st == .running && opMgmt c.op) with
  | some c => finish s c.id stAborted
  | none => s

/-! ### SMBus (R419 to R421) -/

/-- One bit of the packet error code: the CRC-8 of SMBus 3.1, polynomial x^8 + x^2 + x + 1, most significant
bit first (PRESUMED from the standard that R419 names; assumption 49). -/
def pecBit (c : Nat) : Nat := if c.testBit 7 then (c * 2 % 256) ^^^ 7 else c * 2

/-- The packet error code of the bytes of a transaction. -/
def pec (l : List Byte) : Byte :=
  BitVec.ofNat 8 (l.foldl (fun c b => pecBit (pecBit (pecBit (pecBit (pecBit (pecBit (pecBit (pecBit (c ^^^ b.toNat))))))))) 0)

/-- The packet error code of a read with command code `code`, a Block Read when `block`. -/
def readPec (s : State) (code : Nat) (block : Bool) (l : List Byte) : Byte :=
  pec (bytesLE 1 (s.power.smbAddr * 2) ++ bytesLE 1 code ++ bytesLE 1 (s.power.smbAddr * 2 + 1) ++
    (if block then bytesLE 1 l.length else []) ++ l)

/-- The sideband answers a read of `code` with these bytes; it answers only while the island is powered. -/
def smbAnswer (s : State) (code : Nat) (block : Bool) (l : List Byte) : State :=
  if islandOn s then emit (.smb (some l) (readPec s code block l)) s else s

/-- Read Word 0x51: ALERT_STATUS; the bits whose causes have ended clear. -/
def smbAlertStatus (s : State) : State :=
  if !islandOn s then s
  else
    let a := s.mgmt.alert
    emit (.smb (some (bytesLE 2 a)) (readPec s 0x51 false (bytesLE 2 a))) { s with mgmt := { s.mgmt with alert := alertCauses s } }

/-- Block Read 0x60: the log summary. -/
def smbSummary (s : State) : State :=
  let m := s.mgmt
  let last := match m.lastBad with
    | some r => bytesLE 2 r.src ++ bytesLE 1 r.sev ++ bytesLE 1 0 ++ bytesLE 6 r.epoch ++ bytesLE 2 0
    | none => bytesLE 12 0
  smbAnswer s 0x60 true (bytesLE 8 m.logSeq ++ bytesLE 4 m.warns ++ bytesLE 4 m.errs ++ bytesLE 4 m.crits ++ last)

/-- A read at the Alert Response Address, 0x0C. -/
def smbAra (s : State) : State :=
  let l := bytesLE 1 (s.power.smbAddr * 2)
  if !islandOn s then s
  else if s.mgmt.alertN then emit (.smb (some l) (pec (bytesLE 1 0x19 ++ l))) { s with mgmt := { s.mgmt with alertN := false } }
  else emit (.smb none 0) s

/-- A write protocol or an unlisted code is not acknowledged, and is counted. -/
def smbReject (s : State) : State := if islandOn s then emit (.smb none 0) (s.bumpField 0x160010 7 0) else s

end Sys2Proof.Machine
end

