-- ==== Sys2Proof/Machine/Vault.lean ====
section
/-! DEFINITION. The vault in service (R377 to R393, R397 to R401, R261): records that reach NAND,
checkpoints, patrol, retired blocks, the loss of the vault, and the commands VAULT_CHECKPOINT,
VAULT_STATUS and CRUMB_SET. -/

namespace Sys2Proof.Machine

/-! ### Records that reach NAND (R381, R382) -/

/-- A table as the configuration partition holds it: its entries lie in the images and the journal. -/
def TableImg.bare (i : TableImg) : TableImg := { i with tab := { i.tab with rows := [], covers := [], slots := [] } }

/-- An empty configuration image. -/
def CfgImg.empty : CfgImg := { live := [], tables := [], retired := [] }

/-- The BUF words of TBL_ATTR. -/
def attrBuf : List Nat := [0x8, 0x10, 0x14, 0x18, 0x1C]

/-- A table without the blocks that a later record gives to another. -/
def loseBlocks (i : TableImg) (l : List BlkHold) : TableImg :=
  { i with tab := { i.tab with blocks := i.tab.blocks.filter (fun h => !l.any (fun k => k.die == h.die && k.block == h.block)) } }

/-- The configuration image after a record: BUF and CX fields, tables and their attributes, retirements
(R378, R381). -/
def cfgApply (c : Option CfgImg) (r : JRec) : Option CfgImg :=
  let b := c.getD CfgImg.empty
  let put := fun (i : TableImg) => { b with
      tables := (mapSet b.tables r.table i.bare).map (fun p => if p.1 = r.table then p else (p.1, loseBlocks p.2 i.tab.blocks))
      live := (i.attrs.filter (fun p => attrBuf.contains p.1)).foldl (fun m p => mapSet m (taAddr r.table p.1) p.2) b.live }
  match r.body with
  | .config l ret => some { b with live := l.foldl (fun m p => mapSet m p.1 p.2) b.live, retired := ret }
  | .table (some i) => some (put i)
  | .bulk i _ => some (put i)
  | .table none => some { b with tables := mapErase b.tables r.table, live := b.live.filter (fun p => attrTable p.1 != some r.table) }
  | .words _ => c
  | .mark => c

/-- Erase counts go up with the programs; by how much no rule says (R391): free values. -/
def wear (s : State) : State :=
  let (n, s) := draw s
  let old := s.vault.maxPe
  let mx := min 65535 (old + Config.openNat n % 65536)
  let av := min mx (s.vault.avgPe + Config.openNat n / 65536 % 65536)
  let s := { s with vault := { s.vault with maxPe := mx, avgPe := av } }
  if old ≤ 27000 ∧ 27000 < mx then s.raise evVltWearHi else s

/-- The staged records up to sequence `q` are in NAND. -/
def programRecs (s : State) (q : Nat) : State :=
  let new := s.vault.staged.filter (fun r => decide (r.seq ≤ q))
  { s with vault := { s.vault with
    staged := s.vault.staged.filter (fun r => decide (q < r.seq)), journal := s.vault.journal ++ new
    nand := max s.vault.nand (maxNat (new.map (fun r => r.seq))), cfg := new.foldl cfgApply s.vault.cfg } }

/-- Commands that wait for journal space go on once there is some, or once no record can be written (R384). -/
def resumeJournal (s : State) : State :=
  if journalRoom s || !vaultTakes s then
    s.modCmds (fun c => c.st == .waiting .journal) (fun c => { c with st := .running, since := s.epoch.count })
  else s

/-- A journal page and the parity of its stripe are in NAND (R382). With nothing staged, or with no vault,
there is none (assumption 4). -/
def journalProgramDone (s : State) (q : Nat) : State :=
  if !vaultTakes s || !s.vault.staged.any (fun r => decide (r.seq ≤ q)) then s else resumeJournal (wear (programRecs s q))

/-! ### Checkpoints (R384, R385) -/

/-- The newer complete image: 0 none, 1 A, 2 B. -/
def newerImage (s : State) : Nat := match s.vault.imgA, s.vault.imgB with
  | none, none => 0
  | some _, none => 1
  | none, some _ => 2
  | some a, some b => if a.s0 < b.s0 then 2 else 1

/-- Image 1 or 2. -/
def imageOf (s : State) (k : Nat) : Option Image := if k = 1 then s.vault.imgA else if k = 2 then s.vault.imgB else none

/-- Replace image 1 or 2. -/
def setImage (s : State) (k : Nat) (i : Option Image) : State :=
  if k = 1 then { s with vault := { s.vault with imgA := i } } else { s with vault := { s.vault with imgB := i } }

/-- Checkpoints may run: in FULL, and in FAULTSAFE while the vault and both stacks are intact (R385). -/
def ckptAllowed (s : State) : Bool := vaultTakes s && (s.stage.stage == 3 || (s.stage.stage == 4 && !asLost s))

/-- A periodic checkpoint falls on this step. -/
def ckptPeriodic (s : State) : Bool :=
  s.cfg 0x150000 31 16 != 0 && s.epoch.crossed (s.cfg 0x150000 31 16 * 65536)

/-- Journal use calls for a checkpoint (R384). -/
def ckptForced (s : State) : Bool := decide (jnlSize / 4 * 3 ≤ jnlBytes s)

/-- Checkpoint commands that wait to start complete ABORTED (R386). -/
def dropCkptJoin (s : State) : State :=
  let ids := s.vault.ckptJoin
  ids.foldl (fun s i => finish s i stAborted) { s with vault := { s.vault with ckptJoin := [], ckptDue := false } }

/-- The slots of a checkpoint: reads of the shadow records, counters and stamps of the entries in SHADOW slots, and
staging of as much, at a place that is free, in VAULT slots (R22, R298, R385). -/
def askCheckpoint (s : State) : State :=
  let (n, s) := draw s
  let l := (s.tables.map (fun p => p.2.rows.map (fun r => (r.pos, taW s p.1)))).flatten
  let s := l.foldl (fun s q => askDram (askDram (askDram s drShadow (shadowBase + 64 * q.1) (64 * q.2) 0 { unit := 6 })
    drShadow (16 * q.1) (16 * q.2) 0 { unit := 6 }) drShadow (stampBase + 8 * q.1) (8 * q.2) 0 { unit := 6 }) s
  askDram s drVault (stagingBase + 64 * (Config.openNat n % 2 ^ 26)) (88 * sumNat (l.map (fun q => q.2))) 2 { unit := 6 }

/-- A checkpoint starts: its start record gives S0, and the header of its target is invalidated. -/
def ckptStart (s : State) (forced : Bool) : State :=
  let k := if newerImage s = 1 then 2 else 1
  let s := stageRec s 0x40 255 none .mark
  let s := askCheckpoint (setImage s k none)
  let c : Ckpt := { target := k, s0 := s.vault.seq, epoch := s.epoch.count, held := s.epoch.held, cmds := s.vault.ckptJoin }
  let s := { s with vault := { s.vault with ckpt := some c, ckptJoin := [], ckptDue := false }, mgmt := { s.mgmt with ckptHeld := false } }
  heldAction (if forced then s.raise evVltCkptForced else s) 10 0

/-- The checkpoints of this step: one that a command asked for, one that journal use forces, or a periodic
one, which a running one skips and LIMIT holds (R385, R386, R408). -/
def ckptAt (s : State) : State :=
  if !ckptAllowed s then (if s.vault.ckptDue then dropCkptJoin s else s)
  else if s.vault.ckpt.isSome then s
  else
    let periodic := ckptPeriodic s || s.mgmt.ckptHeld
    let forced := ckptForced s && !s.vault.ckptDue
    if s.vault.ckptDue || forced || (periodic && !atLimit s) then ckptStart s forced
    else if periodic then { s with mgmt := { s.mgmt with ckptHeld := true } }
    else s

/-- What a checkpoint reads, after a FLUSH of the counter lines (R385). -/
def capture (s : State) (c : Ckpt) : Image :=
  { s0 := c.s0, epoch := c.epoch, tables := s.tables.filterMap (fun p => (tableImg s p.1).map (fun i => (p.1, i)))
    counters := s.act.counters, stamps := s.act.stamps, direct := s.direct }

/-- The journal is freed up to S0 of the older of two complete images (R384). -/
def freeJournal (s : State) : State := match s.vault.imgA, s.vault.imgB with
  | some a, some b => { s with vault := { s.vault with journal := s.vault.journal.filter (fun r => decide (min a.s0 b.s0 ≤ r.seq)) } }
  | _, _ => s

/-- The checkpoint-end record is in NAND, and with it every record staged before (R385). The image holds
what the module holds then: the reads of step 2 fall at its end in the model (DEDUCED; assumption 50). -/
def ckptDone (s : State) : State := match s.vault.ckpt with
  | none => s
  | some c =>
    let s := (maintLines s 0 (cachedLines s)).2
    let s := stageRec s 0x41 255 none .mark
    let s := wear (programRecs s s.vault.seq)
    let s := setImage s c.target (some (capture s c))
    let s := { s with vault := { s.vault with ckpt := none, ckptEpoch := s.epoch.count, lostTail := none } }
    let s := freeJournal ((s.bump 0x150040).raise evVltCkptDone c.target c.s0)
    resumeJournal (c.cmds.foldl (fun s i => finishAs s i stOk c.target c.epoch c.held) s)

/-- VAULT_CHECKPOINT (R386). -/
def cmdVaultCheckpoint (s : State) (c : Cmd) : State :=
  if c.table != 255 || c.auto || c.addr || !c.zeroFrom 16 then finish s c.id stInvalid
  else if !ckptAllowed s then finish s c.id stAborted
  else cmdWait { s with vault := { s.vault with ckptDue := true, ckptJoin := s.vault.ckptJoin ++ [c.id] } } c.id .checkpoint

/-- A patrol period begins at this step (R392, R408). -/
def patrolAt (s : State) : State :=
  let p := max 1 (s.cfg 0x150004 23 0)
  if bit (s.live 0x150000) 4 && s.epoch.crossed (p * 65536) && vaultTakes s && !atLimit s then
    heldAction { s with vault := { s.vault with patrolStart := s.epoch.count } } 10 1
  else s

/-! ### Withdrawing changes that are not durable (R181, R261)

A change is withdrawn by merging back the difference between the table that its record carries and the
table that the record before it carries. -/

/-- The last listed table of records, or `d`. -/
def lastImg (t : Nat) (d : Option TableImg) (l : List JRec) : Option TableImg :=
  l.foldl (fun m r => if r.table ≠ t then m else match r.body with
    | .table i => i
    | .bulk i _ => some i
    | _ => m) d

/-- Table `t` as of the record before sequence `q`. -/
def imgBefore (s : State) (t q : Nat) : Option TableImg :=
  lastImg t (((imageOf s (newerImage s)).bind (fun i => mapGet i.tables t)))
    ((s.vault.journal ++ s.vault.staged).filter (fun r => decide (r.seq < q)))

/-- The mask of row `r` in a list, 0 when it is not there. -/
def rowVis (l : List Row) (r : Row) : BitVec 4 := match l.find? (fun q => { q with vis := 0 } == { r with vis := 0 }) with
  | some q => q.vis
  | none => 0

/-- A cover without its mask and its faults. -/
def coverId (c : Cover) : Cover := { c with vis := 0, err := none }

/-- The mask of cover `c` in a list. -/
def coverVis (l : List Cover) (c : Cover) : BitVec 4 := match l.find? (fun q => coverId q == coverId c) with
  | some q => q.vis
  | none => 0

/-- Rows after the change from `b` to `a` is taken back. -/
def unRows (cur a b : List Row) : List Row :=
  cur.map (fun (r : Row) => { r with vis := r.vis ^^^ (rowVis a r ^^^ rowVis b r) }) ++
    (b.filter (fun r => !cur.any (fun q => { q with vis := 0 } == { r with vis := 0 }))).map
      (fun (r : Row) => { r with vis := rowVis a r ^^^ r.vis })

/-- Covers after the change from `b` to `a` is taken back. -/
def unCovers (cur a b : List Cover) : List Cover :=
  cur.map (fun (c : Cover) => { c with vis := c.vis ^^^ (coverVis a c ^^^ coverVis b c) }) ++
    (b.filter (fun c => !cur.any (fun q => coverId q == coverId c))).map
      (fun (c : Cover) => { c with vis := coverVis a c ^^^ c.vis })

/-- A slot after the change is taken back; a generation opened since keeps the changes of one that would
be opened again. -/
def unSlot (cur a b : Table) (k : Nat) : Slot :=
  let y := cur.slot k
  if a.slot k = b.slot k ∨ y.st ≠ (a.slot k).st ∨ y.sealNo ≠ (a.slot k).sealNo then y
  else if (b.slot k).st = .opened ∧ (openSlot cur).isSome ∧ openSlot cur ≠ some k then Slot.empty
  else b.slot k

/-- A table after the change from `b` to `a` is taken back. -/
def unTab (x a b : Table) : Table :=
  { x with
    rows := unRows x.rows a.rows b.rows, covers := unCovers x.covers a.covers b.covers
    slots := (List.range 4).map (unSlot x a b)
    st := if a.st = b.st then x.st else b.st
    destroyAt := if a.destroyAt = b.destroyAt then x.destroyAt else b.destroyAt
    learn := if a.learn = b.learn then x.learn else b.learn
    age := if a.age = b.age then x.age else b.age
    aged := if a.aged = b.aged then x.aged else b.aged }

/-- Take back the change of table `t` from `b` to `a`. -/
def unTable (s : State) (t : Nat) (a b : TableImg) : State := match s.table t with
  | none => s
  | some x =>
    let s := sweepRows (s.setTable t (unTab x a.tab b.tab)) t
    let s := if a.attrs = b.attrs then s else putAttrs s t b.attrs
    (a.tab.blocks.filter (fun h => !b.tab.blocks.contains h)).foldl (fun s h => match s.table t with
      | none => s
      | some x =>
        if x.blocks.contains h && !x.rows.any (fun r => r.die == h.die && r.block == h.block) then
          freeBlock (s.setTable t { x with
            blocks := x.blocks.filter (fun (k : BlkHold) => k != h)
            covers := x.covers.filter (fun (c : Cover) => !(c.die == h.die && c.block == h.block)) }) h.die h.block
        else s) s

/-- Take back the change of one record. -/
def unRec (s : State) (r : JRec) : State := match r.body, imgBefore s r.table r.seq with
  | .table (some a), some b => unTable s r.table a b
  | .bulk a _, some b => unTable s r.table a b
  | _, _ => s

/-- Take back the copy-map change that command `id` waits for: the spares and blocks it took return. -/
def unCopyMap (s : State) (id : Nat) : State :=
  let ks := s.dies.changes.filter (fun k => k.cmd == some id)
  let s := { s with dies := { s.dies with changes := s.dies.changes.filter (fun (k : CopyChange) => k.cmd != some id) } }
  ks.foldl (fun s k =>
    let s := k.add.foldl (fun s n => releaseSpare s k.die n) s
    k.join.foldl (fun s h => freeBlock s h.die h.block) s) s

/-- A retirement that its command completed is taken back. -/
def unRetire (s : State) (c : Cmd) : State :=
  if c.op ≠ 0x91 then s
  else
    let d := c.le 16 4 % 4
    let p := c.le 20 4
    let s := { s with spk := { s.spk with retired := s.spk.retired.filter (fun q => q != d * 1056 + p) } }
    if p < 1024 ∧ (s.blk d p).table = 255 then s.setBlk d p { s.blk d p with st := 0 } else s

/-- A BLOCK_RETIRE that waits for its copy gives the copy up: a suspect unit keeps it as its rebuild. -/
def dropRetire (s : State) (d u : Nat) : State := match buildOf s d u with
  | none => s
  | some b => if unitSuspect s d u then modBuild s d u (fun b => { b with why := .rebuild }) else dropBuild (releaseSpare s d b.spare) d u

/-- Command `c` has a record that can no longer reach NAND, or waits to make one (R261). -/
def faultCmd (s : State) (c : Cmd) : State :=
  match c.st with
  | .waiting (.retire d u) => finish (dropRetire s d u) c.id stVaultFault
  | _ => match c.jneed with
    | none => s
    | some q =>
      if q ≤ s.vault.nand then s
      else if c.st = .finished ∧ c.vis ≠ 0 then finishAs s c.id stVaultFault c.handle c.vis c.held
      else
        let rs := (s.vault.staged.filter (fun r => r.cmd == some c.id)).reverse
        finish (unRetire (unCopyMap (rs.foldl unRec s) c.id) c) c.id stVaultFault c.handle

/-- The records staged after one that is withdrawn carry its table without its change. -/
def unLater (s : State) (r : JRec) : State := match r.body, imgBefore s r.table r.seq with
  | .table (some a), some b =>
    { s with vault := { s.vault with staged := s.vault.staged.map (fun (q : JRec) =>
      if q.table = r.table ∧ r.seq < q.seq then
        (match q.body with
         | .table (some i) => { q with body := .table (some { i with
             tab := unTab i.tab a.tab b.tab, attrs := if a.attrs = b.attrs then i.attrs else b.attrs }) }
         | _ => q)
      else q) } }
  | _, _ => s

/-- The change of command `c`, whose record is not in NAND, is withdrawn, and the command completes with a status
(R261, R269, R384). -/
def withdrawCmd (s : State) (c : Cmd) (st : Nat) : State :=
  let rs := (s.vault.staged.filter (fun p => p.cmd == some c.id)).reverse
  let s := rs.foldl unLater (rs.foldl unRec s)
  let s := { s with vault := { s.vault with staged := s.vault.staged.filter (fun p => p.cmd != some c.id) } }
  (finish (unRetire (unCopyMap s c.id) c) c.id st c.handle).modCmds (fun d => d.id == c.id) (fun d => { d with jneed := none })

/-- A checkpoint starts at the next epoch step (R384, R398). -/
def askCkpt (s : State) : State := { s with vault := { s.vault with ckptDue := true } }

/-- The staging region meets an uncorrectable error in the record with sequence `q` (R384): the record is
lost. A command that waits for it completes VAULT_FAULT, and its change is withdrawn unless it is visible;
in every other case a checkpoint is to make the change durable again. -/
def stageUe (s : State) (q : Nat) : State := match s.vault.staged.find? (fun r => r.seq == q) with
  | none => s
  | some r =>
    let s := s.raise evVltStageUe
    let gone := fun (s : State) => ({ s with vault := { s.vault with staged := s.vault.staged.filter (fun p => p.seq != q) } } : State)
    match s.cmds.find? (fun c => r.cmd == some c.id && c.jneed.isSome) with
    | none => askCkpt (gone s)
    | some c =>
      let free := fun (s : State) => s.modCmds (fun d => d.id == c.id) (fun d => { d with jneed := none })
      if c.st = .finished ∧ c.vis ≠ 0 then askCkpt (gone (free (finishAs s c.id stVaultFault c.handle c.vis c.held)))
      else withdrawCmd s c stVaultFault

/-- The oldest command of a mailbox whose wait is long enough gives up what it holds, withdraws its change, and completes
STALLED (R269). -/
def stallAbort (s : State) (m : Nat) : State := match s.cmds.find? (fun c => c.mb == m && (abortDue s c || slotsDue s c)) with
  | none => s
  | some c =>
    if abortDue s c then finish (if c.got = 1 then dropIdle s c.table else s) c.id stStalled
    else
      let keep := fun (a : SlotAsk) => a.who.cmd != some c.id
      withdrawCmd { s with dies := { s.dies with asks := s.dies.asks.filter keep, dram := s.dies.dram.filter keep } } c stStalled

/-- A running checkpoint is cut short: its commands complete ABORTED (R385, R386; assumption 50). -/
def dropCkpt (s : State) : State := match s.vault.ckpt with
  | none => s
  | some c => c.cmds.foldl (fun s i => finish s i stAborted) { s with vault := { s.vault with ckpt := none } }

/-- The vault is lost (R261, R399). -/
def vltLost (s : State) : State :=
  if s.vault.st = 3 then s
  else
    let s := { s with vault := { s.vault with st := 3 } }.raise evVltLost s.vault.nand
    let s := s.cmds.reverse.foldl faultCmd s
    let s := s.modCmds (fun _ => true) (fun c => { c with jneed := none })
    let s := dropCkpt { s with vault := { s.vault with staged := [] } }
    enterFs (resumeJournal (dropCkptJoin s)) 2 0

/-- A block that fails an erase or a program is retired (R390). -/
def vltRetire (s : State) (b : Nat) : State :=
  if 32768 ≤ b ∨ !vaultTakes s then s
  else
    let s := { s with vault := { s.vault with good := s.vault.good - 1, free := s.vault.free - 1 } }
    let s := (s.bump 0x150044).raise evVltRetire b
    if s.vault.free < 512 then vltLost s
    else if s.vault.free < 2048 ∧ s.vault.st = 1 then { s with vault := { s.vault with st := 2 } }.raise evVltSpareLow
    else s

/-! ### Status (R397, R401) -/

/-- VLT_STATUS. -/
def vltStatus (s : State) : Nat :=
  s.vault.st * 2 ^ 30 + newerImage s * 2 ^ 28 + b2n s.vault.ckpt.isSome * 2 ^ 27 + b2n s.vault.lostTail.isSome * 2 ^ 26 +
    min 255 (jnlBytes s * 256 / jnlSize)

/-- VLT_BLOCKS; zero until the vault is mounted. -/
def vltBlocks (s : State) : Nat := if s.vault.st = 0 then 0 else s.vault.free * 65536 + min 65535 s.vault.good

/-- VLT_WEAR. -/
def vltWear (s : State) : Nat := if s.vault.st = 0 then 0 else s.vault.maxPe * 65536 + s.vault.avgPe

/-- The 64 bytes of VAULT_STATUS. The endurance used is the mean erase count over the rated 30,000 cycles. -/
def vltRecord (s : State) : List Byte :=
  let k := newerImage s
  let s0 := ((imageOf s k).map (fun i => i.s0)).getD 0
  let lt := s.vault.lostTail.getD (0, 0)
  bytesLE 4 (vltStatus s) ++ bytesLE 4 (vltBlocks s) ++ bytesLE 4 (vltWear s) ++ bytesLE 4 (s.vault.avgPe * 10000 / 30000) ++
    bytesLE 8 s.vault.nand ++ bytesLE 8 (s0 % 2 ^ 62 + k * 2 ^ 62) ++ bytesLE 8 s.vault.ckptEpoch ++
    bytesLE 8 lt.1 ++ bytesLE 8 lt.2 ++ bytesLE 8 (jnlBytes s)

/-- VAULT_STATUS (R397). -/
def cmdVaultStatus (s : State) (c : Cmd) (io : HostIO) : State :=
  if c.table != 255 || c.auto || !c.addr || c.host 16 % 16 != 0 || !c.zeroFrom 24 then finish s c.id stInvalid
  else match busWrite s c io (c.host 16) (vltRecord s) with
    | (true, s) => finish s c.id stOk
    | (false, s) => dmaFail s c

/-! ### The crumb table (R369, R371) -/

/-- Tables with crumb entries in the partition, ascending. -/
def crumbTables (l : List (Nat × Row)) : List Nat := sortBy (fun (a b : Nat) => decide (a < b)) (dedup (l.map (fun p => p.1)))

/-- Crumb entries of a table in the order of R56. -/
def crumbOf (l : List (Nat × Row)) (t : Nat) : List Row :=
  sortBy (fun (a b : Row) => beats a.prio a.handle b.prio b.handle) ((l.filter (fun p => p.1 == t)).map (fun p => p.2))

/-- Crumb spares of a die that may be used: S28 to S31, not retired and not taken. -/
def crumbFree (s : State) (used : List (Nat × Nat)) (d : Nat) : List Nat :=
  [28, 29, 30, 31].filter (fun k => !spareRetired s d k && !used.contains (d, k))

/-- The die and the spares for the entries of table `t` (R369). -/
def crumbPlace (s : State) (used : List (Nat × Nat)) (t n : Nat) : Option (Nat × List Nat) :=
  let k := (n + (4096 / taW s t) - 1) / (4096 / taW s t)
  ((structDies (ta s t 0)).find? (fun d => decide (k ≤ (crumbFree s used d).length))).map (fun d => (d, (crumbFree s used d).take k))

/-- Lay the entries of a table out over the spares of a die. -/
def crumbRows (w d : Nat) (ks : List Nat) (l : List Row) : List Row :=
  l.mapIdx (fun (i : Nat) (r : Row) => { r with die := d, block := ks.getD (i / (4096 / w)) 0, row := i % (4096 / w) * w })

/-- Place the crumb entries `l`, table by table: the tables that do not place, and the entries that do. -/
def placeCrumbs (s : State) (l : List (Nat × Row)) : List Nat → List (Nat × Nat) → List Nat × List (Nat × Row)
  | [], _ => ([], [])
  | t :: ts, used =>
    if !isTernary s t || taCasc s t then
      let (f, r) := placeCrumbs s l ts used
      (t :: f, r)
    else
      let rows := crumbOf l t
      match crumbPlace s used t rows.length with
      | none =>
        let (f, r) := placeCrumbs s l ts used
        (t :: f, r)
      | some (d, ks) =>
        let (f, r) := placeCrumbs s l ts (used ++ ks.map (fun k => (d, k)))
        (f, (crumbRows (taW s t) d ks rows).map (fun q => (t, q)) ++ r)

/-- Would a crumb table place, for the tables that exist? -/
def crumbsFit (s : State) (l : List (Nat × Row)) : Bool :=
  (placeCrumbs s l ((crumbTables l).filter (fun t => isTernary s t && !taCasc s t)) []).1.isEmpty

/-- The rows of a handle list in the LIVE slot, or the status and index of the first that fails. -/
def crumbHandles (x : Table) (k : Nat) : Nat → List Nat → List Nat → Except (Nat × Nat) (List Row)
  | _, _, [] => .ok []
  | i, seen, h :: l =>
    if seen.contains h then .error (stDuplicate, i)
    else match rowIn x k h with
      | none => .error (stNotFound, i)
      | some r => match crumbHandles x k (i + 1) (h :: seen) l with
        | .error e => .error e
        | .ok rs => .ok (r :: rs)

/-- CRUMB_SET (R371). `programmed`: both copies of the partition were written. -/
def cmdCrumbSet (s : State) (c : Cmd) (io : HostIO) (programmed : Bool) : State :=
  let t := c.table
  let n := c.le 24 4
  if !c.compl 24 28 4 then finish s c.id stBadComplement
  else if c.auto || c.addr || c.host 16 % 16 != 0 || decide (16384 < n) || !c.zeroFrom 32 then finish s c.id stInvalid
  else if !tableLive s t then finish s c.id stNotFound
  else match s.table t with
    | none => finish s c.id stNotFound
    | some x =>
      if x.kind != .ternary || taCasc s t || decide (4 * (4096 / taW s t) < n) then finish s c.id stInvalid
      else match (if n = 0 then some [] else (busRead s c io (4 * n)).map (fun l => listHandles l n)) with
        | none => readFail s c io
        | some hs => match crumbHandles x ((liveSlot x).getD 0) 0 [] hs with
          | .error (st, i) => finish s c.id st i
          | .ok rs =>
            let l := s.vault.crumb.filter (fun p => p.1 != t) ++ rs.map (fun r => (t, r))
            if !crumbsFit s l then finish s c.id stTableFull
            else if !programmed || !vaultTakes s then finish s c.id stVaultFault
            else finish { s with vault := { s.vault with crumb := l } } c.id stOk

end Sys2Proof.Machine
end

