-- ==== Sys2Proof/Machine/Perdar.lean ====
section
/-! DEFINITION. Perdar images (R394): VAULT_EXPORT (R395) and VAULT_IMPORT (R396, R418). -/

namespace Sys2Proof.Machine

/-! ### The layout (R394) -/

/-- Bytes of the section table and the sections: each section as kind and bytes, from offset `off` on. -/
def secEntries : List (Nat × List Byte) → Nat → List Byte
  | [], _ => []
  | (k, b) :: l, off =>
    bytesLE 4 k ++ bytesLE 8 off ++ bytesLE 8 b.length ++ bytesLE 4 (crc32 b).toNat ++ bytesLE 8 0 ++ secEntries l (off + b.length)

/-- Every byte of an image before its trailer. The sections follow the section table without gaps, in
the order of its entries (DESIGN CHOICE; assumption 54). -/
def perdarBody (s : State) (type table slot : Nat) (secs : List (Nat × List Byte)) : List Byte :=
  let n := secs.length
  let len := 128 + 32 * n + sumNat (secs.map (fun p => p.2.length)) + 160
  let h := bytesLE 4 0x52445250 ++ bytesLE 2 1 ++ bytesLE 2 type ++ bytesLE 4 (s.live 0).toNat ++ bytesLE 4 (s.live 4).toNat ++
    bytesLE 4 table ++ bytesLE 4 n ++ bytesLE 8 s.epoch.count ++ bytesLE 8 len ++ bytesLE 4 slot ++ bytesLE 20 0
  h ++ h.map (fun b => ~~~ b) ++ secEntries secs (128 + 32 * n) ++ (secs.map (fun p => p.2)).flatten

/-- The image with its trailer; `gen`: the key pair that signs it. -/
def perdarImage (body : List Byte) (gen : Option Nat) : List Byte :=
  let d := Config.sha384 body
  body ++ bytesBE 48 d.toNat ++ (match gen with
    | some g => bytesBE 96 (Config.ecdsaSign g d).toNat
    | none => bytesLE 96 0) ++ bytesLE 16 0

/-! ### Export -/

/-- A tree image in the form of R164. -/
def treeBytes (i : TreeImg) : List Byte :=
  let a := bytesLE 4 1
  let b := bytesLE 4 i.words.length ++ bytesLE 4 i.root
  a ++ a.map (fun x => ~~~ x) ++ b ++ b.map (fun x => ~~~ x) ++ bytesLE 8 0 ++ (i.words.map (fun w => bytesLE 16 w.toNat)).flatten

/-- A word of a DIRECT table as a section carries it. -/
def directRecord (i : Nat) (v : BitVec 256) : List Byte :=
  bytesLE 4 i ++ (bytesLE 4 i).map (fun b => ~~~ b) ++ bytesLE 32 v.toNat

/-- Sections of a table image. -/
def tableSections (s : State) (t : Nat) (x : Table) (counters : Bool) : List (Nat × List Byte) × State :=
  let attrs := ((List.range 16).map (fun k => bytesLE 4 (attrWord s t (4 * k)).toNat)).flatten
  let k := (liveSlot x).getD 0
  match x.kind with
  | .ternary =>
    let rows := handlesFrom x k 0
    let ents := (rows.map (fun r => entBytes r (fld (ta s t 0) 5 4))).flatten
    if counters then
      let (b, s) := recordsOf s x k rows
      ([(1, attrs), (2, ents), (3, b)], s)
    else ([(1, attrs), (2, ents)], s)
  | .tree => ([(1, attrs), (4, match (x.slot k).tree with
      | some i => treeBytes i
      | none => [])], s)
  | .direct => ([(1, attrs), (5, ((List.range (taDirSize s t)).map (fun i =>
      directRecord i (mapGetD s.direct (taDirBase s t + i) 0))).flatten)], s)

/-- Sections of a crumb image: one per table, or one without bytes when the crumb table is empty. -/
def crumbSections (s : State) : List (Nat × List Byte) :=
  match (crumbTables s.vault.crumb).map (fun t =>
    let b := bytesLE 4 t
    (6, b ++ b.map (fun x => ~~~ x) ++ ((crumbOf s.vault.crumb t).map (fun r => entBytes r (fld (ta s t 0) 5 4))).flatten)) with
  | [] => [(6, [])]
  | l => l

/-- Does the field at `a` belong to the parse memory or the profiles, which have sections of their own? -/
def inImages (a : Nat) : Bool := decide (0xE0000 ≤ a) && decide (a < 0x100000)

/-- Words of a register block, as an image. -/
def regImage (s : State) (a n : Nat) : List Byte := ((List.range n).map (fun i => bytesLE 4 (s.live (a + 4 * i)).toNat)).flatten

/-- Sections of a configuration image: address and live value of every BUF and CX field, the profiles, and
the parse memory. The words of ABSENT tables are no fields. -/
def configSections (s : State) : List (Nat × List Byte) :=
  let as := ((List.range 0x78000).map (fun i => 4 * i)).filter (fun a => persists a && !inImages a && (match attrTable a with
    | some t => (s.table t).isSome
    | none => true))
  [(7, (as.map (fun a => bytesLE 4 a ++ bytesLE 4 (s.live a).toNat)).flatten), (8, regImage s 0xF0000 0x4000), (9, regImage s 0xE0000 0x1800)]

/-- The key that signs exports: `none` when EXPORT_SLOT names no SIGN key, else the slot to report and
the key pair. EXPORT_SLOT 0 leaves the image unsigned (DEDUCED; assumption 54). -/
def exportKey (s : State) : Option (Nat × Option Nat) :=
  let k := s.cfg 0x150000 15 8
  if k = 255 ∨ k = 0 then some (0xFFFFFFFF, none)
  else if (keySlot s k).type = 3 then some (k, some (keySlot s k).gen)
  else none

/-- VAULT_EXPORT (R395, R418). -/
def cmdVaultExport (s : State) (c : Cmd) (io : HostIO) : State :=
  let t := c.table
  let type := c.le 32 4 % 4
  let cnt := c.desc.toNat.testBit (8 * 32 + 2)
  if !c.compl 24 28 4 then finish s c.id stBadComplement
  else if c.auto || !c.addr || c.host 16 % 16 != 0 || c.le 32 4 / 8 != 0 || type == 0 || (type != 1 && (cnt || t != 255)) ||
      !c.zeroFrom 36 then finish s c.id stInvalid
  else
    let write := fun (s : State) (secs : List (Nat × List Byte)) => match exportKey s with
      | none => finish (s.raise evMgtKeyMissing) c.id stInvalid
      | some (slot, gen) =>
        let l := perdarImage (perdarBody s type t slot secs) gen
        if c.le 24 4 < l.length then finish s c.id stInvalid l.length
        else match busWrite s c io (c.host 16) l with
          | (true, s) => finish s c.id stOk l.length
          | (false, s) => dmaFail s c
    if type = 1 then
      (if !tableLive s t then finish s c.id stNotFound
       else match s.table t with
        | none => finish s c.id stNotFound
        | some x =>
          let (secs, s) := tableSections s t x cnt
          write s secs)
    else if type = 2 then (if vaultTakes s then write s (crumbSections s) else finish s c.id stVaultFault)
    else write s (configSections s)

/-! ### Reading an image -/

/-- The sections of an image, `none` when one lies outside the image or fails its CRC. -/
def readSections (l : List Byte) : Nat → Nat → Option (List (Nat × List Byte))
  | 0, _ => some []
  | n + 1, i =>
    let e := slice l (128 + 32 * i) 32
    let off := leAt e 4 8
    let len := leAt e 12 8
    let b := slice l off len
    if b.length ≠ len ∨ l.length < off + len + 160 ∨ off < 128 ∨ leAt e 20 4 ≠ (crc32 b).toNat ∨ !allZero (slice e 24 8) then none
    else (readSections l n (i + 1)).map (fun r => (leAt e 0 4, b) :: r)

/-- The signature of an image holds (R418): its KEY_SLOT is a VERIFY key, the digest is that of the bytes
before the trailer, and the signature is one over it. -/
def imageSigned (s : State) (l : List Byte) : Bool :=
  let k := leAt l 40 4
  let n := l.length - 160
  let d := Config.sha384 (l.take n)
  decide (k < 16) && (keySlot s k).type == 2 && natBE (slice l n 48) == d.toNat &&
    Config.ecdsaVerify (keySlot s k).pub d (BitVec.ofNat 768 (natBE (slice l (n + 48) 96)))

/-- The header names this module, a type and a section count that exist, and its own length. -/
def headerOk (s : State) (l : List Byte) : Bool :=
  leAt l 0 4 == 0x52445250 && leAt l 4 2 == 1 && decide (1 ≤ leAt l 6 2) && decide (leAt l 6 2 ≤ 3) &&
    leAt l 8 4 == (s.live 0).toNat && leAt l 12 4 == (s.live 4).toNat && decide (1 ≤ leAt l 20 4) && decide (leAt l 20 4 ≤ 16) &&
    leAt l 30 2 == 0 && leAt l 32 8 == l.length && allZero (slice l 44 20) && allZero (slice l (l.length - 16) 16)

/-- The bytes of the first section of a kind. -/
def section_ (secs : List (Nat × List Byte)) (k : Nat) : Option (List Byte) := (secs.find? (fun p => p.1 == k)).map (fun p => p.2)

/-- Entry descriptors of `w` segments one after another: the entries, or the status that refuses them. -/
def readEntries (w : Nat) : Nat → List Byte → Except Nat (List Entry)
  | _, [] => .ok []
  | 0, _ :: _ => .error stInvalid
  | f + 1, b :: m =>
    let l := b :: m
    let e := parseEntry l
    if l.length < entLen w then .error stInvalid
    else if !entCompl l then .error stBadComplement
    else if e.w ≠ w ∨ !entReserved (l.take (entLen w)) ∨ !entClassOk e ∨ e.handle = 0xFFFFFFFF then .error stInvalid
    else match readEntries w f (l.drop (entLen w)) with
      | .error st => .error st
      | .ok es => .ok (e :: es)

/-- Handles rise strictly. -/
def rising : List Entry → Bool
  | [] => true
  | [_] => true
  | a :: b :: l => decide (a.handle < b.handle) && rising (b :: l)

/-- The words of a DIRECT table. -/
def readWords (size : Nat) : Nat → List Byte → Except Nat (List (Nat × BitVec 256))
  | _, [] => .ok []
  | 0, _ :: _ => .error stInvalid
  | f + 1, b :: m =>
    let l := b :: m
    if l.length < 40 then .error stInvalid
    else if !isCompl (slice l 0 4) (slice l 4 4) then .error stBadComplement
    else if size ≤ leAt l 0 4 then .error stInvalid
    else match readWords size f (l.drop 40) with
      | .error st => .error st
      | .ok ws => .ok ((leAt l 0 4, BitVec.ofNat 256 (leAt l 8 32)) :: ws)

/-! ### Loading a table -/

/-- What an image holds for a table. -/
inductive Load where
  | entries (es : List Entry)
  | tree (i : TreeImg)
  | words (ws : List (Nat × BitVec 256))
  deriving DecidableEq, Repr

/-- Read the contents of a table of kind `k` with TA_STRUCT `st` (R164, R165, R394). -/
def readLoad (k : Kind) (st : Word) (ruleMax size pos : Nat) (secs : List (Nat × List Byte)) : Except (Nat × Option Nat) Load := match k with
  | .ternary => match section_ secs 2 with
    | none => .error (stInvalid, none)
    | some b => match readEntries (structW st) (b.length + 1) b with
      | .error e => .error (e, none)
      | .ok es =>
        if rising es && (!bit st 20 || es.all (fun e => e.handle / 2 ^ 30 == pos)) then .ok (.entries es) else .error (stInvalid, none)
  | .tree => match section_ secs 4 with
    | none => .error (stInvalid, none)
    | some b =>
      if !imgCompl b then .error (stBadComplement, none)
      else if !imgHeader b b.length then .error (stInvalid, some 0x3FFFFF)
      else
        let ws := imgWords b (leAt b 8 4)
        match visit ws ruleMax 18 [] (leAt b 12 4) [] with
        | .error i => .error (stInvalid, some i)
        | .ok seen => .ok (.tree { root := leAt b 12 4, words := ws.map (fun w => w.setWidth 96), rules := seen.length, stuck := [] })
  | .direct => match section_ secs 5 with
    | none => .error (stInvalid, none)
    | some b => match readWords size (b.length + 1) b with
      | .error e => .error (e, none)
      | .ok ws => .ok (.words ws)

/-- Give the open generation one entry of an image: an entry that it holds unchanged stays, another one
under the handle is replaced, and a new one is placed. -/
def loadEntry (s : State) (t o : Nat) (e : Entry) : ChangeRes := match (s.table t).bind (fun x => rowIn x o e.handle) with
  | some r =>
    if r.entry (taW s t) = e then .ok s
    else applyChange s t o (if r.value = e.value ∧ r.mask = e.mask ∧ r.ad = e.ad then .rep e.handle e.prio else .mod e)
  | none => applyChange s t o (.ins e)

/-- Give the open generation `o` exactly the entries of an image. -/
def loadEntries (s : State) (t o : Nat) (es : List Entry) : ChangeRes :=
  let gone := match s.table t with
    | some x => ((rowsIn x o).map (fun (r : Row) => r.handle)).filter (fun h => !es.any (fun (e : Entry) => e.handle == h))
    | none => []
  es.foldl (fun (q : ChangeRes) e => match q with
    | .error f => .error f
    | .ok s => loadEntry s t o e) (.ok (gone.foldl (fun s h => removeOpen s t o h) s))

/-- Put the contents of an image into the open generation, or into the words of a DIRECT table. -/
def loadInto (s : State) (t o : Nat) : Load → ChangeRes
  | .entries es => loadEntries s t o es
  | .tree i => .ok (s.modTable t (fun x => x.modSlot o (fun y => { y with tree := some i })))
  | .words ws =>
    let lo := taDirBase s t
    let hi := lo + taDirSize s t
    let kept := s.direct.filter (fun p => decide (p.1 < lo) || decide (hi ≤ p.1))
    .ok { s with direct := ws.foldl (fun m p => if p.2 = 0 then mapErase m (lo + p.1) else mapSet m (lo + p.1) p.2) kept }

/-- Counters of an image, for the entries of slot `o`. -/
def loadCounters (s : State) (t o : Nat) (b : List Byte) : State :=
  (List.range (b.length / 32)).foldl (fun s i =>
    match (s.table t).bind (fun x => rowIn x o (leAt b (32 * i) 4)) with
    | some r => putPair s r.pos { pkt := BitVec.ofNat 64 (leAt b (32 * i + 8) 8), byte := BitVec.ofNat 64 (leAt b (32 * i + 16) 8) }
    | none => s) s

/-- Events of an image that cannot be loaded. -/
def loadEvents (s : State) (i : Option Nat) : State := match i with
  | some w => s.raise evTreImageInvalid w
  | none => s

/-- The bulk record of an import (R396). -/
def stageBulk (s : State) (c : Cmd) (ld : Load) : State := match tableImg s c.table with
  | none => s
  | some i => stageCmd s c 0x18 (.bulk i (match ld with
    | .words ws => ws.map (fun p => (taDirBase s c.table + p.1, p.2))
    | _ => []))

/-- The opened generation is sealed for E, and the command waits for its glaze; a DIRECT table has its words. -/
def endImport (s : State) (c : Cmd) (k : Kind) (o e : Nat) (by_ : Sealer) (ld : Load) : State :=
  let t := c.table
  if k = .direct ∧ by_ = .command then finish (stageBulk s c ld) c.id stOk 0xFFFFFFFF (s.epoch.count + 1)
  else
    let (n, s) := sealSlot (markChange s t o true) t o e by_
    cmdWait (stageBulk s c ld) c.id (.glaze t n)

/-- Does the tree store take the image (R165)? -/
def loadFits (s : State) : Load → Bool
  | .tree i => decide (i.words.length ≤ treeFree s)
  | _ => true

/-- Load an image into the open generation of a table: with the counters when `cnt` says so. -/
def importInto (s0 s : State) (c : Cmd) (k : Kind) (e : Nat) (by_ : Sealer) (ld : Load) (cnt : Option (List Byte)) : State :=
  let t := c.table
  match (if k = .direct then some (0, s) else openGen s t) with
  | none => finish s0 c.id stBusyGlaze
  | some (o, s1) =>
    if !loadFits s1 ld then finish (s0.raise evTblFull) c.id stTableFull
    else match loadInto s1 t o ld with
      | .error (st, f) => finish (placeEvents s0 f) c.id st
      | .ok s2 =>
        if vaultFails s0 c.op then failHeld s0 c 0xFFFFFFFF
        else needJournal (if by_ = .command ∧ k ≠ .direct ∧ (s0.table t).isSome = true then s1 else s0) c (
          let s := match cnt with
            | some b => loadCounters s2 t o b
            | none => s2
          endImport s c k o e by_ ld)

/-- The eight structure words in a section of kind 1. -/
def imageAttrs (b : List Byte) : List (Nat × Word) :=
  [0x0, 0x8, 0x10, 0x14, 0x18, 0x1C, 0x20, 0x24].map (fun o => (o, word (leAt b o 4)))

/-- A PROOFING table whose restore an image replaces: nothing of it is loaded yet, and its generation is
built in slot 0. -/
def proofBlank (s : State) (t e : Nat) : State :=
  let s := match s.table t with
    | some x => x.rows.foldl (fun s (r : Row) => freePosition s r.pos) s
    | none => s
  s.modTable t (fun x => { x with
    rows := [], covers := [], slots := { Slot.empty with st := .opened } :: List.replicate 3 Slot.empty
    restored := true, restoreFail := false, promoteAt := e })

/-- VAULT_IMPORT of a table image. -/
def importTable (s : State) (c : Cmd) (e : Nat) (secs : List (Nat × List Byte)) : State :=
  let t := c.table
  match section_ secs 1 with
  | none => finish s c.id stInvalid
  | some ab =>
    let ws := imageAttrs ab
    let st := word (leAt ab 0 4)
    match kindOf st with
    | none => finish s c.id stInvalid
    | some k =>
      if ab.length ≠ 64 then finish s c.id stInvalid
      else match s.table t with
        | none =>
          (match readLoad k st (leAt ab 0x20 4 % 2 ^ 23) (leAt ab 0x24 4 % 2 ^ 21) s.csc.pos.toNat secs with
           | .error (f, i) => finish (loadEvents s i) c.id f
           | .ok ld => if lockWait s c then s else match createTable s t ws with
            | .error f => finish s c.id f
            | .ok s1 => importInto s s1 c k e .command ld (section_ secs 3))
        | some x =>
          if x.st = .destroying then finish s c.id stBusyGlaze
          else if x.kind ≠ k ∨ fld st 5 4 ≠ fld (ta s t 0) 5 4 ∨ bit st 20 ≠ bit (ta s t 0) 20 then finish s c.id stInvalid
          else if lockWait s c then s
          else match readLoad k (ta s t 0) (taRuleMax s t) (taDirSize s t) s.csc.pos.toNat secs with
            | .error (f, i) => finish (loadEvents s i) c.id f
            | .ok ld =>
              if x.st = .proofing then importInto s (proofBlank s t e) c k e .promotion ld (section_ secs 3)
              else if decide (e < sealedMax x) && k != .direct then finish s c.id stInvalid
              else importInto s s c k e .command ld none

/-! ### The other types -/

/-- The crumb entries of one section: the table, and the row of each entry, or a status and an index. -/
def crumbSection (s : State) (b : List Byte) : Except (Nat × Nat) (List (Nat × Row)) :=
  if b.isEmpty then .ok []
  else
    let t := leAt b 0 4
    if !isCompl (slice b 0 4) (slice b 4 4) then .error (stBadComplement, 0xFFFFFFFF)
    else if 254 < t ∨ !tableLive s t then .error (stNotFound, 0xFFFFFFFF)
    else match s.table t with
      | none => .error (stNotFound, 0xFFFFFFFF)
      | some x =>
        if x.kind ≠ .ternary ∨ taCasc s t then .error (stInvalid, 0xFFFFFFFF)
        else match readEntries (taW s t) (b.length + 1) (b.drop 8) with
          | .error f => .error (f, 0xFFFFFFFF)
          | .ok es =>
            if 4 * (4096 / taW s t) < es.length then .error (stInvalid, 0xFFFFFFFF)
            else match crumbHandles x ((liveSlot x).getD 0) 0 [] (es.map (fun e => e.handle)) with
              | .error f => .error f
              | .ok _ => .ok (es.map (fun e => (t, ({
                  handle := e.handle, prio := e.prio, value := e.value, mask := e.mask, ad := e.ad
                  die := 0, block := 0, row := 0, pos := 0, vis := 0 } : Row))))

/-- VAULT_IMPORT of a crumb image: it replaces the whole crumb table, by the checks of R371. -/
def importCrumb (s : State) (c : Cmd) (secs : List (Nat × List Byte)) : State :=
  let bs := (secs.filter (fun p => p.1 == 6)).map (fun p => p.2)
  match bs.foldl (fun (q : Except (Nat × Nat) (List (Nat × Row))) b => match q with
    | .error f => .error f
    | .ok l => match crumbSection s b with
      | .error f => .error f
      | .ok m => if m.any (fun p => l.any (fun r => r.1 == p.1)) then .error (stInvalid, 0xFFFFFFFF) else .ok (l ++ m)) (.ok []) with
  | .error (f, i) => finish s c.id f i
  | .ok l =>
    if bs.length ≠ secs.length then finish s c.id stInvalid
    else if !crumbsFit s l then finish s c.id stTableFull
    else if !vaultTakes s then finish s c.id stVaultFault
    else finish { s with vault := { s.vault with crumb := l } } c.id stOk

/-- Address and value pairs of a section of kind 7. -/
def configPairs (b : List Byte) : List (Nat × Word) :=
  (List.range (b.length / 8)).map (fun i => (leAt b (8 * i) 4, word (leAt b (8 * i + 4) 4)))

/-- Words of a register image that begins at `a`. -/
def imagePairs (a : Nat) (b : List Byte) : List (Nat × Word) :=
  (List.range (b.length / 4)).map (fun i => (a + 4 * i, word (leAt b (4 * i) 4)))

/-- VAULT_IMPORT of a configuration image: both copies of the partition are written (R396). -/
def importConfig (s : State) (c : Cmd) (secs : List (Nat × List Byte)) : State :=
  let ps := configPairs ((section_ secs 7).getD [])
  let is_ := imagePairs 0xF0000 ((section_ secs 8).getD []) ++ imagePairs 0xE0000 ((section_ secs 9).getD [])
  if secs.any (fun p => p.1 != 7 && p.1 != 8 && p.1 != 9) || !ps.all (fun p => persists p.1) then finish s c.id stInvalid
  else if !vaultTakes s then finish s c.id stVaultFault
  else
    let b := s.vault.cfg.getD CfgImg.empty
    let live := (ps ++ is_.filter (fun p => persists p.1)).foldl (fun m p => mapSet m p.1 p.2) b.live
    finish { s with vault := { s.vault with cfg := some { b with live := live } } } c.id stOk

/-- VAULT_IMPORT (R23, R396, R418). -/
def cmdVaultImport (s : State) (c : Cmd) (io : HostIO) : State :=
  let n := c.le 24 4
  if !(c.compl 24 28 4 && c.compl 32 40 8) then finish s c.id stBadComplement
  else if c.auto || !c.addr || c.host 16 % 16 != 0 || c.le 38 2 != 0 || !c.zeroFrom 48 || decide (n < 320) then finish s c.id stInvalid
  else match busRead s c io n with
    | none => readFail s c io
    | some l =>
      if !imageSigned s l then finish (s.raise evVltAuthFail) c.id stInvalid
      else if !isCompl (slice l 0 64) (slice l 64 64) then finish s c.id stBadComplement
      else if !headerOk s l || leAt l 16 4 != c.table || (leAt l 6 2 == 1) != (c.table != 255) then finish s c.id stInvalid
      else match readSections l (leAt l 20 4) 0 with
        | none => finish s c.id stInvalid
        | some secs =>
          if leAt l 6 2 = 1 then importTable s c (c.le 32 6) secs
          else if leAt l 6 2 = 2 then importCrumb s c secs
          else importConfig s c secs

end Sys2Proof.Machine
end

