-- ==== Sys2Proof/Machine/Restore.lean ====
section
/-! DEFINITION. Staged start (R365 to R374): mounting the vault, the crumb table, the restore of a table
from the chosen image and the journal (R387), promotion, and the changes of stage. -/

namespace Sys2Proof.Machine

/-- The module enters a stage (R365). -/
def stageTo (s : State) (new : Nat) : State :=
  let old := s.stage.stage
  if old = new then s else { s with stage := { s.stage with stage := new } }.raise evStgChange old new s.epoch.count

/-- Time from the start reference in µs, saturating (R376). -/
def sinceStart (s : State) : Nat := min 0xFFFFFFFF ((s.now - s.stage.startRef) / 10000)

/-- The module enters FULL once no table is in PROOFING. -/
def fullWhenDone (s : State) : State :=
  if s.stage.stage = 2 ∧ proofN s = 0 then
    stageTo { s with stage := { s.stage with tFull := sinceStart s } } 3
  else s

/-! ### Mount and configuration (R366, R380, R393, R399) -/

/-- A PROOFING table as the configuration image gives it. -/
def Table.proofing (i : TableImg) : Table :=
  { kind := i.tab.kind, st := .proofing, slots := List.replicate 4 Slot.empty, rows := [], covers := [], blocks := i.tab.blocks
    floor := 2 ^ 48, glazed := 0, removed := none, destroyAt := none, retPkt := 0, retByte := 0, retLate := 0, stats := []
    learn := i.tab.learn, age := i.tab.age, sweep := none, restored := false, promoteAt := 0, restoreFail := false, aged := []
    latOld := [] }

/-- Take the blocks of a restored table; a spare serves in place of a retired one (R284). -/
def holdBlocks (s : State) (t : Nat) (l : List BlkHold) : State :=
  l.foldl (fun s h =>
    let s := takeBlock s t h.die h.block h.group
    if !blkRetired s h.die h.block then s
    else
      let s := s.setBlk h.die h.block { s.blk h.die h.block with st := 3 }
      match claimSpare s h.die h.block with
      | some k => s.setSpare h.die k { Spare.free with use := 2, primary := h.block, built := true }
      | none => s) s

/-- One table of the configuration image enters PROOFING; one that was being destroyed is ABSENT. -/
def mountTable (s : State) (t : Nat) (i : TableImg) : State :=
  if i.tab.st = .destroying then s
  else
    let s := putAttrs (s.setTable t (Table.proofing i)) t i.attrs
    holdBlocks s t i.tab.blocks

/-- Both copies of the BUF and CX fields of a register take their bits of `v`; every other bit stays (R6, R366). -/
def restoreWord (s : State) (a : Nat) (v : Word) : State :=
  let m := persistBits a
  (s.setLive a ((s.live a &&& ~~~ m) ||| (v &&& m))).setBuf a ((s.buffer a &&& ~~~ m) ||| (v &&& m))

/-- Ports that the restored HP_CTRL.EN turns off go down (R434). -/
def closePorts (s : State) : State :=
  (List.range 18).foldl (fun s p => if (s.link p).st ≠ 0 && !bit (s.live (hpAddr p 8)) 7 then linkDown s p else s) s

/-- The configuration image is loaded: both copies of every BUF and CX field, the tables, the retirements. A PERIOD
that it changes waits for the next edge or step, as a strobed one does (R33, R43; assumption 70). A wheel that it
makes live with a long run raises WHL_LONG_RUN (R304). -/
def loadConfig (s : State) (c : CfgImg) : State :=
  let s := { s with spk := { s.spk with retired := c.retired } }
  let s := c.retired.foldl (fun s q => if q % 1056 < 1024 then s.setBlk (q / 1056) (q % 1056) { s.blk (q / 1056) (q % 1056) with st := 3 } else s) s
  let s := c.tables.foldl (fun s p => mountTable s p.1 p.2) s
  let s := (c.live.filter (fun p => match attrTable p.1 with
    | some t => (s.table t).isSome
    | none => true)).foldl (fun s p => restoreWord s p.1 p.2) s
  let s := { s with regs := { s.regs with nominalPend := s.regs.nominalPend || s.cfg 0x3000C 13 0 != s.epoch.period } }
  let s := ((List.range 64).filter (fun i => c.live.any (fun p => decide (wheelAddr i 0 ≤ p.1) && decide (p.1 < wheelAddr i 32)))).foldl
    tellLongRun s
  closePorts (cscApplied s false)

/-- The vault is mounted, and the configuration loaded; `config`: a copy of its partition passes its checks
(R366, R379, R398). An empty vault has no configuration image; at its first mount the media key is made. -/
def mountVault (s : State) (config : Bool) : State :=
  if s.vault.st ≠ 0 then s
  else if s.vault.free < 512 then vltLost s
  else
    let s := { s with vault := { s.vault with
      st := if s.vault.free < 2048 then 2 else 1
      keys := if (keySlot s 0).type = 0 then s.vault.keys.set 0 { type := 1, pub := 0, gen := 0 } else s.vault.keys } }
    let s := if s.vault.st = 2 then s.raise evVltSpareLow else s
    let s := match s.vault.lostTail with
      | some (a, b) => s.raise evVltTailLost a b
      | none => s
    match (if config then s.vault.cfg else none) with
    | some c => loadConfig s c
    | none => { s with stage := { s.stage with vaultEmpty := true } }.raise evStgEmptyVault

/-! ### Entry to CRUMB (R365, R369, R370, R387) -/

/-- Spares in use as the crumb table is placed. -/
def takenSpares (s : State) : List (Nat × Nat) :=
  (s.dies.spares.filter (fun p => p.2.use != 0)).map (fun p => (p.1 / 32, p.1 % 32))

/-- The crumb table is placed: `ok`, a copy of the partition passed its checks. -/
def loadCrumbs (s : State) (ok : Bool) : State :=
  let l := s.vault.crumb
  if !ok then s.raise evStgCrumbFail 255
  else
    let (bad, good) := placeCrumbs s l (crumbTables l) (takenSpares s)
    let s := good.foldl (fun s p => s.setSpare p.2.die p.2.block { Spare.free with use := 2, built := true, crumb := some p.1 }) s
    let s := { s with stage := { s.stage with crumb := good, crumbOk := bad.isEmpty } }
    bad.foldl (fun s t => s.raise evStgCrumbFail t) s

/-- A host port is trained. -/
def hostUp (s : State) : Bool := (List.range 16).any (fun p => linkUp (s.link p))

/-- The module leaves DORMANT: for CRUMB, or for FAULTSAFE when a cause was found before (R365, R374). The
mailboxes accept, and trained host ports are granted credits. -/
def leaveDormant (s : State) : State :=
  let pend := s.stage.fsPending
  let s := { s with
    stage := { s.stage with image := newerImage s, tCrumb := sinceStart s, fsPending := false }
    mbox := s.mbox.map (fun (b : Mbox) => { b with stopped := b.resetHeld }) }
  let s := stageTo s (if pend then 4 else 1)
  (List.range 16).foldl (fun s p => if linkUp (s.link p) then startCredits s p else s) s

/-- Partition headers repaired from the other copy (R379, R273); three partitions have two copies (R378). Where a
header lies is not given as a location: it is a free value. -/
def hdrRepairs (s : State) (n : Nat) : State := (List.range (min n 6)).foldl (fun s _ =>
  let (k, s) := draw s
  cxRepair (s.raise evVltHdrRepair) (Config.openNat k)) s

/-- An image whose header does not pass counts as invalid (R379, R387). -/
def badImages (s : State) (imgA imgB : Bool) : State :=
  { s with vault := { s.vault with imgA := if imgA then s.vault.imgA else none, imgB := if imgB then s.vault.imgB else none } }

/-- CRUMB_ENTRY at time `t`: everything that R365 asks for is done. In any other state the event does not
arise (assumption 4). -/
def crumbEntry (s : State) (copyA copyB config : Bool) (repairs : Nat) (imgA imgB : Bool) : State :=
  if s.stage.stage ≠ 0 ∨ !s.power.mrstN ∨ s.power.flush.isSome ∨ !s.power.pwrGood ∨ !hostUp s then s
  else
    let s := hdrRepairs (mountVault (badImages s imgA imgB) config) repairs
    leaveDormant (if vaultTakes s then loadCrumbs s (copyA || copyB) else s)

/-! ### The restore of a table (R373, R387) -/

/-- Records of table `t` that a restore from image `k` replays: with no image, all of them, and none from before the
table's last creation, which belong to a table that was destroyed (R66). -/
def replayed (s : State) (k t : Nat) : List JRec :=
  let lo := ((imageOf s k).map (fun i => i.s0)).getD 0
  let l := s.vault.journal.filter (fun r => r.table == t && decide (lo ≤ r.seq))
  let made := maxNat ((l.filter (fun r => r.type == 1)).map (fun r => r.seq))
  l.filter (fun r => decide (made ≤ r.seq))

/-- Is the creation of table `t` among the records that a restore from image `k` replays? -/
def created (s : State) (k t : Nat) : Bool := (replayed s k t).any (fun r => r.type == 1)

/-- The table's section of image `k`, unless its creation is replayed. -/
def baseImg (s : State) (k t : Nat) : Option TableImg :=
  if created s k t then none else (imageOf s k).bind (fun i => mapGet i.tables t)

/-- The image that table `t` is restored from, 0 the journal alone (R387): the chosen one, or the other one when
the section of the chosen one fails its CRC. `secA`, `secB`: the sections of images A and B pass. -/
def restoreSource (s : State) (t : Nat) (secA secB : Bool) : Option Nat :=
  let k := s.stage.image
  let good := fun (j : Nat) => (imageOf s j).isSome && ((if j = 1 then secA else secB) || created s j t)
  if (imageOf s k).isNone then some 0
  else if good k then some k
  else if good (3 - k) then some (3 - k)
  else none

/-- Words of a DIRECT table after the replay of records. -/
def replayWords (m : NMap (BitVec 256)) (l : List JRec) : NMap (BitVec 256) :=
  let put := fun (m : NMap (BitVec 256)) (ws : List (Nat × BitVec 256)) =>
    ws.foldl (fun m p => if p.2 = 0 then mapErase m p.1 else mapSet m p.1 p.2) m
  l.foldl (fun m r => match r.body with
    | .words ws => put m ws
    | .bulk _ ws => put m ws
    | _ => m) m

/-- The slot of a table whose contents were in effect: LIVE, or about to be promoted. -/
def effectSlot (x : Table) : Option Nat := match liveSlot x with
  | some k => some k
  | none => (List.range 4).find? (fun k => (x.slot k).st == .sealed && (x.slot k).by_ == .promotion)

/-- Were there changes that had not taken effect? -/
def unglazed (x : Table) : Bool := !(slotsIn x (fun q => q == .opened || q == .sealed)).all (fun k => effectSlot x == some k)

/-- The mask that a restored row or cover keeps: bit 0 in effect, bit 1 in the OPEN slot. -/
def restoreMask (x : Table) (m : BitVec 4) : BitVec 4 :=
  (match effectSlot x with
   | some k => if visIn m k then 1#4 else 0#4
   | none => 0#4) ||| (if unglazed x && visIn m (headSlot x) then 2#4 else 0#4)

/-- Give the row of a restored table its positions, others when they have been taken since, and the counters and stamp that image `k` holds for the entry. A stamp that no image holds is a free value. -/
def restoreRow (s : State) (k t : Nat) (base : Option TableImg) (r : Row) : State :=
  let w := taW s t
  let used := posUsed s
  let (p, s) : Nat × State :=
    if used.any (fun u => decide (u.1 < r.pos + w) && decide (r.pos < u.1 + u.2)) &&
        !(match s.table t with
          | some x => x.rows.any (fun q => q.pos == r.pos && q.handle == r.handle)
          | none => false) then
      (match allocPos s (posDie r.pos) w with
       | (some q, s) => (q, s)
       | (none, s) => (r.pos, s))
    else (r.pos, s)
  let old : Option Nat := match base with
    | none => none
    | some b => (b.tab.rows.find? (fun (q : Row) => q.handle == r.handle && q.pos == r.pos)).or (b.tab.rows.find? (fun (q : Row) => q.handle == r.handle))
        |>.map (fun q => q.pos)
  let own := match s.table t with
    | some x => x.rows.any (fun q => q.handle == r.handle && q.reps == r.reps)
    | none => false
  let (reps, s) : List (Nat × Nat) × State :=
    if own || !r.reps.any (fun a => used.any (fun u => decide (u.1 < a.2 + w) && decide (a.2 < u.1 + u.2))) then (r.reps, s)
    else match allocReps s w (((s.table t).map (fun x => (replicas x).filter (fun h => h.replica != 0))).getD []) [p] with
      | (some l, s) => (l, s)
      | (none, s) => (r.reps, s)
  let s := s.modTable t (fun x => { x with rows := x.rows ++ [{ r with pos := p, reps := reps }] })
  match old, imageOf s k with
  | some q, some i => putStamp (putPair s p (mapGetD i.counters q Pair.zero)) p (mapGetD i.stamps q 0)
  | _, _ =>
    let (n, s) := draw s
    putStamp (putPair s p Pair.zero) p (BitVec.ofNat 64 (Config.openNat n))

/-- The mirrors that TBL_MIRROR had made. -/
def restoreMirrors (s : State) (l : List (Nat × Nat × Nat)) : State :=
  l.foldl (fun s m => (addMirrors s m.1 m.2.1 false true m.2.2).2) s

/-- The contents of table `t` as `i` gives them, restored from image `k`, verified and waiting for promotion. -/
def restoreFrom (s : State) (k t : Nat) (x : Table) (i : TableImg) : State :=
  let base := baseImg s k t
  let no := s.seals + 1
  let head := i.tab.slot (headSlot i.tab)
  let eff := i.tab.slot ((effectSlot i.tab).getD 0)
  let open_ : Slot := if unglazed i.tab then { Slot.empty with st := .opened, hasCmd := true, tree := head.tree } else Slot.empty
  let held := fun (d b : Nat) => x.blocks.any (fun h => h.die == d && h.block == b)
  let rows := (i.tab.rows.map (fun (r : Row) => { r with vis := restoreMask i.tab r.vis })).filter (fun r => r.vis != 0)
  let covers := (i.tab.covers.map (fun (c : Cover) => { c with vis := restoreMask i.tab c.vis, err := none })).filter (fun c => c.vis != 0 && held c.die c.block)
  let acc := base.map (fun b => b.tab)
  let y := { x with
    slots := [{ Slot.empty with st := .sealed, sealNo := no, by_ := .promotion, tree := eff.tree }, open_, Slot.empty, Slot.empty]
    covers := covers, rows := [], restored := true, promoteAt := 0, learn := i.tab.learn, age := i.tab.age
    retPkt := (acc.map (fun b => b.retPkt)).getD 0, retByte := (acc.map (fun b => b.retByte)).getD 0
    retLate := (acc.map (fun b => b.retLate)).getD 0 }
  let (n, s) := draw s
  let s := askDram s drVault (stagingBase + 64 * (Config.openNat n % 2 ^ 26)) (88 * taW s t * rows.length) 0 { unit := 4 }
  let s := { s.setTable t y with seals := no }
  let s := rows.foldl (fun s r => restoreRow s k t base r) s
  let s := restoreMirrors s (i.mirrors.filter (fun m => held m.1 m.2.1))
  let lo := taDirBase s t
  let hi := lo + taDirSize s t
  let s := if x.kind ≠ .direct then s else
    let start := if base.isNone then [] else (((imageOf s k).map (fun i => i.direct)).getD []).filter (fun p => decide (lo ≤ p.1) && decide (p.1 < hi))
    let kept := s.direct.filter (fun p => decide (p.1 < lo) || decide (hi ≤ p.1))
    let words := (replayWords start (replayed s k t)).filter (fun p => decide (lo ≤ p.1) && decide (p.1 < hi))
    { s with direct := words.foldl (fun m p => mapSet m p.1 p.2) kept }
  if unglazed i.tab && x.kind != .direct then s.raise evStgUnglazed t else s

/-- The restore of the table in progress ends: verified, or failed (R373). With no table in progress it does
not arise (assumption 4). -/
def restoreDone (s : State) (secA secB : Bool) : State :=
  let t := curTable s
  match s.table t with
  | none => s
  | some x =>
    if t = 255 then s
    else match (restoreSource s t secA secB).bind (fun k => (lastImg t (baseImg s k t) (replayed s k t)).map (fun i => (k, i))) with
      | some (k, i) => restoreFrom s k t x i
      | none => (s.modTable t (fun x => { x with restoreFail := true })).raise evStgRestoreFail t

/-- A table that the journal was to restore fails (R388); one that VAULT_IMPORT filled is none of these. -/
def cutTable (s : State) (t : Nat) : State := match s.table t with
  | none => s
  | some x =>
    if x.st ≠ .proofing ∨ x.restoreFail ∨ x.promoteAt ≠ 0 then s
    else (s.modTable t (fun x => { x with restoreFail := true, restored := false })).raise evStgRestoreFail t

/-- The journal is cut at the record with sequence `q`: it and every later record is discarded, and the tables
that have one fail (R388). -/
def cutJournal (s : State) (q : Nat) : State :=
  let bad := s.vault.journal.filter (fun r => decide (q ≤ r.seq))
  if bad.isEmpty then s
  else
    let s := { s with vault := { s.vault with journal := s.vault.journal.filter (fun r => decide (r.seq < q)) } }.raise evVltJournalCut q
    (sortBy (fun (a b : Nat) => decide (a < b)) (dedup (bad.map (fun r => r.table)))).foldl cutTable s

/-- TABLE_RESTORE_DONE: a stripe that the replay could not read cuts the journal first, and the restore of a
table that the cut fails is over with it. -/
def tableRestored (s : State) (secA secB : Bool) (cut : Option Nat) : State := match cut with
  | none => restoreDone s secA secB
  | some q =>
    if curTable s = 255 then s
    else
      let z := cutJournal s q
      if curTable z = curTable s then restoreDone z secA secB else z

/-! ### Promotion (R370, R372) -/

/-- A table is due for promotion at this step. -/
def promoteDue (s : State) (x : Table) : Bool := x.st == .proofing && x.restored && decide (x.promoteAt ≤ s.epoch.count)

/-- A verified table is promoted at this step. -/
def promoteTable (s : State) (t : Nat) : State := match s.table t with
  | none => s
  | some x =>
    if !promoteDue s x then s
    else
      let n := s.epoch.count
      let k := (effectSlot x).getD 0
      let no := (x.slot k).sealNo
      let slots := if x.kind = .direct then List.replicate 4 Slot.empty
        else listMod x.slots k (fun y => { y with st := .live, epoch := n, by_ := .promotion })
      let s := s.setTable t { x with st := .live, slots := slots, floor := n, glazed := n, glazedHeld := s.epoch.held, restored := false }
      let rel := if s.stage.crumb.any (fun c => c.1 == t) then mapSet s.stage.release t s.now else s.stage.release
      let s := ({ s with stage := { s.stage with release := rel } } : State).bump 0x88000
      let s := heldAction (s.raise evStgPromote t n) 5 t
      let s := stageRec s 0x21 t none (tableBody s t)
      fullWhenDone (finishWaiting s (fun w => w == .glaze t no) stOk (fun _ => 0xFFFFFFFF) n s.epoch.held)

/-- The crumb spares of a promoted or removed table return once the requests accepted before its step are
answered, or 4 µs after it (R370). -/
def crumbRelease (s : State) (t : Nat) : State := match mapGet s.stage.release t with
  | none => s
  | some e =>
    if s.holds.any (fun h => decide (h.t0 < e)) && decide (s.now < e + 40000) then s
    else
      let ks := (s.dies.spares.filter (fun p => p.2.crumb == some t)).map (fun p => p.1)
      let s := ks.foldl (fun s k => releaseSpare s (k / 32) (k % 32)) s
      { s with stage := { s.stage with crumb := s.stage.crumb.filter (fun c => c.1 != t), release := mapErase s.stage.release t } }

/-- STG_CRUMB_MAP. -/
def crumbMap (s : State) : Nat :=
  sumNat ((s.dies.spares.filter (fun p => p.2.crumb.isSome)).map (fun p => 2 ^ (4 * (p.1 / 32) + (p.1 % 32 - 28))))

end Sys2Proof.Machine
end

