-- ==== Sys2Proof/Machine/Power.lean ====
section
/-! DEFINITION. Resets, power and contacts (R375, R393, R408, R451 to R457, R343, R444, R17). -/

namespace Sys2Proof.Machine

/-! ### The journal tail (R375, R393) -/

/-- Records, oldest first, that fit in `n` bytes. -/
def fitRecs : Nat → List JRec → List JRec
  | _, [] => []
  | n, r :: l => if r.len ≤ n then r :: fitRecs (n - r.len) l else []

/-- Steps 2 to 5 of the hold-up sequence: at most 8 MiB of staged records, and no more than `most` of
them, a tail marker, and the log records that wait. A vault that is not in service takes nothing. -/
def writeTail (s : State) (most : Nat) : State :=
  if !vaultTakes s then s
  else
    let fit := (fitRecs (8 * 2 ^ 20) s.vault.staged).take most
    let s := programRecs s (maxNat (fit.map (fun r => r.seq)))
    let lost := s.vault.staged
    let (n, s) := draw s
    let q := s.vault.seq + 1
    let r : JRec := { seq := q, type := 0x7F, table := 255, cmd := none, len := 16 + 16 * (Config.openNat n % 4095), body := .mark }
    let s := { s with vault := { s.vault with
      staged := [], journal := s.vault.journal ++ [r], seq := q, nand := q, ckpt := none
      lostTail := match lost.head?, lost.getLast? with
        | some a, some b => some (a.seq, b.seq)
        | _, _ => s.vault.lostTail } }
    logCopy s s.mgmt.logSeq

/-- Every held request is answered at its L. -/
def answerAll (s : State) : State :=
  (sortBy (fun (a b : Hold) => decide (a.t0 + 8 * a.lat < b.t0 + 8 * b.lat)) s.holds).foldl
    (fun s h => emitResponse s h.port h.ctx [] none) s

/-! ### The reset of the hub (R375) -/

/-- The vault as any reset leaves it: what is not on the media is gone. -/
def Vault.unmounted (v : Vault) : Vault :=
  { v with st := 0, staged := [], ckpt := none, ckptDue := false, ckptJoin := [], ckptEpoch := 0, patrolStart := 0, sealWait := false }

/-- Registers of the management island, which a reset of the hub keeps: STG_RST_CAUSE, the event status bits
and the counts of lost events, MGT_STATUS, MGT_TRIP and the SMBus counts. -/
def islandReg (a : Nat) : Bool :=
  a == 0x108 || (decide (0x20000 ≤ a) && decide (a < 0x20100)) || a == 0x20920 || a == 0x20924 || a == 0x160004 || a == 0x160008 ||
    a == 0x160010

/-- The shared banks after a module reset: the completion rings are zero, as R343 has them when a mailbox starts
afresh (R375; assumption 57). -/
def clearRings (m : List Host.Cell) : List Host.Cell := m.filter (fun c => decide (c.1 < 0x10000) || decide (0x14000 ≤ c.1))

/-- Every state that a module reset clears, at its reset value. What the island, the vault media and the
contacts hold stays. -/
def hubReset (s : State) : State :=
  { State.reset with
    now := s.now, epoch := Epoch.reset s.now, out := s.out, free := s.free, pending := s.pending, mem := clearRings s.mem
    mbox := s.mbox.map (fun (b : Mbox) => { Mbox.reset with resetHeld := b.resetHeld })
    regs := { Regs.reset with live := s.regs.live.filter (fun p => islandReg p.1) }
    csc := Csc.reset s.csc.pos, spk := Spk.reset s.spk.retired, vault := s.vault.unmounted
    mgmt := { s.mgmt with rate := [], vecs := [], vecPend := [], ckptHeld := false }
    power := { s.power with flush := none, oscLost := false, resets := s.power.resets + 1 }
    stage := Stage.reset s.now }

/-- Everything but the media at its reset value: the module has no power. -/
def powerOff (s : State) : State :=
  { State.reset with
    now := s.now, epoch := Epoch.reset s.now, out := s.out, free := s.free, pending := s.pending
    mbox := s.mbox.map (fun (b : Mbox) => { Mbox.reset with resetHeld := b.resetHeld })
    spk := Spk.reset s.spk.retired, vault := s.vault.unmounted
    mgmt := { Mgmt.reset with
      logSeq := maxNat (s.vault.log.map (fun r => r.seq)), copied := maxNat (s.vault.log.map (fun r => r.seq)) }
    power := { s.power with
      pwrGood := false, flush := none, late := false, osc := 0, oscLost := false, jtag := 1, resets := s.power.resets + 1
      mpUp := [false, false, false, false] }
    stage := Stage.reset s.now }

/-! ### Flushes (R375, R408, R454) -/

/-- Rank of what a flush ends in: a power-down first, then a thermal trip; resets merge. -/
def FlushFor.rank : FlushFor → Nat
  | .mrst => 0
  | .soft => 0
  | .trip => 1
  | .off => 2

/-- A flush starts, or joins the one that runs. The module stops accepting requests and commands. -/
def startFlush (s : State) (k : FlushFor) : State :=
  if !s.power.pwrGood then s
  else
    let k := match s.power.flush with
      | some j => if j.rank < k.rank then k else j
      | none => k
    { s with power := { s.power with flush := some k } }

/-- The flush has answered the held requests and written the journal tail. -/
def flushWork (s : State) : State := writeTail (answerAll s) s.vault.staged.length

/-- The records of the queued events are written (R478: that of a thermal trip before power is removed). -/
def writeEvents (s : State) : State := s.mgmt.evq.foldl (fun s _ => logWrite s) s

/-- After a reset of the hub the ports train (R434), unless MRST_N still holds the module. -/
def afterReset (s : State) : State := if s.power.mrstN then trainAll s else s

/-- RESET_FLUSH_DONE: the hub resets into DORMANT (R375); after a thermal trip its rails go off (R408). A
flush that ends in a power-down has its own end, and with no flush none ends (assumption 4). -/
def resetFlushDone (s : State) : State := match s.power.flush with
  | none => s
  | some .off => s
  | some .trip =>
    let s := hubReset (flushWork (writeEvents s))
    { s with mgmt := { s.mgmt with tripped := true }, power := { s.power with pwrGood := false, mpUp := [false, false, false, false] } }
  | some .soft => afterReset ((hubReset (stageTo (flushWork s) 0)).setBits 0x108 4)
  | some .mrst => afterReset ((hubReset (stageTo (flushWork s) 0)).setBits 0x108 2)

/-- POWER_DOWN: the flush of a power-down ends, PWR_GOOD falls, and every rail is removed (R454). -/
def powerDown (s : State) : State := match s.power.flush with
  | some .off => powerOff (flushWork s)
  | _ => s

/-- Power loss: held requests are not answered, and the tail is written from the hold-up store (R393). With
too little capacitance the sequence is not guaranteed to finish: `written` records reach NAND (R452). -/
def powerLoss (s : State) (written : Nat) : State :=
  if s.power.pwrGood then powerOff (writeTail s (if s.power.holdupBad then written else s.vault.staged.length))
  else if islandOn s then powerOff s
  else s

/-! ### Contacts (R451 to R456) -/

/-- VIN below 42 V. -/
def vinLow (s : State) (written : Nat) : State :=
  let s := powerLoss s written
  { s with power := { s.power with vinOk := false } }

/-- VIN above 60 V: the converter stops. -/
def vinHigh (s : State) (written : Nat) : State :=
  let s := powerLoss s written
  { s with power := { s.power with overV := true, vinOk := false } }

/-- VIN is back after an overvoltage, with PWR_EN high: the converter restarts. -/
def vinRestart (s : State) : State :=
  if s.power.overV && s.power.pwrEn then { s with power := { s.power with overV := false, vinOk := true, enAt := s.now } } else s

/-- PWR_IN_LOW, at most once per epoch (R451). -/
def pwrInLow (s : State) : State := if islandOn s then s.raiseOnce evPwrInLow 0 else s

/-- tPWREN_LOW in units of 100 ps. -/
def pwrenLow : Nat := 1000000000

/-- PWR_EN rises with VIN in range (R454). -/
def pwrEnRise (s : State) : State :=
  if s.power.pwrEn then s
  else
    let early := s.power.pwrGood || (s.power.fallAt != 0 && decide (s.now < s.power.fallAt + pwrenLow))
    { s with power := { s.power with pwrEn := true, vinOk := true, enAt := s.now, risePend := early } }

/-- A rise that came too early is acted on (R454). -/
def pwrenElapsed (s : State) : State :=
  if s.power.risePend && !s.power.pwrGood then
    let s := advance (s.power.fallAt + pwrenLow) s
    { s with power := { s.power with risePend := false, enAt := s.now } }
  else s

/-- PWR_EN falls (R454). Without PWR_GOOD, after a trip, the island goes off at once. -/
def pwrEnFall (s : State) : State :=
  if !s.power.pwrEn then s
  else
    let s := { s with power := { s.power with pwrEn := false, fallAt := s.now, risePend := false, late := false } }
    if s.power.pwrGood then startFlush s .off
    else if s.mgmt.tripped then powerOff s
    else s

/-- PWR_EN has been high for 40 ms without PWR_GOOD (R455). -/
def pwrGoodLate (s : State) : State :=
  if s.power.pwrEn && !s.power.pwrGood && !s.power.risePend && !s.mgmt.tripped then
    let s := advance (s.power.enAt + 400000000) s
    { s with power := { s.power with late := true } }
  else s

/-- A start reference: the position in the chain is sampled, and the ports train unless a flush still runs (R309, R434,
R456). -/
def startRef (s : State) (modId : BitVec 2) : State :=
  let s := { s with csc := Csc.reset modId, stage := { s.stage with startRef := s.now } }
  if s.power.flush.isSome then s else trainAll s

/-- PWR_GOOD rises: the module enters DORMANT, and the hold-up store has been measured (R365, R375, R452). -/
def pwrGoodRise (s : State) (t microfarad : Nat) (modId : BitVec 2) : State :=
  if !s.power.pwrEn || s.power.pwrGood || s.power.risePend || s.power.overV || s.mgmt.tripped then s
  else
    let s := powerOff (advance t s)
    let s := { s with power := { s.power with
      pwrGood := true, vinOk := true, holdup := microfarad, holdupBad := decide (microfarad < 1750), smbAddr := 0x3C + modId.toNat } }
    let s := { s with power := { s.power with mpUp := s.mbox.map (fun b => !b.resetHeld) } }
    let s := if s.power.mrstN then startRef s modId else s
    if microfarad < 2000 then s.raise evPwrHoldupLow microfarad else s

/-- MRST_N has been low for tMRST_LOW (R375). -/
def mrstLow (s : State) : State :=
  if !s.power.mrstN then s
  else startFlush { s with power := { s.power with mrstN := false } } .mrst

/-- MRST_N rises: the start reference, unless the flush still runs or PWR_GOOD is still to come (R309, R365). -/
def mrstRelease (s : State) (t : Nat) (modId : BitVec 2) : State :=
  if s.power.mrstN then s
  else
    let s := advance t s
    let s := { s with power := { s.power with mrstN := true, jtag := if 3 ≤ s.power.jtag then 0 else s.power.jtag } }
    if s.power.pwrGood then startRef s modId else s

/-! ### Management ports (R331, R343) -/

/-- The reset, or the loss of the link, of management port `p` (R343, R353, R359). -/
def perstAssert (s : State) (p : Nat) (k : PerstKind) : State :=
  let s := s.modBox p (fun b => { b with stopped := true, resetHeld := true })
  let s := { s with
    power := { s.power with mpUp := s.power.mpUp.set p false }
    regs := { s.regs with shadow := s.regs.shadow.filter (fun q => q.1 / 0x1000000 != p), view := s.regs.view.set p false } }
  if isOwner s p && s.own.st != .draining then { s with own := { s.own with linkLoss := some (match k with
    | .perst => 1
    | .linkDown => 2) } } else s

/-- The reset is released and no command is in flight: the mailbox starts afresh (R343). Before that it does
not (assumption 4). -/
def mailboxRestart (s : State) (p : Nat) : State :=
  if !(s.box p).resetHeld || inflight s p != 0 || !s.power.pwrGood then s
  else
    let s := bankWrite s mstSequencer (cplSlot p 0) (List.replicate 4096 0)
    let s := s.modBox p (fun _ => { Mbox.reset with stopped := s.stage.stage == 0 })
    { s with power := { s.power with mpUp := s.power.mpUp.set p true } }

/-! ### Thermal trip (R408) -/

/-- A TRIP level has been held for 10 ms: the module leaves the island alone in power. The stage is DORMANT
from the start of the trip (R365). -/
def thermTrip (s : State) (n : Nat) : State :=
  let r := s.mgmt.temp.getD n 0
  if !s.power.pwrGood || r < tempTrip n || s.power.flush == some .trip || s.power.flush == some .off then s
  else
    let s := s.raise evMgtThermTrip n (intBits 16 r)
    let s := ((s.bumpField 0x160008 23 16).setBits 0x160008 0x80000000).setField 0x160008 4 0 n
    let s := stageTo s 0
    startFlush { s with mbox := s.mbox.map (fun (b : Mbox) => { b with stopped := true }) } .trip

/-- Every temperature has stayed 10 °C below its LIMIT for 1 s: the module restarts. -/
def thermalRestart (s : State) (t : Nat) : State :=
  if !s.mgmt.tripped || !s.power.pwrEn || !(List.range 32).all (fun n => decide (s.mgmt.temp.getD n 0 ≤ tempLimit n - 160)) then s
  else
    let s := advance t s
    afterReset { s with
      mgmt := { s.mgmt with tripped := false }, epoch := Epoch.reset s.now
      power := { s.power with pwrGood := true, mpUp := s.mbox.map (fun b => !b.resetHeld) }
      stage := { s.stage with startRef := s.now } }

/-! ### Oscillators (R17) -/

/-- The hub switches to the standby oscillator. With both lost there is none to switch to (assumption 4). -/
def oscSwitch (s : State) : State :=
  if s.power.oscLost then s else { s with power := { s.power with osc := 1 - s.power.osc } }.raise evClkOscSwitch

/-- Both oscillators fail: FAULTSAFE, on the internal ring oscillator until reset. R17 gives no figure for the
reduced rate: the model keeps the hub cycle at 0.8 ns (assumption 73). -/
def oscFail (s : State) : State :=
  if s.power.oscLost then s else enterFs ({ s with power := { s.power with oscLost := true } }.raise evClkOscLost) 3 0

/-! ### The test port (R444) -/

/-- The instruction that takes effect when `k` is loaded, in the order of R444: those from EXTEST on act as
BYPASS while MRST_N is high. -/
def tapEffect (s : State) (k : Nat) : Nat := if 3 ≤ k ∧ s.power.mrstN then 0 else k

/-- An instruction is loaded into the test port. -/
def tapLoad (s : State) (k : Nat) : State :=
  if !islandOn s then s else { s with power := { s.power with jtag := tapEffect s k } }

/-- IDCODE: the identification code is shifted out. -/
def tapIdcode (s : State) : State :=
  if !islandOn s then s
  else emit (.jtag (BitVec.ofNat 32 (0x2 * 2 ^ 28 + 0x2416 * 2 ^ 12 + Config.jedecCode.toNat * 2 + 1))) (tapLoad s 1)

end Sys2Proof.Machine
end

