-- ==== Sys2Proof/Machine/Regs.lean ====
section
/-! DEFINITION. Accesses over the management ports (R347 to R354, R360 to R364): what a register reads
as, what a write to it does, the shared banks, and the logging of rejected accesses. -/

namespace Sys2Proof.Machine

/-! ### Rejected accesses (R350, R364) -/

/-- Causes of ACCESS_ERR, by bit number. -/
def acNarrow : Nat := 0
def acUnaligned : Nat := 1
def acWide : Nat := 2
def acReserved : Nat := 3
def acReadOnly : Nat := 4
def acNotOwner : Nat := 5
def acForeign : Nat := 6
def acBusy : Nat := 7

/-- An access of port `p` to offset `a` is logged with cause `c`. -/
def logAccess (s : State) (p a c : Nat) : State :=
  let e := 0x200 + p * 0x10
  let s := if fld (s.live e) 7 0 = 0 then (s.setField e 31 28 (c + 1)).setLive (e + 4) (word (a % 0x1000000)) else s
  let s := (s.setBits e (2 ^ c)).bump (e + 8)
  emit (.errCor p) (s.raiseOnce evRegAccess p p (a % 0x1000000) c)

/-! ### Registers that report other state -/

/-- The low and the high word of a 48-bit or 64-bit pair. -/
def pairWord (v : Nat) (high : Bool) : Word := word (if high then v / 2 ^ 32 else v)

/-- The low and the high word of a pair that holds a 48-bit epoch: bits [31:16] of the high word are reserved (R6). -/
def epochWord (v : Nat) (high : Bool) : Word := word (if high then v / 2 ^ 32 % 2 ^ 16 else v)

/-- QUAL of SYNC_QUAL.STATE. -/
def Qual.code : Qual → Nat
  | .acquire => 0
  | .locked => 1
  | .holdover => 2
  | .lost => 3

/-- The code of a slot state in GEN_CTRL (R170). -/
def SlotSt.code : SlotSt → Nat
  | .free => 0
  | .opened => 1
  | .sealed => 2
  | .live => 3
  | .retired => 4
  | .settling => 5

/-- Identity and global: the stage registers (R376). -/
def readId (s : State) (a : Nat) : Word :=
  if a = 0x100 then word (stageStatus s)
  else if a = 0x10C then word s.stage.tCrumb
  else if a = 0x110 then word s.stage.tFull
  else if a = 0x114 then word (crumbMap s)
  else s.live a

/-- Ownership and update strobes (R345, R359). -/
def readOwn (s : State) (p a : Nat) : Word :=
  let o := a - 0x10000
  let bal := fun (m : Nat) => match s.own.ballots[m]? with
    | some b => word (b.result % 4 * 2 ^ 30 + b.rank % 256 * 2 ^ 16 + b.token % 65536)
    | none => 0
  let cast := fun (m : Nat) => match s.own.ballots[m]? with
    | some b => if b.pending then word (2 ^ 31 + b.rank % 256 * 2 ^ 16 + b.token % 65536) else 0
    | none => 0
  if o = 0 then word (ownWord s.own)
  else if o = 4 then word p
  else if o = 8 then bal p
  else if o = 0x10 then epochWord s.own.leaseEnd false
  else if o = 0x14 then epochWord s.own.leaseEnd true
  else if 0x20 ≤ o ∧ o < 0x30 then cast ((o - 0x20) / 4)
  else if o = 0x110 then s.regs.armed.foldl (fun w g => w ||| word (2 ^ g.1)) 0
  else if o = 0x114 then word (b2n (s.regs.view.getD p false))
  else if 0x140 ≤ o ∧ o < 0x240 then
    let g := (o - 0x140) / 8
    epochWord ((mapGet s.regs.armed g).getD (mapGetD s.regs.lastApply g 0)) (o % 8 == 4)
  else s.live a

/-- Has port `p` a pending source in group `g` (R410)? -/
def groupPending (s : State) (p g : Nat) : Bool :=
  s.live (0x20000 + 4 * g) &&& s.live (0x20100 + p * 0x100 + 4 * g) != 0

/-- Events (R423). -/
def readEvt (s : State) (p a : Nat) : Word :=
  let o := a - 0x20000
  let sum := fun (g0 n : Nat) => word (sumNat ((List.range n).map (fun i => b2n (groupPending s p (g0 + i)) * 2 ^ i)))
  if o = 0x900 then sum 0 32
  else if o = 0x904 then sum 32 12
  else if o = 0x910 ∨ o = 0x914 then pairWord s.mgmt.logSeq (o == 0x914)
  else if o = 0x918 ∨ o = 0x91C then pairWord s.mgmt.copied (o == 0x91C)
  else s.live a

/-- Epoch (R44). -/
def readEpo (s : State) (p a : Nat) : Word :=
  let o := a - 0x30000
  if o = 0 then epochWord s.epoch.count false
  else if o = 4 then epochWord s.epoch.count true
  else if o = 8 then (mapGetD s.regs.shadow (portKey p 0x30008) 0 &&& 0x03FF0000#32) ||| word (s.phase % 1024)
  else if o = 0x18 then
    (s.live a &&& 0x1FFFFFFF#32) ||| word (s.epoch.qual.code * 2 ^ 30 + b2n s.epoch.numbered * 2 ^ 29)
  else s.live a

/-- Mailboxes (R346). -/
def readMb (s : State) (a : Nat) : Word :=
  let m := (a - 0x40000) / 0x4000
  let o := (a - 0x40000) % 0x4000
  let b := s.box m
  if o = 0 then word (natAt b.tail 0)
  else if o = 4 then word (natAt b.head 0)
  else if o = 8 then word (natAt b.tail 1)
  else if o = 0xC then word (natAt b.head 1)
  else if o = 0x10 then word b.cplTail
  else if o = 0x14 then word b.cplHead
  else if o = 0x18 then word (mbState s m * 2 ^ 30 + inflight s m % 64 * 2 ^ 16 + b.acc % 65536)
  else s.live a

/-- Generation status (R202). -/
def genStat (s : State) (t k : Nat) (high : Bool) : Word := match s.table t with
  | none => 0
  | some x =>
    let y := x.slot k
    if high then word (y.st.code * 2 ^ 29 + y.epoch / 2 ^ 32 % 2 ^ 16) else word y.epoch

/-- Table attributes, generation status, glaze counters (R71, R202). -/
def readTables (s : State) (a : Nat) : Word :=
  let o := a - 0x80000
  if o < 0x4000 then attrWord s (o / 0x40) (o % 0x40)
  else if o < 0x8000 then genStat s ((o - 0x4000) / 0x20) (o % 0x20 / 8) (o % 8 == 4)
  else if o = 0x8018 then word s.vault.staged.length
  else s.live a

/-- Rows of a block that hold entries in some generation that has not settled (BLK_INFO.USED_ROWS). -/
def usedRows (s : State) (d b : Nat) : Nat :=
  let k := s.blk d b
  match s.table k.table with
  | none => 0
  | some x =>
    let h := rowHome x d b
    ((x.rows.filter (fun (r : Row) => r.die == h.1 && r.block == h.2)).length) * taW s k.table

/-- BLK_INFO (R100). -/
def blkInfo (s : State) (d b : Nat) : Word :=
  let k := s.blk d b
  word (k.table % 256 * 2 ^ 24 + k.group % 8 * 2 ^ 21 + (mirrors s d b true).length % 8 * 2 ^ 18 + k.st % 4 * 2 ^ 16 + usedRows s d b % 8192)

/-- SPARE_STAT (R100). -/
def spareStat (s : State) (d k : Nat) : Word :=
  let x := s.spare d k
  word (x.use % 4 * 2 ^ 30 + b2n x.auto * 2 ^ 29 + b2n x.suspect * 2 ^ 28 + x.primary % 1024)

/-- Search dies (R100). -/
def readSd (s : State) (a : Nat) : Word :=
  let d := (a - 0xA0000) / 0x10000
  let o := a % 0x10000
  if o = 0 then word ((freeSpares s d).length * 2 ^ 16 + freeBlocks s d)
  else if 0x100 ≤ o ∧ o < 0x180 then spareStat s d ((o - 0x100) / 4)
  else if 0x1000 ≤ o ∧ o < 0x2000 then blkInfo s d ((o - 0x1000) / 4)
  else if 0x2000 ≤ o ∧ o < 0x3000 then word (min 0xFFFFFFFF (s.blk d ((o - 0x2000) / 4)).act)
  else s.live a

/-- Counter cache: CC_STATUS (R247). -/
def readCc (s : State) (a : Nat) : Word :=
  if a = 0x10001C then
    word (b2n (bit (s.live 0x100000) 1 || (List.range 16).any (waySweep s)) * 2 ^ 31 + min 65536 s.cache.queue.length)
  else s.live a

/-- Learning and snapshots (Learning, aging and entry activity, Registers). -/
def readAct (s : State) (a : Nat) : Word :=
  let sn := fun (b : Nat) => s.snaps.getD b Snap.reset
  if a = 0x111004 then word s.learnQ.length
  else if a = 0x111008 then
    word ((sn 1).st % 4 * 2 ^ 18 + (sn 0).st % 4 * 2 ^ 16 + (sn 1).table % 256 * 2 ^ 8 + (sn 0).table % 256)
  else if a = 0x111010 ∨ a = 0x111014 then epochWord (sn 0).epoch (a == 0x111014)
  else if a = 0x111018 ∨ a = 0x11101C then epochWord (sn 1).epoch (a == 0x11101C)
  else if a = 0x111020 then word (parkedCount s)
  else s.live a

/-- Slot wheels: the live wheels (R307). -/
def readWhl (s : State) (a : Nat) : Word :=
  if 0x124000 ≤ a ∧ a < 0x128000 then s.live (a - 0x4000)
  else if 0x128200 ≤ a ∧ a < 0x128400 then s.live (a - 0x200)
  else s.live a

/-- Integrity, recovery and watchdog (R271, R296). -/
def readSpk (s : State) (a : Nat) : Word :=
  if a = 0x130010 then
    let n := match s.spk.sb with
      | some t => t.bank * 16 + t.region
      | none => s.spk.sbLast
    word (b2n s.spk.scrub * 2 ^ 31 + b2n s.spk.sb.isSome * 2 ^ 30 + n % 1024 * 2 ^ 6)
  else if 0x130020 ≤ a ∧ a < 0x130030 then
    (match s.spk.tests[(a - 0x130020) / 4]? with
     | some t => word (t.phase % 4 * 2 ^ 30 + t.pos % 2048)
     | none => 0)
  else if 0x130030 ≤ a ∧ a < 0x130040 then
    let d := (a - 0x130030) / 4
    word (sumNat ((List.range 32).map (fun k => b2n (spareRetired s d k) * 2 ^ k)))
  else if a = 0x13F004 then
    (s.live a &&& 0x0000FF00#32) |||
      word (b2n s.waitSnap.isSome * 2 ^ 31 + min 255 ((waiters s).filter (watched s)).length)
  else s.live a

/-- Cascade: CSC_STATUS (R323). -/
def readCsc (s : State) (a : Nat) : Word :=
  if a = 0x140004 then
    word (s.csc.chain % 4 * 2 ^ 30 + s.csc.pos.toNat * 2 ^ 28 + b2n s.csc.upVer * 2 ^ 27 + b2n s.csc.dnVer * 2 ^ 26 + reach s % 8 * 2 ^ 16)
  else s.live a

/-- Vault (R401). -/
def readVlt (s : State) (a : Nat) : Word :=
  if a = 0x150008 then word (vltStatus s)
  else if a = 0x15000C then word (vltBlocks s)
  else if a = 0x150010 then word (vltWear s)
  else if a = 0x150018 ∨ a = 0x15001C then epochWord s.vault.ckptEpoch (a == 0x15001C)
  else if a = 0x150020 ∨ a = 0x150024 then pairWord (if s.vault.st = 0 then 0 else s.vault.nand) (a == 0x150024)
  else s.live a

/-- Management (R422). -/
def readMgt (s : State) (a : Nat) : Word :=
  let o := a - 0x160000
  if o = 4 then
    (s.live a &&& 0xFF#32) ||| word (b2n s.mgmt.run * 2 ^ 31 + b2n (!faultN s) * 2 ^ 30 + b2n (atLimit s) * 2 ^ 9 +
      b2n (s.mgmt.warn.any (fun l => l != 0)) * 2 ^ 8)
  else if 0x100 ≤ o ∧ o < 0x180 then snsWord s ((o - 0x100) / 4) (s.mgmt.temp.getD ((o - 0x100) / 4) 0)
  else if 0x200 ≤ o ∧ o < 0x240 then snsWord s (32 + (o - 0x200) / 4) (natAt s.mgmt.volt ((o - 0x200) / 4))
  else if 0x240 ≤ o ∧ o < 0x280 then snsWord s (48 + (o - 0x240) / 4) (natAt s.mgmt.curr ((o - 0x240) / 4))
  else if o = 0x280 then snsWord s 64 s.mgmt.power
  else if 0x700 ≤ o ∧ o < 0x740 then (if s.vault.st = 0 then 0 else keyStat s ((o - 0x700) / 4))
  else s.live a

/-- Port `p`'s HP_STATUS and the credits outstanding (R446). -/
def readPort (s : State) (a : Nat) : Word :=
  let p := (a - 0x180000) / 0x2000
  let o := a % 0x2000
  let l := s.link p
  if o = 4 then word (l.st % 4 * 2 ^ 30 + l.width % 64 * 2 ^ 24)
  else if 0x10 ≤ o ∧ o < 0x30 then
    let c := (o - 0x10) / 4
    (s.live a &&& 0x1FF#32) ||| word (min 511 (natAt l.creds c + heldIn s p c) * 2 ^ 16)
  else s.live a

/-- LN_STATUS and PW_STAT of lane `l` (R447, R354). Signal is taken as detected on a lane in lock. -/
def readLane (s : State) (a : Nat) : Word :=
  let n := (a - 0x1C0000) / 0x100
  let o := a % 0x100
  let (p, j) := laneOf n
  let l := s.link p
  if o = 4 then
    word (b2n (bit l.good j) * (2 ^ 31 + 2 ^ 30) + b2n (linkUp l && (lanesInUse p l).contains j) * 2 ^ 29)
  else if o = 0xFC then (s.live a &&& 0x40000000#32) ||| word (b2n (mapGet s.regs.pw n).isSome * 2 ^ 31)
  else s.live a

/-- The value that the register at offset `a` has now, as port `p` sees it. -/
def regNow (s : State) (p a : Nat) : Word :=
  if a < 0x10000 then readId s a
  else if a < 0x20000 then readOwn s p a
  else if a < 0x30000 then readEvt s p a
  else if a < 0x40000 then readEpo s p a
  else if a < 0x80000 then readMb s a
  else if a < 0xA0000 then readTables s a
  else if a < 0xE0000 then readSd s a
  else if a < 0x100000 then s.live a
  else if a < 0x110000 then readCc s a
  else if a < 0x120000 then readAct s a
  else if a < 0x130000 then readWhl s a
  else if a < 0x140000 then readSpk s a
  else if a < 0x150000 then readCsc s a
  else if a < 0x160000 then readVlt s a
  else if a < 0x170000 then readMgt s a
  else if a < 0x180000 then s.live (regKey p a)
  else if a < 0x1C0000 then readPort s a
  else readLane s a

/-- Counters that no rule of the spec ties to the commands: LDPC retries and refreshes of the vault,
codewords corrected and uncorrectable. They read a free value. -/
def freeReg (a : Nat) : Bool :=
  (a == 0x150048 || a == 0x15004C) ||
    (decide (0x1C0000 ≤ a) && decide (a < 0x1E0000) && (a % 0x100 == 8 || a % 0x100 == 12))

/-- The bits that read a free value: such counters, and SMB_STAT.PEC_ERR and SMB_STAT.TIMEOUT (R422). -/
def freeBits (a : Nat) : Word := if freeReg a then 0xFFFFFFFF else if a = 0x160010 then 0x00FFFF00 else 0

/-- The high word of an RSH pair lies at `a`. -/
def isHigh (a : Nat) : Bool := match (if a % 8 = 4 then regDesc (a - 4) else none) with
  | some d => d.rsh
  | none => false

/-- The fields of a register that read 0: pulses, which are the W1S fields but EPOCH_SET_HI.ARM (R352). -/
def pulseMask (a : Nat) (d : RegDesc) : Word := if a = 0x30024 then 0 else d.w1s

/-- What a read of the register at `a` from port `p` returns, before the effects of the read. Status bits
and counters that hardware changed in this hub cycle read as they stood before it (R351, R362). -/
def regValue (s : State) (p a : Nat) (d : RegDesc) : Word :=
  if isHigh a then mapGetD s.regs.shadow (portKey p a) 0
  else
    let w := match metNow s a with
      | some (w, _) => (regNow s p a &&& ~~~ (d.rc ||| d.w1c)) ||| (w &&& (d.rc ||| d.w1c))
      | none => regNow s p a
    let w := if d.group.isSome && !s.regs.view.getD p false then (w &&& ~~~ d.rw) ||| (s.buffer a &&& d.rw) else w
    w &&& ~~~ pulseMask a d

/-! ### Reads (R347, R352, R353) -/

/-- A read of the low word of an RSH pair latches for port `p` (R353). -/
def latchPair (s : State) (p a : Nat) : State :=
  let put := fun (s : State) (b : Nat) (v : Word) => { s with regs := { s.regs with shadow := mapSet s.regs.shadow (portKey p b) v } }
  let s := put s (a + 4) (regNow s p (a + 4))
  if a = 0x30000 then put s 0x30008 (word (s.phase % 1024 * 2 ^ 16)) else s

/-- The owner's full-width read clears the RC fields `rc`; what hardware set or counted in this hub cycle
stays (R352, R362). -/
def readClear (s : State) (a : Nat) (rc : Word) : State := match metNow s a with
  | some (w, n) => metPut (s.setLive a ((s.live a &&& ~~~ rc) ||| (word n &&& rc))) a (w &&& ~~~ rc) n
  | none => s.setLive a (s.live a &&& ~~~ rc)

/-- A full-width read of one register: its value, and the state after it. -/
def readFull (s : State) (p a : Nat) : Word × State := match regDesc a with
  | none => (0, s)
  | some d =>
    let s := if a = 0x10007C then pressTo s else s
    let (v, s) : Word × State := if freeBits a = 0 then (regValue s p a d, s) else
      (let (n, s) := draw s; ((regValue s p a d &&& ~~~ freeBits a) ||| (word (Config.openNat n) &&& freeBits a), s))
    let s := if d.rsh then latchPair s p a else s
    (v, if d.rc ≠ 0 ∧ isOwner s p then readClear s a d.rc else s)

/-- Does the module serve the block of offset `a` at its stage (R374)? -/
def blockServed (s : State) (a : Nat) : Bool :=
  s.stage.stage != 0 || decide (a < 0x20000) || (decide (0x30000 ≤ a) && decide (a < 0x40000)) ||
    (decide (0x160000 ≤ a) && decide (a < 0x170000))

/-- Is there a register at offset `a`, one that the module serves now? -/
def regThere (s : State) (a : Nat) : Bool := blockServed s a && (regDesc a).isSome

/-- The slow domain takes the value posted to lane `n` (R354). -/
def pwTake (s : State) (n : Nat) : State := match mapGet s.regs.pw n with
  | none => s
  | some (a, v) =>
    let rw := ((regDesc a).map (fun d => d.rw)).getD 0
    let s := s.setLive a ((s.live a &&& ~~~ rw) ||| (v &&& rw))
    { s with regs := { s.regs with pw := mapErase s.regs.pw n } }

/-- A read of a PW register waits until BUSY has cleared. -/
def pwSettle (s : State) (a : Nat) : State := match (regDesc a).bind (fun d => d.lane) with
  | some n => pwTake s n
  | none => s

/-- The completion of a read. -/
def answerRead (s : State) (p : Nat) (l : List Byte) : State := emit (.regData p (some l)) s

/-- A rejected read completes with UR. -/
def rejectRead (s : State) (p a c : Nat) : State := emit (.regData p none) (logAccess s p a c)

/-- A read of `n` bytes of registers from offset `a` on (R347). -/
def regReadAt (s : State) (p a n : Nat) (e : RegErr) : State :=
  let w := a / 4 * 4
  if 8 < n then rejectRead s p a acWide
  else if n < 4 ∧ a % 4 + n ≤ 4 then
    (if !regThere s w then rejectRead s p a acReserved
     else
       let s := pwSettle (readErr s w e) w
       let v := ((regDesc w).map (fun d => regValue s p w d)).getD 0
       answerRead s p (slice (bytesLE 4 v.toNat) (a % 4) n))
  else if n = 4 ∧ a % 4 = 0 then
    (if !regThere s a then rejectRead s p a acReserved
     else
       let (v, s) := readFull (pwSettle (readErr s a e) a) p a
       answerRead s p (bytesLE 4 v.toNat))
  else if n = 8 ∧ a % 8 = 0 then
    (if !regThere s a || !regThere s (a + 4) then rejectRead s p a acReserved
     else
       let (v, s) := readFull (pwSettle (readErr s a e) a) p a
       let (w, s) := readFull (pwSettle s (a + 4)) p (a + 4)
       answerRead s p (bytesLE 4 v.toNat ++ bytesLE 4 w.toNat))
  else rejectRead s p a acUnaligned

/-! ### Writes (R350, R352) -/

/-- Each group whose pending sources `sel` picks raises vector 3 + g of port `m` (R410). -/
def raiseGroup (s : State) (m g : Nat) (on : Word) : State := if on = 0 then s else raiseVec s m (3 + g)

/-- Port `m` writes EVT_EN[m][g]. -/
def writeEvtEn (s : State) (a m g : Nat) (v : Word) : State :=
  let new := v &&& 0xFFFF#32
  let rise := new &&& ~~~ s.live a &&& s.live (0x20000 + 4 * g) &&& ~~~ s.live (0x20500 + m * 0x100 + 4 * g)
  raiseGroup (s.setLive a new) m g rise

/-- Port `m` writes EVT_MASK[m][g]. -/
def writeEvtMask (s : State) (a m g : Nat) (v : Word) : State :=
  let new := v &&& 0xFFFF#32
  let fall := s.live a &&& ~~~ new &&& s.live (0x20000 + 4 * g) &&& s.live (0x20100 + m * 0x100 + 4 * g)
  raiseGroup (s.setLive a new) m g fall

/-- A write to the MSI-X vector control word `a` of port `p`: a vector that is pending and no longer masked is sent. -/
def writeVecCtrl (s : State) (p a : Nat) (v : Word) : State :=
  let k := (a - 0x170000) / 16
  let pba := portKey p (0x171000 + 4 * (k / 32))
  let s := s.setLive (portKey p a) (v &&& 1#32)
  if !bit v 0 && bit (s.live pba) (k % 32) then sendMsix (s.clrBits pba (2 ^ (k % 32))) p k else s

/-- Software is about to write a buffer: an apply of this hub cycle copies the buffers as they stand now (R357). -/
def noteBuf (s : State) : State := { s with regs := { s.regs with bufStart := some (s.now / 8, startBuf s) } }

/-- The plain effect of a write: BUF fields go to the buffer; RW, W1C and latched W1S fields change. -/
def writePlain (s : State) (p a : Nat) (d : RegDesc) (v : Word) : State :=
  if d.group.isSome then (noteBuf s).setBuf a ((s.buffer a &&& ~~~ d.rw) ||| (v &&& d.rw))
  else
    let k := regKey p a
    let s1 := s.setLive k ((s.live k &&& ~~~ (d.rw ||| (v &&& d.w1c))) ||| (v &&& (d.rw ||| d.w1s)))
    if d.w1c = 0 then s1
    else match metNow s k with
      | some (w, n) => metPut (s1.setLive k (s1.live k ||| (word n &&& d.w1c))) k (w &&& ~~~ (v &&& d.w1c)) n
      | none => s1

/-- The effect of a write of `v` to the register at `a` by a port that has the right to make it. -/
def regEffect (s : State) (p a : Nat) (d : RegDesc) (v : Word) : State :=
  if a = 0x104 then (if bit v 0 then startFlush s .soft else s)
  else if a = 0x10008 then doClaim s p v
  else if a = 0x1000C then (if fld v 23 0 < 16 then doLease s p v else journalConfig (doLease s p v) [a])
  else if a = 0x10100 then (if v = 0 then s else applyStrobe (advance ((s.now / 8 + 1) * 8) s) v)
  else if a = 0x1010C then armGroups s v
  else if a = 0x10110 then disarmGroups s v
  else if a = 0x10114 then { s with regs := { s.regs with view := s.regs.view.set p (bit v 0) } }
  else if 0x20100 ≤ a ∧ a < 0x20500 then writeEvtEn s a p (a % 0x100 / 4) v
  else if 0x20500 ≤ a ∧ a < 0x20900 then writeEvtMask s a p (a % 0x100 / 4) v
  else if 0x40000 ≤ a ∧ a < 0x50000 then
    (if a % 0x4000 = 0 then doDoorbell s ((a - 0x40000) / 0x4000) 0 (fld v 15 0)
     else if a % 0x4000 = 8 then doDoorbell s ((a - 0x40000) / 0x4000) 1 (fld v 15 0)
     else if a % 0x4000 = 0x14 then doCplHead s ((a - 0x40000) / 0x4000) (fld v 15 0)
     else writePlain s p a d v)
  else if a = 0x100000 then ccEnWrite s (bit v 0)
  else if a = 0x100004 then wayEnWrite s (fld v 15 0)
  else if a = 0x30024 then writePlain (if bit v 31 && bit (s.live a) 31 then softWrite s a else s) p a d v
  else if a = 0x100014 then writePlain s p a d (if fld v 15 0 = 0 then 1#32 else v)
  else if 0x170000 ≤ a ∧ a < 0x170400 ∧ a % 16 = 12 then writeVecCtrl s p a v
  else if 0x180000 ≤ a ∧ a < 0x1C0000 ∧ a % 0x2000 = 8 then
    let n := (a - 0x180000) / 0x2000
    let s := writePlain s p a d v
    let s := if bit v 0 then retrain s n else s
    if bit v 1 then widenStart s n else s
  else writePlain s p a d v

/-- Has port `p` the right to write a register (R324, R364, R410)? -/
def mayWrite (s : State) (p : Nat) : Right → Bool
  | .owner => isOwner s p
  | .self => true
  | .mailbox m => m == p
  | .evport m => m == p
  | .access m => m == p || isOwner s p

/-- A write to another port's mailbox is dropped, and MB_ERR.FOREIGN is set (R324). -/
def foreignMb (s : State) (p m a : Nat) : State := logAccess (mbErr s m 3) p a acForeign

/-- A write without the right to make it. -/
def noRight (s : State) (p a : Nat) : Right → State
  | .mailbox m => foreignMb s p m a
  | .evport _ => logAccess s p a acForeign
  | _ => logAccess s p a acNotOwner

/-- Another port's registers: a write to one is FOREIGN whatever the register is. -/
def isForeign (p : Nat) : Right → Bool
  | .mailbox m => m != p
  | .evport m => m != p
  | _ => false

/-- A 32-bit write of port `p` to the register at `a`. -/
def regWrite4 (s : State) (p a : Nat) (v : Word) : State := match regDesc a with
  | none => logAccess s p a acReserved
  | some d =>
    if isForeign p d.right then noRight s p a d.right
    else if d.rw ||| d.w1c ||| d.w1s = 0 then logAccess s p a acReadOnly
    else if !mayWrite s p d.right then noRight s p a d.right
    else
      let s := { s with regs := { s.regs with parityErr := s.regs.parityErr.filter (fun b => b != a) } }
      match d.lane with
      | none => regEffect s p a d v
      | some n =>
        if (mapGet s.regs.pw n).isSome then logAccess (s.setBits (0x1C00FC + n * 0x100) 0x40000000) p a acBusy
        else { s with regs := { s.regs with pw := mapSet s.regs.pw n (a, v) } }

/-- A write of bytes `l` to registers from offset `a` on (R347). -/
def regWriteAt (s : State) (p a : Nat) (l : List Byte) : State :=
  let n := l.length
  if 8 < n then logAccess s p a acWide
  else if n < 4 ∧ a % 4 + n ≤ 4 then logAccess s p a acNarrow
  else if n = 4 ∧ a % 4 = 0 then
    (if !regThere s a then logAccess s p a acReserved else regWrite4 s p a (word (natLE l)))
  else if n = 8 ∧ a % 8 = 0 then
    (if !regThere s a || !regThere s (a + 4) then logAccess s p a acReserved
     else if isHigh (a + 4) then logAccess s p a acReadOnly
     else regWrite4 (regWrite4 s p a (word (leAt l 0 4))) p (a + 4) (word (leAt l 4 4)))
  else logAccess s p a acUnaligned

/-! ### The shared banks (R14, R348, R291, R335) -/

/-- Offsets of the banks that hold nothing: the part of bank 1 above the completion rings. -/
def bankReserved (o : Nat) : Bool := decide (0x14000 ≤ o) && decide (o < 0x20000)

/-- Whole 32-bit words, up to 128 bytes, within one 128-byte-aligned block. -/
def wholeWords (o n : Nat) : Bool :=
  decide (4 ≤ n) && decide (n ≤ 128) && o % 4 == 0 && n % 4 == 0 && o / 128 == (o + n - 1) / 128

/-- An error of a shared-bank word that an access reads (R275). -/
def bankErr (s : State) (e : RegErr) : State := match e with
  | .bankCe => s.bump 0x130120
  | .bankUe => (s.bump 0x130124).raise evIntEccUe
  | _ => s

/-- A read of `n` bytes at bank offset `o`; `a` is its BAR0 offset (R348). -/
def bankReadAt (s : State) (p a o n : Nat) (e : RegErr) : State :=
  if !(wholeWords o n || (decide (n < 4) && decide (o % 4 + n ≤ 4))) then rejectRead s p a (if 8 < n then acWide else acUnaligned)
  else if s.stage.stage = 0 ∨ bankReserved o then rejectRead s p a acReserved
  else
    let (l, s) := bankRead (bankErr s e) p o n
    answerRead s p l

/-- Bytes `l` merged into `old` as the view says: 1 the bit-set alias, 2 the bit-clear alias. -/
def mergeBytes (view : Nat) (old l : List Byte) : List Byte :=
  if view = 0 then l
  else (old.zip l).map (fun q => if view = 1 then q.1 ||| q.2 else q.1 &&& ~~~ q.2)

/-- The words of a write reach the bank: in one access in the normal view, each word on its own through an
alias, which reads it first and may meet the error `e`. -/
def bankPut (s : State) (p o view : Nat) (l : List Byte) (e : RegErr) : State :=
  if view = 0 then bankWrite s p o l
  else if l.length ≤ 4 then bankWrite (bankErr s e) p o (mergeBytes view (memReadAll s.mem o l.length) l)
  else
    let s := bankWrite (bankErr s e) p o (mergeBytes view (memReadAll s.mem o 4) (l.take 4))
    bankWrite s p (o + 4) (mergeBytes view (memReadAll s.mem (o + 4) 4) (l.drop 4))

/-- A write of bytes `l` at bank offset `o` through view `view` (R348, R324). -/
def bankWriteAt (s : State) (p a o view : Nat) (l : List Byte) (e : RegErr) : State :=
  let n := l.length
  if n < 4 ∧ o % 4 + n ≤ 4 then logAccess s p a acNarrow
  else if !(if view = 0 then wholeWords o n else (n == 4 && o % 4 == 0) || (n == 8 && o % 8 == 0)) then
    logAccess s p a (if 8 < n then acWide else acUnaligned)
  else if s.stage.stage = 0 ∨ bankReserved o then logAccess s p a acReserved
  else if o < 0x10000 then (if o / 0x4000 = p then bankPut s p o view l e else foreignMb s p (o / 0x4000) a)
  else if o < 0x14000 ∧ (o - 0x10000) / 0x1000 ≠ p then foreignMb s p ((o - 0x10000) / 0x1000) a
  else if o < 0x60000 then logAccess s p a acNotOwner
  else bankPut s p o view l e

/-! ### Accesses of a management port -/

/-- Does port `p` reach BAR0? -/
def portUp (s : State) (p : Nat) : Bool := s.power.mpUp.getD p false

/-- A write of bytes `l` at BAR0 offset `a` from port `p`, in which a shared bank meets the error `e`. Over a link that
is down no write arrives (assumption 4). -/
def busWriteOp (s : State) (p a : Nat) (l : List Byte) (e : RegErr := .none) : State :=
  if !portUp s p then s
  else if 0x1000000 ≤ a then logAccess s p a acReserved
  else if a < 0x400000 then regWriteAt s p a l
  else bankWriteAt s p a ((a - 0x400000) % 0x400000) ((a - 0x400000) / 0x400000) l e

/-- A poisoned write is dropped, and logged as RESERVED (R443). -/
def poisonedWrite (s : State) (p a : Nat) : State := if portUp s p then logAccess s p a acReserved else s

/-- A 32-bit write. -/
def busWrite4 (s : State) (p a : Nat) (v : Word) : State := busWriteOp s p a (bytesLE 4 v.toNat)

/-- A read of `n` bytes at BAR0 offset `a` from port `p` that meets the error `e`. -/
def busReadOp (s : State) (p a n : Nat) (e : RegErr) : State :=
  if !portUp s p then s
  else if 0x1000000 ≤ a then rejectRead s p a acReserved
  else if a < 0x400000 then regReadAt s p a n e
  else bankReadAt s p a ((a - 0x400000) % 0x400000) n e

end Sys2Proof.Machine
end

