-- ==== Sys2Proof/Machine/Patrol.lean ====
section
/-! DEFINITION. What a scrub pass meets in the memories that it reads (R275, R276, R277 item 3, R360), and
what a patrol of the vault meets (R392, R398). -/

namespace Sys2Proof.Machine

/-- The units whose rows refer to position `p` (R256, R276). -/
def posUnits (s : State) (p : Nat) : List (Nat × Nat) :=
  dedupBlocks ((s.tables.map (fun q =>
    ((q.2.rows.filter (fun r => decide (r.pos ≤ p) && decide (p < r.pos + taW s q.1))).map
      (fun r => (r.die, primaryUnit s r.die r.block))) ++
    ((replicas q.2).filter (fun h => q.2.rows.any (fun r => r.reps.any (fun a =>
      a.1 == h.replica && decide (a.2 ≤ p) && decide (p < a.2 + taW s q.1))))).map (fun h => (h.die, primaryUnit s h.die h.block)))).flatten)

/-- Every unit whose rows refer to position `p` becomes suspect. -/
def suspectPos (s : State) (p : Nat) : State := (posUnits s p).foldl (fun s u => markSuspect s u.1 u.2) s

/-- The blocks in use among `l`, whose shadow record cannot be rebuilt, become suspect (R276). -/
def suspectUnits (s : State) (l : List (Nat × Nat)) : State :=
  (l.filter (fun u => (mapGet (scrubUnits s) (u.1 * 1056 + u.2)).isSome)).foldl (fun s u => markSuspect s u.1 u.2) s

/-- A tree word that cannot be rewritten (R167). -/
def stickWord (s : State) (t k a : Nat) : State :=
  (s.modTable t (fun x => x.modSlot k (fun y => { y with tree := y.tree.map (fun i => { i with stuck := a :: i.stuck }) }))).raise
    evTreEccStuck

/-- A captured pair reads SUSPECT (R276). -/
def markCap (h : Nat) (a : SnapTable) : SnapTable :=
  { a with entries := a.entries.map (fun e => if e.1 = h then (e.1, e.2.1, e.2.2 ||| 2) else e) }

/-- One error of the patrol, by the rule of its memory (R275, R276). -/
def patrolErr (s : State) (e : PatrolErr) : State := match e with
  | .corrected => s.bump 0x130120
  | .cache e p => cacheErr s e p
  | .result p stuck =>
    let s := rsRepair s (posDie p)
    if stuck then suspectPos s p else s
  | .tree t k a stuck =>
    if ((s.table t).bind (fun x => (x.slot k).tree)).isNone then s
    else
      let s := (s.bump 0x130124).raise evTreEccUncorr a t
      if stuck then stickWord s t k a else s
  | .direct i => (s.bump 0x130124).raise evIntDtUe i
  | .bank => (s.bump 0x130124).raise evIntEccUe
  | .log q =>
    let s := (s.bump 0x130124).raise evIntEccUe
    { s with mgmt := { s.mgmt with ring := s.mgmt.ring.map (fun (r : LogRec) => if r.seq = q then { r with sev := 4 } else r) } }
  | .counters p => storeUe (markPair s p) 0 (16 * p)
  | .stamp p => storeUe (putStamp s p (mkStamp s.epoch.count 0 true)) 1 (8 * p)
  | .shadow p lost =>
    let s := storeUe s 2 (64 * p)
    if lost then suspectPos s p else s
  | .images a refs => suspectUnits (storeUe s 3 a) refs
  | .config a refs => suspectUnits (storeUe s 4 a) refs
  | .snapshot b t h a =>
    storeUe (modSnap s b (fun q => { q with caps := q.caps.map (fun c => if c.table = t then markCap h c else c) })) 5 a
  | .learn i => match s.learnQ[i]? with
    | none => s
    | some r => storeUe ({ learnDrop s r.target 0x11104C with learnQ := s.learnQ.eraseIdx i } : State) 6 (128 * i)
  | .staging q => if s.vault.staged.any (fun r => r.seq == q) then stageUe (storeUe s 7 0) q else s
  | .parity a => parityAt s a
  | .reg a e => readErr s a e
  | .rewritten a => { s with regs := { s.regs with parityErr := s.regs.parityErr.filter (fun b => b != a) } }
  | .header => hdrRepairs s 1

/-- A command or an internal operation meets these errors in what it reads or uses. -/
def meet (s : State) (errs : List PatrolErr) : State := errs.foldl patrolErr s

/-- Is the error of a memory that the pass reads only with PATROL_EN = 1 (R277, R360)? -/
def patrolled : PatrolErr → Bool
  | .parity _ => false
  | .reg _ _ => false
  | .rewritten _ => false
  | _ => true

/-- A scrub pass has begun at this step, none having run before it: it meets `errs`. -/
def scrubStart (s : State) (ran : Bool) (errs : List PatrolErr) : State :=
  if ran || !s.spk.scrub then s
  else
    let on := bit (s.live 0x130000) 1
    meet s (errs.filter (fun e => on || !patrolled e))

/-- Settle of a table reads counters and stamps (R194, R276). -/
def settleMeet (s : State) (t : Nat) (errs : List PatrolErr) : State :=
  if (s.table t).isNone then s else settleTable (meet s errs) t

/-- The oldest learn record is read, with what it needs (R222, R276). -/
def learnMeet (s : State) (errs : List PatrolErr) : State := if s.learnQ.isEmpty then s else learnApply (meet s errs)

/-- A running sweep reads the stamp of a candidate (R226, R276). -/
def ageMeet (s : State) (t h : Nat) (wr : Bool) (errs : List PatrolErr) : State :=
  if ((s.table t).bind (fun x => x.sweep)).isNone then s else ageCompare (meet s errs) t h wr

/-- A fill reads its line (R235, R276). -/
def fillMeet (s : State) (n : Nat) (errs : List PatrolErr) : State :=
  if (mapGet s.cache.fills n).isNone then s else fillReturn (meet s errs) n

/-- A copy and its verification read the shadow (R254, R276). -/
def rebuildMeet (s : State) (d u : Nat) (good : Bool) (errs : List PatrolErr) : State :=
  if (buildOf s d u).isNone then s else rebuildVerified (meet s errs) d u good

/-- A run is compared with its shadow (R276, R279). -/
def scrubMeet (s : State) (d u run : Nat) (first second : List (Nat × BitVec 168)) (errs : List PatrolErr) : State :=
  if (mapGet s.spk.runs (d * 1056 + u)).isNone then s else scrubRun (meet s errs) d u run first second

/-- The copy of a snapshot taken at this step, `s0` before it, reads counters (R214, R276): a pair that it meets with an
error reads SUSPECT in the buffer as well. -/
def snapshotMeet (s0 s : State) (b : Nat) (errs : List PatrolErr) : State :=
  if (s0.snaps.getD b Snap.reset).st == 1 && (s.snaps.getD b Snap.reset).st == 2 then
    meet (modSnap s b (fun q => { q with caps := q.caps.map (fun (a : SnapTable) =>
      { a with entries := a.entries.map (fun e =>
          if errs.any (fun x => match x with
            | .counters p => (a.homes.find? (fun h => h.1 == e.1)).any (fun h => h.2.contains p)
            | _ => false)
          then (e.1, e.2.1, e.2.2 ||| 2) else e) }) })) errs
  else s

/-- A patrol of the vault has begun at this step: it meets an unreadable journal stripe (R398). -/
def patrolStart (s : State) (before : Nat) (stripe : Bool) : State :=
  if stripe && s.vault.patrolStart != before then askCkpt s else s

end Sys2Proof.Machine
end

