-- ==== Sys2Proof/Machine/EpochStep.lean ====
section
/-! DEFINITION. The epoch time base (R30 to R43): edges, qualification, synthesized steps, numbering, and the
epoch step with its actions in the order of R42. A step applies item 1 at once and leaves the actions of
items 2 to 6 in `State.due`, where the commands that name them apply them one by one; any other command
applies those that are left first (assumption 3). -/

namespace Sys2Proof.Machine

/-! ### Which actions are due at a step -/

/-- Items 2 and 3 of R42. -/
def dueOwn (s : State) (draining : Bool) : List Due :=
  [.leaseEnd, .handover, .vacant draining] ++
    (if s.epoch.qual = .lost then [] else
      (s.regs.armed.filter (fun p => decide (p.2 ≤ s.epoch.count))).map (fun p => Due.apply p.1))

/-- Item 4: glazes in the order of R185, then promotions, copy swaps and copy-map changes; R42 does not order the
other three against the glazes or each other: the model takes them after the glazes, in this order (assumption 3). -/
def dueGlaze (s : State) : List Due :=
  (allDueGlazes s (s.epoch.qual == .lost)).map (fun p => Due.glaze p.1 p.2) ++
    ((s.tables.filter (fun p => promoteDue s p.2)).map (fun p => Due.promote p.1)) ++
    ((s.dies.builds.filter (fun (b : Build) => b.verified)).map (fun b => Due.swap b.die b.unit)) ++
    ((s.dies.changes.filter (fun (k : CopyChange) => k.glaze.isNone && decide (k.ready ≤ s.now))).map (fun k => Due.copyMap k.id))

/-- Is a test pass of sprinkle due at this step (R281)? -/
def passDue (s : State) : Bool := bit (s.live 0x130000) 2 && s.epoch.crossed (max 1 (testPeriod s))

/-- A test pass of sprinkle begins (R281). -/
def testPassAt (s : State) : State :=
  if passDue s then
    heldAction { s with spk := { s.spk with passStart := s.epoch.count, nextPos := [0, 0, 0, 0] } } 9 1
  else s

/-- Items 5 and 6, as the state stands once items 2 to 4 are applied. R42 orders no two starts of item 6: the model
takes them in this order (assumption 3). -/
def dueLater (s : State) : List Due :=
  (([0, 1].filter (fun b => (s.snaps.getD b Snap.reset).st == 1 && decide ((s.snaps.getD b Snap.reset).epoch ≤ s.epoch.count))).map Due.snapshot) ++
    (if s.epoch.crossed (glazeInt s) || s.vault.sealWait then [.internalSeal] else []) ++
    ((s.tables.filter (fun p => match p.2.age with
      | some g => decide (g.next ≤ s.epoch.count)
      | none => false)).map (fun p => Due.ageStart p.1)) ++
    (([0, 1, 2, 3].filter (fun d => s.epoch.crossed (amWin s d))).map Due.mirrorWindow) ++
    (if s.spk.scrubDue || (bit (s.live 0x130000) 0 && s.epoch.crossed (max 1 (s.cfg 0x130004 23 0))) then [.scrub] else []) ++
    (if passDue s then [.testPass] else []) ++
    (([0, 1, 2, 3].filter (fun d => passDue s || windowDue s d || s.spk.testDue.any (fun (q : Nat × Nat × Nat) => q.1 == d))).map Due.testWindow) ++
    (if bit (s.live 0x130000) 3 && s.epoch.crossed (max 1 (s.cfg 0x13000C 15 0)) then [.sbTest] else []) ++
    (if s.vault.ckptDue || ckptPeriodic s || s.mgmt.ckptHeld || ckptForced s then [.checkpoint] else []) ++
    (if bit (s.live 0x150000) 4 && s.epoch.crossed (max 1 (s.cfg 0x150004 23 0) * 65536) then [.patrol] else [])

/-! ### Actions of a step (R42) -/

/-- Apply one action of the present step. -/
def runDue (s : State) : Due → State
  | .leaseEnd => leaseEndAt s
  | .handover => handoverAt s
  | .vacant was => electAt (if was then vacantAt s else s)
  | .apply g => applyArmed s g
  | .glaze t n => glazeAt s t n
  | .promote t => promoteTable s t
  | .swap d u => copySwapAt s d u
  | .copyMap i => copyMapAt s i
  | .snapshot b => snapshotAt s b
  | .internalSeal => internalSealAt s
  | .ageStart t => ageStartAt s t
  | .mirrorWindow d => mirrorWindowAt s d
  | .scrub => scrubAt s
  | .testWindow d => testWindowAt s d
  | .sbTest => sbTestAt s
  | .testPass => testPassAt s
  | .checkpoint => ckptAt s
  | .patrol => patrolAt s
  | .starts => s

/-- Apply actions in order. -/
def runAll : List Due → State → State
  | [], s => s
  | d :: l, s => runAll l (runDue s d)

/-- Items 2 to 4 are applied, and the starts of items 5 and 6 are picked from the registers as item 3 left them. -/
def openStarts (s : State) : State :=
  if s.due.contains .starts then
    let s := runAll (s.due.filter (fun d => d != .starts)) { s with due := [] }
    { s with due := dueLater s }
  else s

/-- Apply every action that is left of the present step. -/
def flushDue (s : State) : State := runAll (openStarts s).due { openStarts s with due := [] }

/-- Apply the actions of a list up to and including the last that satisfies `p`; the rest stays due. -/
def runTo (p : Due → Bool) : List Due → State → State
  | [], s => s
  | d :: l, s => if (d :: l).any p then runTo p l (runDue s d) else { s with due := d :: l }

/-- An action of the present step that a command names: it and what R42 places before it are applied. When
the action is not due, the command's event does not arise (assumption 4). -/
def dueUpTo (p : Due → Bool) (s : State) : State :=
  if s.due.any p then runTo p s.due { s with due := [] }
  else if (openStarts s).due.any p then runTo p (openStarts s).due { openStarts s with due := [] }
  else s

/-- What has happened by itself before a command: the rest of the present step, width changes of links whose
round has begun, SMBus alert causes, and the grants of wheel slots. -/
def pre (s : State) : State := alertUpdate (settleLinks (flushDue (wheelsTo s)))

/-- The same at time `t`. -/
def preAt (t : Nat) (s : State) : State := alertUpdate (settleLinks (wheelsTo (advance t (flushDue (wheelsTo s)))))

/-- What has happened by itself before a read: it reaches the hub in the cycle after the rows that stand before it,
and so returns the values at the start of its cycle (R351; assumption 11). -/
def preRead (s : State) : State := preAt ((s.now / 8 + 1) * 8) s

/-- Writes of one hub cycle take effect in ascending order of port: one that would have to come before a write already
made is of the next cycle (R351; assumption 82). -/
def portOrder (s : State) (p : Nat) : State :=
  let s := if s.regs.lastWrite.1 = s.now / 8 ∧ p < s.regs.lastWrite.2 then advance ((s.now / 8 + 1) * 8) s else s
  { s with regs := { s.regs with lastWrite := (s.now / 8, p) } }

/-- What has happened by itself before a write of port `p`. -/
def prePort (s : State) (p : Nat) : State := portOrder (pre s) p

/-- A step never falls into the hub cycle of a request that has been accepted already: what comes after an
acceptance comes in the next hub cycle at the earliest, so that a request whose hub cycle sees a step has the view
of that step (R18; assumption 71). -/
def afterAccepts (s : State) : State :=
  if s.holds.any (fun h => h.t0 / 8 == s.now / 8) then advance ((s.now / 8 + 1) * 8) s else s

/-- What has happened by itself before a command that may bring a step at time `t`. -/
def preStep (t : Nat) (s : State) : State := afterAccepts (preAt t s)

/-! ### Numbering (R38, R39) -/

/-- What the numbering of a step decides. -/
structure Numbering where
  next : Nat
  numbered : Bool
  /-- EPO_NUMBERED and its third operand. -/
  raised : Option Nat
  /-- The value of an EPOCH_SET that is rejected. -/
  reject : Option Nat
  /-- The beacon of a slip, and whether it is backward. -/
  slip : Option (Nat × Bool)
  deriving DecidableEq, Repr

/-- The numbering of the next step. -/
def numbering (s : State) : Numbering :=
  let n := s.epoch.count
  let arm := bit (s.live 0x30024) 31
  let v := (s.live 0x30020).toNat + s.cfg 0x30024 15 0 * 2 ^ 32
  let ok := arm && decide (n < v)
  let nxt := if ok then v else n + 1
  let a : Numbering := { next := nxt, numbered := s.epoch.numbered || ok, raised := if ok && !s.epoch.numbered then some 1 else none
                         reject := if arm && !ok then some v else none, slip := none }
  match s.epoch.beacon with
  | none => a
  | some b =>
    if !a.numbered && decide (n < b) then { a with next := b, numbered := true, raised := some 0 }
    else if b = nxt then a
    else
      let back := decide (b < nxt)
      { a with slip := some (b, back), next := if !back && !ok && bit (s.live 0x30014) 17 then b else nxt }

/-- The registers and the events of a numbering; `n` is the counter before the step. -/
def tellNumbering (s : State) (a : Numbering) (n : Nat) (beacon : Bool) : State :=
  let hi := fun (v : Nat) => v / 2 ^ 32 % 2 ^ 16
  let s := if softNow s 0x30024 then s else s.clrBits 0x30024 0x80000000
  let s := if beacon then s else s.bumpField 0x30018 28 17
  let s := match a.raised with
    | some k => s.raise evEpoNumbered n (hi n) k
    | none => s
  let s := match a.reject with
    | some v => s.raise evEpoSetReject v (hi v)
    | none => s
  match a.slip with
  | some (b, back) => ((s.bump 0x3002C).setBits 0x3001C (if back then 0x14 else 4)).raise evEpoSlip b (hi b) (b2n back)
  | none => s

/-! ### The step -/

/-- EPOCH_CTRL.HOLD_LIMIT. -/
def holdLimit (s : State) : Nat := max 1 (s.cfg 0x30014 16 0)

/-- Epochs spent in ACQUIRE or HOLDOVER are counted at a step, and LOST is entered (R37). A count of 0 is that of
the step that begins the first of them. -/
def countHold (s : State) : State :=
  if s.epoch.qual = .acquire ∨ s.epoch.qual = .holdover then
    if s.epoch.holdCount < holdLimit s then { s with epoch := { s.epoch with holdCount := s.epoch.holdCount + 1 } }
    else
      let e := s.epoch
      let e := if e.qual = .acquire then { e with synBase := s.now, synK := 1 } else e
      (({ s with epoch := { e with qual := .lost } } : State).setBits 0x3001C 2).raise evEpoLost
  else s

/-- The stage at a step (R365, R370). -/
def stepStage (s : State) : State := if s.stage.stage = 1 then stageTo s 2 else fullWhenDone s

/-- Tables at a step: sealing that has ended arms its glaze (R182). -/
def stepTables (s : State) : State :=
  { s with tables := s.tables.map (fun p => (p.1, armTable s.now s.epoch.count p.2)) }

/-- Item 1 of R42 at the present time: the counter advances, the phase returns to `off`; `held`: the step is
synthesized. -/
def stepCount (s : State) (held : Bool) (off : Nat) : State :=
  let a := numbering s
  let n := s.epoch.count
  let beacon := s.epoch.beacon.isSome
  let s := { s with epoch := { s.epoch with
    count := a.next, prev := n, stepAt := s.now, phase0 := s.now, off := off, held := held, numbered := a.numbered, beacon := none } }
  countHold (tellNumbering (stepVectors s) a n beacon)

/-- The epoch step: item 1 of R42, and the list of the actions that follow. -/
def epochStep (s : State) (held : Bool) (off : Nat) : State :=
  let draining := s.own.st == .draining
  let s := [0, 1, 2, 3].foldl markRings (markSettling (stepStage (chainStep (stepCount s held off))) true)
  let s := if jnlSize * 3 < jnlBytes s * 4 then s.raiseOnce evVltJnlHi 0 else s
  let l := dueOwn s draining ++ dueGlaze s ++ [.starts]
  { stepTables s with due := l }

/-! ### Qualification (R30 to R35, R43) -/

/-- tEPOCH in units of 100 ps. -/
def tEpoch (s : State) : Nat := s.epoch.period * 100

/-- A strobed EPOCH_NOMINAL takes effect (R43). -/
def adoptNominal (s : State) : State :=
  if s.regs.nominalPend then
    { s with regs := { s.regs with nominalPend := false }
             epoch := { s.epoch with period := s.cfg 0x3000C 13 0, intervals := [], synBase := s.now, synK := 1 } }
  else s

/-- HOLDOVER is entered now (R34): a step at phase 512, and further ones at T + k × P. -/
def enterHoldover (s : State) : State :=
  let s := (s.setBits 0x3001C 1).raise evEpoHoldover
  let s := adoptNominal { s with epoch := { s.epoch with qual := .holdover, consec := 0, holdCount := 0 } }
  let base := s.epoch.lastAcc.getD s.now
  let s := { s with epoch := { s.epoch with synBase := base, synK := max 2 ((s.now - base) * 16 / s.epoch.p16 + 1) } }
  epochStep s true 512

/-- Spacing of the synthesized steps, times 16 (R32). -/
def synSpace (s : State) : Nat := if s.epoch.qual = .acquire then 16 * tEpoch s else s.epoch.p16

/-- When the next synthesized step is due. -/
def synDue (s : State) : Nat := s.epoch.synBase + s.epoch.synK * synSpace s / 16

/-- A synthesized step at the time it is due (R34, R35). -/
def synStep (s : State) : State :=
  let s := advance (synDue s) s
  epochStep (adoptNominal { s with epoch := { s.epoch with synK := s.epoch.synK + 1 } }) true 0

/-- An edge is ignored (R30, R31): more than four in one tEPOCH are chatter. -/
def ignoreEdge (s : State) (t : Nat) : State :=
  let s := s.bump 0x30028
  let l := t :: s.epoch.ignored.filter (fun x => decide (t ≤ x + tEpoch s))
  let s := { s with epoch := { s.epoch with ignored := l, lastEdge := some t } }
  if s.epoch.chatter || decide (l.length ≤ 4) then s
  else
    let s := (s.setBits 0x3001C 8).raise evEpoChatter
    let s := { s with epoch := { s.epoch with chatter := true, consec := 0 } }
    if s.epoch.qual = .locked then enterHoldover s else s

/-- Time at which chattering ends: one tEPOCH after the last ignored edge (R31). -/
def chatterUntil (s : State) : Nat := s.epoch.ignored.headD 0 + tEpoch s

/-- Chattering ends. -/
def endChatter (s : State) : State := { s with epoch := { s.epoch with chatter := false, fresh := true, ignored := [] } }

/-- An accepted edge at time `t`; `ref` is its reference edge (R30, R32, R33, R35). The edge that re-enters LOCKED
does so before its own step, which is then the first step after the return to LOCKED: what R37 kept pending takes
effect at it (assumption 72). -/
def acceptEdge (s : State) (t : Nat) (ref : Option Nat) : State :=
  let e := s.epoch
  let up := decide (512 ≤ e.phase s.now)
  let same := e.held && decide (e.stepAt / 8 = s.now / 8)
  let ivs := match ref with
    | some r => ((t - r) :: e.intervals).take 16
    | none => e.intervals
  let s := { s with epoch := { e with
    intervals := ivs, lastAcc := some t, lastEdge := some t, fresh := false, consec := if ref.isSome then e.consec + 1 else 1 } }
  let s := adoptNominal s
  let s := { s with epoch := { s.epoch with synBase := t, synK := 1 } }
  let lock := s.epoch.qual != .locked && decide (2 ≤ s.epoch.consec)
  let was := s.epoch.qual
  let s := if lock then { s with epoch := { s.epoch with qual := .locked } }.raise evEpoLocked else s
  if was = .holdover ∨ was = .lost then
    (if up then epochStep s false 0 else { s with epoch := { s.epoch with phase0 := s.now, off := 0 } })
  else if same && was == .acquire then { s with epoch := { s.epoch with phase0 := s.now, off := 0 } }
  else epochStep s false 0

/-- A rising edge on SYNC_IN at time `t` (R30, R31). -/
def syncEdge (s : State) (t : Nat) : State :=
  let s := if s.epoch.chatter && decide (chatterUntil s ≤ t) then endChatter s else s
  if s.epoch.chatter then
    match s.epoch.lastEdge with
    | some p => if 2 * (t - p) < tEpoch s then ignoreEdge s t else { s with epoch := { s.epoch with lastEdge := some t } }
    | none => { s with epoch := { s.epoch with lastEdge := some t } }
  else
    let ref := if s.epoch.fresh then none else s.epoch.lastAcc.filter (fun a => decide (2 * (t - a) < 3 * tEpoch s))
    match ref with
    | some r => if 2 * (t - r) < tEpoch s then ignoreEdge s t else acceptEdge s t ref
    | none => acceptEdge s t ref

/-! ### The commands of the time base

Without power, or outside the state in which it can occur, an event does not arise (assumption 4). -/

/-- SYNC_IN_EDGE. -/
def edgeOp (s : State) (t : Nat) : State :=
  if !islandOn s then s else (let s := preStep t s; syncEdge s s.now)

/-- CHATTER_END. -/
def chatterEndOp (s : State) : State :=
  if !islandOn s || !s.epoch.chatter then s else endChatter (preAt (chatterUntil s) s)

/-- EPO_HOLDOVER: 1.5 periods have passed since the last accepted edge in LOCKED. -/
def holdoverOp (s : State) : State :=
  if !islandOn s || s.epoch.qual != .locked then s
  else enterHoldover (preStep (s.epoch.lastAcc.getD s.epoch.stepAt + s.epoch.p16 * 3 / 32) s)

/-- SYNTHESIZED_STEP. -/
def synOp (s : State) : State :=
  if !islandOn s || s.epoch.qual == .locked then s else synStep (preStep (synDue s) s)

/-- EPO_LOST: the synthesized step that ends the HOLD_LIMIT-th counted epoch. -/
def lostOp (s : State) : State :=
  if (s.epoch.qual == .acquire || s.epoch.qual == .holdover) && decide (holdLimit s ≤ s.epoch.holdCount) then synOp s else s

end Sys2Proof.Machine
end

