-- ==== Sys2Proof/Machine/Commands.lean ====
section
/-! DEFINITION. Acceptance, start and completion of commands (R337, R340 to R342), and the choice of the
running command that a command of the table executes. -/

namespace Sys2Proof.Machine

/-! ### Acceptance (R340) -/

/-- Times in a row that the high ring has been taken over a waiting normal ring, after a descriptor of ring
`r` is taken. -/
def nextRun (s : State) (m r : Nat) : Nat := if r = 0 ∧ ringFull s m 1 then (s.box m).hiRun + 1 else 0

/-- Mailbox `m` accepts the descriptor at the head of the ring it takes next. -/
def acceptFrom (s : State) (m : Nat) : State :=
  let r := pickRing s m
  let b := s.box m
  let (l, s) := bankRead s mstSequencer (cmdSlot m r (natAt b.head r)) 128
  let c : Cmd := { id := s.nextCmd, mb := m, ring := r, num := b.acc, desc := BitVec.ofNat 1024 (natLE l), ownerRight := isOwner s m
                   st := .accepted, status := 0, handle := 0xFFFFFFFF, vis := 0, held := false, jneed := none
                   since := s.epoch.count, stalled := false }
  let run := nextRun s m r
  let s := s.modBox m (fun b => { b with
    head := listMod b.head r (fun h => (h + 1) % 65536), acc := (b.acc + 1) % 65536, hiRun := run, waits := b.waits.set r none })
  markRings (acceptOwn { s with cmds := s.cmds ++ [c], nextCmd := s.nextCmd + 1, rrMbox := (m + 1) % 4 } c) m

/-- COMMAND_ACCEPT: the round robin gives the mailbox. During a flush, without power and with no eligible
mailbox nothing is accepted. `errs`: errors of the descriptor's words in the bank and of the ownership state. -/
def commandAccept (s : State) (errs : List PatrolErr) : State :=
  if s.power.flush.isSome || !s.power.pwrGood then s
  else match pickMbox s with
    | none => s
    | some m => acceptFrom (meet s errs) m

/-! ### Start (R337, R341, R264, R403) -/

/-- The unit that executes a command of this opcode (R25, R270): 0 the command sequencers, 1 the ownership logic,
2 the stall watchdog, 3 the management processor. -/
def opUnit (o : Nat) : Nat := if o / 16 = 8 then 1 else if o = 0x93 then 2 else if o / 16 = 0xA then 3 else 0

/-- Does a command of this opcode take a command sequencer? -/
def opSequenced (o : Nat) : Bool := opUnit o == 0

/-- Is a unit free to take command `c`: one of the eight sequencers, and the management processor in
acceptance order? -/
def unitFree (s : State) (c : Cmd) : Bool :=
  (!opSequenced c.op || decide ((s.cmds.filter (fun d => d.st == .running && opSequenced d.op)).length < 8)) &&
    (!opMgmt c.op || !s.cmds.any (fun d => opMgmt d.op && (d.st == .running || (d.st == .accepted && decide (d.id < c.id)))))

/-- A FENCE of the mailbox that has started and not completed holds later commands back. -/
def behindFence (s : State) (c : Cmd) : Bool :=
  s.cmds.any (fun d => d.mb == c.mb && decide (d.id < c.id) && d.op == 0x42 && (d.st == .running || d.st == .waiting .fence))

/-- The command of mailbox `m` that starts next: its oldest accepted one (R341). -/
def nextStart (s : State) (m : Nat) : Option Cmd := s.cmds.find? (fun c => c.mb == m && c.st == .accepted)

/-- May command `c` start now: no FENCE holds it back, and it fails a check at its start or finds a unit free? -/
def startable (s : State) (c : Cmd) : Bool := !behindFence s c && ((headCheck c).isSome || unitFree s c)

/-- The command that unit `u` takes next (R341): of those that mailboxes may start, one accepted from a high ring
first, and among them the next mailbox in round robin. -/
def unitTakes (s : State) (u : Nat) : Option Cmd :=
  let l := (([0, 1, 2, 3].map (fun k => (natAt s.rrStart u + k) % 4)).filterMap (nextStart s)).filter
    (fun c => opUnit c.op == u && startable s c)
  (l.find? (fun c => c.ring == 0)).or l.head?

/-- COMMAND_START: the oldest accepted command of the mailbox starts when it is the one that its unit takes, with
the first three checks of R337. `parity`: the datapath that carries it has a parity error, and it completes
INVALID (R275): so does one whose datapath fails while it runs, which changes nothing either (assumption 86). `errs`:
errors of what the command uses. -/
def commandStart (s : State) (m : Nat) (parity : Bool) (errs : List PatrolErr) : State :=
  match nextStart s m with
  | none => s
  | some c =>
    if (unitTakes s (opUnit c.op)).map (fun d => d.id) != some c.id then s
    else
      let s := meet { s with rrStart := s.rrStart.set (opUnit c.op) ((m + 1) % 4) } errs
      match (if parity then some stInvalid else headCheck c) with
      | some st => finish s c.id st
      | none => s.modCmds (fun d => d.id == c.id) (fun d => { d with st := .running, since := s.epoch.count })

/-! ### Completion (R341, R342) -/

/-- COMPLETION_POST: the oldest command of the mailbox, once it is finished and durable. -/
def completionPost (s : State) (m : Nat) : State := match oldest s m with
  | none => s
  | some c => if c.st == .finished && cmdDurable s c then wakeFences (postCpl s c) else s

/-- IRQ_COALESCE_TIMER: TIMER µs after the first completion that vector 0 has not reported. -/
def irqTimer (s : State) (m : Nat) : State :=
  let t := s.cfg (mbAddr m 0x1C) 31 16
  match (s.box m).firstAt with
  | none => s
  | some a =>
    if t = 0 then s
    else
      let s := preAt (a + t * 10000) s
      sendMsix (s.modBox m (fun b => { b with sinceRaise := 0, firstAt := none })) m 0

/-! ### The command that a row executes -/

/-- The oldest running command of mailbox `m` with opcode `op` that satisfies `p`. -/
def withCmdIf (s : State) (m op : Nat) (p : Cmd → Bool) (f : State → Cmd → State) : State :=
  match s.cmds.find? (fun c => c.mb == m && c.st == .running && c.op == op) with
  | none => s
  | some c => if p c then f s c else s

end Sys2Proof.Machine
end

