-- ==== Sys2Proof/Machine/RowsTime.lean ====
section
/-! DEFINITION. One meaning for each command of this family: the time base and the clocks: the commands SYNC_IN_EDGE to CLK_OSC_LOST. Each is one call of a shared
operation, after what has happened by itself before the command (`pre`). -/

namespace Sys2Proof.Machine

/-- SYNC_IN_EDGE (R30, R31): a rising edge on SYNC_IN at time `t`. -/
def execSyncInEdge (t : Nat) (s : State) : Host.Outcome State Fault Refusal :=
  .next (edgeOp s t)

/-- CHATTER_END (R31): one tEPOCH has passed with no ignored edge. -/
def execChatterEnd (s : State) : Host.Outcome State Fault Refusal :=
  .next (chatterEndOp s)

/-- SYNTHESIZED_STEP (R34, R35): the step due on the synthesized grid. -/
def execSynthesizedStep (s : State) : Host.Outcome State Fault Refusal :=
  .next (synOp s)

/-- EPO_HOLDOVER (R34): no accepted edge for 1.5 periods in LOCKED. -/
def execEpoHoldover (s : State) : Host.Outcome State Fault Refusal :=
  .next (holdoverOp s)

/-- EPO_LOST (R37): the step that ends the HOLD_LIMIT-th counted epoch. -/
def execEpoLost (s : State) : Host.Outcome State Fault Refusal :=
  .next (lostOp s)

/-- BEACON (R38, R438): a BEACON flit arrives on a host port. -/
def execBeacon (port : Fin 16) (flit : Flit) (s : State) : Host.Outcome State Fault Refusal :=
  .next (beaconIn (pre s) port flit)

/-- ARM (R39): a write to EPOCH_SET_HI. -/
def execArm (port : Fin 4) (value : Word) (s : State) : Host.Outcome State Fault Refusal :=
  .next (busWrite4 (prePort s port) port 0x30024 value)

/-- CLK_OSC_SWITCH (R17): the hub switches to the standby oscillator. -/
def execClkOscSwitch (s : State) : Host.Outcome State Fault Refusal :=
  .next (if s.power.pwrGood then oscSwitch (pre s) else s)

/-- CLK_OSC_LOST (R17, R374): both oscillators fail. -/
def execClkOscLost (s : State) : Host.Outcome State Fault Refusal :=
  .next (if s.power.pwrGood then oscFail (pre s) else s)

end Sys2Proof.Machine
end

