-- ==== Sys2Proof/Machine/RowsLinks.lean ====
section
/-! DEFINITION. One meaning for each command of this family: requests, links and the cascade: the commands KEY_REQ to WIN. Each is one call of a shared
operation, after what has happened by itself before the command (`pre`). -/

namespace Sys2Proof.Machine

/-- KEY_REQ (R102, R103): a key-form request frame arrives whole. -/
def execKeyReq (port : Fin 16) (flits : List Flit) (s : State) : Host.Outcome State Fault Refusal :=
  .next (requestIn (pre s) port false flits)

/-- HDR_REQ (R126): a header-form request frame arrives whole. -/
def execHdrReq (port : Fin 16) (flits : List Flit) (s : State) : Host.Outcome State Fault Refusal :=
  .next (requestIn (pre s) port true flits)

/-- REQUEST_ACCEPT (R125): the hub fixes t0 and the view of the oldest request of a context, and runs its passes. -/
def execRequestAccept (port : Fin 16) (ctx : Fin 8) (t : Nat) (faults : List FaultAt) (parseErr : Option Nat) (s : State) : Host.Outcome State Fault Refusal :=
  .next (acceptRequest (pre s) port ctx t faults parseErr)

/-- RESPONSE_EMIT (R20): the response leaves at t0 + L, and its updates are posted. -/
def execResponseEmit (port : Fin 16) (ctx : Fin 8) (awBad : List Nat) (err : Option CacheErr) (s : State) : Host.Outcome State Fault Refusal :=
  .next (emitResponse (pre s) port ctx awBad err)

/-- DT_WRITE (R439): an inline write of a direct-table word. -/
def execDtWrite (port : Fin 16) (flits : List Flit) (s : State) : Host.Outcome State Fault Refusal :=
  .next (dtWriteIn (pre s) port flits)

/-- LINK_FLIT (R431): a LINK flit in the link-control slot. -/
def execLinkFlit (port : Fin 18) (flit : Flit) (s : State) : Host.Outcome State Fault Refusal :=
  .next (linkFlitIn (pre s) port flit)

/-- LANE_FAILURE (R435): a lane of the port fails. -/
def execLaneFailure (port : Fin 18) (lane : Nat) (s : State) : Host.Outcome State Fault Refusal :=
  .next (laneFails (pre s) port lane)

/-- WIDEN_REQ (R436): a widen request or its acknowledgement arrives. -/
def execWidenReq (port : Fin 18) (flit : Flit) (s : State) : Host.Outcome State Fault Refusal :=
  .next (widenFlit (pre s) port flit)

/-- FLIT_CHECK_FAIL (R433): a flit of a round fails its check. -/
def execFlitCheckFail (port : Fin 18) (round : Nat) (s : State) : Host.Outcome State Fault Refusal :=
  .next (checkFail (pre s) port round)

/-- LNK_REPLAY_LIMIT (R433): a round has been resent 8 times without success. -/
def execLnkReplayLimit (port : Fin 18) (s : State) : Host.Outcome State Fault Refusal :=
  .next (replayLimit (pre s) port)

/-- LNK_UP (R434): training ends with these lanes in codeword lock here and at the peer. -/
def execLnkUp (port : Fin 18) (good peer : Word) (s : State) : Host.Outcome State Fault Refusal :=
  .next (trainEnd (pre s) port good peer)

/-- TRAIN_RETRY (R434): a further attempt of a port that found fewer than 4 good lanes. -/
def execTrainRetry (port : Fin 18) (good peer : Word) (s : State) : Host.Outcome State Fault Refusal :=
  .next (trainEnd (pre s) port good peer)

/-- HELLO_SEND (R310): hellos at phase 512. -/
def execHelloSend (s : State) : Host.Outcome State Fault Refusal :=
  .next (helloSend (pre s))

/-- HELLO (R310): a hello arrives on a cascade port. -/
def execHello (cp : Fin 2) (flit : Flit) (s : State) : Host.Outcome State Fault Refusal :=
  .next (helloIn (pre s) cp flit)

/-- CSC_CHAIN_LOST (R311): missing hellos or a lost link. -/
def execCscChainLost (why : ChainLoss) (s : State) : Host.Outcome State Fault Refusal :=
  .next (chainLost (pre s) why)

/-- SEARCH (R317): a search frame arrives from above. -/
def execSearch (flits : List Flit) (t : Nat) (faults : List FaultAt) (s : State) : Host.Outcome State Fault Refusal :=
  .next (searchIn (pre s) flits t faults)

/-- ANSWER_SEND (R317): the merged answer goes up exactly BUDGET after the search frame came. -/
def execAnswerSend (ctag : Nat) (s : State) : Host.Outcome State Fault Refusal :=
  .next (answerSend (pre s) ctag)

/-- ANSWER (R317): an answer frame arrives from below. -/
def execAnswer (flits : List Flit) (t : Nat) (s : State) : Host.Outcome State Fault Refusal :=
  .next (answerIn_ (pre s) flits t)

/-- WIN (R320): a win notice is relayed or posted. -/
def execWin (flit : Flit) (s : State) : Host.Outcome State Fault Refusal :=
  .next (winIn (pre s) flit)

end Sys2Proof.Machine
end

