-- ==== Sys2Proof/Machine/RowsCmds.lean ====
section
/-! DEFINITION. One meaning for each command of this family: the mailboxes and the Fresin commands: DOORBELL to READ_PUB. Each is one call of a shared
operation, after what has happened by itself before the command (`pre`). -/

namespace Sys2Proof.Machine

/-- DOORBELL (R339): a write to MB_CMD_TAIL of a mailbox. -/
def execDoorbell (port mb : Fin 4) (ring : Fin 2) (value : Word) (s : State) : Host.Outcome State Fault Refusal :=
  .next (busWrite4 (prePort s port) port (mbAddr mb (8 * ring)) value)

/-- MB_CPL_HEAD_WRITE (R341): a write to MB_CPL_HEAD. -/
def execMbCplHeadWrite (port mb : Fin 4) (value : Word) (s : State) : Host.Outcome State Fault Refusal :=
  .next (busWrite4 (prePort s port) port (mbAddr mb 0x14) value)

/-- COMMAND_ACCEPT (R340): one descriptor is accepted. -/
def execCommandAccept (s : State) (errs : List PatrolErr := []) : Host.Outcome State Fault Refusal :=
  .next (commandAccept (pre s) errs)

/-- COMMAND_START (R341): the oldest accepted command of the mailbox starts. -/
def execCommandStart (mb : Fin 4) (parity : Bool) (s : State) (errs : List PatrolErr := []) : Host.Outcome State Fault Refusal :=
  .next (commandStart (pre s) mb parity errs)

/-- COMPLETION_POST (R341): the oldest command of the mailbox posts its completion. -/
def execCompletionPost (mb : Fin 4) (s : State) : Host.Outcome State Fault Refusal :=
  .next (completionPost (pre s) mb)

/-- IRQ_COALESCE_TIMER (R342): the coalescing time of a mailbox has passed. -/
def execIrqCoalesceTimer (mb : Fin 4) (s : State) : Host.Outcome State Fault Refusal :=
  .next (irqTimer (pre s) mb)

/-- TBL_CREATE (R470). -/
def execTblCreate (mb : Fin 4) (s : State) : Host.Outcome State Fault Refusal :=
  .next (withCmdSlots (pre s) mb 0x01 cmdTblCreate)

/-- TBL_DESTROY (R471). -/
def execTblDestroy (mb : Fin 4) (s : State) : Host.Outcome State Fault Refusal :=
  .next (withCmdSlots (pre s) mb 0x02 cmdTblDestroy)

/-- TBL_ALTER (R65). -/
def execTblAlter (mb : Fin 4) (s : State) : Host.Outcome State Fault Refusal :=
  .next (withCmdSlots (pre s) mb 0x03 cmdTblAlter)

/-- TBL_MIRROR (R97). -/
def execTblMirror (mb : Fin 4) (s : State) : Host.Outcome State Fault Refusal :=
  .next (withCmdSlots (pre s) mb 0x04 cmdTblMirror)

/-- ENT_INSERT (R86). -/
def execEntInsert (mb : Fin 4) (io : HostIO) (s : State) : Host.Outcome State Fault Refusal :=
  .next (withCmdSlots (pre s) mb 0x20 (fun s c => cmdEntInsert (meet s io.errs) c io))

/-- ENT_DELETE (R180). -/
def execEntDelete (mb : Fin 4) (s : State) : Host.Outcome State Fault Refusal :=
  .next (withCmdSlots (pre s) mb 0x21 cmdEntDelete)

/-- ENT_MODIFY (R193). -/
def execEntModify (mb : Fin 4) (io : HostIO) (s : State) : Host.Outcome State Fault Refusal :=
  .next (withCmdSlots (pre s) mb 0x22 (fun s c => cmdEntModify (meet s io.errs) c io))

/-- ENT_REPRIO (R193). -/
def execEntReprio (mb : Fin 4) (s : State) : Host.Outcome State Fault Refusal :=
  .next (withCmdSlots (pre s) mb 0x23 cmdEntReprio)

/-- ENT_BATCH (R177). -/
def execEntBatch (mb : Fin 4) (io : HostIO) (s : State) : Host.Outcome State Fault Refusal :=
  .next (withCmdSlots (pre s) mb 0x24 (fun s c => cmdEntBatch (meet s io.errs) c io))

/-- GLAZE_SCHEDULE (R182). -/
def execGlazeSchedule (mb : Fin 4) (s : State) : Host.Outcome State Fault Refusal :=
  .next (withCmdSlots (pre s) mb 0x40 cmdGlazeSchedule)

/-- GLAZE_ABORT (R186). -/
def execGlazeAbort (mb : Fin 4) (s : State) : Host.Outcome State Fault Refusal :=
  .next (withCmdSlots (pre s) mb 0x41 cmdGlazeAbort)

/-- FENCE (R187). -/
def execFence (mb : Fin 4) (s : State) : Host.Outcome State Fault Refusal :=
  .next (withCmd (pre s) mb 0x42 cmdFence)

/-- ENT_READ (R473). -/
def execEntRead (mb : Fin 4) (io : HostIO) (s : State) : Host.Outcome State Fault Refusal :=
  .next (withCmd (pre s) mb 0x50 (fun s c => cmdEntRead (meet s io.errs) c io))

/-- QUERY_SEARCH (R474). -/
def execQuerySearch (mb : Fin 4) (s : State) : Host.Outcome State Fault Refusal :=
  .next (withCmd (pre s) mb 0x51 (fun s c => askQuery (cmdQuerySearch s c) c))

/-- QUERY_FIND (R474). -/
def execQueryFind (mb : Fin 4) (io : HostIO) (s : State) : Host.Outcome State Fault Refusal :=
  .next (withCmd (pre s) mb 0x52 (fun s c => cmdQueryFind (meet s io.errs) c io))

/-- TBL_STATS (R475). -/
def execTblStats (mb : Fin 4) (io : HostIO) (s : State) : Host.Outcome State Fault Refusal :=
  .next (withCmd (pre s) mb 0x53 (fun s c => cmdTblStats (meet s io.errs) c io))

/-- LEARN_CFG (R220). -/
def execLearnCfg (mb : Fin 4) (s : State) : Host.Outcome State Fault Refusal :=
  .next (withCmdSlots (pre s) mb 0x60 cmdLearnCfg)

/-- AGE_SWEEP (R224). -/
def execAgeSweep (mb : Fin 4) (s : State) : Host.Outcome State Fault Refusal :=
  .next (withCmdSlots (pre s) mb 0x61 cmdAgeSweep)

/-- CNT_READ (R209). -/
def execCntRead (mb : Fin 4) (io : HostIO) (s : State) : Host.Outcome State Fault Refusal :=
  .next (withCmdSlots (pre s) mb 0x62 (fun s c => cmdCntRead (meet s io.errs) c io))

/-- CNT_CLEAR (R210); `written` says how many records reached host memory before a failed write. -/
def execCntClear (mb : Fin 4) (io : HostIO) (written : Nat) (s : State) : Host.Outcome State Fault Refusal :=
  .next (withCmdSlots (pre s) mb 0x63 (fun s c => cmdCntClear (meet s io.errs) c io written))

/-- CNT_SNAPSHOT (R213). -/
def execCntSnapshot (mb : Fin 4) (s : State) : Host.Outcome State Fault Refusal :=
  .next (withCmdSlots (pre s) mb 0x64 cmdCntSnapshot)

/-- VAULT_CHECKPOINT (R386). -/
def execVaultCheckpoint (mb : Fin 4) (s : State) : Host.Outcome State Fault Refusal :=
  .next (withCmd (pre s) mb 0x70 cmdVaultCheckpoint)

/-- VAULT_IMPORT (R396). -/
def execVaultImport (mb : Fin 4) (io : HostIO) (s : State) : Host.Outcome State Fault Refusal :=
  .next (withCmdSlots (pre s) mb 0x71 (fun s c => cmdVaultImport (meet s io.errs) c io))

/-- VAULT_EXPORT (R395). -/
def execVaultExport (mb : Fin 4) (io : HostIO) (s : State) : Host.Outcome State Fault Refusal :=
  .next (withCmd (pre s) mb 0x72 (fun s c => cmdVaultExport (meet s io.errs) c io))

/-- CRUMB_SET (R371); `programmed`: NAND took both copies. -/
def execCrumbSet (mb : Fin 4) (io : HostIO) (programmed : Bool) (s : State) : Host.Outcome State Fault Refusal :=
  .next (withCmd (pre s) mb 0x73 (fun s c => cmdCrumbSet (meet s io.errs) c io programmed))

/-- VAULT_STATUS (R397). -/
def execVaultStatus (mb : Fin 4) (io : HostIO) (s : State) : Host.Outcome State Fault Refusal :=
  .next (withCmd (pre s) mb 0x74 (fun s c => cmdVaultStatus (meet s io.errs) c io))

/-- OWN_CLAIM (R334). -/
def execOwnClaim (mb : Fin 4) (s : State) : Host.Outcome State Fault Refusal :=
  .next (withCmd (pre s) mb 0x80 cmdOwnClaim)

/-- OWN_RENEW (R330). -/
def execOwnRenew (mb : Fin 4) (s : State) : Host.Outcome State Fault Refusal :=
  .next (withCmd (pre s) mb 0x81 cmdOwnRenew)

/-- OWN_HANDOVER (R332). -/
def execOwnHandover (mb : Fin 4) (s : State) : Host.Outcome State Fault Refusal :=
  .next (withCmd (pre s) mb 0x82 cmdOwnHandover)

/-- OWN_ACCEPT (R332). -/
def execOwnAccept (mb : Fin 4) (s : State) : Host.Outcome State Fault Refusal :=
  .next (withCmd (pre s) mb 0x83 cmdOwnAccept)

/-- OWN_RELEASE (R331). -/
def execOwnRelease (mb : Fin 4) (s : State) : Host.Outcome State Fault Refusal :=
  .next (withCmd (pre s) mb 0x84 cmdOwnRelease)

/-- SCRUB_NOW (R286): SPRINKLE_CFG with OP 0; the undefined OP 3 is refused here. -/
def execScrubNow (mb : Fin 4) (s : State) : Host.Outcome State Fault Refusal :=
  .next (withCmdIf (pre s) mb 0x90 (fun c => spkOp c == 0 || spkOp c == 3) cmdSprinkle)

/-- TEST_BLOCK (R286): SPRINKLE_CFG with OP 1. -/
def execTestBlock (mb : Fin 4) (s : State) : Host.Outcome State Fault Refusal :=
  .next (withCmdIf (pre s) mb 0x90 (fun c => spkOp c == 1) cmdSprinkle)

/-- HOLD (R286): SPRINKLE_CFG with OP 2. -/
def execHold (mb : Fin 4) (s : State) : Host.Outcome State Fault Refusal :=
  .next (withCmdIf (pre s) mb 0x90 (fun c => spkOp c == 2) cmdSprinkle)

/-- BLOCK_RETIRE (R287). -/
def execBlockRetire (mb : Fin 4) (s : State) : Host.Outcome State Fault Refusal :=
  .next (withCmd (pre s) mb 0x91 cmdBlockRetire)

/-- FLUSH (R242): CACHE_MAINT with OP 0; the undefined OP 3 is refused here. -/
def execFlush (mb : Fin 4) (s : State) : Host.Outcome State Fault Refusal :=
  .next (withCmdIf (pre s) mb 0x92 (fun c => maintOp c == 0 || maintOp c == 3) cmdCacheMaint)

/-- INVALIDATE (R242): CACHE_MAINT with OP 1. -/
def execInvalidate (mb : Fin 4) (s : State) : Host.Outcome State Fault Refusal :=
  .next (withCmdIf (pre s) mb 0x92 (fun c => maintOp c == 1) cmdCacheMaint)

/-- DISCARD (R244): CACHE_MAINT with OP 2. -/
def execDiscard (mb : Fin 4) (s : State) : Host.Outcome State Fault Refusal :=
  .next (withCmdIf (pre s) mb 0x92 (fun c => maintOp c == 2) cmdCacheMaint)

/-- WAITGRAPH_READ (R270). -/
def execWaitgraphRead (mb : Fin 4) (io : HostIO) (s : State) : Host.Outcome State Fault Refusal :=
  .next (withCmd (pre s) mb 0x93 (fun s c => cmdWaitgraph (meet s io.errs) c io))

/-- LOG_READ (R415). -/
def execLogRead (mb : Fin 4) (io : HostIO) (s : State) : Host.Outcome State Fault Refusal :=
  .next (withCmd (pre s) mb 0xA0 (fun s c => cmdLogRead (meet s io.errs) c io))

/-- SENSOR_READ (R407). -/
def execSensorRead (mb : Fin 4) (io : HostIO) (s : State) : Host.Outcome State Fault Refusal :=
  .next (withCmd (pre s) mb 0xA1 (fun s c => cmdSensorRead (meet s io.errs) c io))

/-- INSTALL (R417): KEY_PROVISION with OP 0; `programmed`: NAND took the slot. -/
def execInstall (mb : Fin 4) (io : HostIO) (programmed : Bool) (s : State) : Host.Outcome State Fault Refusal :=
  .next (withCmdIf (pre s) mb 0xA2 (fun c => keyOp c == 0) (fun s c => cmdInstall (meet s io.errs) c io programmed))

/-- GENERATE (R417): KEY_PROVISION with OP 1. -/
def execGenerate (mb : Fin 4) (io : HostIO) (programmed : Bool) (s : State) : Host.Outcome State Fault Refusal :=
  .next (withCmdIf (pre s) mb 0xA2 (fun c => keyOp c == 1) (fun s c => cmdGenerate (meet s io.errs) c io programmed))

/-- ERASE (R417): KEY_PROVISION with OP 2. -/
def execErase (mb : Fin 4) (io : HostIO) (programmed : Bool) (s : State) : Host.Outcome State Fault Refusal :=
  .next (withCmdIf (pre s) mb 0xA2 (fun c => keyOp c == 2) (fun s c => cmdErase (meet s io.errs) c io programmed))

/-- READ_PUB (R417): KEY_PROVISION with OP 3. -/
def execReadPub (mb : Fin 4) (io : HostIO) (s : State) : Host.Outcome State Fault Refusal :=
  .next (withCmdIf (pre s) mb 0xA2 (fun c => keyOp c == 3) (fun s c => cmdReadPub (meet s io.errs) c io))

end Sys2Proof.Machine
end

