-- ==== Sys2Proof/Machine/RowsRegs.lean ====
section
/-! DEFINITION. One meaning for each command of this family: ownership, update groups and register accesses: OWN_CLAIM_CAST to REGISTER_WRITE, and REGISTER_READ. Each is one call of a shared
operation, after what has happened by itself before the command (`pre`). -/

namespace Sys2Proof.Machine

/-- Is this action the vacancy and the election of a step? -/
def isVacant : Due → Bool
  | .vacant _ => true
  | _ => false

/-- SMBus alert causes and link widths after actions of a step. -/
def settle_ (s : State) : State := alertUpdate (settleLinks s)

/-- OWN_CLAIM_CAST (R328): a write to OWN_CLAIM. -/
def execOwnClaimCast (port : Fin 4) (value : Word) (s : State) : Host.Outcome State Fault Refusal :=
  .next (busWrite4 (prePort s port) port 0x10008 value)

/-- OWN_CLAIM_WITHDRAW (R328): a write to OWN_CLAIM; RANK 0 withdraws the ballot. -/
def execOwnClaimWithdraw (port : Fin 4) (value : Word) (s : State) : Host.Outcome State Fault Refusal :=
  .next (busWrite4 (prePort s port) port 0x10008 value)

/-- RENEW (R330): a write to OWN_LEASE. -/
def execRenew (port : Fin 4) (value : Word) (s : State) : Host.Outcome State Fault Refusal :=
  .next (busWrite4 (prePort s port) port 0x1000C value)

/-- LEASE_END (R330): the present step ends the lease. -/
def execLeaseEnd (s : State) : Host.Outcome State Fault Refusal :=
  .next (settle_ (dueUpTo (fun d => d == .leaseEnd) s))

/-- OWNERSHIP_VACANT (R331): the present step ends the drain, and the election follows. -/
def execOwnershipVacant (s : State) : Host.Outcome State Fault Refusal :=
  .next (settle_ (dueUpTo isVacant s))

/-- HANDOVER_PASS (R332): ownership passes at the present step. -/
def execHandoverPass (s : State) : Host.Outcome State Fault Refusal :=
  .next (settle_ (dueUpTo (fun d => d == .handover) s))

/-- UPD_STROBE (R357): a write to UPD_STROBE. -/
def execUpdStrobe (port : Fin 4) (value : Word) (s : State) : Host.Outcome State Fault Refusal :=
  .next (busWrite4 (prePort s port) port 0x10100 value)

/-- UPD_SCHED_SET (R358): a write to UPD_SCHED_SET. -/
def execUpdSchedSet (port : Fin 4) (value : Word) (s : State) : Host.Outcome State Fault Refusal :=
  .next (busWrite4 (prePort s port) port 0x1010C value)

/-- UPD_SCHED_DISARM (R358): a write to UPD_SCHED_ARMED. -/
def execUpdSchedDisarm (port : Fin 4) (value : Word) (s : State) : Host.Outcome State Fault Refusal :=
  .next (busWrite4 (prePort s port) port 0x10110 value)

/-- SCHEDULED_APPLY (R358): an armed group applies at the present step. -/
def execScheduledApply (group : Fin 32) (s : State) : Host.Outcome State Fault Refusal :=
  .next (settle_ (dueUpTo (fun d => d == .apply group) s))

/-- WHEEL_GOES_LIVE (R303): a wheel copy becomes live at its wrap. -/
def execWheelGoesLive (wheel : Fin 66) (s : State) : Host.Outcome State Fault Refusal :=
  .next (wheelLiveAt (pre s) wheel)

/-- STG_CTRL_RESET (R375): a write to STG_CTRL. -/
def execStgCtrlReset (port : Fin 4) (value : Word) (s : State) : Host.Outcome State Fault Refusal :=
  .next (busWrite4 (prePort s port) port 0x104 value)

/-- CC_DRAIN_START (R245): a write to CC_EN; EN = 0 starts draining. -/
def execCcDrainStart (port : Fin 4) (value : Word) (s : State) : Host.Outcome State Fault Refusal :=
  .next (busWrite4 (prePort s port) port 0x100000 value)

/-- CC_ENABLE (R245): a write to CC_EN; EN = 1 enables an empty cache. -/
def execCcEnable (port : Fin 4) (value : Word) (s : State) : Host.Outcome State Fault Refusal :=
  .next (busWrite4 (prePort s port) port 0x100000 value)

/-- WAY_DISABLE_WRITE (R240): a write to CC_WAY_EN; a 0 disables its way. -/
def execWayDisableWrite (port : Fin 4) (value : Word) (s : State) : Host.Outcome State Fault Refusal :=
  .next (busWrite4 (prePort s port) port 0x100004 value)

/-- WAY_ENABLE_WRITE (R240): a write to CC_WAY_EN; a 1 returns its way to service. -/
def execWayEnableWrite (port : Fin 4) (value : Word) (s : State) : Host.Outcome State Fault Refusal :=
  .next (busWrite4 (prePort s port) port 0x100004 value)

/-- RETRAIN (R434): a write to HP_CTRL; bit 0 retrains the port. -/
def execRetrain (port : Fin 4) (link : Fin 18) (value : Word) (s : State) : Host.Outcome State Fault Refusal :=
  .next (busWrite4 (prePort s port) port (hpAddr link 8) value)

/-- WIDEN (R436): a write to HP_CTRL; bit 1 sends WIDEN_REQ. -/
def execWiden (port : Fin 4) (link : Fin 18) (value : Word) (s : State) : Host.Outcome State Fault Refusal :=
  .next (busWrite4 (prePort s port) port (hpAddr link 8) value)

/-- RC_READ (R352): a full-width read; the owner's clears the RC fields. -/
def execRcRead (port : Fin 4) (addr : Nat) (s : State) : Host.Outcome State Fault Refusal :=
  .next (busReadOp (preRead s) port addr 4 .none)

/-- RSH_LATCH_READ (R353): a read of the low word of a pair, or of both words. -/
def execRshLatchRead (port : Fin 4) (addr : Nat) (both : Bool) (s : State) : Host.Outcome State Fault Refusal :=
  .next (busReadOp (preRead s) port addr (if both then 8 else 4) .none)

/-- PW_WRITE (R354): a write to a lane register. -/
def execPwWrite (port : Fin 4) (addr : Nat) (value : Word) (s : State) : Host.Outcome State Fault Refusal :=
  .next (busWrite4 (prePort s port) port addr value)

/-- PW_BUSY_CLEAR (R354): the slow domain takes the posted value. -/
def execPwBusyClear (lane : Fin 512) (s : State) : Host.Outcome State Fault Refusal :=
  .next (pwTake (pre s) lane)

/-- BIT_SET_WRITE (R291): a write through the bit-set alias of the shared banks. -/
def execBitSetWrite (port : Fin 4) (addr : Nat) (data : List Byte) (s : State) (err : RegErr := .none) : Host.Outcome State Fault Refusal :=
  .next (busWriteOp (prePort s port) port addr data err)

/-- BIT_CLEAR_WRITE (R291): a write through the bit-clear alias. -/
def execBitClearWrite (port : Fin 4) (addr : Nat) (data : List Byte) (s : State) (err : RegErr := .none) : Host.Outcome State Fault Refusal :=
  .next (busWriteOp (prePort s port) port addr data err)

/-- REGISTER_WRITE (R347 to R350): any write of a management port; a poisoned one is dropped and logged (R443). -/
def execRegisterWrite (port : Fin 4) (addr : Nat) (data : List Byte) (s : State) (poisoned : Bool := false) : Host.Outcome State Fault Refusal :=
  .next (if poisoned then poisonedWrite (prePort s port) port addr else busWriteOp (prePort s port) port addr data)

/-- REGISTER_READ (R347 to R353, R360, R361): any read of a management port. -/
def execRegisterRead (port : Fin 4) (addr size : Nat) (err : RegErr) (s : State) : Host.Outcome State Fault Refusal :=
  .next (busReadOp (preRead s) port addr size err)

end Sys2Proof.Machine
end

