-- ==== Sys2Proof/Machine/RowsTables.lean ====
section
/-! DEFINITION. One meaning for each command of this family: glazes, settle, learning, aging, snapshots and the counter cache: GLAZE_EFFECT to CC_DRAINED, and AGE_SWEEP_DONE. Each is one call of a shared
operation, after what has happened by itself before the command (`pre`). -/

namespace Sys2Proof.Machine

/-- Is this action a glaze of table `t`? -/
def glazeOf (t : Nat) : Due → Bool
  | .glaze u _ => u == t
  | _ => false

/-- Is this action a copy-map change of table `t`? -/
def copyMapOf (s : State) (t : Nat) : Due → Bool
  | .copyMap i => s.dies.changes.any (fun (k : CopyChange) => k.id == i && k.table == t)
  | _ => false

/-- GLAZE_EFFECT (R182): the glazes of a table take effect at the present step. -/
def execGlazeEffect (table : Fin 255) (s : State) : Host.Outcome State Fault Refusal :=
  .next (settle_ (dueUpTo (glazeOf table) s))

/-- INTERNAL_GLAZE_SEAL (R218): OPEN slots with internal changes alone are sealed at the present step. -/
def execInternalGlazeSeal (s : State) : Host.Outcome State Fault Refusal :=
  .next (settle_ (dueUpTo (fun d => d == .internalSeal) s))

/-- COPY_MAP_CHANGE (R65, R97): the copy-map changes of a table take effect at the present step. -/
def execCopyMapChange (table : Fin 255) (s : State) : Host.Outcome State Fault Refusal :=
  .next (settle_ (dueUpTo (copyMapOf s table) s))

/-- SETTLE (R197): a generation of the table settles. -/
def execSettle (table : Fin 255) (s : State) (errs : List PatrolErr := []) : Host.Outcome State Fault Refusal :=
  .next (withSlots (pre s) (settleMeet (pre s) table errs) 3 (fun d => { unit := 3, idx := d }))

/-- LEARN_APPLY (R222): the next learn record is applied. -/
def execLearnApply (s : State) (errs : List PatrolErr := []) : Host.Outcome State Fault Refusal :=
  .next (withSlots (pre s) (learnMeet (pre s) errs) 2 (fun _ => { unit := 2, idx := 7 }))

/-- AGE_SWEEP_START (R225): a sweep starts, or is skipped, at the present step. -/
def execAgeSweepStart (table : Fin 255) (s : State) : Host.Outcome State Fault Refusal :=
  .next (settle_ (dueUpTo (fun d => d == .ageStart table) s))

/-- AGE_COMPARE (R226): a candidate is compared. -/
def execAgeCompare (table : Fin 255) (handle : Word) (wr : Bool) (s : State) (errs : List PatrolErr := []) : Host.Outcome State Fault Refusal :=
  .next (withSlots (pre s) (ageMeet (pre s) table handle.toNat wr errs) 2 (fun _ => { unit := 2, idx := 7 }))

/-- SNAPSHOT_TAKE (R214): an armed snapshot is taken at the present step. -/
def execSnapshotTake (buf : Fin 2) (s : State) (errs : List PatrolErr := []) : Host.Outcome State Fault Refusal :=
  .next (settle_ (snapshotMeet s (dueUpTo (fun d => d == .snapshot buf) s) buf errs))

/-- CNT_SNAP_DONE (R214): the copy of a snapshot ends. -/
def execCntSnapDone (buf : Fin 2) (s : State) : Host.Outcome State Fault Refusal :=
  .next (snapDone (pre s) buf)

/-- CC_FILL_RETURN (R235): the fill of a line returns. -/
def execCcFillReturn (line : Nat) (s : State) (errs : List PatrolErr := []) : Host.Outcome State Fault Refusal :=
  .next (fillMeet (pre s) line errs)

/-- CC_WAY_OFF (R240): the sweep of a disabled way ends. -/
def execCcWayOff (way : Fin 16) (s : State) : Host.Outcome State Fault Refusal :=
  .next (wayOff (pre s) way)

/-- CC_DRAINED (R245): the drain sweep ends. -/
def execCcDrained (s : State) : Host.Outcome State Fault Refusal :=
  .next (ccDrained (pre s))

/-- AGE_SWEEP_DONE (R225): a sweep has read its table. -/
def execAgeSweepDone (table : Fin 255) (s : State) : Host.Outcome State Fault Refusal :=
  .next (ageDone (pre s) table)

end Sys2Proof.Machine
end

