-- ==== Sys2Proof/Machine/RowsMaint.lean ====
section
/-! DEFINITION. One meaning for each command of this family: mirrors, recovery, sprinkle, the watchdog and the vault: AUTO_MIRROR_WINDOW_END to VLT_LOST, and SCRUB_PASS_DONE. Each is one call of a shared
operation, after what has happened by itself before the command (`pre`). -/

namespace Sys2Proof.Machine

/-- AUTO_MIRROR_WINDOW_END (R99): the auto-mirror window of a die ends at the present step. -/
def execAutoMirrorWindowEnd (die : Fin 4) (s : State) : Host.Outcome State Fault Refusal :=
  .next (settle_ (dueUpTo (fun d => d == .mirrorWindow die) s))

/-- REBUILD_START (R254): a suspect unit claims a spare. -/
def execRebuildStart (die : Fin 4) (unit : Nat) (s : State) : Host.Outcome State Fault Refusal :=
  .next (rebuildStart (pre s) die unit)

/-- REBUILD_VERIFIED (R254): a copy is verified, or fails its verification. -/
def execRebuildVerified (die : Fin 4) (unit : Nat) (good : Bool) (s : State) (errs : List PatrolErr := []) : Host.Outcome State Fault Refusal :=
  .next (rebuildMeet (pre s) die unit good errs)

/-- COPY_SWAP (R255): a verified copy takes its place at the present step. -/
def execCopySwap (die : Fin 4) (unit : Nat) (s : State) : Host.Outcome State Fault Refusal :=
  .next (settle_ (dueUpTo (fun d => d == .swap die unit) s))

/-- SCRUB_PASS_START (R277): a scrub pass begins at the present step; `errs`: what it meets in the memories that it reads. -/
def execScrubPassStart (errs : List PatrolErr) (s : State) : Host.Outcome State Fault Refusal :=
  .next (settle_ (scrubStart (dueUpTo (fun d => d == .scrub) s) s.spk.scrub errs))

/-- SCRUB_RUN (R279): one run of 64 rows is compared with its signature; `first` and `second` are the rows that its
readings give other than the ternary shadow, `errs` the errors that it meets in the shadow. -/
def execScrubRun (die : Fin 4) (unit run : Nat) (first second : List (Nat × BitVec 168)) (errs : List PatrolErr) (s : State) :
    Host.Outcome State Fault Refusal :=
  .next (scrubMeet (pre s) die unit run first second errs)

/-- TEST_WINDOW (R281): the window of a test position opens at the present step. -/
def execTestWindow (die : Fin 4) (s : State) : Host.Outcome State Fault Refusal :=
  .next (settle_ (dueUpTo (fun d => d == .testWindow die) s))

/-- ARRAY_TEST_DONE (R283, R284): the march test of a die ends. -/
def execArrayTestDone (die : Fin 4) (pass : Bool) (s : State) : Host.Outcome State Fault Refusal :=
  .next (arrayTestDone (pre s) die pass)

/-- SB_REGION_TEST_START (R288): a region test starts at the present step. -/
def execSbRegionTestStart (s : State) : Host.Outcome State Fault Refusal :=
  .next (settle_ (dueUpTo (fun d => d == .sbTest) s))

/-- SB_REGION_TEST_DONE (R289, R290): a region test ends; `failed` lists its failed rows. -/
def execSbRegionTestDone (failed : List Nat) (s : State) : Host.Outcome State Fault Refusal :=
  .next (sbTestDone (preAt (sbEnd (flushDue s)) s) failed)

/-- SCRUB_PASS_DONE (R277): a scrub pass ends. -/
def execScrubPassDone (s : State) : Host.Outcome State Fault Refusal :=
  .next (scrubDone (pre s))

/-- WDG_STALL (R268): a watched wait exceeds its limit; `idx` numbers the waits. -/
def execWdgStall (idx : Nat) (s : State) : Host.Outcome State Fault Refusal :=
  .next (wdgStall (pre s) idx)

/-- STALL_ABORT (R269): a wait of a command exceeds its abort limit. -/
def execStallAbort (mb : Fin 4) (s : State) : Host.Outcome State Fault Refusal :=
  .next (stallAbort (pre s) mb)

/-- JOURNAL_PROGRAM_DONE (R382, R384): the records up to `upTo` are in NAND, but for one that staging lost, `ue`. -/
def execJournalProgramDone (upTo : Nat) (ue : Option Nat) (s : State) : Host.Outcome State Fault Refusal :=
  .next (match ue with
    | some q => journalProgramDone (stageUe (pre s) q) upTo
    | none => journalProgramDone (pre s) upTo)

/-- CHECKPOINT_START (R385): a checkpoint starts at the present step. -/
def execCheckpointStart (s : State) : Host.Outcome State Fault Refusal :=
  .next (settle_ (dueUpTo (fun d => d == .checkpoint) s))

/-- VLT_CKPT_DONE (R385): the checkpoint-end record is in NAND. -/
def execVltCkptDone (s : State) : Host.Outcome State Fault Refusal :=
  .next (ckptDone (pre s))

/-- PATROL_PERIOD_START (R392, R398): a patrol period starts at the present step; `stripe`: it meets a journal
stripe that cannot be read. -/
def execPatrolPeriodStart (stripe : Bool) (s : State) : Host.Outcome State Fault Refusal :=
  .next (settle_ (patrolStart (dueUpTo (fun d => d == .patrol) s) s.vault.patrolStart stripe))

/-- VLT_RETIRE (R390): a NAND block fails and is retired. -/
def execVltRetire (block : Nat) (s : State) : Host.Outcome State Fault Refusal :=
  .next (vltRetire (pre s) block)

/-- VLT_LOST (R399): the vault is lost. -/
def execVltLost (s : State) : Host.Outcome State Fault Refusal :=
  .next (if s.power.pwrGood then vltLost (pre s) else s)

end Sys2Proof.Machine
end

