-- ==== Sys2Proof/Machine/RowsPower.lean ====
section
/-! DEFINITION. One meaning for each command of this family: power, resets, the test port, the stages, management and the sideband: POWER_LOSS to SMB_WRITE_REJECT, and the rows after them. Each is one call of a shared
operation, after what has happened by itself before the command (`pre`). -/

namespace Sys2Proof.Machine

/-- A cause of FAULTSAFE is found (R374); the loss of the vault is handled as R399 says, and the loss of the
activity stores takes the counter cache and a running checkpoint with it (R262, R385). -/
def fsEntry (s : State) : FsCause → State
  | .die d => enterFs s 0 d
  | .activityStore => enterFs (cacheLost (dropCkpt s)) 1 0
  | .vault => vltLost s
  | .oscillators => oscFail s
  | .config => enterFs s 4 0

/-- POWER_LOSS (R393): VIN falls below 42 V. -/
def execPowerLoss (written : Nat) (s : State) : Host.Outcome State Fault Refusal :=
  .next (vinLow (pre s) written)

/-- PWR_IN_LOW (R451): VIN has been below 44 V for 1 ms. -/
def execPwrInLow (s : State) : Host.Outcome State Fault Refusal :=
  .next (pwrInLow (pre s))

/-- VIN_OVERVOLTAGE (R451): VIN rises above 60 V. -/
def execVinOvervoltage (written : Nat) (s : State) : Host.Outcome State Fault Refusal :=
  .next (vinHigh (pre s) written)

/-- PWR_EN_RISE (R454). -/
def execPwrEnRise (s : State) : Host.Outcome State Fault Refusal :=
  .next (pwrEnRise (pre s))

/-- PWR_EN_FALL (R454). -/
def execPwrEnFall (s : State) : Host.Outcome State Fault Refusal :=
  .next (pwrEnFall (pre s))

/-- PWR_GOOD_RISE (R452, R365): the rails regulate and the store is charged. -/
def execPwrGoodRise (t : Nat) (microfarad : Nat) (modId : BitVec 2) (s : State) : Host.Outcome State Fault Refusal :=
  .next (pwrGoodRise (pre s) t microfarad modId)

/-- MRST_N_LOW (R375). -/
def execMrstNLow (s : State) : Host.Outcome State Fault Refusal :=
  .next (mrstLow (pre s))

/-- MRST_N_RELEASE (R309, R365). -/
def execMrstNRelease (t : Nat) (modId : BitVec 2) (s : State) : Host.Outcome State Fault Refusal :=
  .next (mrstRelease (pre s) t modId)

/-- RESET_FLUSH_DONE (R375). -/
def execResetFlushDone (s : State) : Host.Outcome State Fault Refusal :=
  .next (resetFlushDone (pre s))

/-- PERST_ASSERT (R343, R331). -/
def execPerstAssert (port : Fin 4) (kind : PerstKind) (s : State) : Host.Outcome State Fault Refusal :=
  .next (perstAssert (pre s) port kind)

/-- MAILBOX_RESTART (R343). -/
def execMailboxRestart (port : Fin 4) (s : State) : Host.Outcome State Fault Refusal :=
  .next (mailboxRestart (pre s) port)

/-- TRST_N (R444): the TAP controller alone is reset; IDCODE is then in effect (PRESUMED, IEEE 1149.1; assumption 48). -/
def execTrstN (s : State) : Host.Outcome State Fault Refusal :=
  .next (tapLoad (pre s) 1)

/-- BYPASS (R444). -/
def execBypass (s : State) : Host.Outcome State Fault Refusal :=
  .next (tapLoad (pre s) 0)

/-- IDCODE (R444): the identification code is shifted out. -/
def execIdcode (s : State) : Host.Outcome State Fault Refusal :=
  .next (tapIdcode (pre s))

/-- SAMPLE/PRELOAD (R444). -/
def execSamplePreload (s : State) : Host.Outcome State Fault Refusal :=
  .next (tapLoad (pre s) 2)

/-- EXTEST (R444): effective only while MRST_N is low, else BYPASS. -/
def execExtest (s : State) : Host.Outcome State Fault Refusal :=
  .next (tapLoad (pre s) 3)

/-- CLAMP (R444): effective only while MRST_N is low, else BYPASS. -/
def execClamp (s : State) : Host.Outcome State Fault Refusal :=
  .next (tapLoad (pre s) 4)

/-- HIGHZ (R444): effective only while MRST_N is low, else BYPASS. -/
def execHighz (s : State) : Host.Outcome State Fault Refusal :=
  .next (tapLoad (pre s) 5)

/-- EXTEST_PULSE (R444): effective only while MRST_N is low, else BYPASS. -/
def execExtestPulse (s : State) : Host.Outcome State Fault Refusal :=
  .next (tapLoad (pre s) 6)

/-- EXTEST_TRAIN (R444): effective only while MRST_N is low, else BYPASS. -/
def execExtestTrain (s : State) : Host.Outcome State Fault Refusal :=
  .next (tapLoad (pre s) 7)

/-- CRUMB_ENTRY (R365, R370): what DORMANT waits for is done; `copyA`, `copyB`: the crumb copies that pass their
checks; `config`: a configuration copy passes; `repairs`: partition headers repaired (R379); `imgA`, `imgB`: the headers of
the images pass. -/
def execCrumbEntry (t : Nat) (copyA copyB config : Bool) (repairs : Nat) (s : State) (imgA imgB : Bool := true) : Host.Outcome State Fault Refusal :=
  .next (crumbEntry (preAt t s) copyA copyB config repairs imgA imgB)

/-- TABLE_RESTORE_DONE (R373, R387, R388): the restore of the present table ends; `secA`, `secB`: its sections of
the images pass their CRC; `cut`: the record at which the journal is cut. -/
def execTableRestoreDone (secA secB : Bool) (cut : Option Nat) (s : State) : Host.Outcome State Fault Refusal :=
  .next (tableRestored (pre s) secA secB cut)

/-- STG_PROMOTE (R372): a verified table is promoted at the present step. -/
def execStgPromote (table : Fin 255) (s : State) : Host.Outcome State Fault Refusal :=
  .next (settle_ (dueUpTo (fun d => d == .promote table) s))

/-- CRUMB_SPARE_RELEASE (R370). -/
def execCrumbSpareRelease (table : Fin 255) (s : State) : Host.Outcome State Fault Refusal :=
  .next (crumbRelease (pre s) table)

/-- FAULTSAFE_ENTRY (R374). -/
def execFaultsafeEntry (cause : FsCause) (s : State) : Host.Outcome State Fault Refusal :=
  .next (if s.power.pwrGood then fsEntry (pre s) cause else s)

/-- SENSOR_CONVERSION (R405, R408). -/
def execSensorConversion (r : Readings) (s : State) : Host.Outcome State Fault Refusal :=
  .next (if islandOn s then sensorScan (pre s) r else s)

/-- MGT_THERM_TRIP (R408). -/
def execMgtThermTrip (sensor : Fin 32) (s : State) : Host.Outcome State Fault Refusal :=
  .next (thermTrip (pre s) sensor)

/-- THERMAL_RESTART (R408). -/
def execThermalRestart (t : Nat) (s : State) : Host.Outcome State Fault Refusal :=
  .next (thermalRestart (pre s) t)

/-- MGT_RAIL_FAULT (R408). -/
def execMgtRailFault (rail : Fin 14) (mv : Nat) (s : State) : Host.Outcome State Fault Refusal :=
  .next (if islandOn s then railFault (pre s) rail mv else s)

/-- MGT_RESTART (R404). -/
def execMgtRestart (s : State) : Host.Outcome State Fault Refusal :=
  .next (if islandOn s then mgtRestart (pre s) else s)

/-- LOG_RECORD_WRITE (R411, R413). -/
def execLogRecordWrite (s : State) : Host.Outcome State Fault Refusal :=
  .next (logWrite (pre s))

/-- LOG_FLUSH (R414). -/
def execLogFlush (s : State) : Host.Outcome State Fault Refusal :=
  .next (logFlush (pre s))

/-- SMB_READ_ID (R420): Block Read 0x00. -/
def execSmbReadId (s : State) : Host.Outcome State Fault Refusal :=
  .next (let s := pre s; smbAnswer s 0 true (bytesLE 4 (s.live 0).toNat ++ bytesLE 4 (s.live 4).toNat))

/-- SMB_READ_STAGE (R420): Read Word 0x01. -/
def execSmbReadStage (s : State) : Host.Outcome State Fault Refusal :=
  .next (let s := pre s; smbAnswer s 1 false (bytesLE 1 s.stage.stage ++ bytesLE 1 s.stage.fsCause.toNat))

/-- SMB_READ_STAGE_STATUS (R420): Block Read 0x02. -/
def execSmbReadStageStatus (s : State) : Host.Outcome State Fault Refusal :=
  .next (let s := pre s; smbAnswer s 2 true (bytesLE 4 (stageStatus s)))

/-- SMB_READ_TEMP (R420): Read Word 0x10 + `code`. -/
def execSmbReadTemp (code : Fin 32) (s : State) : Host.Outcome State Fault Refusal :=
  .next (let s := pre s; smbAnswer s (0x10 + code) false (bytesLE 2 (intBits 16 (s.mgmt.temp.getD code 0))))

/-- SMB_READ_VOLT (R420): Read Word 0x30 + `code`. -/
def execSmbReadVolt (code : Fin 16) (s : State) : Host.Outcome State Fault Refusal :=
  .next (let s := pre s; smbAnswer s (0x30 + code) false (bytesLE 2 (natAt s.mgmt.volt code)))

/-- SMB_READ_CURR (R420): Read Word 0x40 + `code`. -/
def execSmbReadCurr (code : Fin 16) (s : State) : Host.Outcome State Fault Refusal :=
  .next (let s := pre s; smbAnswer s (0x40 + code) false (bytesLE 2 (natAt s.mgmt.curr code)))

/-- SMB_READ_POWER (R420): Read Word 0x50. -/
def execSmbReadPower (s : State) : Host.Outcome State Fault Refusal :=
  .next (let s := pre s; smbAnswer s 0x50 false (bytesLE 2 s.mgmt.power))

/-- ALERT_STATUS (R421): Read Word 0x51. -/
def execAlertStatus (s : State) : Host.Outcome State Fault Refusal :=
  .next (smbAlertStatus (pre s))

/-- SMB_LOG_SUMMARY (R420): Block Read 0x60. -/
def execSmbLogSummary (s : State) : Host.Outcome State Fault Refusal :=
  .next (smbSummary (pre s))

/-- ALERT_RESPONSE (R421): a read at the Alert Response Address. -/
def execAlertResponse (s : State) : Host.Outcome State Fault Refusal :=
  .next (smbAra (pre s))

/-- SMB_WRITE_REJECT (R419, R420): a write protocol (`write`) or an unlisted code. -/
def execSmbWriteReject (_write : Bool) (s : State) : Host.Outcome State Fault Refusal :=
  .next (smbReject (pre s))

/-- LNK_FRAME_ERR (R430): a flit opens a frame that is discarded; `slot0`: it came in the link-control slot. -/
def execLnkFrameErr (port : Fin 18) (flit : Flit) (slot0 : Bool) (s : State) : Host.Outcome State Fault Refusal :=
  .next (frameErrIn (pre s) port flit slot0)

/-- CODEWORD_LOCK_GAINED (R425): a lane declares codeword lock. -/
def execCodewordLockGained (lane : Fin 512) (s : State) : Host.Outcome State Fault Refusal :=
  .next (laneLock (pre s) lane)

/-- PWR_GOOD_LATE (R455). -/
def execPwrGoodLate (s : State) : Host.Outcome State Fault Refusal :=
  .next (pwrGoodLate (pre s))

/-- VIN_RESTART (R451). -/
def execVinRestart (s : State) : Host.Outcome State Fault Refusal :=
  .next (vinRestart (pre s))

/-- POWER_DOWN (R454). -/
def execPowerDown (s : State) : Host.Outcome State Fault Refusal :=
  .next (powerDown (pre s))

/-- PWREN_LOW_ELAPSED (R454). -/
def execPwrenLowElapsed (s : State) : Host.Outcome State Fault Refusal :=
  .next (pwrenElapsed (pre s))

end Sys2Proof.Machine
end

