-- ==== Sys2Proof/Machine/Dispatch.lean ====
section
/-! DEFINITION. What each command does to the state: one arm per command of the block. -/

namespace Sys2Proof.Machine

def exec (i : Instr) (s : State) : Host.Outcome State Fault Refusal :=
  match i with
  | .syncInEdge t => Sys2Proof.Machine.execSyncInEdge t s
  | .chatterEnd => Sys2Proof.Machine.execChatterEnd s
  | .synthesizedStep => Sys2Proof.Machine.execSynthesizedStep s
  | .epoHoldover => Sys2Proof.Machine.execEpoHoldover s
  | .epoLost => Sys2Proof.Machine.execEpoLost s
  | .beacon port flit => Sys2Proof.Machine.execBeacon port flit s
  | .arm port value => Sys2Proof.Machine.execArm port value s
  | .clkOscSwitch => Sys2Proof.Machine.execClkOscSwitch s
  | .clkOscLost => Sys2Proof.Machine.execClkOscLost s
  | .keyReq port flits => Sys2Proof.Machine.execKeyReq port flits s
  | .hdrReq port flits => Sys2Proof.Machine.execHdrReq port flits s
  | .requestAccept port ctx t faults parseErr => Sys2Proof.Machine.execRequestAccept port ctx t faults parseErr s
  | .responseEmit port ctx awBad err => Sys2Proof.Machine.execResponseEmit port ctx awBad err s
  | .dtWrite port flits => Sys2Proof.Machine.execDtWrite port flits s
  | .linkFlit port flit => Sys2Proof.Machine.execLinkFlit port flit s
  | .laneFailure port lane => Sys2Proof.Machine.execLaneFailure port lane s
  | .widenReq port flit => Sys2Proof.Machine.execWidenReq port flit s
  | .flitCheckFail port round => Sys2Proof.Machine.execFlitCheckFail port round s
  | .lnkReplayLimit port => Sys2Proof.Machine.execLnkReplayLimit port s
  | .lnkUp port good peer => Sys2Proof.Machine.execLnkUp port good peer s
  | .trainRetry port good peer => Sys2Proof.Machine.execTrainRetry port good peer s
  | .helloSend => Sys2Proof.Machine.execHelloSend s
  | .hello cp flit => Sys2Proof.Machine.execHello cp flit s
  | .cscChainLost why => Sys2Proof.Machine.execCscChainLost why s
  | .search flits t faults => Sys2Proof.Machine.execSearch flits t faults s
  | .answerSend ctag => Sys2Proof.Machine.execAnswerSend ctag s
  | .answer flits t => Sys2Proof.Machine.execAnswer flits t s
  | .win flit => Sys2Proof.Machine.execWin flit s
  | .doorbell port mb ring value => Sys2Proof.Machine.execDoorbell port mb ring value s
  | .mbCplHeadWrite port mb value => Sys2Proof.Machine.execMbCplHeadWrite port mb value s
  | .commandAccept errs => Sys2Proof.Machine.execCommandAccept s errs
  | .commandStart mb parity errs => Sys2Proof.Machine.execCommandStart mb parity s errs
  | .completionPost mb => Sys2Proof.Machine.execCompletionPost mb s
  | .irqCoalesceTimer mb => Sys2Proof.Machine.execIrqCoalesceTimer mb s
  | .tblCreate mb => Sys2Proof.Machine.execTblCreate mb s
  | .tblDestroy mb => Sys2Proof.Machine.execTblDestroy mb s
  | .tblAlter mb => Sys2Proof.Machine.execTblAlter mb s
  | .tblMirror mb => Sys2Proof.Machine.execTblMirror mb s
  | .entInsert mb io => Sys2Proof.Machine.execEntInsert mb io s
  | .entDelete mb => Sys2Proof.Machine.execEntDelete mb s
  | .entModify mb io => Sys2Proof.Machine.execEntModify mb io s
  | .entReprio mb => Sys2Proof.Machine.execEntReprio mb s
  | .entBatch mb io => Sys2Proof.Machine.execEntBatch mb io s
  | .glazeSchedule mb => Sys2Proof.Machine.execGlazeSchedule mb s
  | .glazeAbort mb => Sys2Proof.Machine.execGlazeAbort mb s
  | .fence mb => Sys2Proof.Machine.execFence mb s
  | .entRead mb io => Sys2Proof.Machine.execEntRead mb io s
  | .querySearch mb => Sys2Proof.Machine.execQuerySearch mb s
  | .queryFind mb io => Sys2Proof.Machine.execQueryFind mb io s
  | .tblStats mb io => Sys2Proof.Machine.execTblStats mb io s
  | .learnCfg mb => Sys2Proof.Machine.execLearnCfg mb s
  | .ageSweep mb => Sys2Proof.Machine.execAgeSweep mb s
  | .cntRead mb io => Sys2Proof.Machine.execCntRead mb io s
  | .cntClear mb io written => Sys2Proof.Machine.execCntClear mb io written s
  | .cntSnapshot mb => Sys2Proof.Machine.execCntSnapshot mb s
  | .vaultCheckpoint mb => Sys2Proof.Machine.execVaultCheckpoint mb s
  | .vaultImport mb io => Sys2Proof.Machine.execVaultImport mb io s
  | .vaultExport mb io => Sys2Proof.Machine.execVaultExport mb io s
  | .crumbSet mb io programmed => Sys2Proof.Machine.execCrumbSet mb io programmed s
  | .vaultStatus mb io => Sys2Proof.Machine.execVaultStatus mb io s
  | .ownClaim mb => Sys2Proof.Machine.execOwnClaim mb s
  | .ownRenew mb => Sys2Proof.Machine.execOwnRenew mb s
  | .ownHandover mb => Sys2Proof.Machine.execOwnHandover mb s
  | .ownAccept mb => Sys2Proof.Machine.execOwnAccept mb s
  | .ownRelease mb => Sys2Proof.Machine.execOwnRelease mb s
  | .scrubNow mb => Sys2Proof.Machine.execScrubNow mb s
  | .testBlock mb => Sys2Proof.Machine.execTestBlock mb s
  | .hold mb => Sys2Proof.Machine.execHold mb s
  | .blockRetire mb => Sys2Proof.Machine.execBlockRetire mb s
  | .flush mb => Sys2Proof.Machine.execFlush mb s
  | .invalidate mb => Sys2Proof.Machine.execInvalidate mb s
  | .discard mb => Sys2Proof.Machine.execDiscard mb s
  | .waitgraphRead mb io => Sys2Proof.Machine.execWaitgraphRead mb io s
  | .logRead mb io => Sys2Proof.Machine.execLogRead mb io s
  | .sensorRead mb io => Sys2Proof.Machine.execSensorRead mb io s
  | .install mb io programmed => Sys2Proof.Machine.execInstall mb io programmed s
  | .generate mb io programmed => Sys2Proof.Machine.execGenerate mb io programmed s
  | .erase mb io programmed => Sys2Proof.Machine.execErase mb io programmed s
  | .readPub mb io => Sys2Proof.Machine.execReadPub mb io s
  | .ownClaimCast port value => Sys2Proof.Machine.execOwnClaimCast port value s
  | .ownClaimWithdraw port value => Sys2Proof.Machine.execOwnClaimWithdraw port value s
  | .renew port value => Sys2Proof.Machine.execRenew port value s
  | .leaseEnd => Sys2Proof.Machine.execLeaseEnd s
  | .ownershipVacant => Sys2Proof.Machine.execOwnershipVacant s
  | .handoverPass => Sys2Proof.Machine.execHandoverPass s
  | .updStrobe port value => Sys2Proof.Machine.execUpdStrobe port value s
  | .updSchedSet port value => Sys2Proof.Machine.execUpdSchedSet port value s
  | .updSchedDisarm port value => Sys2Proof.Machine.execUpdSchedDisarm port value s
  | .scheduledApply group => Sys2Proof.Machine.execScheduledApply group s
  | .wheelGoesLive wheel => Sys2Proof.Machine.execWheelGoesLive wheel s
  | .stgCtrlReset port value => Sys2Proof.Machine.execStgCtrlReset port value s
  | .ccDrainStart port value => Sys2Proof.Machine.execCcDrainStart port value s
  | .ccEnable port value => Sys2Proof.Machine.execCcEnable port value s
  | .wayDisableWrite port value => Sys2Proof.Machine.execWayDisableWrite port value s
  | .wayEnableWrite port value => Sys2Proof.Machine.execWayEnableWrite port value s
  | .retrain port link value => Sys2Proof.Machine.execRetrain port link value s
  | .widen port link value => Sys2Proof.Machine.execWiden port link value s
  | .rcRead port addr => Sys2Proof.Machine.execRcRead port addr s
  | .rshLatchRead port addr both => Sys2Proof.Machine.execRshLatchRead port addr both s
  | .pwWrite port addr value => Sys2Proof.Machine.execPwWrite port addr value s
  | .pwBusyClear lane => Sys2Proof.Machine.execPwBusyClear lane s
  | .bitSetWrite port addr data err => Sys2Proof.Machine.execBitSetWrite port addr data s err
  | .bitClearWrite port addr data err => Sys2Proof.Machine.execBitClearWrite port addr data s err
  | .registerWrite port addr data poisoned => Sys2Proof.Machine.execRegisterWrite port addr data s poisoned
  | .glazeEffect table => Sys2Proof.Machine.execGlazeEffect table s
  | .internalGlazeSeal => Sys2Proof.Machine.execInternalGlazeSeal s
  | .copyMapChange table => Sys2Proof.Machine.execCopyMapChange table s
  | .settle table errs => Sys2Proof.Machine.execSettle table s errs
  | .learnApply errs => Sys2Proof.Machine.execLearnApply s errs
  | .ageSweepStart table => Sys2Proof.Machine.execAgeSweepStart table s
  | .ageCompare table handle wr errs => Sys2Proof.Machine.execAgeCompare table handle wr s errs
  | .snapshotTake buf errs => Sys2Proof.Machine.execSnapshotTake buf s errs
  | .cntSnapDone buf => Sys2Proof.Machine.execCntSnapDone buf s
  | .autoMirrorWindowEnd die => Sys2Proof.Machine.execAutoMirrorWindowEnd die s
  | .ccFillReturn line errs => Sys2Proof.Machine.execCcFillReturn line s errs
  | .ccWayOff way => Sys2Proof.Machine.execCcWayOff way s
  | .ccDrained => Sys2Proof.Machine.execCcDrained s
  | .rebuildStart die unit => Sys2Proof.Machine.execRebuildStart die unit s
  | .rebuildVerified die unit good errs => Sys2Proof.Machine.execRebuildVerified die unit good s errs
  | .copySwap die unit => Sys2Proof.Machine.execCopySwap die unit s
  | .scrubPassStart errs => Sys2Proof.Machine.execScrubPassStart errs s
  | .scrubRun die unit run first second errs => Sys2Proof.Machine.execScrubRun die unit run first second errs s
  | .testWindow die => Sys2Proof.Machine.execTestWindow die s
  | .arrayTestDone die pass => Sys2Proof.Machine.execArrayTestDone die pass s
  | .sbRegionTestStart => Sys2Proof.Machine.execSbRegionTestStart s
  | .sbRegionTestDone failed => Sys2Proof.Machine.execSbRegionTestDone failed s
  | .wdgStall idx => Sys2Proof.Machine.execWdgStall idx s
  | .stallAbort mb => Sys2Proof.Machine.execStallAbort mb s
  | .journalProgramDone upTo ue => Sys2Proof.Machine.execJournalProgramDone upTo ue s
  | .checkpointStart => Sys2Proof.Machine.execCheckpointStart s
  | .vltCkptDone => Sys2Proof.Machine.execVltCkptDone s
  | .patrolPeriodStart stripe => Sys2Proof.Machine.execPatrolPeriodStart stripe s
  | .vltRetire block => Sys2Proof.Machine.execVltRetire block s
  | .vltLost => Sys2Proof.Machine.execVltLost s
  | .powerLoss written => Sys2Proof.Machine.execPowerLoss written s
  | .pwrInLow => Sys2Proof.Machine.execPwrInLow s
  | .vinOvervoltage written => Sys2Proof.Machine.execVinOvervoltage written s
  | .pwrEnRise => Sys2Proof.Machine.execPwrEnRise s
  | .pwrEnFall => Sys2Proof.Machine.execPwrEnFall s
  | .pwrGoodRise t microfarad modId => Sys2Proof.Machine.execPwrGoodRise t microfarad modId s
  | .mrstNLow => Sys2Proof.Machine.execMrstNLow s
  | .mrstNRelease t modId => Sys2Proof.Machine.execMrstNRelease t modId s
  | .resetFlushDone => Sys2Proof.Machine.execResetFlushDone s
  | .perstAssert port kind => Sys2Proof.Machine.execPerstAssert port kind s
  | .mailboxRestart port => Sys2Proof.Machine.execMailboxRestart port s
  | .trstN => Sys2Proof.Machine.execTrstN s
  | .bypass => Sys2Proof.Machine.execBypass s
  | .idcode => Sys2Proof.Machine.execIdcode s
  | .samplePreload => Sys2Proof.Machine.execSamplePreload s
  | .extest => Sys2Proof.Machine.execExtest s
  | .clamp => Sys2Proof.Machine.execClamp s
  | .highz => Sys2Proof.Machine.execHighz s
  | .extestPulse => Sys2Proof.Machine.execExtestPulse s
  | .extestTrain => Sys2Proof.Machine.execExtestTrain s
  | .crumbEntry t copyA copyB config repairs imgA imgB => Sys2Proof.Machine.execCrumbEntry t copyA copyB config repairs s imgA imgB
  | .tableRestoreDone secA secB cut => Sys2Proof.Machine.execTableRestoreDone secA secB cut s
  | .stgPromote table => Sys2Proof.Machine.execStgPromote table s
  | .crumbSpareRelease table => Sys2Proof.Machine.execCrumbSpareRelease table s
  | .faultsafeEntry cause => Sys2Proof.Machine.execFaultsafeEntry cause s
  | .sensorConversion r => Sys2Proof.Machine.execSensorConversion r s
  | .mgtThermTrip sensor => Sys2Proof.Machine.execMgtThermTrip sensor s
  | .thermalRestart t => Sys2Proof.Machine.execThermalRestart t s
  | .mgtRailFault rail mv => Sys2Proof.Machine.execMgtRailFault rail mv s
  | .mgtRestart => Sys2Proof.Machine.execMgtRestart s
  | .logRecordWrite => Sys2Proof.Machine.execLogRecordWrite s
  | .logFlush => Sys2Proof.Machine.execLogFlush s
  | .smbReadId => Sys2Proof.Machine.execSmbReadId s
  | .smbReadStage => Sys2Proof.Machine.execSmbReadStage s
  | .smbReadStageStatus => Sys2Proof.Machine.execSmbReadStageStatus s
  | .smbReadTemp code => Sys2Proof.Machine.execSmbReadTemp code s
  | .smbReadVolt code => Sys2Proof.Machine.execSmbReadVolt code s
  | .smbReadCurr code => Sys2Proof.Machine.execSmbReadCurr code s
  | .smbReadPower => Sys2Proof.Machine.execSmbReadPower s
  | .alertStatus => Sys2Proof.Machine.execAlertStatus s
  | .smbLogSummary => Sys2Proof.Machine.execSmbLogSummary s
  | .alertResponse => Sys2Proof.Machine.execAlertResponse s
  | .smbWriteReject write => Sys2Proof.Machine.execSmbWriteReject write s
  | .ageSweepDone table => Sys2Proof.Machine.execAgeSweepDone table s
  | .scrubPassDone => Sys2Proof.Machine.execScrubPassDone s
  | .registerRead port addr size err => Sys2Proof.Machine.execRegisterRead port addr size err s
  | .lnkFrameErr port flit slot0 => Sys2Proof.Machine.execLnkFrameErr port flit slot0 s
  | .codewordLockGained lane => Sys2Proof.Machine.execCodewordLockGained lane s
  | .pwrGoodLate => Sys2Proof.Machine.execPwrGoodLate s
  | .vinRestart => Sys2Proof.Machine.execVinRestart s
  | .powerDown => Sys2Proof.Machine.execPowerDown s
  | .pwrenLowElapsed => Sys2Proof.Machine.execPwrenLowElapsed s

end Sys2Proof.Machine
end

