-- ==== Sys2Proof/Certificates/Slice0/Obligations.lean ====
section
/-! DEFINITION. The statements for the provers. `Claim` holds their vocabulary: what a statement says of a
command is said of the next state that `exec` answers, as an equation or as a change of named fields, every
other field being that of `pre s`, the state after what has happened by itself before the command (`prePort s port` for
a register write of a port, `preRead s` for a register read). -/

namespace Sys2Proof.Claim

open Machine

/-- Executing `i` on `s` answers a next state, of which `P` holds. -/
def Gives (i : Instr) (s : State) (P : State → Prop) : Prop := ∃ t, exec i s = .next t ∧ P t

/-- The 32-bit counter at `a` counts one more, saturating. -/
def Counts (u t : State) (a : Nat) : Prop := t.live a = word (min 0xFFFFFFFF ((u.live a).toNat + 1))

/-- The status bit of event `e` is set. -/
def Flagged (t : State) (e : Ev) : Prop := bit (t.live (0x20000 + e.src / 16 * 4)) (e.src % 16) = true

/-! ### The time base -/

/-- The reference edge of an edge that arrives now (R30), when the input is not chattering. -/
def reference (u : State) : Option Nat :=
  if u.epoch.fresh then none else u.epoch.lastAcc.filter (fun a => decide (2 * (u.now - a) < 3 * tEpoch u))

/-- The edge comes earlier than half a period after its reference edge. -/
def tooEarly (u : State) : Bool := match reference u with
  | some r => decide (2 * (u.now - r) < tEpoch u)
  | none => false

/-- The edges ignored within one tEPOCH, this one included. -/
def ignoredNow (u : State) : Nat := (u.epoch.ignored.filter (fun x => decide (u.now ≤ x + tEpoch u))).length + 1

/-- EPOCH_SET is armed with a value above the counter. -/
def setArmed (u : State) : Bool :=
  bit (u.live 0x30024) 31 && decide (u.epoch.count < (u.live 0x30020).toNat + u.cfg 0x30024 15 0 * 2 ^ 32)

/-- The value that EPOCH_SET holds. -/
def setValue (u : State) : Nat := (u.live 0x30020).toNat + u.cfg 0x30024 15 0 * 2 ^ 32

/-- The number that the next step gives the epoch (R38, R39). -/
def nextNumber (u : State) : Nat :=
  if setArmed u then setValue u
  else match u.epoch.beacon with
    | none => u.epoch.count + 1
    | some b =>
      if u.epoch.count < b ∧ u.epoch.numbered = false then b
      else if u.epoch.count + 1 < b ∧ bit (u.live 0x30014) 17 = true then b
      else u.epoch.count + 1

/-! ### Requests -/

/-- The request that a key-form or a header-form frame carries. -/
def received (hform : Bool) (fl : List Flit) : Req := parseReq hform (fl.take (reqFlits hform fl))

/-- The request frame is taken: the port runs, the frame has the TYPE of its form, and its context has credit. -/
def frameTaken (u : State) (p : Nat) (hform : Bool) (fl : List Flit) : Bool :=
  linkUp (u.link p) && payload fl 0 4 == (if hform then 2 else 1) && natAt (u.link p).creds (received hform fl).ctx != 0

/-- The inline write names a word of a DIRECT table that is LIVE, on a port that may write it (R439). -/
def inlineTaken (u : State) (p : Nat) (fl : List Flit) : Bool :=
  linkUp (u.link p) && payload fl 0 4 == 3 && (u.link p).dcred != 0 && bit (u.live (hpAddr p 8)) 6 && payload fl 4 2 != 3 &&
    payload fl 34 222 == 0 && (match u.table (payload fl 6 8) with
      | some x => x.kind == .direct && x.st == .live && x.removed.isNone && decide (payload fl 14 20 < taDirSize u (payload fl 6 8))
      | none => false)

/-- The direct-table word that the inline write names. -/
def inlineWord (u : State) (fl : List Flit) : Nat := taDirBase u (payload fl 6 8) + payload fl 14 20

/-- The hub cycle in which a request that may be accepted now gets its t0. -/
def acceptAt (u : State) (t : Nat) : Nat := hubCeil (max t u.now)

/-- The request `r` of a context is its oldest, and every condition of acceptance holds at its t0 (R125, R139, R232). -/
def acceptable (u : State) (port ctx t : Nat) (r : Req) : Bool :=
  let l := u.link port
  let t0 := acceptAt u t
  let g := firstSlot l (t0 + 8 * requestLat u r.profile t0)
  let e := lastOf l ((profileLen u r.profile + 255) / 256) g
  l.rx.find? (fun (q : Req) => q.ctx == ctx) == some r && takesRequests u && linkUp l && slotsFree l g e &&
    decide (natAt l.lastSlot ctx < g) && decide ((u.holds.filter (fun h => h.port == port && h.ctx == ctx)).length < 256) &&
    decide (u.cache.queue.length + 32 ≤ 65536) &&
    (!r.hform || decide ((u.walkEnds.filter (fun w => decide (t0 < w))).length < 768))

/-- The oldest request of a context that waits for its response. -/
def oldestHold (u : State) (port ctx : Nat) : Option Hold := u.holds.find? (fun (h : Hold) => h.port == port && h.ctx == ctx)

/-- None of the lookup faults is an error of a configuration register. -/
def noRegFault (l : List FaultAt) : Bool := l.all (fun f => match f.fault with
  | .reg .. => false
  | _ => true)

/-- A hold entry that posts nothing when it is answered. -/
def quiet (h : Hold) : Bool :=
  h.csc.isEmpty && h.upds.isEmpty && h.learns.isEmpty && h.safes.isEmpty && h.bads.isEmpty &&
    h.recs.all (fun r => r.upd.isNone && r.learn.isNone && !r.safe && !r.awBad)

/-! ### Links and the cascade -/

/-- `t` is `u` but for link states, registers, events and the output; a cascade port that goes down also loses its
verified link. -/
def OnlyLinks (u t : State) : Prop :=
  t = { u with links := t.links, csc := t.csc, regs := t.regs, mgmt := t.mgmt, out := t.out }

/-- The lanes that training finds good in both directions, and the link they make (R434 steps 1 to 3). -/
def trained (u : State) (p : Nat) (good peer : Word) : Link :=
  { u.link p with
    good := good &&& word (2 ^ groupLanes p - 1), peer := peer &&& word (2 ^ groupLanes p - 1), enabled := laneEnable u p
    maxW := widest u p, nrz := bit (u.live (hpAddr p 8)) 5 }

/-- The port trains: it has power, is out of reset and enabled, and has begun to train, or is to be tried again. -/
def trains (u : State) (p : Nat) : Bool :=
  u.power.pwrGood && u.power.mrstN && bit (u.live (hpAddr p 8)) 7 && decide ((u.link p).st ≤ 1) && decide (p < u.links.length)

/-- The frame of a flit that opens one is discarded, for the reason given (R430). -/
def discardReason (p : Nat) (f : Flit) (slot0 : Bool) : Option Nat :=
  let t := fld f 255 252
  if !typeDefined t then some 0
  else if !typeAllowed p t then some 1
  else if (t == 0xF) != slot0 then some 2
  else none

/-- A LINK flit that reports no change: the sender is ACTIVE, and every lane in use has lock at the peer. -/
def plainLink (u : State) (p : Nat) (f : Flit) : Bool :=
  linkUp (u.link p) && fld f 255 252 == 0xF && fld f 251 248 != 1 && fld f 251 248 != 3 && fld f 251 248 != 4 &&
    !(lanesInUse p (u.link p)).any (fun j => !bit (word (fld f 247 216)) j)

/-- A hello that agrees with this module (R310): position, length, part number and epoch. -/
def helloAgrees (u : State) (c : Nat) (f : Flit) : Bool :=
  cpRuns u c && fld f 255 252 == 0xE && helloErr u c f == 0

/-- What the search frame asks for, and the time at which its answer is due (R317). -/
def searchBudget (fl : List Flit) : Nat := payload fl 19 13

/-- The merged answer of the oldest search frame with a tag (R317, R318). -/
def servedPart (u : State) (e : CscServe) : Nat × Rec × Nat :=
  if cpUsed u 1 then
    (let m := mergeParts (e.pstat, e.part, e.pos) (e.ans.getD (5, e.part, 0)); (m.1, m.2.1, m.2.2.1))
  else (e.pstat, e.part, e.pos)

/-! ### Mailboxes and Fresin commands -/

/-- `c` is the command that runs in mailbox `mb` with opcode `op` and that a row of the table executes (R174, R341). -/
def Runs (u : State) (mb op : Nat) (c : Cmd) : Prop := runningCmd u mb op = some c

/-- As `Runs`, for a command whose row is one of its operations. -/
def RunsOp (u : State) (mb op : Nat) (p : Cmd → Bool) (c : Cmd) : Prop :=
  u.cmds.find? (fun d => d.mb == mb && d.st == .running && d.op == op) = some c ∧ p c = true

/-- Command `c` ends with this result, and no other command changes; a journal record may be what its completion waits
for (R338, R382). -/
def Ends (u t : State) (c : Cmd) (status handle vis : Nat) (held : Bool) : Prop :=
  ∃ q : Option Nat, t.cmds = u.cmds.map (fun d => if d.id == c.id then
    { d with st := .finished, status := status, handle := handle, vis := vis, held := held, jneed := q.or d.jneed } else d)

/-- Command `c` waits for `w`. -/
def Waits (t : State) (c : Cmd) (w : Wait) : Prop := ∃ d ∈ t.cmds, d.id = c.id ∧ d.st = .waiting w

/-- Command `i` is refused with a status, and nothing changes but its completion (R337). -/
def Refused (i : Instr) (s u : State) (c : Cmd) (status : Nat) (handle : Nat := 0xFFFFFFFF) : Prop :=
  Gives i s (fun v => Ends u v c status handle 0 false ∧ v = { u with cmds := v.cmds })

/-- The journal has room for the record of a command, or the vault takes none (R201, R384). -/
def recordFits (u : State) : Bool := journalRoom u || !vaultTakes u

/-- A change of the command can be made, and made durable as its class asks (R261, R201). -/
def mayChange (u : State) (c : Cmd) : Bool := !vaultFails u c.op && recordFits u

/-- TBL_CREATE passes its form checks. -/
def createForm (c : Cmd) : Bool := c.compl 16 48 32 && !c.auto && !c.addr && c.zeroFrom 80

/-- TBL_ALTER passes its form checks, for a table of kind `k`. -/
def alterForm (c : Cmd) (k : Kind) : Bool :=
  c.compl 16 48 4 && c.compl 40 72 8 && kindOf (word (c.le 16 4)) == some k && !c.auto && !c.addr && c.zeroFrom 80 &&
    c.table != 255 && fld (word (c.le 16 4)) 31 27 != 0 && resOk k (word (c.le 16 4)) (word (c.le 40 4)) (word (c.le 44 4)) &&
    ([(0x0, word (c.le 16 4)), (0x20, word (c.le 40 4)), (0x24, word (c.le 44 4))] : List (Nat × Word)).all
      (fun p => p.2 &&& word (attrReserved k p.1) == 0)

/-- The TBL_ALTER of a TREE table agrees with the table and with what RULE_MAX the tree store has (R45, R65, R73). -/
def alterTree (u : State) (c : Cmd) : Bool :=
  let st := word (c.le 16 4)
  tableKind u c.table == some .tree && tableLive u c.table && !lockWait u c &&
    fld st 5 4 == fld (ta u c.table 0) 5 4 && bit st 20 == bit (ta u c.table 0) 20 &&
    !(bit st 20 && decide ((structDies st).length < 2)) &&
    decide (latMin .tree st (cscLen u) ≤ fld (ta u c.table 8) 12 0) &&
    decide (ruleSum u c.table + fld (word (c.le 40 4)) 22 0 ≤ 4194304)

/-- The form and the block that a TBL_MIRROR names: die, block and number of mirrors (R97, R472). -/
def mirrorForm (c : Cmd) : Bool :=
  c.compl 16 24 8 && !c.auto && !c.addr && c.zeroFrom 32 && c.le 16 4 / 4096 == 0 && decide (c.le 20 4 ≤ 4)

/-- The block that a TBL_MIRROR names belongs to its table and may have mirrors. -/
def mirrorBlock (u : State) (c : Cmd) (x : Table) (h : BlkHold) : Bool :=
  u.table c.table == some x && x.st == .live && !lockWait u c &&
    x.blocks.find? (fun h => h.die == nfld (c.le 16 4) 11 10 && h.block == nfld (c.le 16 4) 9 0) == some h &&
    !(structAO (ta u c.table 0) && h.group == 0)

/-- An entry command without AUTO that changes a TERNARY table: `g` is the change, `o` the slot that receives it, `s2` the
state after the placement. -/
def entryRuns (u : State) (c : Cmd) (x : Table) (g : Change) (o : Nat) (s1 s2 : State) : Prop :=
  u.table c.table = some x ∧ x.st = .live ∧ x.kind = .ternary ∧ lockWait u c = false ∧ noSlot x = false ∧
    changeCheck u c.table g = stOk ∧ openGen u c.table = some (o, s1) ∧ applyChange s1 c.table o g = .ok s2 ∧
    mayChange u c = true ∧ c.auto = false

/-- A row of the open generation `o` of table `t` holds entry `e`, its value stored ANDed with its mask (R50). -/
def Holds (v : State) (t o : Nat) (e : Entry) : Prop := ∃ x, v.table t = some x ∧ ∃ r ∈ x.rows,
  visIn r.vis o = true ∧ r.handle = e.handle ∧ r.prio = e.prio ∧ r.value = e.value ∧ r.mask = e.mask ∧ r.ad = e.ad

/-- A descriptor of `len` bytes that a command names in host memory or carries itself passes the checks of form. -/
def entryForm (u : State) (c : Cmd) (io : HostIO) (l : List Byte) (len : Nat) : Bool :=
  (!c.addr || c.compl 24 28 4) && entryOperand u c io == some (l, len) && decide (16 ≤ l.length) && entCompl l &&
    entryOperandForm c l len && entClassOk (parseEntry l)

/-- An ENT_BATCH whose list `r` passes every check of form, on a table that is not TREE (R176, R337). -/
def batchRuns (u : State) (mb : Nat) (c : Cmd) (io : HostIO) (l : List Byte) (r : BatchRead) : Prop :=
  Runs u mb 0x24 c ∧ c.compl 24 28 4 = true ∧ c.addr = true ∧ c.host 16 % 16 = 0 ∧ c.zeroFrom 32 = true ∧
    tableKind u c.table ≠ some .tree ∧ lockWait u c = false ∧ busRead u c io (c.le 24 4) = some l ∧ 16 ≤ l.length ∧
    isCompl (slice l 0 8) (slice l 8 8) = true ∧ leAt l 0 4 = 2 ∧ 1 ≤ leAt l 4 4 ∧ leAt l 4 4 ≤ 65536 ∧
    r = batchRecs (tableKind u c.table == some .direct) (leAt l 4 4) 0 (l.drop 16) ∧ r.compl = none ∧ r.form = none ∧
    tableLive u c.table = true

/-- A command with an epoch operand and no other, on a table that has generations and is LIVE (R182). -/
def glazeRuns (u : State) (c : Cmd) (x : Table) : Prop :=
  epochForm c = stOk ∧ u.table c.table = some x ∧ x.st = .live ∧ x.kind ≠ .direct ∧ lockWait u c = false

/-- What an ENT_READ with good operands reads of a TERNARY table: row `r` of the LIVE slot, or nothing (R473). -/
def readRuns (u : State) (c : Cmd) (x : Table) (k : Nat) : Prop :=
  c.compl 16 20 4 = true ∧ c.compl 32 36 4 = true ∧ c.auto = false ∧ c.addr = false ∧ c.zeroFrom 40 = true ∧ c.host 24 % 16 = 0 ∧
    u.table c.table = some x ∧ x.st = .live ∧ x.kind = .ternary ∧ entLen (taW u c.table) ≤ c.le 32 4 ∧ liveSlot x = some k

/-- A host write of the command reaches its host. -/
def reaches_ (u : State) (c : Cmd) (io : HostIO) : Bool := io.wr && busUp u c.mb

/-- A QUERY_SEARCH with good operands: the table and the slot it searches (R474). -/
def searchRuns (u : State) (c : Cmd) (x : Table) : Prop :=
  c.auto = false ∧ c.addr = false ∧ c.zeroFrom 100 = true ∧ c.le 96 4 < 2 ∧ u.table c.table = some x ∧ x.st = .live ∧
    (bit c.desc (8 * 96) = true → lockHeld u c.table = false)

/-- A QUERY_FIND with good operands on a TERNARY table: the entry that its descriptor carries (R474). -/
def findRuns (u : State) (c : Cmd) (io : HostIO) (x : Table) (e : Entry) : Prop :=
  c.compl 24 28 4 = true ∧ c.addr = true ∧ c.auto = false ∧ u.table c.table = some x ∧ x.st = .live ∧ x.kind = .ternary ∧
    lockHeld u c.table = false ∧ e.w = taW u c.table ∧
    ∃ l : List Byte, busRead u c io (c.le 24 4) = some l ∧ 16 ≤ l.length ∧ entCompl l = true ∧ entryOperandForm c l (c.le 24 4) = true ∧
      e = parseEntry l

/-- The form of AGE_SWEEP (R224). -/
def ageForm (c : Cmd) : Bool :=
  c.compl 16 24 8 && c.compl 56 60 4 && !c.auto && !c.addr && c.le 22 2 == 0 && c.le 35 1 == 0 && decide (c.le 40 4 ≤ 2) &&
    c.zeroFrom 64 && (c.le 40 4 == 2 || c.le 32 3 != 0) && (c.le 40 4 != 1 || (c.host 48 % 16 == 0 && c.le 56 4 % 16 == 0))

/-- The form of CNT_SNAPSHOT (R213). -/
def snapForm (c : Cmd) : Bool := c.compl 16 24 8 && !c.auto && !c.addr && c.le 22 2 == 0 && decide (c.le 32 4 < 8) && c.zeroFrom 36

/-- The owner reaches its registers over its port, and the stage is not DORMANT. -/
def ownerAt (u : State) (port : Fin 4) : Prop := portUp u port = true ∧ isOwner u port = true ∧ u.stage.stage ≠ 0

/-- `d` is the first action left of the present step, the only one that the command's row names; `l` are the rest. -/
def DueNow (s : State) (p : Due → Bool) (d : Due) (l : List Due) : Prop := s.due = d :: l ∧ p d = true ∧ l.any p = false

/-- A CNT_CLEAR without output, of handles that it lists or, in ALL mode, of every entry (R210). -/
def clearRuns (u : State) (mb : Nat) (c : Cmd) : Prop :=
  Runs u mb 0x63 c ∧ cntCompl c false = true ∧ cntForm c false 25 = true ∧ c.mode.testBit 4 = false

/-- Nothing is cached and nothing will be. -/
def uncached (u : State) : Prop := u.cache.lines = [] ∧ u.cache.victim = [] ∧ u.cache.fills = [] ∧ cacheOn u = false

/-- The form of a vault command that names the whole module. -/
def exportForm (c : Cmd) : Bool :=
  c.compl 24 28 4 && !c.auto && c.addr && c.host 16 % 16 == 0 && c.le 32 4 / 4 == 0 && c.zeroFrom 36

/-- The form of CRUMB_SET, with `n` handles (R371). -/
def crumbForm (c : Cmd) : Bool :=
  c.compl 24 28 4 && !c.auto && !c.addr && c.host 16 % 16 == 0 && decide (c.le 24 4 ≤ 16384) && c.zeroFrom 32

/-- A VAULT_IMPORT of a configuration image `l` with sections `secs` passes every check before its contents (R396). -/
def importRuns (u : State) (mb : Nat) (c : Cmd) (io : HostIO) (l : List Byte) (secs : List (Nat × List Byte)) : Prop :=
  Runs u mb 0x71 c ∧ c.compl 24 28 4 = true ∧ c.compl 32 40 8 = true ∧ c.auto = false ∧ c.addr = true ∧ c.host 16 % 16 = 0 ∧
    c.le 38 2 = 0 ∧ c.zeroFrom 48 = true ∧ 320 ≤ c.le 24 4 ∧ busRead u c io (c.le 24 4) = some l ∧
    isCompl (slice l 0 64) (slice l 64 64) = true ∧ headerOk u l = true ∧ leAt l 16 4 = c.table ∧ c.table = 255 ∧ leAt l 6 2 = 3 ∧
    readSections l (leAt l 20 4) 0 = some secs

/-- The values of fields that a configuration image holds. -/
def importPairs (secs : List (Nat × List Byte)) : List (Nat × Word) :=
  configPairs ((section_ secs 7).getD []) ++
    (imagePairs 0xF0000 ((section_ secs 8).getD []) ++ imagePairs 0xE0000 ((section_ secs 9).getD [])).filter (fun p => persists p.1)

/-- A CACHE_MAINT of operation `op` over lines `l` (R242). -/
def maintRuns (u : State) (c : Cmd) (op : Nat) (l : List Nat) : Prop :=
  c.compl 16 24 8 = true ∧ c.auto = false ∧ c.addr = false ∧ c.le 16 4 / 256 = 0 ∧ maintOp c = op ∧ c.zeroFrom 32 = true ∧
    (op = 2 → maintScope c < 2) ∧ maintTarget u c = .ok l

/-- Line `m` is the one that the cache holds of line number `n`, and no fill of it is in flight. -/
def onlyLine (u : State) (n : Nat) (m : Line) : Prop := mapGet u.cache.fills n = none ∧ (setLine u n).or (vicLine u n) = some m

/-- The dirty sectors of line `m` are in the activity store. -/
def writtenBack (v : State) (m : Line) : Prop :=
  ∀ (k : Nat) (x : Sector), k < 4 → m.sectors[k]? = some x → x.valid = true → x.dirty = true → storePair v (4 * m.line + k) = x.data

/-- The form of SPRINKLE_CFG (R286). -/
def sprinkleForm (c : Cmd) : Bool :=
  c.compl 16 32 8 && c.table == 255 && !c.auto && !c.addr && c.le 16 4 / 16 == 0 && c.le 30 2 == 0 && c.zeroFrom 40

/-- The form of BLOCK_RETIRE for die `d` and position `p` (R287). -/
def retireForm (c : Cmd) (d : Fin 4) (p : Nat) : Bool :=
  c.compl 16 24 8 && c.table == 255 && !c.auto && !c.addr && c.le 16 4 == d && c.le 20 4 == p && decide (p ≤ 1055) && c.zeroFrom 32

/-- The form of WAITGRAPH_READ (R270). -/
def graphForm (c : Cmd) : Bool :=
  c.compl 24 28 4 && c.table == 255 && !c.auto && !c.addr && c.le 16 8 % 16 == 0 && decide (48 ≤ c.le 24 4) &&
    decide (c.le 24 4 ≤ 4128) && c.le 24 4 % 16 == 0 && c.le 32 4 / 4 == 0 && c.zeroFrom 36

/-- The wait graph `g` as WAITGRAPH_READ writes it, its records cut to `n` bytes. -/
def graphBytes (u : State) (g : WaitSnap) (n : Nat) : List Byte :=
  bytesLE 8 (g.epoch % 2 ^ 48 + g.phase % 1024 * 2 ^ 48) ++ bytesLE 4 g.recs.length ++ bytesLE 4 g.trig ++
    bytesLE 4 (u.cfg 0x13F004 15 8) ++ bytesLE 12 0 ++ ((g.recs.take ((n - 32) / 16)).map waitBytes).flatten

/-- The form of LOG_READ (R415). -/
def logForm (c : Cmd) : Bool :=
  c.compl 24 28 4 && c.table == 255 && !c.auto && c.addr && c.le 16 8 % 64 == 0 && c.le 24 4 % 64 == 0 && c.le 41 3 == 0 &&
    nfld (c.le 44 4) 15 10 == 0 && nfld (c.le 44 4) 31 26 == 0 && c.zeroFrom 48

/-- The records that LOG_READ finds: those of the ring, and older ones of the log partition while it can be read (R415). -/
def logFound (u : State) (c : Cmd) : List LogRec :=
  let first := ((u.mgmt.ring.head?).map (fun r => r.seq)).getD 1
  let old := if u.vault.st = 3 ∨ u.vault.st = 0 then [] else u.vault.log.filter (fun r => decide (r.seq < first))
  ((old ++ u.mgmt.ring).filter (logPasses (c.le 32 8) (c.le 40 1) (nfld (c.le 44 4) 9 0) (nfld (c.le 44 4) 25 16))).take (c.le 24 4 / 64)

/-- The form of SENSOR_READ (R407). -/
def sensorForm (c : Cmd) : Bool :=
  c.compl 24 28 4 && c.table == 255 && !c.auto && c.addr && c.le 16 8 % 16 == 0 && decide (528 ≤ c.le 24 4) && c.le 32 4 / 2 == 0 &&
    c.zeroFrom 36

/-- `u` with the buffers that an apply of its hub cycle copies (R357). -/
def startBuffers (u : State) : State := { u with regs := { u.regs with buf := startBuf u } }

/-- `u` in the hub cycle after the present one. -/
def nextCycle (u : State) : State := advance ((u.now / 8 + 1) * 8) u

/-- Group `g` has the one register `a`, which is no word of a table, of a profile, of the parse memory or of the wheels; the
parse words pass the check of R141 if the group is theirs. -/
def plainGroup (u : State) (g a : Nat) : Prop :=
  regGroup u a = some g ∧ groupAddrs (discardAbsent u) g = [a] ∧ attrTable a = none ∧
    (a < 0xE0000 ∨ (0x100000 ≤ a ∧ a < 0x120000) ∨ 0x130000 ≤ a) ∧ (g = 3 → parseFails (discardAbsent u) = none)

/-- Port `p` reaches the register at `a`, which is described by `d` and lies in no slow domain. -/
def reachable (u : State) (p : Fin 4) (a : Nat) (d : RegDesc) : Prop :=
  portUp u p = true ∧ u.stage.stage ≠ 0 ∧ a % 4 = 0 ∧ a < 0x400000 ∧ regDesc a = some d ∧ d.lane = none

/-- The value that a full read of the register returns to port `p`. -/
def readsAs (u : State) (p : Fin 4) (a : Nat) (d : RegDesc) : Out := .regData p (some (bytesLE 4 (regValue u p a d).toNat))

/-- The bytes of the shared banks from offset `o` on are `l`, and every other byte is as it was. -/
def Stored (u v : State) (o : Nat) (l : List Byte) : Prop :=
  (∀ i : Nat, i < l.length → memRead v.mem (o + i) = l.getD i 0) ∧
    ∀ a : Nat, a < o ∨ o + l.length ≤ a → memRead v.mem a = memRead u.mem a

/-- Offset `o` lies in the banks above the rings. -/
def aboveRings (o n : Nat) : Prop := 0x60000 ≤ o ∧ o + n ≤ 0x400000

/-- A table of the state other than `t` is as it was. -/
def OtherTables (u v : State) (t : Nat) : Prop := ∀ q : Nat, q ≠ t → v.table q = u.table q

/-- The entry that a learn record asks for, under handle `h`. -/
def learned (u : State) (l : LearnCfg) (r : LearnRec) (h : Nat) : Entry :=
  { handle := h, prio := l.prio, w := taW u r.target, value := r.key &&& learnMask l.byteMask, mask := learnMask l.byteMask
    ad := l.data.setWidth 1024 }

/-- The oldest learn record is `r`, its table is `x`, configured by `l`, and internal changes run (R219, R222). -/
def learnRuns (u : State) (r : LearnRec) (rest : List LearnRec) (x : Table) (l : LearnCfg) : Prop :=
  u.learnQ = r :: rest ∧ u.table r.target = some x ∧ x.learn = some l ∧ internalOn u = true ∧ x.st = .live ∧
    taFeat u r.target 3 = true ∧ l.en = true ∧ lockHeld u r.target = false

/-- A sweep `w` of table `t` has the candidate `h` with stamp `st` before it, and may handle it (R226). -/
def sweepRuns (u : State) (t h : Nat) (x : Table) (w : Sweep) (st : BitVec 64) : Prop :=
  u.table t = some x ∧ x.sweep = some w ∧ w.cands.find? (fun c => c.1 == h) = some (h, st) ∧
    (w.cfg.delMax = 0 ∨ w.handled < w.cfg.delMax) ∧ internalOn u = true ∧ x.st = .live

/-- The test of a die as `t` records it. -/
def testOn (u : State) (d : Fin 4) (t : TestRun) : Prop := u.spk.tests[d.val]? = some t

/-- What a restore keeps of a row: everything but its place. -/
def rowData (r : Row) : Nat × Nat × Key × Key × BitVec 1024 × BitVec 4 := (r.handle, r.prio, r.value, r.mask, r.ad, r.vis)

/-- The rows that a restore takes from an image: those in effect, and those of the OPEN generation (R373). -/
def restoredRows (i : TableImg) : List Row :=
  (i.tab.rows.map (fun (r : Row) => { r with vis := restoreMask i.tab r.vis })).filter (fun r => r.vis != 0)

/-- The conditions under which the module leaves DORMANT, with a vault that mounts (R365, R366). -/
def mayLeaveDormant (u : State) : Prop :=
  u.stage.stage = 0 ∧ u.power.mrstN = true ∧ u.power.flush = none ∧ u.power.pwrGood = true ∧ hostUp u = true ∧ u.vault.st = 0 ∧
    512 ≤ u.vault.free

/-- The sideband answers a read of `code`, a Block Read when `block`, with these bytes and a packet error code, and nothing else
happens (R419, R420). How that code is computed is the model's choice (assumption 49). -/
def Answers (i : Instr) (s u : State) (code : Nat) (block : Bool) (l : List Byte) : Prop :=
  exec i s = .next { u with out := u.out ++ [.smb (some l) (readPec u code block l)] }

/-- The instructions of the test port but IDCODE, and their places in the list of R444 (TRST_N puts IDCODE in effect). -/
def tapInstrs : List (Nat × Instr) := [(0, .bypass), (1, .trstN), (2, .samplePreload), (3, .extest), (4, .clamp), (5, .highz),
  (6, .extestPulse), (7, .extestTrain)]

/-- The order of R123. -/
def precedence : List Nat := [luFault, luCascadeLost, luOverload, luViewExpired, luPassLimit, luSafe, luViewAdvanced, luTableAbsent, luMiss, luHit]

/-- The commands that reset the epoch counter: those that reset the hub, remove its power or restore it. -/
def resetsEpoch : Instr → Bool
  | .resetFlushDone | .powerDown | .pwrEnFall => true
  | .powerLoss _ | .vinOvervoltage _ => true
  | .pwrGoodRise .. => true
  | .thermalRestart _ => true
  | _ => false

end Sys2Proof.Claim

open Sys2Proof Sys2Proof.Machine Sys2Proof.Claim


/-- R30, R31, R35: an edge is ignored, is an epoch step, or moves the phase alone. -/
def Obligations.SyncEdgeIsIgnoredOrTaken : Prop := ∀ (t : Nat) (s : State), islandOn s = true →
  let u := preStep t s
  u.epoch.chatter = false →
  (tooEarly u = true → ignoredNow u ≤ 4 → Gives (.syncInEdge t) s (fun v =>
    Counts u v 0x30028 ∧
    v = { u with regs := v.regs, epoch := { u.epoch with ignored := v.epoch.ignored, lastEdge := some u.now } })) ∧
  (tooEarly u = false → u.epoch.qual = .locked → Gives (.syncInEdge t) s (fun v =>
    u.epoch.count < v.epoch.count ∧ v.epoch.qual = .locked ∧ v.epoch.held = false ∧ v.epoch.stepAt = u.now ∧
    v.epoch.phase0 = u.now ∧ v.epoch.off = 0 ∧ v.epoch.lastAcc = some u.now ∧ v.mem = u.mem)) ∧
  (tooEarly u = false → u.epoch.qual = .holdover ∨ u.epoch.qual = .lost → u.epoch.phase u.now < 512 →
    Gives (.syncInEdge t) s (fun v =>
      v.epoch.count = u.epoch.count ∧ v.epoch.stepAt = u.epoch.stepAt ∧ v.epoch.phase0 = u.now ∧ v.epoch.off = 0 ∧
      v.epoch.lastAcc = some u.now ∧ v = { u with epoch := v.epoch, regs := v.regs, mgmt := v.mgmt, out := v.out })) ∧
  (tooEarly u = false → u.epoch.qual = .acquire → u.epoch.held = false → Gives (.syncInEdge t) s (fun v =>
    u.epoch.count < v.epoch.count ∧ v.epoch.stepAt = u.now ∧ v.epoch.off = 0))

/-- R31: more than four ignored edges in one period are chatter, which ends after a period without one. -/
def Obligations.ChatterStopsTheInput : Prop := ∀ (t : Nat) (s : State), islandOn s = true →
  let u := preStep t s
  (u.epoch.chatter = false → tooEarly u = true → 4 < ignoredNow u → Gives (.syncInEdge t) s (fun v =>
    v.epoch.chatter = true ∧ v.epoch.consec = 0 ∧
    (u.epoch.qual = .locked → v.epoch.qual = .holdover ∧ u.epoch.count < v.epoch.count ∧ v.epoch.off = 512) ∧
    (u.epoch.qual ≠ .locked → v.epoch.qual = u.epoch.qual ∧ v.epoch.count = u.epoch.count ∧ v.due = u.due))) ∧
  (u.epoch.chatter = true → u.now < chatterUntil u → Gives (.syncInEdge t) s (fun v =>
    v = { u with regs := v.regs, epoch := { u.epoch with ignored := v.epoch.ignored, lastEdge := some u.now } })) ∧
  (s.epoch.chatter = true →
    exec .chatterEnd s = .next { preAt (chatterUntil s) s with epoch :=
      { (preAt (chatterUntil s) s).epoch with chatter := false, fresh := true, ignored := [] } })

/-- R38, R39: the number that a synthesized step gives the epoch. -/
def Obligations.StepTakesItsNumberFromSetOrBeacon : Prop := ∀ s : State, islandOn s = true → s.epoch.qual ≠ .locked →
  let u := preStep (synDue s) s
  Gives .synthesizedStep s (fun v =>
    v.epoch.count = nextNumber u ∧ u.epoch.count < v.epoch.count ∧ v.epoch.prev = u.epoch.count ∧ v.epoch.beacon = none ∧
    v.epoch.held = true ∧ v.epoch.off = 0 ∧
    v.epoch.numbered = (u.epoch.numbered || setArmed u || u.epoch.beacon.any (fun b => decide (u.epoch.count < b))) ∧
    bit (v.live 0x30024) 31 = false ∧ v.mem = u.mem ∧ v.pending = u.pending)

/-- R34, R37: HOLDOVER begins with a step at phase 512, and the last counted epoch ends in LOST. -/
def Obligations.InputLossLeadsToHoldoverAndLost : Prop := ∀ s : State, islandOn s = true →
  (s.epoch.qual = .locked →
    let u := preStep (s.epoch.lastAcc.getD s.epoch.stepAt + s.epoch.p16 * 3 / 32) s
    Gives .epoHoldover s (fun v => v.epoch.qual = .holdover ∧ v.epoch.off = 512 ∧ v.epoch.phase0 = u.now ∧ v.epoch.held = true ∧
      u.epoch.count < v.epoch.count ∧ v.epoch.holdCount = 1 ∧ v.epoch.consec = 0 ∧ v.mem = u.mem)) ∧
  (s.epoch.qual = .acquire ∨ s.epoch.qual = .holdover → holdLimit s ≤ s.epoch.holdCount →
    let u := preStep (synDue s) s
    u.epoch.qual = .acquire ∨ u.epoch.qual = .holdover → holdLimit u ≤ u.epoch.holdCount →
    Gives .epoLost s (fun v => v.epoch.qual = .lost ∧ v.epoch.held = true ∧ u.epoch.count < v.epoch.count ∧ v.mem = u.mem))

/-- R38, R39: what a beacon and a write to EPOCH_SET_HI leave for the next step. -/
def Obligations.BeaconAndSetWaitForTheStep : Prop := ∀ s : State,
  let u := pre s
  (∀ (port : Fin 16) (f : Flit), linkUp (u.link port) = true → fld f 255 252 = 4 →
    (bit (u.live 0x30010) 8 = true → u.cfg 0x30010 3 0 = port → fld f 251 204 + fld f 191 144 = 2 ^ 48 - 1 →
      Gives (.beacon port f) s (fun v => v.epoch = { u.epoch with beacon := some (fld f 251 204) } ∧
        v.live 0x30030 = word (fld f 251 204) ∧ v.live 0x30034 = word (fld f 251 204 / 2 ^ 32) ∧ Counts u v (hpAddr port 0x40) ∧
        v = { u with epoch := v.epoch, regs := v.regs })) ∧
    (bit (u.live 0x30010) 8 = false ∨ u.cfg 0x30010 3 0 ≠ port →
      Gives (.beacon port f) s (fun v => Counts u v (hpAddr port 0x60) ∧ v = { u with regs := v.regs }))) ∧
  (∀ (port : Fin 4) (value : Word), let u := prePort s port
    portUp u port = true →
    (isOwner u port = true → Gives (.arm port value) s (fun v => fld (v.live 0x30024) 15 0 = fld value 15 0 ∧
      bit (v.live 0x30024) 31 = (bit (u.live 0x30024) 31 || bit value 31) ∧ v = { u with regs := v.regs })) ∧
    (isOwner u port = false → Gives (.arm port value) s (fun v => v.live 0x30024 = u.live 0x30024 ∧
      bit (v.live (0x200 + port * 0x10)) 5 = true ∧ v = { u with regs := v.regs, mgmt := v.mgmt, out := v.out })))

/-- R17, R374: the standby oscillator takes over, and the loss of both is FAULTSAFE. -/
def Obligations.OscillatorsFailOver : Prop := ∀ s : State, s.power.pwrGood = true →
  let u := pre s
  u.power.oscLost = false →
  Gives .clkOscSwitch s (fun v => v.power = { u.power with osc := 1 - u.power.osc } ∧ Flagged v evClkOscSwitch ∧
    v = { u with power := v.power, regs := v.regs, mgmt := v.mgmt, out := v.out }) ∧
  (u.stage.stage ≠ 0 → Gives .clkOscLost s (fun v => v.power = { u.power with oscLost := true } ∧ v.stage.stage = 4 ∧
    bit v.stage.fsCause 3 = true ∧ v = { u with power := v.power, stage := v.stage, regs := v.regs, mgmt := v.mgmt, out := v.out })) ∧
  (u.stage.stage = 0 → Gives .clkOscLost s (fun v => v.power = { u.power with oscLost := true } ∧ v.stage.stage = 0 ∧
    v.stage.fsPending = true ∧ v = { u with power := v.power, stage := v.stage, regs := v.regs, mgmt := v.mgmt, out := v.out }))

/-- R102, R103, R126, R432: a request frame enters the receive buffer and takes a credit; without credit it is dropped
and counted. -/
def Obligations.RequestFrameTakesOneCredit : Prop := ∀ (s : State) (port : Fin 16) (fl : List Flit) (hform : Bool),
  let u := pre s
  let i := if hform then Instr.hdrReq port fl else Instr.keyReq port fl
  let r := received hform fl
  (frameTaken u port hform fl = true → Gives i s (fun v =>
    v.link port = { u.link port with rx := (u.link port).rx ++ [r], creds := listMod (u.link port).creds r.ctx (fun n => n - 1) } ∧
    (∀ q : Nat, q ≠ port → v.link q = u.link q) ∧ Counts u v (hpAddr port 0x40) ∧
    v = { u with links := v.links, regs := v.regs })) ∧
  (linkUp (u.link port) = true → payload fl 0 4 = (if hform then 2 else 1) → natAt (u.link port).creds r.ctx = 0 →
    Gives i s (fun v => Counts u v (hpAddr port 0x48) ∧ v = { u with regs := v.regs }))

/-- R439: an inline write changes one direct-table word, or is refused and counted. -/
def Obligations.InlineWriteChangesOneWord : Prop := ∀ (s : State) (port : Fin 16) (fl : List Flit),
  let u := pre s
  (inlineTaken u port fl = true → Gives (.dtWrite port fl) s (fun v =>
    mapGetD v.direct (inlineWord u fl) 0 =
      dtWord (payload fl 4 2) (mapGetD u.direct (inlineWord u fl) 0) (BitVec.ofNat 256 (payload fl 256 256)) ∧
    (∀ k : Nat, k ≠ inlineWord u fl → mapGetD v.direct k 0 = mapGetD u.direct k 0) ∧ Counts u v (hpAddr port 0x58) ∧
    (v.link port).dcred + 1 = (u.link port).dcred ∧
    v = { u with now := v.now, direct := v.direct, links := v.links, regs := v.regs, spk := v.spk })) ∧
  (inlineTaken u port fl = false → linkUp (u.link port) = true → payload fl 0 4 = 3 → (u.link port).dcred ≠ 0 →
    Gives (.dtWrite port fl) s (fun v => Counts u v (hpAddr port 0x5C) ∧ Flagged v (evLnkDwReject port) ∧
      v = { u with links := v.links, regs := v.regs, mgmt := v.mgmt, out := v.out }))

/-- R18, R112, R125: acceptance fixes the t0, the latency and the view of a request; one that names a profile that is
not VALID runs no lookup. -/
def Obligations.AcceptanceFixesTimeAndView : Prop := ∀ (s : State) (port : Fin 16) (ctx : Fin 8) (t : Nat)
    (faults : List FaultAt) (parse : Option Nat) (r : Req),
  let u := pre s
  acceptable u port ctx t r = true →
  Gives (.requestAccept port ctx t faults parse) s (fun v => ∃ h ∈ v.holds,
    h.port = port ∧ h.ctx = r.ctx ∧ h.tag = r.tag ∧ h.profile = r.profile ∧ h.length = r.length ∧ h.t0 = acceptAt u t ∧
    h.lat = requestLat u r.profile (acceptAt u t) ∧ h.view = u.epoch.count) ∧
  (r.hform = false → r.tok = none → noRegFault faults = true → bit (u.live (pfAddr r.profile 0)) 31 = false →
    Gives (.requestAccept port ctx t faults parse) s (fun v => Flagged v evLkpNoProfile ∧ v.now = acceptAt u t ∧
      (∃ h, v.holds = u.holds ++ [h] ∧ h.recs = [] ∧ h.dm = none) ∧
      v = { u with
        now := v.now, walkEnds := v.walkEnds, links := v.links, holds := v.holds, regs := v.regs, dies := v.dies, mgmt := v.mgmt
        out := v.out }))

/-- R20, R116, R231, R437: the response to the oldest request of a context leaves at t0 + L, or is dropped when its port is
down; of the responses of one hub cycle, one of a lower port, or of a lower context of its port, goes first. -/
def Obligations.ResponseLeavesAtItsLatency : Prop := ∀ (s : State) (port : Fin 16) (ctx : Fin 8) (h : Hold),
  let u := pre s
  oldestHold u port ctx = some h →
  (emitsLater u port ctx (h.t0 + 8 * h.lat) = true → exec (.responseEmit port ctx [] none) s = .next u) ∧
  (quiet h = true → emitsLater u port ctx (h.t0 + 8 * h.lat) = false → Gives (.responseEmit port ctx [] none) s (fun v =>
    v.now = max u.now (h.t0 + 8 * h.lat) ∧ v.holds.length + 1 = u.holds.length ∧
    natAt (v.link port).back ctx = natAt (u.link port).back ctx + (if ctx < (u.link port).back.length ∧ port < u.links.length then 1 else 0) ∧
    (linkUp (u.link port) = true → v.out = u.out ++ [.frame port (h.t0 + 8 * h.lat) (responseFrame h)] ∧ v.regs = u.regs) ∧
    (linkUp (u.link port) = false → v.out = u.out ∧ Counts u v (hpAddr port 0x54)) ∧
    v = { u with now := v.now, holds := v.holds, links := v.links, tables := v.tables, out := v.out, regs := v.regs }))

/-- R434, R367: training fixes the width, or leaves the port DOWN with fewer than four good lanes. -/
def Obligations.TrainingFixesTheWidth : Prop := ∀ (s : State) (port : Fin 18) (good peer : Word) (again : Bool),
  let u := pre s
  let i := if again then Instr.trainRetry port good peer else Instr.lnkUp port good peer
  trains u port = true →
  (∀ w : Nat, pickWidth port (trained u port good peer) ((trained u port good peer).maxW + 1) = some w → Gives i s (fun v =>
    (v.link port).st = 2 ∧ (v.link port).width = w ∧ (v.link port).grid = u.now ∧ (v.link port).good = (trained u port good peer).good ∧
    (u.stage.stage = 0 ∨ 16 ≤ port → (v.link port).creds = List.replicate 8 0 ∧ (v.link port).dcred = 0) ∧
    (∀ q : Nat, q ≠ port → v.link q = u.link q) ∧ Flagged v (evLnkUp port) ∧ OnlyLinks u v)) ∧
  (pickWidth port (trained u port good peer) ((trained u port good peer).maxW + 1) = none → Gives i s (fun v =>
    (v.link port).st = 0 ∧ (v.link port).width = 0 ∧ v = { u with links := v.links }))

/-- R425, R427: codeword lock makes the lane of its port good. -/
def Obligations.CodewordLockMakesALaneGood : Prop := ∀ (s : State) (lane : Fin 512),
  let u := pre s
  exec (.codewordLockGained lane) s = .next (u.modLink (laneOf lane).1 (fun l => { l with good := l.good ||| word (2 ^ (laneOf lane).2) })) ∧
  (∀ n : Nat, n = lane → (n < 448 → laneOf n = (n / 28, n % 28)) ∧ (448 ≤ n → laneOf n = (16 + (n - 448) / 32, (n - 448) % 32))) ∧
  (laneOf lane).2 < groupLanes (laneOf lane).1 ∧ (laneOf lane).1 < 18

/-- R435, R436: a lane that fails in use narrows the port four rounds ahead, or takes it down; a widen request is answered. -/
def Obligations.LaneFailureNarrowsAndWidenIsAnswered : Prop := ∀ (s : State) (port : Fin 18),
  let u := pre s
  (∀ lane : Nat, linkUp (u.link port) = true → bit (u.link port).good lane = true → lane < groupLanes port →
    (let l := { u.link port with good := (u.link port).good &&& ~~~ word (2 ^ lane) }
     ((lanesInUse port (u.link port)).contains lane = false → Gives (.laneFailure port lane) s (fun v =>
       v.link port = l ∧ v = { u with links := v.links })) ∧
     ((lanesInUse port (u.link port)).contains lane = true → Gives (.laneFailure port lane) s (fun v =>
       (∀ w : Nat, pickWidth port l l.width = some w → (v.link port).st = 3 ∧
         (v.link port).change = some (w, l.grid + (roundNow l u.now + 4) * roundLen l)) ∧
       (pickWidth port l l.width = none → (v.link port).st = 0 ∧ (v.link port).width = 0) ∧
       (∀ q : Nat, q ≠ port → v.link q = u.link q) ∧ OnlyLinks u v)))) ∧
  (∀ f : Flit, linkUp (u.link port) = true → fld f 255 252 = 0xF → fld f 251 248 = 3 → Gives (.widenReq port f) s (fun v =>
    (v.link port).peer = word (fld f 247 216) &&& word (2 ^ groupLanes port - 1) ∧ (v.link port).widen = false ∧
    (∃ fl : List Flit, v.out = u.out ++ [.frame port u.now fl]) ∧ (∀ q : Nat, q ≠ port → v.link q = u.link q) ∧
    v = { u with links := v.links, out := v.out }))

/-- R433: a flit that fails its check refuses its round, and eight resends without success take the port down. -/
def Obligations.ReplayRefusesAndLimits : Prop := ∀ (s : State) (port : Fin 18),
  let u := pre s
  (∀ round : Nat, linkUp (u.link port) = true →
    ((u.link port).nak = false → Gives (.flitCheckFail port round) s (fun v =>
      v.link port = { u.link port with nak := true, ackRound := (round + 63) % 64, resends := 0 } ∧ Counts u v (hpAddr port 0x4C) ∧
      v = { u with links := v.links, regs := v.regs })) ∧
    ((u.link port).nak = true → (u.link port).ackRound = (round + 63) % 64 → Gives (.flitCheckFail port round) s (fun v =>
      v.link port = { u.link port with resends := (u.link port).resends + 1 } ∧ v = { u with links := v.links }))) ∧
  (8 ≤ (u.link port).resends → port < u.links.length → Gives (.lnkReplayLimit port) s (fun v =>
    Flagged v (evLnkReplayLimit port) ∧ (v.link port).width = 0 ∧ (v.link port).creds = List.replicate 8 0 ∧
    (v.link port).st = (if bit (u.live (hpAddr port 8)) 7 then 1 else 0) ∧ (∀ q : Nat, q ≠ port → v.link q = u.link q) ∧
    OnlyLinks u v))

/-- R430, R481: a frame of a TYPE that its port or its slot may not carry is discarded and counted. -/
def Obligations.FrameErrorsAreCounted : Prop := ∀ (s : State) (port : Fin 18) (f : Flit) (slot0 : Bool) (r : Nat),
  let u := pre s
  linkUp (u.link port) = true → discardReason port f slot0 = some r → Gives (.lnkFrameErr port f slot0) s (fun v =>
    Counts u v (hpAddr port 0x44) ∧ Flagged v (evLnkFrameErr port) ∧ (∀ q : Nat, q ≠ port → v.link q = u.link q) ∧
    v = { u with links := v.links, regs := v.regs, mgmt := v.mgmt, out := v.out })

/-- R431, R432: a LINK flit that reports no change is answered with one that returns the credits that may be granted. -/
def Obligations.LinkFlitReturnsCredits : Prop := ∀ (s : State) (port : Fin 18) (f : Flit),
  let u := pre s
  plainLink u port f = true → Gives (.linkFlit port f) s (fun v =>
    (v.link port).peer = word (fld f 247 216) &&& word (2 ^ groupLanes port - 1) ∧ (v.link port).nak = false ∧
    (v.link port).resends = 0 ∧ (v.link port).width = (u.link port).width ∧ (∀ q : Nat, q ≠ port → v.link q = u.link q) ∧
    (port < 16 → (v.link port).dcred = (u.link port).dcred + (u.link port).dback ∧ (v.link port).dback = 0 ∧
      (∃ fl : Flit, fld fl 255 252 = 0xF ∧ v.out = u.out ++ [.frame port u.now [fl]])) ∧
    (16 ≤ port → v.out = u.out) ∧ v = { u with links := v.links, out := v.out })

/-- R310, R311, R440: hellos go out once an epoch at phase 512, two that agree in a row verify a port, and its loss
breaks an ACTIVE chain. -/
def Obligations.HellosVerifyTheChain : Prop := ∀ s : State,
  let u := pre s
  (cpRuns u 0 || cpRuns u 1 → u.csc.helloAt ≠ some u.epoch.count → Gives .helloSend s (fun v =>
    v.now = max u.now (midEpoch u.epoch) ∧ v.csc = { u.csc with helloAt := some u.epoch.count } ∧
    v.out = u.out ++ (if cpRuns u 0 then [.frame 16 v.now [helloFlit u]] else []) ++ (if cpRuns u 1 then [.frame 17 v.now [helloFlit u]] else []) ∧
    v = { u with now := v.now, csc := v.csc, out := v.out })) ∧
  (∀ f : Flit, helloAgrees u 0 f = true → Gives (.hello 0 f) s (fun v =>
    v.csc = { u.csc with upRun := min 2 (u.csc.upRun + 1), upVer := decide (1 ≤ u.csc.upRun) } ∧ Counts u v (hpAddr 16 0x40) ∧
    v = { u with csc := v.csc, regs := v.regs })) ∧
  (∀ f : Flit, helloAgrees u 1 f = true → Gives (.hello 1 f) s (fun v =>
    v.csc.dnVer = decide (1 ≤ u.csc.dnRun) ∧ v.csc.below = (if 1 ≤ u.csc.dnRun then fld f 246 244 else 0) ∧
    (u.csc.chain ≠ 2 → v.csc.chain = u.csc.chain) ∧ v = { u with csc := v.csc, regs := v.regs, mgmt := v.mgmt, out := v.out })) ∧
  (cpUsed u 1 = true → linkUp (u.link 17) = false → Gives (.cscChainLost (.linkLost 1)) s (fun v =>
    v.csc.dnVer = false ∧ v.csc.dnRun = 0 ∧ v.csc.below = 0 ∧ (u.csc.chain = 2 → v.csc.chain = 3 ∧ Flagged v evCscChainLost) ∧
    v = { u with csc := v.csc, regs := v.regs, mgmt := v.mgmt, out := v.out })) ∧
  (cpUsed u 0 = true → u.csc.upVer = true → Gives (.cscChainLost (.hellosMissing 0)) s (fun v =>
    v = { u with csc := { u.csc with upVer := false, upRun := 0 } }))

/-- R317, R318: a search frame is answered exactly BUDGET after it came, with the merge of the parts; an answer is taken
by the lookup that waits for its tag, and counted as stale with none. -/
def Obligations.CascadeAnswersAtItsBudget : Prop := ∀ s : State,
  let u := pre s
  (∀ (fl : List Flit) (t : Nat) (faults : List FaultAt), cpRuns u 0 = true → payload fl 0 4 = 0xC →
    Gives (.search fl t faults) s (fun v => ∃ e : CscServe, v.csc.serves.getLast? = some e ∧ e.ctag = payload fl 32 16 ∧
      e.table = payload fl 4 8 ∧ max u.now t + 8 * searchBudget fl = e.sendAt ∧ e.due + 200 = max 200 e.sendAt ∧ e.ans = none)) ∧
  (∀ (ctag : Nat) (e : CscServe), u.csc.serves.find? (fun (d : CscServe) => d.ctag == ctag) = some e → cpRuns u 0 = true →
    Gives (.answerSend ctag) s (fun v =>
      v.now = max u.now e.sendAt ∧ v.csc.serves.length + 1 = u.csc.serves.length ∧
      v.out = u.out ++ [.frame 16 e.sendAt (answerFrame (servedPart u e).1 (if (servedPart u e).1 = 0 then (servedPart u e).2.2 else 0)
        e.ctag (servedPart u e).2.1)] ∧ v = { u with now := v.now, csc := v.csc, out := v.out })) ∧
  (∀ (fl : List Flit) (t : Nat), cpRuns u 1 = true → payload fl 0 4 = 0xD →
    (u.holds.any (fun h => h.csc.any (fun c => c.ctag == payload fl 32 16)) = false →
      u.csc.serves.any (fun e => e.down == some (payload fl 32 16)) = false →
      Gives (.answer fl t) s (fun v => Counts u v 0x140048 ∧ v = { u with now := max u.now t, regs := v.regs })) ∧
    (∀ h ∈ u.holds, ∀ c ∈ h.csc, c.ctag = payload fl 32 16 → c.ans = none → max u.now t ≤ c.due →
      Gives (.answer fl t) s (fun v => Counts u v 0x140044 ∧ v.now = max u.now t ∧
        (∃ g ∈ v.holds, g.port = h.port ∧ g.ctx = h.ctx ∧ ∃ d ∈ g.csc, d = { c with ans := some (payload fl 4 4,
          frameRec fl c.table c.part.bits, payload fl 8 24) }) ∧
        v = { u with now := v.now, holds := v.holds, regs := v.regs })))

/-- R320, R440: a win notice for a module further down is relayed, or counted as dropped when the port below does not run. -/
def Obligations.WinNoticesAreRelayed : Prop := ∀ (s : State) (f : Flit),
  let u := pre s
  cpRuns u 0 = true → fld f 255 252 = 0xB → nfld (fld f 127 0) 127 124 = 0 → u.csc.pos.toNat < nfld (fld f 255 128) 123 122 →
  (cpRuns u 1 = true → u.csc.chain ≠ 3 → Gives (.win f) s (fun v =>
    v.out = u.out ++ [.frame 17 u.now [BitVec.ofNat 256 (fld f 255 128 * 2 ^ 128)]] ∧ Counts u v (hpAddr 16 0x40) ∧
    v = { u with out := v.out, regs := v.regs })) ∧
  (cpRuns u 1 = false ∨ u.csc.chain = 3 → Gives (.win f) s (fun v => Counts u v 0x140058 ∧ v = { u with regs := v.regs }))

/-- R339, R341: a doorbell or a head write within its ring is taken, and one beyond it is refused and flagged. A write to another port's indices is dropped. -/
def Obligations.RingIndicesAreChecked : Prop :=
(∀ (s : State) (mb : Fin 4) (value : Word),
  let u := prePort s mb
  portUp u mb = true → u.stage.stage ≠ 0 → mb < u.mbox.length →
  (∀ ring : Fin 2, ring < (u.box mb).tail.length →
    ((fld value 15 0 + 65536 - natAt (u.box mb).tail ring) % 65536 ≤ 64 → (fld value 15 0 + 65536 - natAt (u.box mb).head ring) % 65536 ≤ 64 →
      Gives (.doorbell mb mb ring value) s (fun v => natAt (v.box mb).tail ring = fld value 15 0 ∧
        v = { u with mbox := v.mbox, regs := v.regs })) ∧
    (64 < (fld value 15 0 + 65536 - natAt (u.box mb).tail ring) % 65536 →
      Gives (.doorbell mb mb ring value) s (fun v => bit (v.live (mbAddr mb 0x20)) 1 = true ∧ Flagged v evMbxTailBad ∧
        v = { u with regs := v.regs, mgmt := v.mgmt, out := v.out }))) ∧
  ((fld value 15 0 + 65536 - (u.box mb).cplHead) % 65536 ≤ ((u.box mb).cplTail + 65536 - (u.box mb).cplHead) % 65536 →
    Gives (.mbCplHeadWrite mb mb value) s (fun v => (v.box mb).cplHead = fld value 15 0 ∧ v = { u with mbox := v.mbox, regs := v.regs })) ∧
  (((u.box mb).cplTail + 65536 - (u.box mb).cplHead) % 65536 < (fld value 15 0 + 65536 - (u.box mb).cplHead) % 65536 →
    Gives (.mbCplHeadWrite mb mb value) s (fun v => bit (v.live (mbAddr mb 0x20)) 2 = true ∧ Flagged v evMbxHeadBad ∧
      v = { u with regs := v.regs, mgmt := v.mgmt, out := v.out }))) ∧
(∀ (s : State) (port mb : Fin 4) (ring : Fin 2) (value : Word),
  let u := prePort s port
  port ≠ mb → portUp u port = true → u.stage.stage ≠ 0 →
  Gives (.doorbell port mb ring value) s (fun v => bit (v.live (mbAddr mb 0x20)) 3 = true ∧
    bit (v.live (0x200 + port * 0x10)) 6 = true ∧ v = { u with regs := v.regs, mgmt := v.mgmt, out := v.out }) ∧
  Gives (.mbCplHeadWrite port mb value) s (fun v => bit (v.live (mbAddr mb 0x20)) 3 = true ∧
    bit (v.live (0x200 + port * 0x10)) 6 = true ∧ v = { u with regs := v.regs, mgmt := v.mgmt, out := v.out }))

/-- R326, R331, R332, R340: acceptance takes one descriptor of the mailbox whose turn it is, and fixes the rights of its
command; the owner's OWN_RELEASE and OWN_HANDOVER begin the drain there. -/
def Obligations.AcceptanceFixesTheRights : Prop := ∀ (s : State) (mb : Nat),
  let u := pre s
  u.power.flush = none → u.power.pwrGood = true → pickMbox u = some mb →
  Gives (.commandAccept []) s (fun v => ∃ c : Cmd, v.cmds = u.cmds ++ [c] ∧ c.id = u.nextCmd ∧ c.mb = mb ∧ c.ring = pickRing u mb ∧
    c.num = (u.box mb).acc ∧ c.ownerRight = isOwner u mb ∧ c.st = .accepted ∧
    c.desc = BitVec.ofNat 1024 (natLE (memReadAll u.mem (cmdSlot mb (pickRing u mb) (natAt (u.box mb).head (pickRing u mb))) 128)) ∧
    v.nextCmd = u.nextCmd + 1 ∧ v.rrMbox = (mb + 1) % 4 ∧ v.mem = u.mem ∧ v.tables = u.tables ∧
    (c.ownerRight = true → headCheck c = none → u.own.st = .owned →
      (c.op = 0x84 → bareForm c 16 = true → v.own = { u.own with st := .draining }) ∧
      (c.op = 0x82 → ∀ t e w : Nat, (handoverForm c).2 = some (t, e, w) → v.own = { u.own with
        st := .handing, target := t, hand := some { target := t, epoch := e, window := w, cmd := c.id } })) ∧
    (c.ownerRight = false ∨ u.own.st ≠ .owned ∨ (c.op ≠ 0x84 ∧ c.op ≠ 0x82) → v.own = u.own))

/-- R325, R337, R341: a command starts after the first three checks, of which the first that fails decides its status; an
owner's command that a non-owner issues completes with NOT_OWNER and changes nothing. A unit takes the commands of the
mailboxes in turn, one of a low ring only when none of a high ring can start; the mailbox whose turn comes next after a start is
the next in number (the pointer is the model's choice, assumption 80). -/
def Obligations.StartChecksComeInOrder : Prop := ∀ (s : State) (mb : Fin 4) (c : Cmd),
  let u := pre s
  let w : State := { u with rrStart := u.rrStart.set (opUnit c.op) ((mb + 1) % 4) }
  nextStart u mb = some c →
  ((unitTakes u (opUnit c.op)).map (fun d => d.id) = some c.id →
    (headCheck c = none → Gives (.commandStart mb false []) s (fun v =>
      v = { w with cmds := u.cmds.map (fun d => if d.id == c.id then { d with st := .running, since := u.epoch.count } else d) })) ∧
    (∀ st : Nat, headCheck c = some st → Refused (.commandStart mb false []) s w c st) ∧
    Refused (.commandStart mb true []) s w c stInvalid) ∧
  ((unitTakes u (opUnit c.op)).map (fun d => d.id) ≠ some c.id → ∀ (parity : Bool) (errs : List PatrolErr),
    exec (.commandStart mb parity errs) s = .next u) ∧
  (∀ (k : Nat) (d : Cmd), unitTakes u k = some d → opUnit d.op = k ∧ behindFence u d = false ∧
    ((headCheck d).isSome = true ∨ unitFree u d = true) ∧
    (d.ring ≠ 0 → ∀ (m : Nat) (e : Cmd), m < 4 → nextStart u m = some e → opUnit e.op = k → startable u e = true → e.ring ≠ 0)) ∧
  (c.compl 0 4 4 = false ∨ c.compl 8 12 4 = false → headCheck c = some stBadComplement) ∧
  (c.compl 0 4 4 = true → c.compl 8 12 4 = true → opDefined c.op = false → headCheck c = some stInvalid) ∧
  (c.compl 0 4 4 = true → c.compl 8 12 4 = true → opDefined c.op = true → c.flags / 32 = 0 → c.flags / 4 % 4 = 0 → c.le 9 3 = 0 →
    headCheck c = (if c.ownerRight = false ∧ opAnyone c.op = false then some stNotOwner else none))

/-- R338, R341, R342: the completion of the oldest finished command is written to its ring slot, and coalescing raises
vector 0 when its count or its timer says so. -/
def Obligations.CompletionsAreWrittenAndRaised : Prop := ∀ (s : State) (mb : Fin 4) (c : Cmd),
  (let u := pre s
   oldest u mb = some c → c.st = .finished → cmdDurable u c = true → mb < u.mbox.length → Gives (.completionPost mb) s (fun v =>
     v.mem = memWriteAll u.mem (cplSlot c.mb c.num) (cplRecord c) ∧ (∀ d ∈ v.cmds, d.id ≠ c.id) ∧
     (v.box mb).cplTail = ((u.box mb).cplTail + 1) % 65536 ∧ v.own = u.own ∧ v.tables = u.tables ∧ v.epoch = u.epoch)) ∧
  (∀ a : Nat, ((pre s).box mb).firstAt = some a → (pre s).cfg (mbAddr mb 0x1C) 31 16 ≠ 0 → mb < (pre s).mbox.length →
    Gives (.irqCoalesceTimer mb) s (fun v =>
      let w := preAt (a + (pre s).cfg (mbAddr mb 0x1C) 31 16 * 10000) (pre s)
      mb < w.mbox.length → (v.box mb).firstAt = none ∧ (v.box mb).sinceRaise = 0 ∧ (v.box mb).cplTail = (w.box mb).cplTail ∧
        v = { w with mbox := v.mbox, regs := v.regs, out := v.out }))

/-- R45 to R47, R65, R97, R470 to R472: the table-structure commands. -/
def Obligations.TableStructureCommands : Prop := ∀ (s : State) (mb : Fin 4) (c : Cmd),
  let u := pre s
  (Runs u mb 0x01 c → createForm c = true → lockWait u c = false →
    (∀ w : State, createTable u c.table (cmdAttrs c) = .ok w → mayChange u c = true → Gives (.tblCreate mb) s (fun v =>
      Ends u v c stOk 0xFFFFFFFF (u.epoch.count + 1) false ∧ v.tables = w.tables ∧ v.direct = w.direct ∧ (v.table c.table).isSome = true ∧
      (kindOf (word (c.le 16 4)) = some .direct → ∀ j : Nat, fld (word (c.le 40 4)) 19 0 ≤ j →
        j < fld (word (c.le 40 4)) 19 0 + fld (word (c.le 44 4)) 20 0 → mapGetD v.direct j 0 = 0) ∧
      (kindOf (word (c.le 16 4)) ≠ some .direct → v.direct = u.direct) ∧
      (∀ k : Kind, kindOf (word (c.le 16 4)) = some k → k ≠ .ternary → v.table c.table = some (Table.fresh k u.epoch.count)))) ∧
    ((u.table c.table).isSome = true → ∃ st : Nat, createTable u c.table (cmdAttrs c) = .error st ∧
      Gives (.tblCreate mb) s (fun v => Ends u v c st 0xFFFFFFFF 0 false ∧ v.tables = u.tables))) ∧
  (Runs u mb 0x02 c → epochForm c = stOk →
    (∀ x : Table, u.table c.table = some x → (c.got = 0 ↔ x.st ≠ .destroying) → lockWait u c = false → mayChange u c = true →
      Gives (.tblDestroy mb) s (fun v =>
      Waits v c (.glaze c.table (u.seals + 1)) ∧ v.seals = u.seals + 1 ∧
      ∃ y z, v.table c.table = some y ∧ y.st = .destroying ∧ y.destroyAt = some z ∧ z.epoch = c.le 16 6 ∧ z.sealNo = u.seals + 1)) ∧
    (u.table c.table = none → Refused (.tblDestroy mb) s u c stNotFound) ∧
    (∀ x : Table, u.table c.table = some x → c.got = 0 → x.st = .destroying → Refused (.tblDestroy mb) s u c stNotFound)) ∧
  (Runs u mb 0x03 c →
    (alterForm c .tree = true → alterTree u c = true → mayChange u c = true → Gives (.tblAlter mb) s (fun v =>
      Ends u v c stOk 0xFFFFFFFF (u.epoch.count + 1) false ∧ v.tables = u.tables ∧ v.live (taAddr c.table 0x20) = word (c.le 40 4))) ∧
    (∀ k : Kind, alterForm c k = true → tableLive u c.table = true → lockWait u c = false → tableKind u c.table ≠ some k →
      Refused (.tblAlter mb) s u c stInvalid)) ∧
  (Runs u mb 0x04 c → mirrorForm c = true → ∀ (x : Table) (h : BlkHold), mirrorBlock u c x h = true →
    (c.le 20 4 ≤ (freeSpares u h.die).length + (mirrors u h.die h.block false).length → mayChange u c = true →
      Gives (.tblMirror mb) s (fun v => ∃ k ∈ v.dies.changes, k.table = c.table ∧ k.cmd = some c.id ∧ k.die = h.die ∧ k.block = h.block ∧
        Waits v c (.copyMap k.id) ∧ v.tables = u.tables)) ∧
    ((freeSpares u h.die).length + (mirrors u h.die h.block false).length < c.le 20 4 → Gives (.tblMirror mb) s (fun v =>
      Ends u v c stTableFull 0xFFFFFFFF 0 false ∧ v = { u with cmds := v.cmds, regs := v.regs })))

/-- R50, R177 to R180, R193: an entry command changes the open generation of its table and no other. -/
def Obligations.EntryCommandsChangeTheOpenGeneration : Prop := ∀ (s : State) (mb : Fin 4) (c : Cmd) (x : Table) (o : Nat) (s1 s2 : State),
  let u := pre s
  (∀ (io : HostIO) (l : List Byte) (len : Nat), io.errs = [] → entryForm u c io l len = true →
    (Runs u mb 0x20 c → leAt l 0 4 ≠ 0xFFFFFFFF → entryRuns u c x (.ins (parseEntry l)) o s1 s2 → Gives (.entInsert mb io) s (fun v =>
      Ends u v c stOk (leAt l 0 4) 0 false ∧ Holds v c.table o (parseEntry l) ∧ v.direct = u.direct ∧
      ∀ q : Nat, q ≠ c.table → v.table q = u.table q)) ∧
    (Runs u mb 0x22 c → entryRuns u c x (.mod (parseEntry l)) o s1 s2 → Gives (.entModify mb io) s (fun v =>
      Ends u v c stOk (leAt l 0 4) 0 false ∧ Holds v c.table o (parseEntry l) ∧ v.direct = u.direct ∧
      ∀ q : Nat, q ≠ c.table → v.table q = u.table q))) ∧
  (Runs u mb 0x21 c → c.compl 16 20 4 = true → c.addr = false → c.zeroFrom 24 = true → entryRuns u c x (.del (c.le 16 4)) o s1 s2 →
    Gives (.entDelete mb) s (fun v => Ends u v c stOk (c.le 16 4) 0 false ∧ v.direct = u.direct ∧
      (∀ y : Table, v.table c.table = some y → ∀ r ∈ y.rows, r.handle = c.le 16 4 → visIn r.vis o = false) ∧
      ∀ q : Nat, q ≠ c.table → v.table q = u.table q)) ∧
  (Runs u mb 0x23 c → c.compl 16 24 8 = true → c.addr = false → c.zeroFrom 32 = true → c.le 20 4 < 2 ^ 24 →
    entryRuns u c x (.rep (c.le 16 4) (c.le 20 4)) o s1 s2 → Gives (.entReprio mb) s (fun v =>
      Ends u v c stOk (c.le 16 4) 0 false ∧ v.direct = u.direct ∧
      (∃ y, v.table c.table = some y ∧ ∃ r ∈ y.rows, visIn r.vis o = true ∧ r.handle = c.le 16 4 ∧ r.prio = c.le 20 4) ∧
      ∀ q : Nat, q ≠ c.table → v.table q = u.table q))

/-- R66, R175, R177, R439: an ENT_MODIFY of a DIRECT table writes one word; a batch applies all of its records or none. -/
def Obligations.BatchesApplyWholeOrNotAtAll : Prop := ∀ (s : State) (mb : Fin 4) (c : Cmd) (io : HostIO),
  let u := pre s
  let k := taDirBase u c.table + c.le 16 4
  io.errs = [] →
  (Runs u mb 0x22 c → tableKind u c.table = some .direct → tableLive u c.table = true → lockWait u c = false →
    c.compl 16 20 4 = true → c.addr = false → c.auto = false → c.zeroFrom 56 = true →
    (c.le 16 4 < taDirSize u c.table → mayChange u c = true → Gives (.entModify mb io) s (fun v =>
      Ends u v c stOk (c.le 16 4) (u.epoch.count + 1) false ∧ mapGetD v.direct k 0 = BitVec.ofNat 256 (c.le 24 32) ∧
      (∀ j : Nat, j ≠ k → mapGetD v.direct j 0 = mapGetD u.direct j 0) ∧ v.tables = u.tables)) ∧
    (taDirSize u c.table ≤ c.le 16 4 → Refused (.entModify mb io) s u c stInvalid (c.le 16 4))) ∧
  (∀ (l : List Byte) (r : BatchRead), batchRuns u mb c io l r →
    (tableKind u c.table = some .direct → c.auto = false → mayChange u c = true →
      (∀ w : State, findIdx (fun g => changeCheck u c.table g != stOk) r.changes 0 = none → applyAll u c.table 0 0 r.changes = .ok w →
        Gives (.entBatch mb io) s (fun v => Ends u v c stOk 0xFFFFFFFF (u.epoch.count + 1) false ∧ v.direct = w.direct ∧ v.tables = u.tables)) ∧
      (∀ i : Nat, findIdx (fun g => changeCheck u c.table g != stOk) r.changes 0 = some i → Refused (.entBatch mb io) s u c stInvalid i)) ∧
    (∀ (x : Table) (o : Nat) (s1 : State), u.table c.table = some x → x.kind = .ternary → noSlot x = false → openGen u c.table = some (o, s1) →
      (∀ w : State, applyAll s1 c.table o 0 r.changes = .ok w → mayChange u c = true → c.auto = false → Gives (.entBatch mb io) s (fun v =>
        Ends u v c stOk 0xFFFFFFFF 0 false ∧ (v.table c.table).map (fun y => y.rows) = (w.table c.table).map (fun y => y.rows) ∧
        ∀ q : Nat, q ≠ c.table → v.table q = u.table q)) ∧
      (∀ st f i : Nat, applyAll s1 c.table o 0 r.changes = .error (st, f, i) → Gives (.entBatch mb io) s (fun v =>
        Ends u v c st i 0 false ∧ v = { u with cmds := v.cmds, regs := v.regs, mgmt := v.mgmt, out := v.out }))))

/-- R37, R178, R182, R186, R187: scheduling seals the OPEN generation for its epoch, an abort discards what is not yet
glazed, and a FENCE waits for every earlier command. AUTO seals the generation that the command changed. -/
def Obligations.GlazeClassCommands : Prop :=
(∀ (s : State) (mb : Fin 4) (c : Cmd),
  let u := pre s
  (∀ x : Table, Runs u mb 0x40 c → glazeRuns u c x →
    (u.epoch.qual = .lost → c.got ≠ 1 → Refused (.glazeSchedule mb) s u c stExpired) ∧
    (u.epoch.qual ≠ .lost ∨ c.got = 1 → openSlot x = none → Gives (.glazeSchedule mb) s (fun v =>
      Ends u v c stOk 0xFFFFFFFF x.glazed x.glazedHeld ∧ v = { u with cmds := v.cmds })) ∧
    (∀ k : Nat, u.epoch.qual ≠ .lost ∨ c.got = 1 → openSlot x = some k → k < x.slots.length → sealedMax x ≤ c.le 16 6 → mayChange u c = true →
      Gives (.glazeSchedule mb) s (fun v => Waits v c (.glaze c.table (u.seals + 1)) ∧ v.seals = u.seals + 1 ∧
        (∃ y, v.table c.table = some y ∧ (y.slot k).st = .sealed ∧ (y.slot k).epoch = c.le 16 6 ∧ (y.slot k).sealNo = u.seals + 1 ∧
          (y.slot k).armed = false ∧ y.rows = x.rows ∧ y.covers = x.covers ∧ (∀ j : Nat, j ≠ k → y.slot j = x.slot j)) ∧
        ∀ q : Nat, q ≠ c.table → v.table q = u.table q)) ∧
    (∀ k : Nat, u.epoch.qual ≠ .lost ∨ c.got = 1 → openSlot x = some k → c.le 16 6 < sealedMax x → Refused (.glazeSchedule mb) s u c stInvalid)) ∧
  (∀ x : Table, Runs u mb 0x41 c → c.auto = false → c.addr = false → c.zeroFrom 16 = true → u.table c.table = some x → x.st = .live → x.kind ≠ .direct →
    (slotsIn x (fun q => q == .opened || q == .sealed) = [] → Refused (.glazeAbort mb) s u c stNotFound) ∧
    (slotsIn x (fun q => q == .opened || q == .sealed) ≠ [] → mayChange u c = true → Gives (.glazeAbort mb) s (fun v =>
      (∃ d ∈ v.cmds, d.id = c.id ∧ d.st = .finished ∧ d.status = stOk) ∧
      (∃ y, v.table c.table = some y ∧ slotsIn y (fun q => q == .opened || q == .sealed) = []) ∧
      ∀ q : Nat, q ≠ c.table → v.table q = u.table q))) ∧
  (Runs u mb 0x42 c → c.auto = false → c.addr = false → c.zeroFrom 16 = true → c.table = 255 →
    (fenceOpen u c = true → Gives (.fence mb) s (fun v => Ends u v c stOk 0xFFFFFFFF 0 false ∧ v = { u with cmds := v.cmds })) ∧
    (fenceOpen u c = false → Gives (.fence mb) s (fun v => Waits v c .fence ∧ v = { u with cmds := v.cmds })))) ∧
(∀ (s : State) (mb : Fin 4) (c : Cmd) (x : Table) (o : Nat) (s1 s2 : State),
  let u := pre s
  Runs u mb 0x21 c → c.compl 16 20 4 = true → c.addr = false → c.zeroFrom 24 = true → c.auto = true → u.epoch.qual ≠ .lost →
  u.table c.table = some x → x.st = .live → x.kind = .ternary → lockWait u c = false → noSlot x = false →
  changeCheck u c.table (.del (c.le 16 4)) = stOk → openGen u c.table = some (o, s1) → applyChange s1 c.table o (.del (c.le 16 4)) = .ok s2 →
  mayChange u c = true → x.slots.length = 4 →
  Gives (.entDelete mb) s (fun v => Waits v c (.glaze c.table (u.seals + 1)) ∧ v.seals = u.seals + 1 ∧
    ∃ y, v.table c.table = some y ∧ (y.slot o).st = .sealed ∧ (y.slot o).by_ = .auto ∧ (y.slot o).sealNo = u.seals + 1 ∧
      u.epoch.count ≤ (y.slot o).epoch))

/-- R473 to R475: the query commands report and change nothing but their completion and host memory. A host
transfer that fails ends its command (R341, R443). -/
def Obligations.QueriesReportWithoutChange : Prop :=
(∀ (s : State) (mb : Fin 4) (c : Cmd) (io : HostIO) (x : Table),
  let u := pre s
  io.errs = [] →
  (∀ k : Nat, Runs u mb 0x50 c → readRuns u c x k →
    (∀ r : Row, rowIn x k (c.le 16 4) = some r → reaches_ u c io = true → Gives (.entRead mb io) s (fun v =>
      Ends u v c stOk (c.le 16 4) 0 false ∧ v.out = u.out ++ [.dma c.mb (c.host 24) (entBytes r (fld (ta u c.table 0) 5 4))] ∧
      v = { u with cmds := v.cmds, out := v.out })) ∧
    (rowIn x k (c.le 16 4) = none → Refused (.entRead mb io) s u c stNotFound)) ∧
  (Runs u mb 0x51 c → searchRuns u c x → ∀ k : Nat, k = (if bit c.desc (8 * 96) then headSlot x else (liveSlot x).getD 0) →
    (∀ f : Found, answerIn u c.table x (ta u c.table 0x14) k (BitVec.ofNat 640 (c.le 16 80)) = some f → Gives (.querySearch mb) s (fun v =>
      Ends u v c stOk f.handle (if bit c.desc (8 * 96) then 0 else u.epoch.count)
        (if bit c.desc (8 * 96) then false else u.epoch.held) ∧ v = { u with cmds := v.cmds, dies := v.dies })) ∧
    (answerIn u c.table x (ta u c.table 0x14) k (BitVec.ofNat 640 (c.le 16 80)) = none → Gives (.querySearch mb) s (fun v =>
      Ends u v c stNotFound 0xFFFFFFFF 0 false ∧ v = { u with cmds := v.cmds, dies := v.dies }))) ∧
  (∀ e : Entry, Runs u mb 0x52 c → findRuns u c io x e → Gives (.queryFind mb io) s (fun v =>
    v = { u with cmds := v.cmds, free := v.free } ∧
    ((∃ r ∈ x.rows, visIn r.vis (headSlot x) = true ∧ r.value = e.value ∧ r.mask = e.mask ∧ Ends u v c stOk r.handle 0 false) ∨
      ((∀ r ∈ x.rows, visIn r.vis (headSlot x) = true → r.value = e.value → r.mask ≠ e.mask) ∧
        Ends u v c stNotFound 0xFFFFFFFF 0 false)))) ∧
  (Runs u mb 0x53 c → c.compl 24 28 4 = true → c.auto = false → c.addr = false → c.zeroFrom 32 = true → c.host 16 % 32 = 0 →
    128 ≤ c.le 24 4 → u.table c.table = some x → reaches_ u c io = true → Gives (.tblStats mb io) s (fun v =>
      Ends u v c stOk 0xFFFFFFFF 0 false ∧ v.out = u.out ++ [.dma c.mb (c.host 16) (statsRecord u c.table x)] ∧
      v = { u with cmds := v.cmds, out := v.out }))) ∧
(∀ (s : State) (mb : Fin 4) (c : Cmd) (io : HostIO) (x : Table),
  let u := pre s
  io.errs = [] → Runs u mb 0x53 c → c.compl 24 28 4 = true → c.auto = false → c.addr = false → c.zeroFrom 32 = true → c.host 16 % 32 = 0 →
  128 ≤ c.le 24 4 → u.table c.table = some x → reaches_ u c io = false →
  Gives (.tblStats mb io) s (fun v => Ends u v c stAborted 0xFFFFFFFF 0 false ∧ bit (v.live (mbAddr c.mb 0x20)) 0 = true ∧
    v = { u with cmds := v.cmds, regs := v.regs, out := v.out, free := v.free })) ∧
(∀ (s : State) (mb : Fin 4) (c : Cmd) (io : HostIO),
  let u := pre s
  io.errs = [] → Runs u mb 0x20 c → c.addr = true → c.compl 24 28 4 = true → entryOperand u c io = none →
  Gives (.entInsert mb io) s (fun v => Ends u v c stAborted 0xFFFFFFFF 0 false ∧ bit (v.live (mbAddr c.mb 0x20)) 0 = true ∧
    (io.timeout = true → busUp u c.mb = true → .errNonFatal c.mb ∈ v.out) ∧
    v = { u with cmds := v.cmds, regs := v.regs, out := v.out, free := v.free }))

/-- R220, R224: the learning and the aging of a table are configured. -/
def Obligations.LearningAndAgingAreConfigured : Prop := ∀ (s : State) (mb : Fin 4) (c : Cmd) (x : Table),
  let u := pre s
  u.table c.table = some x → x.st = .live → x.kind = .ternary → lockWait u c = false → mayChange u c = true →
  (Runs u mb 0x60 c → c.compl 28 32 4 = true → c.compl 36 72 8 = true → learnForm c = true →
    (learnFits u c.table (learnOperands c) = true → Gives (.learnCfg mb) s (fun v => Ends u v c stOk 0xFFFFFFFF 0 false ∧
      v.table c.table = some { x with learn := some (learnOperands c) } ∧ ∀ q : Nat, q ≠ c.table → v.table q = u.table q)) ∧
    (learnFits u c.table (learnOperands c) = false → Refused (.learnCfg mb) s u c stInvalid)) ∧
  (Runs u mb 0x61 c → ageForm c = true → asLost u = false → Gives (.ageSweep mb) s (fun v => Ends u v c stOk 0xFFFFFFFF 0 false ∧
    (∃ y, v.table c.table = some y ∧ y = { x with age := y.age } ∧ (c.le 40 4 = 2 → y.age = none) ∧
      (c.le 40 4 ≠ 2 → ∃ g, y.age = some g ∧ g.next = c.le 16 6 ∧ g.th = c.le 32 3 ∧ g.period = c.le 36 4 ∧ g.op = c.le 40 4 ∧
        g.delMax = c.le 44 4 ∧ g.port = c.mb)) ∧ ∀ q : Nat, q ≠ c.table → v.table q = u.table q))

/-- R207 to R213: counters are read into host memory, cleared, and armed for a snapshot. An armed snapshot captures its tables at the step, and its copy ends. -/
def Obligations.CounterCommands : Prop :=
(∀ (s : State) (mb : Fin 4) (c : Cmd) (io : HostIO) (x : Table),
  let u := pre s
  let k := (liveSlot x).getD 0
  let b := c.le 32 4 % 2
  io.errs = [] → u.table c.table = some x → x.st = .live → x.kind = .ternary → asLost u = false →
  (Runs u mb 0x62 c → cntCompl c true = true → cntForm c true 7 = true →
    (∀ hs : List Nat, c.all = false → c.mode.testBit 1 = false → readList u c io (c.le 24 4 / 32) = some hs → reaches_ u c io = true →
      Gives (.cntRead mb io) s (fun v => Ends u v c stOk ((recordsListed u x k hs).1.length / 32) 0 false ∧
        v.out = u.out ++ [.dma c.mb (c.host 16) (recordsListed u x k hs).1] ∧ v.tables = u.tables ∧ v.epoch = u.epoch ∧ v.mem = u.mem)) ∧
    (c.mode.testBit 1 = true → (u.snaps.getD (b2n (c.mode.testBit 2)) Snap.reset).st = 2 → Gives (.cntRead mb io) s (fun v =>
      Waits v c (.snapRead (b2n (c.mode.testBit 2))) ∧ v = { u with cmds := v.cmds }))) ∧
  (∀ written : Nat, clearRuns u mb c →
    (∀ hs : List Nat, c.all = false → c.mode.testBit 3 = false → readList u c io (2 ^ 32) = some hs →
      Gives (.cntClear mb io written) s (fun v => Ends u v c stOk 0xFFFFFFFF 0 false ∧ v.tables = u.tables ∧ v.out = u.out ∧
        ∀ h ∈ hs, ∀ e : Row, rowIn x k h = some e → ∀ p ∈ entryPositions x k e,
          v.act.suspect.contains p = false ∧ (uncached u → storePair v p = Pair.zero))) ∧
    (c.all = true → c.mode.testBit 3 = true → Gives (.cntClear mb io written) s (fun v => Ends u v c stOk 0xFFFFFFFF 0 false ∧
      ∃ y, v.table c.table = some y ∧ y = { x with retPkt := 0, retByte := 0, retLate := 0 }))) ∧
  (Runs u mb 0x64 c → snapForm c = true →
    (bit (word (c.le 32 4)) 2 = false → (u.snaps.getD b Snap.reset).st ≠ 1 → (u.snaps.getD b Snap.reset).st ≠ 2 → b < u.snaps.length →
      Gives (.cntSnapshot mb) s (fun v => Waits v c (.snapStep b) ∧ v.snaps.getD b Snap.reset =
        { st := 1, table := c.table, epoch := c.le 16 6, clr := (c.le 32 4).testBit 1, cmd := some c.id, caps := [] } ∧
        v = { u with cmds := v.cmds, snaps := v.snaps })) ∧
    (bit (word (c.le 32 4)) 2 = true → (u.snaps.getD b Snap.reset).st = 3 → Gives (.cntSnapshot mb) s (fun v =>
      Ends u v c stOk 0xFFFFFFFF 0 false ∧ v.snaps.getD b Snap.reset = Snap.reset ∧ v = { u with cmds := v.cmds, snaps := v.snaps })) ∧
    (bit (word (c.le 32 4)) 2 = true → (u.snaps.getD b Snap.reset).st ≠ 3 → Refused (.cntSnapshot mb) s u c stInvalid))) ∧
(∀ (s : State) (buf : Fin 2),
  (∀ l : List Due, let b := s.snaps.getD buf Snap.reset
    DueNow s (fun d => d == .snapshot buf) (.snapshot buf) l → b.st = 1 → b.epoch ≤ s.epoch.count → asLost s = false →
      Gives (.snapshotTake buf []) s (fun v =>
      (let q := v.snaps.getD buf Snap.reset
       q.st = 2 ∧ q.epoch = s.epoch.count ∧ q.cmd = none ∧ q.table = b.table ∧
         q.caps.map (fun a => a.table) = (s.tables.filter (fun p => snapCovers b.table p.1 p.2)).map (fun p => p.1)) ∧
      (∀ i : Nat, b.cmd = some i → ∀ d ∈ v.cmds, d.id = i → d.st = .finished ∧ d.status = stOk ∧ d.vis = s.epoch.count ∧
        d.held = s.epoch.held) ∧ v.due = l ∧ v.mem = s.mem ∧ v.epoch = s.epoch)) ∧
  (let u := pre s
   (u.snaps.getD buf Snap.reset).st = 2 → Gives (.cntSnapDone buf) s (fun v =>
     v.snaps.getD buf Snap.reset = { u.snaps.getD buf Snap.reset with st := 3 } ∧ Flagged v evCntSnapDone ∧
     (∀ d ∈ v.cmds, d.st ≠ .waiting (.snapRead buf)) ∧
     v = { u with snaps := v.snaps, cmds := v.cmds, regs := v.regs, mgmt := v.mgmt, out := v.out })))

/-- R371, R386, R397: a checkpoint is asked for, the status is reported, and the crumb table is set. -/
def Obligations.VaultCommands : Prop := ∀ (s : State) (mb : Fin 4) (c : Cmd) (io : HostIO),
  let u := pre s
  io.errs = [] →
  (Runs u mb 0x70 c → c.table = 255 → c.auto = false → c.addr = false → c.zeroFrom 16 = true →
    (ckptAllowed u = true → Gives (.vaultCheckpoint mb) s (fun v => Waits v c .checkpoint ∧
      v = { u with cmds := v.cmds, vault := { u.vault with ckptDue := true, ckptJoin := u.vault.ckptJoin ++ [c.id] } })) ∧
    (ckptAllowed u = false → Refused (.vaultCheckpoint mb) s u c stAborted)) ∧
  (Runs u mb 0x74 c → c.table = 255 → c.auto = false → c.addr = true → c.host 16 % 16 = 0 → c.zeroFrom 24 = true →
    reaches_ u c io = true → Gives (.vaultStatus mb io) s (fun v => Ends u v c stOk 0xFFFFFFFF 0 false ∧
      v = { u with cmds := v.cmds, out := u.out ++ [.dma c.mb (c.host 16) (vltRecord u)] })) ∧
  (∀ (x : Table) (hs : List Nat) (rs : List Row) (programmed : Bool), Runs u mb 0x73 c → crumbForm c = true →
    u.table c.table = some x → x.st = .live → x.kind = .ternary → taCasc u c.table = false → c.le 24 4 ≤ 4 * (4096 / taW u c.table) →
    (if c.le 24 4 = 0 then hs = [] else (busRead u c io (4 * c.le 24 4)).map (fun l => listHandles l (c.le 24 4)) = some hs) →
    (crumbHandles x ((liveSlot x).getD 0) 0 [] hs = .ok rs →
      let l := u.vault.crumb.filter (fun p => p.1 != c.table) ++ rs.map (fun r => (c.table, r))
      (crumbsFit u l = true → programmed = true → vaultTakes u = true → Gives (.crumbSet mb io programmed) s (fun v =>
        Ends u v c stOk 0xFFFFFFFF 0 false ∧ v = { u with cmds := v.cmds, vault := { u.vault with crumb := l } })) ∧
      (crumbsFit u l = true → programmed = false ∨ vaultTakes u = false → Refused (.crumbSet mb io programmed) s u c stVaultFault)) ∧
    (∀ st i : Nat, crumbHandles x ((liveSlot x).getD 0) 0 [] hs = .error (st, i) → st ≠ stTableFull → st ≠ stNoPlacement →
      st ≠ stBusyGlaze → Refused (.crumbSet mb io programmed) s u c st i))

/-- R394 to R396, R418: a table or the crumb table is exported, and a signed configuration image is imported into the vault. -/
def Obligations.ImagesAreExportedAndImported : Prop := ∀ (s : State) (mb : Fin 4) (c : Cmd) (io : HostIO),
  let u := pre s
  io.errs = [] →
  (∀ (slot : Nat) (gen : Option Nat) (secs : List (Nat × List Byte)), Runs u mb 0x72 c → exportForm c = true →
    exportKey u = some (slot, gen) →
    (c.le 32 4 = 1 ∧ (∃ x : Table, u.table c.table = some x ∧ x.st = .live ∧ secs = (tableSections u c.table x false).1)) ∨
      (c.le 32 4 = 2 ∧ c.table = 255 ∧ vaultTakes u = true ∧ secs = crumbSections u) →
    let l := perdarImage (perdarBody u (c.le 32 4) c.table slot secs) gen
    (l.length ≤ c.le 24 4 → reaches_ u c io = true → Gives (.vaultExport mb io) s (fun v => Ends u v c stOk l.length 0 false ∧
      v = { u with cmds := v.cmds, out := u.out ++ [.dma c.mb (c.host 16) l] })) ∧
    (c.le 24 4 < l.length → Refused (.vaultExport mb io) s u c stInvalid l.length)) ∧
  (∀ (l : List Byte) (secs : List (Nat × List Byte)), importRuns u mb c io l secs →
    secs.all (fun p => p.1 == 7 || p.1 == 8 || p.1 == 9) = true → (configPairs ((section_ secs 7).getD [])).all (fun p => persists p.1) = true →
    vaultTakes u = true →
    (imageSigned u l = true → Gives (.vaultImport mb io) s (fun v => Ends u v c stOk 0xFFFFFFFF 0 false ∧
      v = { u with cmds := v.cmds, vault := { u.vault with cfg := some { u.vault.cfg.getD CfgImg.empty with
        live := (importPairs secs).foldl (fun m p => mapSet m p.1 p.2) (u.vault.cfg.getD CfgImg.empty).live } } })) ∧
    (imageSigned u l = false → Gives (.vaultImport mb io) s (fun v => Ends u v c stInvalid 0xFFFFFFFF 0 false ∧
      Flagged v evVltAuthFail ∧ v = { u with cmds := v.cmds, regs := v.regs, mgmt := v.mgmt, out := v.out })))

/-- R328, R330 to R334: the ownership commands. -/
def Obligations.OwnershipCommands : Prop := ∀ (s : State) (mb : Fin 4) (c : Cmd),
  let u := pre s
  (Runs u mb 0x80 c → c.compl 16 20 4 = true → bareForm c 24 = true → c.le 19 1 = 0 →
    let b : Ballot := { pending := c.le 18 1 != 0, rank := c.le 18 1, token := c.le 16 2
                        result := if c.le 18 1 = 0 then 0 else 1, castAt := u.now }
    let o := { u.own with ballots := u.own.ballots.set mb b }
    (isOwner u mb = false → u.own.st = .vacant → Gives (.ownClaim mb) s (fun v => Waits v c .election ∧
      v = { u with own := o, cmds := v.cmds })) ∧
    (isOwner u mb = true → Gives (.ownClaim mb) s (fun v => Ends u v c stOk 0xFFFFFFFF u.own.began u.own.beganHeld ∧
      v = { u with own := o, cmds := v.cmds })) ∧
    (isOwner u mb = false → u.own.st ≠ .vacant → Gives (.ownClaim mb) s (fun v => Ends u v c stNotOwner 0xFFFFFFFF 0 false ∧
      v = { u with own := o, cmds := v.cmds }))) ∧
  (Runs u mb 0x81 c → c.compl 16 20 4 = true → bareForm c 24 = true → c.le 19 1 = 0 →
    (isOwner u mb = true → u.own.st ≠ .draining → c.le 16 4 = 0 ∨ 16 ≤ c.le 16 4 →
      let e := u.epoch.count + (if c.le 16 4 = 0 then leaseLen u else c.le 16 4)
      Gives (.ownRenew mb) s (fun v => Ends u v c stOk 0xFFFFFFFF e false ∧
        (lateRenewal u = none → v.own.renewed = some (u.now, u.own.leaseEnd, false)) ∧
        v = { u with own := { u.own with leaseEnd := e, renewed := v.own.renewed }, cmds := v.cmds })) ∧
    (isOwner u mb = false → c.le 16 4 = 0 ∨ 16 ≤ c.le 16 4 → Gives (.ownRenew mb) s (fun v => Ends u v c stOk 0xFFFFFFFF 0 false ∧
      v = { u with cmds := v.cmds })) ∧
    (isOwner u mb = true → u.own.st = .draining → c.le 16 4 = 0 ∨ 16 ≤ c.le 16 4 → Gives (.ownRenew mb) s (fun v => Ends u v c stOk 0xFFFFFFFF 0 false ∧
      bit (v.live 0x10018) 1 = true ∧ v = { u with regs := v.regs, cmds := v.cmds })) ∧
    (0 < c.le 16 4 → c.le 16 4 < 16 → Refused (.ownRenew mb) s u c stInvalid)) ∧
  (Runs u mb 0x82 c →
    (∀ q : Nat × Nat × Nat, (handoverForm c).2 = some q →
      (∀ h : Handover, u.own.hand = some h → h.cmd = c.id → Gives (.ownHandover mb) s (fun v => Waits v c .handover ∧
        v = { u with cmds := v.cmds })) ∧
      (u.own.hand = none → Refused (.ownHandover mb) s u c stExpired)) ∧
    (∀ st : Nat, handoverForm c = (st, none) → Refused (.ownHandover mb) s u c st)) ∧
  (Runs u mb 0x83 c → bareForm c 16 = true →
    (isOwner u mb = true → u.own.st ≠ .draining → u.own.probation = true → Gives (.ownAccept mb) s (fun v =>
      Ends u v c stOk 0xFFFFFFFF 0 false ∧
      (lateRenewal u = none → v.own.renewed = some (u.now, u.own.leaseEnd, false)) ∧ v = { u with
        cmds := v.cmds
        own := { u.own with probation := false, leaseEnd := u.epoch.count + leaseLen u, renewed := v.own.renewed } })) ∧
    (isOwner u mb = true → u.own.st = .draining → u.own.probation = true → Gives (.ownAccept mb) s (fun v =>
      Ends u v c stOk 0xFFFFFFFF 0 false ∧ bit (v.live 0x10018) 1 = true ∧
      v = { u with cmds := v.cmds, regs := v.regs, own := { u.own with probation := false } })) ∧
    (isOwner u mb = false ∨ u.own.probation = false → Refused (.ownAccept mb) s u c stInvalid)) ∧
  (Runs u mb 0x84 c → bareForm c 16 = true → isOwner u mb = true →
    (u.own.st = .draining → Gives (.ownRelease mb) s (fun v => Waits v c .vacancy ∧ v = { u with cmds := v.cmds })) ∧
    (u.own.st ≠ .draining → Refused (.ownRelease mb) s u c stOk))

/-- R327, R328, R330 to R333: ballots, the lease, the drain, the election and the handover. -/
def Obligations.OwnershipPassesByRule : Prop := ∀ (s : State),
  (∀ (port : Fin 4) (value : Word), let u := prePort s port
    portUp u port = true → bit value 29 = true →
    let b : Ballot := { pending := fld value 23 16 != 0, rank := fld value 23 16, token := fld value 15 0
                        result := if fld value 23 16 = 0 then 0 else 1, castAt := u.now }
    Gives (.ownClaimCast port value) s (fun v =>
      v = { u with regs := v.regs, own := { u.own with ballots := u.own.ballots.set port b } }) ∧
    Gives (.ownClaimWithdraw port value) s (fun v =>
      v = { u with regs := v.regs, own := { u.own with ballots := u.own.ballots.set port b } })) ∧
  (∀ (port : Fin 4) (value : Word), let u := prePort s port
    portUp u port = true → isOwner u port = true → bit value 31 = true →
    (u.own.st ≠ .draining → Gives (.renew port value) s (fun v =>
      (16 ≤ fld value 23 0 → leaseLen v = fld value 23 0) ∧
      (fld value 23 0 < 16 → leaseLen v = leaseLen u ∧ Flagged v evOwnCfgInvalid) ∧
      (lateRenewal u = none → v.own.renewed = some (u.now, u.own.leaseEnd, true)) ∧
      v = { u with regs := v.regs, vault := v.vault, free := v.free, mgmt := v.mgmt, out := v.out, dies := v.dies
                   own := { u.own with leaseEnd := u.epoch.count + leaseLen v, renewed := v.own.renewed } })) ∧
    (u.own.st = .draining → Gives (.renew port value) s (fun v => bit (v.live 0x10018) 1 = true ∧
      v = { u with regs := v.regs, vault := v.vault, free := v.free, mgmt := v.mgmt, out := v.out, dies := v.dies }))) ∧
  (∀ l : List Due, DueNow s (fun d => d == .leaseEnd) .leaseEnd l → s.own.st = .owned ∨ s.own.st = .handing →
    (s.own.linkLoss = none → leaseNow s ≤ s.epoch.count → Gives .leaseEnd s (fun v =>
      v.own = { s.own with st := .draining, hand := none, leaseEnd := leaseNow s } ∧
      bit (v.live 0x10018) 0 = true ∧ Flagged v evOwnExpire ∧ (∀ e : Nat, lateRenewal s = some (e, true) → Flagged v evRegCollide) ∧
      (∀ h : Handover, s.own.hand = some h → ∀ d ∈ v.cmds, d.id = h.cmd → d.st = .finished ∧ d.status = stExpired) ∧
      v.due = l ∧ v.tables = s.tables ∧ v.mem = s.mem ∧ v.epoch = s.epoch)) ∧
    (∀ w : Nat, s.own.linkLoss = some w → Gives .leaseEnd s (fun v =>
      v.own = { s.own with st := .draining, hand := none, linkLoss := none } ∧ Flagged v evOwnExpire ∧
      v.due = l ∧ v.tables = s.tables ∧ v.mem = s.mem ∧ v.epoch = s.epoch))) ∧
  (∀ l : List Due, DueNow s isVacant (.vacant true) l → s.own.st = .draining → ownDrained s = true →
    (bestBallot s = none → Gives .ownershipVacant s (fun v => v.own = { s.own with st := .vacant, probation := false } ∧
      Flagged v evOwnChange ∧ (∀ d ∈ v.cmds, releases d = true → d.st = .finished) ∧
      (∀ c ∈ s.cmds, releases c = true → c.st ≠ .finished → ∀ d ∈ v.cmds, d.id = c.id →
        d.status = stOk ∧ d.vis = s.epoch.count ∧ d.held = s.epoch.held) ∧ v.due = l ∧ v.tables = s.tables ∧ v.mem = s.mem ∧ v.epoch = s.epoch)) ∧
    (∀ p : Nat, bestBallot s = some p → Gives .ownershipVacant s (fun v => v.own.st = .owned ∧ v.own.owner = p ∧ v.own.probation = false ∧
      v.own.leaseEnd = s.epoch.count + leaseLen s ∧ v.own.began = s.epoch.count ∧
      v.own.beganHeld = s.epoch.held ∧ v.due = l ∧ v.tables = s.tables ∧ v.epoch = s.epoch))) ∧
  (∀ (l : List Due) (h : Handover), DueNow s (fun d => d == .handover) .handover l → s.own.hand = some h → s.own.st = .handing →
    h.epoch ≤ s.epoch.count → ownDrained s = true →
    (s.power.mpUp.getD h.target false = true → Gives .handoverPass s (fun v => v.own = { s.own with
      st := .owned, owner := h.target, probation := true, rank := 0, token := 0, hand := none, began := s.epoch.count
      beganHeld := s.epoch.held, leaseEnd := s.epoch.count + h.window } ∧
      (∀ d ∈ v.cmds, d.id = h.cmd → d.st = .finished ∧ d.status = stOk ∧ d.vis = s.epoch.count) ∧ v.due = l ∧ v.tables = s.tables ∧ v.epoch = s.epoch)) ∧
    (s.power.mpUp.getD h.target false = false → Gives .handoverPass s (fun v => v.own = { s.own with
      st := .vacant, probation := false, hand := none } ∧ bit (v.live 0x10018) 2 = true ∧ Flagged v evOwnHandoverFail ∧
      (∀ d ∈ v.cmds, d.id = h.cmd → d.st = .finished ∧ d.status = stAborted) ∧ v.due = l ∧
      v.tables = s.tables)))

/-- R237, R242 to R244: FLUSH leaves no dirty sector, INVALIDATE no line, and DISCARD neither line nor write to the store. -/
def Obligations.CacheMaintenance : Prop := ∀ (s : State) (mb : Fin 4) (c : Cmd) (l : List Nat),
  let u := pre s
  (RunsOp u mb 0x92 (fun c => maintOp c == 0 || maintOp c == 3) c → maintRuns u c 0 l → Gives (.flush mb) s (fun v =>
    (∃ n, Ends u v c stOk n 0 false) ∧ (∀ n ∈ l, ∀ m ∈ v.cache.lines ++ v.cache.victim, m.line = n → dirtyCount m = 0) ∧
    (∀ (n : Nat) (m : Line), l = [n] → onlyLine u n m → writtenBack v m ∧ Ends u v c stOk (min 0xFFFFFFFF (dirtyCount m)) 0 false) ∧
    v = { u with cmds := v.cmds, cache := v.cache, act := v.act, regs := v.regs, dies := v.dies })) ∧
  (RunsOp u mb 0x92 (fun c => maintOp c == 1) c → maintRuns u c 1 l → Gives (.invalidate mb) s (fun v =>
    (∃ n, Ends u v c stOk n 0 false) ∧ (∀ n ∈ l, setLine v n = none ∧ vicLine v n = none) ∧
    (∀ (n : Nat) (m : Line), l = [n] → onlyLine u n m → writtenBack v m) ∧
    v = { u with cmds := v.cmds, cache := v.cache, act := v.act, regs := v.regs, dies := v.dies })) ∧
  (RunsOp u mb 0x92 (fun c => maintOp c == 2) c → maintRuns u c 2 l → Gives (.discard mb) s (fun v =>
    (∃ n, Ends u v c stOk n 0 false) ∧ (∀ n ∈ l, setLine v n = none ∧ vicLine v n = none) ∧
    (∀ (n : Nat) (m : Line), l = [n] → onlyLine u n m → v.act = u.act) ∧
    v = { u with cmds := v.cmds, cache := v.cache, act := v.act, regs := v.regs, dies := v.dies }))

/-- R235, R239, R240, R245, R246: the cache is drained and enabled, ways go out of service and return, and fills end. -/
def Obligations.CacheIsControlled : Prop := ∀ (s : State) (port : Fin 4) (value : Word),
  let u := pre s
  (let u := prePort s port
   ownerAt u port → hardMask u 0x100000 = 0 → bit (u.live 0x100000) 1 = false →
    (bit value 0 = false → bit (u.live 0x100000) 0 = true → Gives (.ccDrainStart port value) s (fun v =>
      bit (v.live 0x100000) 1 = true ∧ bit (v.live 0x100000) 0 = true ∧ v = { u with regs := v.regs })) ∧
    (bit value 0 = true → bit (u.live 0x100000) 0 = false → Gives (.ccEnable port value) s (fun v =>
      bit (v.live 0x100000) 0 = true ∧ v = { u with regs := v.regs, cache := { u.cache with lines := [], victim := [] } }))) ∧
  (let u := prePort s port
   ownerAt u port → hardMask u 0x100004 = 0 → Gives (.wayDisableWrite port value) s (fun v =>
      (∀ w : Nat, w < 16 → bit value w = false → bit (u.live 0x100004) w = true →
        bit (v.live 0x100004) w = false ∧ waySweep v w = true ∧ fld (v.live (0x100100 + 4 * w)) 31 30 = 3) ∧
      v = { u with
        regs := v.regs, cache := { u.cache with ceAt := v.cache.ceAt, softOff := v.cache.softOff }, mgmt := v.mgmt, out := v.out }) ∧
    Gives (.wayEnableWrite port value) s (fun v =>
      (∀ w : Nat, w < 16 → bit value w = true → bit (u.live 0x100004) w = false →
        (waySweep u w = false → bit (v.live 0x100004) w = true ∧ v.live (0x100100 + 4 * w) = 0) ∧
        (waySweep u w = true → bit (v.live 0x100004) w = false ∧ bit (v.live 0x100018) 3 = true)) ∧
      v = { u with
        regs := v.regs, cache := { u.cache with ceAt := v.cache.ceAt, softOff := v.cache.softOff }, mgmt := v.mgmt, out := v.out })) ∧
  (∀ (line t : Nat), mapGet u.cache.fills line = some t → ((setLine u line).or (vicLine u line)).isSome = true →
    (∀ m ∈ u.cache.lines ++ u.cache.victim, m.line = line → m.sectors.length = 4) →
    (∀ w : Nat, w < 16 → waySweep u w = false) → Gives (.ccFillReturn line []) s (fun v =>
    mapGet v.cache.fills line = none ∧ (∀ o ∈ v.cache.queue, o.pos / 4 ≠ line) ∧
    (∀ m ∈ v.cache.lines, m.line = line → ∀ x ∈ m.sectors, x.valid = true) ∧
    v = { u with cache := v.cache, act := v.act, regs := v.regs, dies := v.dies })) ∧
  (∀ way : Fin 16, waySweep u way = true → Gives (.ccWayOff way) s (fun v => waySweep v way = false ∧
    (∀ m ∈ v.cache.lines, m.way ≠ way) ∧ Flagged v evCcWayOff ∧
    v = { u with cache := v.cache, act := v.act, regs := v.regs, dies := v.dies, mgmt := v.mgmt, out := v.out })) ∧
  (bit (u.live 0x100000) 1 = true → Gives .ccDrained s (fun v => v.live 0x100000 = 0 ∧ v.cache.lines = [] ∧ v.cache.victim = [] ∧
    Flagged v evCcDrained ∧ v = { u with cache := v.cache, act := v.act, regs := v.regs, dies := v.dies, mgmt := v.mgmt, out := v.out }))

/-- R286, R287: scrub passes and tests are asked for and held, and positions are retired. -/
def Obligations.SprinkleCommands : Prop := ∀ (s : State) (mb : Fin 4) (c : Cmd),
  let u := pre s
  (sprinkleForm c = true →
    (RunsOp u mb 0x90 (fun c => spkOp c == 0 || spkOp c == 3) c → spkOp c = 0 →
      (u.spk.scrub = true → Refused (.scrubNow mb) s u c stOk) ∧
      (u.spk.scrub = false → Gives (.scrubNow mb) s (fun v => Waits v c .scrub ∧
        v = { u with cmds := v.cmds, spk := { u.spk with scrubDue := true, scrubCmds := u.spk.scrubCmds ++ [c.id] } }))) ∧
    (RunsOp u mb 0x90 (fun c => spkOp c == 0 || spkOp c == 3) c → spkOp c = 3 → Refused (.scrubNow mb) s u c stInvalid) ∧
    (RunsOp u mb 0x90 (fun c => spkOp c == 1) c →
      (c.le 20 4 ≤ 1055 → Gives (.testBlock mb) s (fun v => Waits v c (.test (c.le 16 4 / 4)) ∧
        v = { u with cmds := v.cmds, spk := { u.spk with testDue := u.spk.testDue ++ [(c.le 16 4 / 4, c.le 20 4, c.id)] } })) ∧
      (1055 < c.le 20 4 → Refused (.testBlock mb) s u c stInvalid)) ∧
    (RunsOp u mb 0x90 (fun c => spkOp c == 2) c → Gives (.hold mb) s (fun v => Ends u v c stOk 0xFFFFFFFF 0 false ∧
      v = { u with cmds := v.cmds, spk := { u.spk with holdUntil := c.le 24 6 } }))) ∧
  (∀ (d : Fin 4) (p : Nat), Runs u mb 0x91 c → retireForm c d p = true →
    (u.spk.retired.contains (d * 1056 + p) = true → Refused (.blockRetire mb) s u c stDuplicate) ∧
    (u.spk.retired.contains (d * 1056 + p) = false → vaultTakes u = false → Refused (.blockRetire mb) s u c stVaultFault) ∧
    (u.spk.retired.contains (d * 1056 + p) = false → vaultTakes u = true → testedInPlace u d p = false → p < 1024 →
      ((u.blk d p).st = 0 → (∀ q : TestRun, testOn u d q → q.pos = p → q.spare = none) → Gives (.blockRetire mb) s (fun v => Ends u v c stOk 0xFFFFFFFF 0 false ∧
        v.spk = { u.spk with retired := u.spk.retired ++ [d * 1056 + p] } ∧ (v.blk d p).st = 3 ∧ v.tables = u.tables)) ∧
      (∀ k : Nat, (u.blk d p).st = 1 → buildOf u d p = none → claimSpare u d p = some k → Gives (.blockRetire mb) s (fun v =>
        Waits v c (.retire d p) ∧ (∃ b ∈ v.dies.builds, b.die = d ∧ b.unit = p ∧ b.spare = k ∧ b.why = .retire ∧ b.verified = false) ∧
        (v.spare d k).use = 2 ∧ v = { u with cmds := v.cmds, dies := v.dies }))))

/-- R270, R407, R415: the wait graph, the log and the sensors are read into host memory. -/
def Obligations.ManagementReads : Prop := ∀ (s : State) (mb : Fin 4) (c : Cmd) (io : HostIO),
  let u := pre s
  io.errs = [] → reaches_ u c io = true →
  (∀ g : WaitSnap, Runs u mb 0x93 c → graphForm c = true →
    (if c.le 32 4 % 2 = 1 then g = snapNow u 0xFFFFFFFF else u.waitSnap = some g) → Gives (.waitgraphRead mb io) s (fun v =>
      Ends u v c stOk (g.recs.take ((c.le 24 4 - 32) / 16)).length 0 false ∧
      v = { u with cmds := v.cmds, free := v.free, out := u.out ++ [.dma c.mb (c.host 16) (graphBytes u g (c.le 24 4))]
                   waitSnap := if c.le 32 4 / 2 % 2 = 1 && c.ownerRight then none else u.waitSnap })) ∧
  (Runs u mb 0xA0 c → logForm c = true → Gives (.logRead mb io) s (fun v =>
    Ends u v c stOk (logFound u c).length 0 false ∧
    v = { u with cmds := v.cmds, out := u.out ++ [.dma c.mb (c.host 16) (((logFound u c).map LogRec.bytes).flatten)] })) ∧
  (Runs u mb 0xA1 c → sensorForm c = true → Gives (.sensorRead mb io) s (fun v => Ends u v c stOk 0xFFFFFFFF 0 false ∧
    (c.le 32 4 = 0 ∨ c.ownerRight = false → v.mgmt = u.mgmt) ∧
    (c.le 32 4 = 1 → c.ownerRight = true →
      v.mgmt = { u.mgmt with mins := sensorValues u.mgmt, maxs := sensorValues u.mgmt }) ∧
    v = { u with cmds := v.cmds, mgmt := v.mgmt, out := u.out ++ [.dma c.mb (c.host 16) (sensorRecord u)] }))

/-- R416, R417: keys are installed, generated, erased and read. -/
def Obligations.KeyCommands : Prop := ∀ (s : State) (mb : Fin 4) (c : Cmd) (io : HostIO),
  let u := pre s
  let k := keySlotOf c
  io.errs = [] →
  (∀ l : List Byte, RunsOp u mb 0xA2 (fun c => keyOp c == 0) c → keyForm c (if k = 1 ∧ rooted u = false then 97 else 193) 0 = stOk →
    busRead u c io (if k = 1 ∧ rooted u = false then 97 else 193) = some l → l.head? = some 4 →
    (rooted u = true → authOk u k 0 (slice l 1 96) (slice l 97 96) = true) →
    let x : KeySlot := { type := 2, pub := BitVec.ofNat 776 (natBE (l.take 97)), gen := 0 }
    ((keySlot u k).type = 0 → vaultTakes u = true → Gives (.install mb io true) s (fun v => Ends u v c stOk k 0 false ∧
      v = { u with cmds := v.cmds, vault := { u.vault with keys := u.vault.keys.set k x } })) ∧
    ((keySlot u k).type = 0 → Refused (.install mb io false) s u c stVaultFault) ∧
    ((keySlot u k).type ≠ 0 → Refused (.install mb io true) s u c stDuplicate)) ∧
  (∀ l : List Byte, RunsOp u mb 0xA2 (fun c => keyOp c == 1) c → keyForm c (if rooted u then 96 else 0) 97 = stOk →
    keyInput u c io (if rooted u then 96 else 0) = some l → (rooted u = true → authOk u k 1 (bytesLE 96 0) l = true) →
    let g := u.vault.gens
    let x : KeySlot := { type := 3, pub := Config.genPublicKey g, gen := g }
    (k ≠ 1 → (keySlot u k).type = 0 → vaultTakes u = true → reaches_ u c io = true → Gives (.generate mb io true) s (fun v =>
      Ends u v c stOk k 0 false ∧ v = { u with
        cmds := v.cmds, out := u.out ++ [.dma c.mb (c.host 36) (pubBytes (Config.genPublicKey g))]
        vault := { u.vault with gens := g + 1, keys := u.vault.keys.set k x } })) ∧
    (k = 1 → Refused (.generate mb io true) s u c stInvalid)) ∧
  (∀ l : List Byte, RunsOp u mb 0xA2 (fun c => keyOp c == 2) c → keyForm c (if rooted u then 96 else 0) 0 = stOk →
    keyInput u c io (if rooted u then 96 else 0) = some l → (rooted u = true → authOk u k 2 (bytesLE 96 0) l = true) →
    ((keySlot u k).type ≠ 0 → vaultTakes u = true → Gives (.erase mb io true) s (fun v => Ends u v c stOk k 0 false ∧
      v = { u with cmds := v.cmds, vault := { u.vault with keys := u.vault.keys.set k KeySlot.empty } })) ∧
    ((keySlot u k).type = 0 → Refused (.erase mb io true) s u c stNotFound)) ∧
  (RunsOp u mb 0xA2 (fun c => keyOp c == 3) c → keyForm c 0 97 = stOk →
    ((keySlot u k).type ≠ 0 → reaches_ u c io = true → Gives (.readPub mb io) s (fun v => Ends u v c stOk 0xFFFFFFFF 0 false ∧
      v = { u with cmds := v.cmds, out := u.out ++ [.dma c.mb (c.host 36) (pubBytes (keySlot u k).pub)] })) ∧
    ((keySlot u k).type = 0 → Refused (.readPub mb io) s u c stNotFound))

/-- R303, R356 to R358: an apply makes the buffer of its group live or rejects it, in the next hub cycle or at an armed step. -/
def Obligations.UpdateGroupsApply : Prop := ∀ (s : State),
  (∀ (port : Fin 4) (g a : Nat), let u := prePort s port
    let z := startBuffers (nextCycle u)
    ownerAt u port → g < 32 → plainGroup z g a →
    (∀ w : Word, applyVal z a (z.buffer a) = .ok w → Gives (.updStrobe port (word (2 ^ g))) s (fun v =>
      v.live a = w ∧ v.tables = u.tables ∧ v.mem = u.mem ∧ v.epoch = u.epoch)) ∧
    (∀ (e : Ev) (o : Nat), applyVal z a (z.buffer a) = .error (e, o) → Gives (.updStrobe port (word (2 ^ g))) s (fun v =>
      v.live a = u.live a ∧ Flagged v e ∧ v.tables = u.tables ∧ v.mem = u.mem ∧ v.epoch = u.epoch))) ∧
  (∀ (port : Fin 4) (value : Word), let u := prePort s port
    ownerAt u port →
    Gives (.updSchedSet port value) s (fun v => (∀ g : Nat, g < 32 →
      mapGet v.regs.armed g = if bit value g then some (schedEpoch u) else mapGet u.regs.armed g) ∧ v = { u with regs := v.regs }) ∧
    Gives (.updSchedDisarm port value) s (fun v => (∀ g : Nat, g < 32 →
      mapGet v.regs.armed g = if bit value g then none else mapGet u.regs.armed g) ∧ v = { u with regs := v.regs })) ∧
  (∀ (group : Fin 32) (l : List Due) (e a : Nat) (w : Word), DueNow s (fun d => d == .apply group) (.apply group) l →
    mapGet s.regs.armed group = some e → plainGroup (startBuffers s) group a →
    applyVal (startBuffers s) a ((startBuffers s).buffer a) = .ok w →
    Gives (.scheduledApply group) s (fun v => v.live a = w ∧ mapGet v.regs.armed group = none ∧
      mapGet v.regs.lastApply group = some s.epoch.count ∧ v.due = l ∧ v.tables = s.tables ∧ v.mem = s.mem ∧ v.epoch = s.epoch)) ∧
  (∀ (wheel : Fin 66) (a w : Nat) (ws : List Word) (rest : List (Nat × Nat × List Word)), let u := pre s
    mapGetD u.regs.wheelPend wheel [] = (a, w, ws) :: rest → Gives (.wheelGoesLive wheel) s (fun v =>
      v.now = max u.now (w * wheelClock wheel) ∧ (∀ j : Nat, j < 32 → v.live (wheelAddr wheel j) = ws.getD j 0) ∧
      mapGetD v.regs.wheelPend wheel [] = rest ∧ (∀ i : Nat, i ≠ wheel → mapGet v.regs.wheelPend i = mapGet u.regs.wheelPend i) ∧
      v = { u with now := v.now, dies := v.dies, regs := v.regs, mgmt := v.mgmt, out := v.out }))

/-- R359: UPD_VIEW chooses the copy that a port reads, any port may write its own, and resets clear it. -/
def Obligations.UpdViewSelectsTheCopy : Prop := ∀ (s : State) (port : Fin 4),
  (∀ (a : Nat) (d : RegDesc), let u := preRead s
    reachable u port a d → d.group.isSome = true → Gives (.registerRead port a 4 .none) s (fun v =>
    ∃ w : Word, v = { u with out := u.out ++ [.regData port (some (bytesLE 4 w.toNat))] } ∧
      w &&& d.rw = (if u.regs.view.getD port false then u.live a else u.buffer a) &&& d.rw)) ∧
  (∀ value : Word, let u := prePort s port
    portUp u port = true → Gives (.registerWrite port 0x10114 (bytesLE 4 value.toNat)) s (fun v =>
    v.regs.view = u.regs.view.set port (bit value 0) ∧ v = { u with regs := v.regs })) ∧
  (∀ kind : PerstKind, Gives (.perstAssert port kind) s (fun v => v.regs.view.getD port false = false)) ∧
  (let u := pre s
   u.power.flush = some .soft ∨ u.power.flush = some .mrst → Gives .resetFlushDone s (fun v => v.regs.view.getD port false = false))

/-- R347, R349, R352, R353, R360: reads of registers, with the effects that a full-width read has. -/
def Obligations.RegisterReads : Prop := ∀ (s : State) (port : Fin 4) (a : Nat),
  let u := preRead s
  (∀ d : RegDesc, reachable u port a d → freeBits a = 0 → d.rsh = false → (a = 0x10007C → u.cache.press = none) →
    (d.rc = 0 → Gives (.registerRead port a 4 .none) s (fun v => v = { u with out := u.out ++ [readsAs u port a d] }) ∧
      (d.cx = 0 → d.rw ≠ 0 → u.regs.parityErr.contains a = false → Gives (.registerRead port a 4 .parity) s (fun v =>
        v.regs.parityErr = u.regs.parityErr ++ [a] ∧ Counts u v 0x244 ∧ Flagged v evCfgParity ∧ bit (v.live 0x240) 31 = true ∧
        v = { u with regs := v.regs, mgmt := v.mgmt, out := v.out }))) ∧
    (∀ i n : Nat, 1 ≤ n → n < 4 → i + n ≤ 4 → Gives (.registerRead port (a + i) n .none) s (fun v =>
      v = { u with out := u.out ++ [.regData port (some (slice (bytesLE 4 (regValue u port a d).toNat) i n))] })) ∧
    (d.rc ≠ 0 → isOwner u port = true → metNow u a = none → Gives (.rcRead port a) s (fun v => v.live a = u.live a &&& ~~~ d.rc ∧
      v = { u with regs := v.regs, out := u.out ++ [readsAs u port a d] })) ∧
    (d.rc ≠ 0 → isOwner u port = false → Gives (.rcRead port a) s (fun v => v = { u with out := u.out ++ [readsAs u port a d] }))) ∧
  (∀ d : RegDesc, reachable u port a d → d.rsh = true → Gives (.rshLatchRead port a false) s (fun v =>
    mapGetD v.regs.shadow (portKey port (a + 4)) 0 = regNow u port (a + 4) ∧
    v = { u with regs := { u.regs with shadow := v.regs.shadow }, out := u.out ++ [readsAs u port a d] })) ∧
  (portUp u port = true → u.stage.stage ≠ 0 → a % 4 = 0 → a < 0x400000 → regDesc a = none → Gives (.registerRead port a 4 .none) s (fun v =>
    bit (v.live (0x200 + port * 0x10)) 3 = true ∧ v.out.getLast? = some (.regData port none) ∧
    v = { u with regs := v.regs, mgmt := v.mgmt, out := v.out }))

/-- R291, R347, R348, R350, R352: writes reach the buffer, the live copy or the shared banks, or are dropped and logged. -/
def Obligations.RegisterWrites : Prop := ∀ (s : State) (port : Fin 4),
  let u := prePort s port
  (∀ (a : Nat) (d : RegDesc) (value : Word), reachable u port a d →
    (isOwner u port = true → d.group.isSome = true → d.w1s = 0 → Gives (.registerWrite port a (bytesLE 4 value.toNat)) s (fun v =>
      v.buffer a = (u.buffer a &&& ~~~ d.rw) ||| (value &&& d.rw) ∧ v.live a = u.live a ∧ v = { u with regs := v.regs })) ∧
    (isOwner u port = false → d.right = .owner → d.rw ||| d.w1c ||| d.w1s ≠ 0 →
      Gives (.registerWrite port a (bytesLE 4 value.toNat)) s (fun v => bit (v.live (0x200 + port * 0x10)) 5 = true ∧
        v.regs.buf = u.regs.buf ∧ v = { u with regs := v.regs, mgmt := v.mgmt, out := v.out })) ∧
    (d.right = .owner → d.rw ||| d.w1c ||| d.w1s = 0 → Gives (.registerWrite port a (bytesLE 4 value.toNat)) s (fun v =>
      bit (v.live (0x200 + port * 0x10)) 4 = true ∧ v.regs.buf = u.regs.buf ∧
      v = { u with regs := v.regs, mgmt := v.mgmt, out := v.out })) ∧
    (∀ (i : Nat) (l : List Byte), 1 ≤ l.length → l.length < 4 → i + l.length ≤ 4 → Gives (.registerWrite port (a + i) l) s (fun v =>
      bit (v.live (0x200 + port * 0x10)) 0 = true ∧ v.regs.buf = u.regs.buf ∧
      v = { u with regs := v.regs, mgmt := v.mgmt, out := v.out }))) ∧
  (∀ (a : Nat) (l : List Byte), portUp u port = true → Gives (.registerWrite port a l true) s (fun v =>
    bit (v.live (0x200 + port * 0x10)) 3 = true ∧ v.regs.buf = u.regs.buf ∧
    v = { u with regs := v.regs, mgmt := v.mgmt, out := v.out })) ∧
  (∀ (g : Nat) (value : Word), ownerAt u port → g < 44 → metNow u (0x20000 + 4 * g) = none →
    Gives (.registerWrite port (0x20000 + 4 * g) (bytesLE 4 value.toNat)) s (fun v =>
      v.live (0x20000 + 4 * g) = u.live (0x20000 + 4 * g) &&& ~~~ (value &&& 0xFFFF#32) ∧ v = { u with regs := v.regs })) ∧
  (∀ (o : Nat) (l : List Byte), portUp u port = true → u.stage.stage ≠ 0 → memWf u.mem = true → aboveRings o l.length →
    (wholeWords o l.length = true → Gives (.registerWrite port (0x400000 + o) l) s (fun v =>
      Stored u v o l ∧
      v = { u with now := v.now, mem := v.mem, regs := v.regs, spk := v.spk })) ∧
    (l.length = 4 → o % 4 = 0 →
      Gives (.bitSetWrite port (0x800000 + o) l .none) s (fun v =>
        Stored u v o (((memReadAll u.mem o 4).zip l).map (fun q => q.1 ||| q.2)) ∧
        v = { u with now := v.now, mem := v.mem, regs := v.regs, spk := v.spk }) ∧
      Gives (.bitClearWrite port (0xC00000 + o) l .none) s (fun v =>
        Stored u v o (((memReadAll u.mem o 4).zip l).map (fun q => q.1 &&& ~~~ q.2)) ∧
        v = { u with now := v.now, mem := v.mem, regs := v.regs, spk := v.spk })))

/-- R354, R375, R434, R436: the register writes that reset the module, retrain or widen a port, and post a lane's value. -/
def Obligations.ControlWritesAct : Prop := ∀ (s : State) (port : Fin 4) (value : Word),
  (let u := prePort s port
  portUp u port = true → isOwner u port = true →
  (u.power.pwrGood = true → u.power.flush = none →
    (bit value 0 = true → Gives (.stgCtrlReset port value) s (fun v => v = { u with regs := v.regs, power := { u.power with flush := some .soft } })) ∧
    (bit value 0 = false → Gives (.stgCtrlReset port value) s (fun v => v = { u with regs := v.regs }))) ∧
  (∀ link : Fin 18, u.stage.stage ≠ 0 →
    (bit value 0 = true → link < u.links.length → Gives (.retrain port link value) s (fun v =>
      (v.link link).st = (if bit (u.live (hpAddr link 8)) 7 then 1 else 0) ∧ (v.link link).width = 0 ∧
      (∀ q : Nat, q ≠ link → v.link q = u.link q) ∧ OnlyLinks u v)) ∧
    (bit value 0 = false → bit value 1 = true → linkUp (u.link link) = true → Gives (.widen port link value) s (fun v =>
      (v.link link).widen = true ∧ (v.link link).width = (u.link link).width ∧ (∃ fl : List Flit, v.out = u.out ++ [.frame link u.now fl]) ∧
      (∀ q : Nat, q ≠ link → v.link q = u.link q) ∧ v = { u with links := v.links, regs := v.regs, out := v.out }))) ∧
  (∀ (a n : Nat) (d : RegDesc), u.stage.stage ≠ 0 → regDesc a = some d → d.lane = some n → d.rw ≠ 0 →
    (mapGet u.regs.pw n = none → Gives (.pwWrite port a value) s (fun v => mapGet v.regs.pw n = some (a, value) ∧
      v.live a = u.live a ∧ v = { u with regs := v.regs })) ∧
    ((mapGet u.regs.pw n).isSome = true → Gives (.pwWrite port a value) s (fun v => v.regs.pw = u.regs.pw ∧
      bit (v.live (0x1C00FC + n * 0x100)) 30 = true ∧ bit (v.live (0x200 + port * 0x10)) 7 = true ∧
      v = { u with regs := v.regs, mgmt := v.mgmt, out := v.out })))) ∧
  (∀ (lane : Fin 512) (a : Nat) (w : Word) (d : RegDesc), let u := pre s
    mapGet u.regs.pw lane = some (a, w) → regDesc a = some d →
    Gives (.pwBusyClear lane) s (fun v => mapGet v.regs.pw lane = none ∧ v.live a = (u.live a &&& ~~~ d.rw) ||| (w &&& d.rw) ∧
      v = { u with regs := v.regs }))

/-- R65, R97, R182, R185, R197, R218: generations become LIVE, are sealed and settle, and copy maps change, at a step. -/
def Obligations.GlazesTakeEffect : Prop := ∀ (s : State) (table : Fin 255) (x : Table) (l : List Due),
  (∀ n k : Nat, DueNow s (glazeOf table) (.glaze table n) l → s.table table = some x →
    x.slots.findIdx? (fun y => y.st == .sealed && y.sealNo == n) = some k → s.dies.changes = [] →
    Gives (.glazeEffect table) s (fun v => Counts s v 0x88000 ∧ v.due = l ∧ OtherTables s v table ∧ v.direct = s.direct ∧
      (∀ d ∈ v.cmds, d.st ≠ .waiting (.glaze table n)) ∧
      ∃ y, v.table table = some y ∧ (y.slot k).st = .live ∧ (y.slot k).epoch = s.epoch.count ∧ y.glazed = s.epoch.count ∧
        y.glazedHeld = s.epoch.held ∧ y.rows = x.rows ∧ y.covers = x.covers ∧ (∀ j : Nat, liveSlot x = some j → (y.slot j).st = .retired))) ∧
  (∀ k : Nat, DueNow s (fun d => d == .internalSeal) .internalSeal l → s.table table = some x → openSlot x = some k →
    (x.slot k).hasInt = true → (x.slot k).hasCmd = false → x.st = .live → lockHeld s table = false →
    (vaultTakes s = false ∨ (journalRoom s = true ∧ ∀ (q : Nat) (y : Table) (j : Nat), q ≠ table → s.table q = some y →
      openSlot y = some j → (y.slot j).hasInt = false)) → Gives .internalGlazeSeal s (fun v => v.due = l ∧
      ∃ y, v.table table = some y ∧ (y.slot k).st = .sealed ∧ (y.slot k).epoch = s.epoch.count + 3 ∧ (y.slot k).by_ = .internal ∧
        y.rows = x.rows)) ∧
  (∀ (i : Nat) (k : CopyChange), DueNow s (copyMapOf s table) (.copyMap i) l →
    s.dies.changes.find? (fun k => k.id == i && k.glaze.isNone) = some k → k.table = table → k.drop = [] → k.blocks = none →
    Gives (.copyMapChange table) s (fun v => (∀ j ∈ v.dies.changes, j.id ≠ i) ∧ (∀ n ∈ k.add, (v.spare k.die n).built = true) ∧
      (∀ id : Nat, k.cmd = some id → ∀ d ∈ v.cmds, d.id = id → d.st = .finished ∧ d.status = stOk ∧ d.vis = s.epoch.count ∧
        d.held = s.epoch.held) ∧ v.due = l ∧ OtherTables s v table)) ∧
  (let u := pre s
   ∀ g : Nat, u.table table = some x → settlingSlot x = some g →
   (∀ k : Nat, x.removed = none → liveSlot x = some k → Gives (.settle table []) s (fun v => OtherTables u v table ∧
     ∃ y, v.table table = some y ∧ y.slot g = Slot.empty ∧ (rowsIn y k).map (fun r => r.handle) = (rowsIn x k).map (fun r => r.handle) ∧
       ∀ r ∈ y.rows, r.vis &&& keepMask x ≠ 0)) ∧
   (x.removed.isSome = true → slotsIn x (fun q => q != .free) = [g] → x.slots.length = 4 → Gives (.settle table []) s (fun v =>
     v.table table = none ∧ OtherTables u v table)))

/-- R222, R225, R226: learn records become entries, and sweeps start, handle their candidates and end. -/
def Obligations.LearningAndAgingRun : Prop := ∀ (s : State) (table : Fin 255) (x : Table),
  (let u := pre s
   ∀ (r : LearnRec) (rest : List LearnRec) (l : LearnCfg), learnRuns u r rest x l →
     x.rows.any (fun q => visIn q.vis (headSlot x) && q.value == r.key &&& learnMask l.byteMask && q.mask == learnMask l.byteMask) = false →
     (∀ (h o : Nat) (s1 s2 : State), learnHandle x l = some h → journalRoom u = true →
       openGen { u with learnQ := rest } r.target = some (o, s1) →
       place s1 r.target o (learned u l r h) (mkStamp u.epoch.count 0 false) = .ok s2 →
       Gives (.learnApply []) s (fun v => v.learnQ = rest ∧ Holds v r.target o (learned u l r h) ∧ Counts u v 0x111044 ∧ v.mem = u.mem ∧
         (l.evt = true → Flagged v evLrnEntry) ∧ OtherTables u v r.target)) ∧
     (learnHandle x l = none → Gives (.learnApply []) s (fun v => v.learnQ = rest ∧ Counts u v 0x111050 ∧ Flagged v evLrnHfull ∧
       v = { u with learnQ := rest, tables := v.tables, dies := v.dies, regs := v.regs, mgmt := v.mgmt, out := v.out }))) ∧
  (∀ (l : List Due) (g : AgeCfg), DueNow s (fun d => d == .ageStart table) (.ageStart table) l → s.table table = some x → x.age = some g →
    g.next ≤ s.epoch.count → taFeat s table 2 = true → internalOn s = true → x.st = .live →
    (x.sweep = none → Gives (.ageSweepStart table) s (fun v => v.due = l ∧ OtherTables s v table ∧ ∃ y w, v.table table = some y ∧
      y.sweep = some w ∧ w.cfg = g ∧ w.handled = 0 ∧ w.cands = ageCands s x g.th ∧ (g.period = 0 → y.age = none) ∧
      (g.period ≠ 0 → ∃ h, y.age = some h ∧ h.next = nextSweep g.next g.period s.epoch.count) ∧ y.rows = x.rows)) ∧
    (x.sweep.isSome = true → Gives (.ageSweepStart table) s (fun v => Flagged v evAgeOverrun ∧ v.due = l ∧ OtherTables s v table))) ∧
  (let u := pre s
   ∀ (handle : Word) (wr : Bool) (w : Sweep) (st : BitVec 64), sweepRuns u table handle.toNat x w st →
   (w.cfg.op = 1 → 16 * (w.written + 1) ≤ w.cfg.len → wr = true → busUp u w.cfg.port = true → Gives (.ageCompare table handle wr []) s (fun v =>
     v.out = u.out ++ [.dma w.cfg.port (w.cfg.addr + 16 * w.written) (bytesLE 4 handle.toNat ++ bytesLE 4 0 ++ bytesLE 8 st.toNat)] ∧
     v = { u with tables := v.tables, dies := v.dies, out := v.out } ∧ OtherTables u v table ∧
     ∃ y, v.table table = some y ∧ y = { x with sweep := some { w with
       handled := w.handled + 1, written := w.written + 1, cands := w.cands.filter (fun d => d.1 != handle.toNat) } })) ∧
   (∀ e : Row, w.cfg.op ≠ 1 → lockHeld u table = false → rowIn x (headSlot x) handle.toNat = some e →
     (entryStamp u (entryPositions x (headSlot x) e) ≠ st → Gives (.ageCompare table handle wr []) s (fun v => Counts u v 0x111058 ∧
       v = { u with tables := v.tables, dies := v.dies, regs := v.regs } ∧ ∃ y, v.table table = some y ∧ y.rows = x.rows)) ∧
     (∀ o : Nat, entryStamp u (entryPositions x (headSlot x) e) = st → journalRoom u = true → openSlot x = some o →
       Gives (.ageCompare table handle wr []) s (fun v => Counts u v 0x111054 ∧ OtherTables u v table ∧
         ∃ y, v.table table = some y ∧ ∀ r ∈ y.rows, r.handle = handle.toNat → visIn r.vis o = false)))) ∧
  (let u := pre s
   ∀ w : Sweep, u.table table = some x → x.sweep = some w → w.cands = [] → Gives (.ageSweepDone table) s (fun v =>
     Flagged v evAgeSweepDone ∧ OtherTables u v table ∧ (∃ y, v.table table = some y ∧ y.sweep = none ∧ y.rows = x.rows) ∧
     v = { u with tables := v.tables, regs := v.regs, mgmt := v.mgmt, out := v.out }))

/-- R99, R254, R255, R257, R268, R269: a suspect unit is copied to a spare, which takes its place at a step; automatic mirrors come
at the end of a window; a wait beyond its limit is reported once, and one beyond its abort limit ends its command. -/
def Obligations.UnitsAreRebuilt : Prop :=
(∀ (s : State) (die : Fin 4) (unit : Nat),
  (let u := pre s
   (bit (u.live 0x13F000) 2 = true → (u.blk die unit).st = 2 → unit < 1024 → buildOf u die unit = none →
     (∀ k : Nat, claimSpare u die unit = some k → Gives (.rebuildStart die unit) s (fun v =>
       (∃ b ∈ v.dies.builds, b.die = die ∧ b.unit = unit ∧ b.spare = k ∧ b.why = .rebuild ∧ b.verified = false) ∧
       v.spare die k = { Spare.free with use := 2, primary := unit } ∧ Flagged v evRcvRebuildStart ∧
       v = { u with dies := v.dies, regs := v.regs, mgmt := v.mgmt, out := v.out })) ∧
     (∀ (k id : Nat) (w : State), claimR12 u die unit = some (k, some id, w) → Gives (.rebuildStart die unit) s (fun v =>
       (∃ b ∈ v.dies.builds, b.die = die ∧ b.unit = unit ∧ b.spare = k ∧ b.why = .rebuild ∧ b.hold = some id) ∧
       (∃ q ∈ v.dies.changes, q.id = id ∧ q.die = die ∧ q.drop = [k] ∧ q.add = [] ∧ q.cmd = none) ∧
       v.spare die k = u.spare die k ∧ Flagged v evRcvRebuildStart ∧
       v = { u with dies := v.dies, regs := v.regs, mgmt := v.mgmt, out := v.out, free := v.free })) ∧
     (claimR12 u die unit = none → u.dies.waiting.contains (die.val, unit) = false → Gives (.rebuildStart die unit) s (fun v =>
       v.dies = { u.dies with waiting := u.dies.waiting ++ [(die.val, unit)] } ∧ Flagged v evRcvNoSpare ∧
       v = { u with dies := v.dies, regs := v.regs, mgmt := v.mgmt, out := v.out }))) ∧
   (∀ b : Build, buildOf u die unit = some b → b.verified = false → b.tries < 2 → b.hold = none →
     Gives (.rebuildVerified die unit true []) s (fun v => buildOf v die unit = some { b with verified := true } ∧ v = { u with dies := v.dies }) ∧
     (b.tries = 1 → b.why = .rebuild → Gives (.rebuildVerified die unit false []) s (fun v => Flagged v evRcvRebuildFail ∧
       v = { u with dies := v.dies, regs := v.regs, mgmt := v.mgmt, out := v.out })))) ∧
  (∀ (l : List Due) (b : Build), DueNow s (fun d => d == .swap die unit) (.swap die unit) l → buildOf s die unit = some b →
    b.verified = true → b.why = .rebuild → unit < 1024 → (s.spare die b.spare).use = 2 → Gives (.copySwap die unit) s (fun v =>
      (v.blk die unit).st = 3 ∧ (v.spare die b.spare).built = true ∧ buildOf v die unit = none ∧ Counts s v 0x13F04C ∧
      Flagged v evRcvRebuildDone ∧ v.due = l ∧ v.tables = s.tables ∧ v.mem = s.mem)) ∧
  (∀ l : List Due, DueNow s (fun d => d == .mirrorWindow die) (.mirrorWindow die) l →
    Gives (.autoMirrorWindowEnd die) s (fun v => v.due = l ∧ v.tables = s.tables ∧
      ∀ b : Nat, b < 1024 → (v.blk die b).act = (s.blk die b).actNow ∧ (v.blk die b).actNow = 0))) ∧
(∀ (s : State),
  let u := pre s
  (∀ (idx : Nat) (w : Waiter), (waiters u)[idx]? = some w → w.told = false → wdLimit u w.cls ≠ 0 →
    wdLimit u w.cls < u.epoch.count - w.since → Gives (.wdgStall idx) s (fun v => Counts u v 0x13F054 ∧ Flagged v evWdgStall ∧
      v.live 0x13F008 = word (w.cls * 2 ^ 29 + w.unit * 2 ^ 26 + w.idx * 2 ^ 19 + w.holdUnit * 2 ^ 16 + w.holdIdx * 2 ^ 9) ∧
      (u.waitSnap = none → ∃ g, v.waitSnap = some g ∧ g.trig = idx ∧ g.epoch = u.epoch.count) ∧
      (u.waitSnap.isSome = true → v.waitSnap = u.waitSnap) ∧
      v = { u with
        cmds := v.cmds, mbox := v.mbox, dies := v.dies, regs := v.regs, mgmt := v.mgmt, out := v.out, waitSnap := v.waitSnap })) ∧
  (∀ (mb : Fin 4) (c : Cmd), u.cmds.find? (fun c => c.mb == mb.val && (abortDue u c || slotsDue u c)) = some c →
    (abortDue u c = true → c.got ≠ 1 → Refused (.stallAbort mb) s u c stStalled) ∧
    Gives (.stallAbort mb) s (fun v => ∀ d ∈ v.cmds, d.id = c.id → d.st = .finished ∧ d.status = stStalled)))

/-- R277 to R284, R288 to R290: scrub passes compare every run, tests free or retire their position, and region tests move on. -/
def Obligations.ScrubsAndTests : Prop := ∀ (s : State) (die : Fin 4) (l : List Due),
  (DueNow s (fun d => d == .scrub) .scrub l → s.spk.scrubDue = true ∨ (bit (s.live 0x130000) 0 = true ∧
      s.epoch.crossed (max 1 (s.cfg 0x130004 23 0)) = true) →
    (s.spk.scrub = false → Gives (.scrubPassStart []) s (fun v => v.spk = { s.spk with scrub := true, scrubDue := false, runs := scrubUnits s } ∧
      v.due = l ∧ v.tables = s.tables)) ∧
    (s.spk.scrub = true → s.spk.scrubDue = false → ∀ errs : List PatrolErr, Gives (.scrubPassStart errs) s (fun v => Flagged v evSpkPassLate ∧ v.spk = s.spk ∧ v.due = l))) ∧
  (let u := pre s
   ∀ (unit run m : Nat) (first second : List (Nat × BitVec 168)), mapGet u.spk.runs (die * 1056 + unit) = some m →
     u.spk.scrub = true → m.testBit run = false → stillScrubbed u (die * 1056 + unit) = true →
     let read := fun (l : List (Nat × BitVec 168)) => runCrc (readRun (shadowRun u die unit run) l)
     Gives (.scrubRun die unit run first second []) s (fun v =>
       v.spk.runs = mapSet u.spk.runs (die * 1056 + unit) (m ||| 2 ^ run) ∧
       (read first = runSig u die unit run → v = { u with spk := v.spk, dies := v.dies, free := v.free }) ∧
       (read first ≠ runSig u die unit run → Counts u v 0x130104) ∧
       (read first ≠ runSig u die unit run → read second ≠ runSig u die unit run → Flagged v evSpkSigMismatch))) ∧
  (let u := pre s
   u.spk.scrub = true → (∀ p ∈ u.spk.runs, p.2 = 2 ^ 64 - 1 ∨ stillScrubbed u p.1 = false) → Gives .scrubPassDone s (fun v => Counts u v 0x130100 ∧
     (∀ d ∈ v.cmds, d.id ∈ u.spk.scrubCmds → d.st = .finished ∧ d.status = stOk) ∧
     v = { u with cmds := v.cmds, regs := v.regs, spk := { u.spk with scrub := false, runs := [], scrubCmds := [] } })) ∧
  (∀ p i : Nat, DueNow s (fun d => d == .testWindow die) (.testWindow die) l → testMayStart s die = true →
    s.spk.testDue.find? (fun (q : Nat × Nat × Nat) => q.1 == die.val) = some (die.val, p, i) → p < 1024 →
    s.spk.retired.contains (die * 1056 + p) = false →
    ((s.blk die p).st = 0 → Gives (.testWindow die) s (fun v => testOn v die { phase := 2, pos := p, spare := none, cmd := some i } ∧
      (die.val, p, i) ∉ v.spk.testDue ∧ v.due = l ∧ v.tables = s.tables)) ∧
    (∀ k : Nat, (s.blk die p).st = 1 → buildOf s die p = none → claimSpare s die p = some k → Gives (.testWindow die) s (fun v =>
      testOn v die { phase := 1, pos := p, spare := some k, cmd := some i } ∧ (v.spare die k).use = 3 ∧
      (∃ b ∈ v.dies.builds, b.die = die ∧ b.unit = p ∧ b.spare = k ∧ b.why = .takeover) ∧ v.due = l ∧ v.tables = s.tables))) ∧
  (let u := pre s
   ∀ t : TestRun, testOn u die t → t.phase = 2 →
   (t.spare = none → u.spk.retired.contains (die * 1056 + t.pos) = false → Gives (.arrayTestDone die true) s (fun v =>
     Counts u v 0x130108 ∧ testOn v die { t with phase := 0, cmd := none } ∧ v.spk.retired = u.spk.retired ∧
     (∀ i : Nat, t.cmd = some i → ∀ d ∈ v.cmds, d.id = i → d.st = .finished ∧ d.status = stOk ∧ d.handle = 0))) ∧
   Gives (.arrayTestDone die false) s (fun v => Counts u v 0x13010C ∧ Flagged v evSpkTestFail ∧
     v.spk.retired.contains (die * 1056 + t.pos) = true ∧ v.tables = u.tables)) ∧
  (DueNow s (fun d => d == .sbTest) .sbTest l → bit (s.live 0x130000) 3 = true → s.epoch.crossed (max 1 (s.cfg 0x13000C 15 0)) = true →
    s.spk.sb = none → atLimit s = false → s.spk.holdUntil ≤ s.epoch.count → Gives .sbRegionTestStart s (fun v =>
      (∃ r : Nat, s.now + 8192 ≤ r ∧ v.spk = { s.spk with
        sb := some { bank := s.spk.sbNext / 16, region := s.spk.sbNext % 16, start := s.now, aborted := false, restore := r }
        sbLast := s.spk.sbNext }) ∧
      v.due = l ∧ v.mem = s.mem)) ∧
  (let u := preAt (sbEnd (flushDue s)) s
   ∀ t : SbTest, u.spk.sb = some t →
   (t.aborted = false → Gives (.sbRegionTestDone []) s (fun v => Counts u v 0x130114 ∧
     v = { u with regs := v.regs, spk := { u.spk with sb := none, sbAborts := 0, sbNext := (u.spk.sbNext + 1) % 1024 } })) ∧
   (∀ r : Nat, t.aborted = false → r < 32 → mapGetD u.spk.sbRows t.bank 0 < 4 → Gives (.sbRegionTestDone [r]) s (fun v =>
     Counts u v 0x13011C ∧ mapGetD v.spk.sbRows t.bank 0 = mapGetD u.spk.sbRows t.bank 0 + 1)) ∧
   (∀ failed : List Nat, t.aborted = true → u.spk.sbAborts < 7 → Gives (.sbRegionTestDone failed) s (fun v =>
     v.spk = { u.spk with sb := none, sbAborts := u.spk.sbAborts + 1, sbRows := v.spk.sbRows } ∧
     (failed = [] → v.spk.sbRows = u.spk.sbRows) ∧
     (∀ r : Nat, failed = [r] → r < 32 → mapGetD u.spk.sbRows t.bank 0 < 4 → Counts u v 0x13011C ∧
       mapGetD v.spk.sbRows t.bank 0 = mapGetD u.spk.sbRows t.bank 0 + 1) ∧
     v = { u with spk := v.spk, regs := v.regs, mgmt := v.mgmt, out := v.out })))

/-- R382, R385, R390, R392, R399: staged records reach NAND, checkpoints start and end, patrol periods start, blocks are
retired, and the vault is lost. -/
def Obligations.VaultKeepsItsRecords : Prop := ∀ (s : State) (l : List Due),
  (let u := pre s
   ∀ q : Nat, vaultTakes u = true → u.vault.staged.any (fun r => decide (r.seq ≤ q)) = true →
     let new := u.vault.staged.filter (fun r => decide (r.seq ≤ q))
     Gives (.journalProgramDone q none) s (fun v =>
       v.vault.staged = u.vault.staged.filter (fun r => decide (q < r.seq)) ∧ v.vault.journal = u.vault.journal ++ new ∧
       v.vault.nand = max u.vault.nand (maxNat (new.map (fun r => r.seq))) ∧ v.vault.cfg = new.foldl cfgApply u.vault.cfg ∧
       (journalRoom v = true → ∀ c ∈ v.cmds, c.st ≠ .waiting .journal) ∧
       v = { u with vault := v.vault, cmds := v.cmds, regs := v.regs, mgmt := v.mgmt, out := v.out, free := v.free })) ∧
  (DueNow s (fun d => d == .checkpoint) .checkpoint l → s.vault.ckptDue = true →
    (ckptAllowed s = true → s.vault.ckpt = none → Gives .checkpointStart s (fun v =>
      (∃ c, v.vault.ckpt = some c ∧ c.target = (if newerImage s = 1 then 2 else 1) ∧ c.epoch = s.epoch.count ∧
        c.cmds = s.vault.ckptJoin ∧ c.s0 = s.vault.seq + 1 ∧ imageOf v c.target = none ∧
        imageOf v (3 - c.target) = imageOf s (3 - c.target)) ∧
      v.vault.ckptDue = false ∧ v.vault.ckptJoin = [] ∧ v.cmds = s.cmds ∧ v.tables = s.tables ∧ v.due = l)) ∧
    (ckptAllowed s = false → Gives .checkpointStart s (fun v => v.vault = { s.vault with ckptDue := false, ckptJoin := [] } ∧
      (∀ d ∈ v.cmds, d.id ∈ s.vault.ckptJoin → d.st = .finished ∧ d.status = stAborted) ∧ v.tables = s.tables ∧ v.due = l))) ∧
  (let u := pre s
   ∀ c : Ckpt, u.vault.ckpt = some c → c.target = 1 ∨ c.target = 2 → Gives .vltCkptDone s (fun v =>
     v.vault.ckpt = none ∧ (∃ i, imageOf v c.target = some i ∧ i.s0 = c.s0 ∧ i.epoch = c.epoch) ∧
     imageOf v (3 - c.target) = imageOf u (3 - c.target) ∧ v.vault.lostTail = none ∧ v.vault.ckptEpoch = u.epoch.count ∧
     Counts u v 0x150040 ∧ Flagged v evVltCkptDone ∧
     (∀ d ∈ v.cmds, d.id ∈ c.cmds → d.st = .finished ∧ d.status = stOk ∧ d.handle = c.target ∧ d.vis = c.epoch) ∧
     v.tables = u.tables ∧ v.mem = u.mem ∧ v.epoch = u.epoch)) ∧
  (DueNow s (fun d => d == .patrol) .patrol l → bit (s.live 0x150000) 4 = true →
    s.epoch.crossed (max 1 (s.cfg 0x150004 23 0) * 65536) = true → vaultTakes s = true → atLimit s = false →
    (Gives (.patrolPeriodStart false) s (fun v => v.vault = { s.vault with patrolStart := s.epoch.count } ∧ v.tables = s.tables ∧ v.due = l)) ∧
    (s.vault.patrolStart ≠ s.epoch.count → Gives (.patrolPeriodStart true) s (fun v =>
      v.vault = { s.vault with patrolStart := s.epoch.count, ckptDue := true } ∧ v.tables = s.tables ∧ v.due = l))) ∧
  (let u := pre s
   (∀ b : Nat, b < 32768 → vaultTakes u = true → 512 < u.vault.free → Gives (.vltRetire b) s (fun v =>
     v.vault.free + 1 = u.vault.free ∧ v.vault.good = u.vault.good - 1 ∧ Counts u v 0x150044 ∧ Flagged v evVltRetire ∧
     (u.vault.free ≤ 2048 → v.vault.st = 2) ∧ (2048 < u.vault.free → v.vault.st = u.vault.st) ∧
     (u.vault.free ≤ 2048 → u.vault.st = 1 → Flagged v evVltSpareLow) ∧
     v = { u with vault := v.vault, regs := v.regs, mgmt := v.mgmt, out := v.out })) ∧
   (s.power.pwrGood = true → u.vault.st ≠ 3 → Gives .vltLost s (fun v =>
     v.vault.st = 3 ∧ v.vault.staged = [] ∧ v.vault.ckpt = none ∧ Flagged v evVltLost ∧ bit v.stage.fsCause 2 = true ∧
     (u.stage.stage ≠ 0 → v.stage.stage = 4) ∧ (∀ d ∈ v.cmds, d.st ≠ .waiting .journal) ∧ v.mem = u.mem ∧ v.epoch = u.epoch)) ∧
   (s.power.pwrGood = true → u.vault.st = 3 → exec .vltLost s = .next u))

/-- R393, R451, R452, R454, R455: the contacts bring power, and take it away after the hold-up sequence. -/
def Obligations.PowerComesAndGoes : Prop := ∀ (s : State),
  let u := pre s
  (∀ written : Nat, Gives (.powerLoss written) s (fun v => v.power.pwrGood = false ∧ v.power.vinOk = false ∧ v.power.overV = u.power.overV ∧
    (u.power.pwrGood = true → v.holds = [] ∧ v.cmds = [] ∧ v.tables = [] ∧ v.mem = [] ∧ v.vault.st = 0 ∧ v.stage.stage = 0 ∧
      v.vault.staged = [] ∧ v.vault.crumb = u.vault.crumb ∧ v.now = u.now) ∧
    (u.power.pwrGood = true → u.power.holdupBad = false → vaultTakes u = true → fitRecs (8 * 2 ^ 20) u.vault.staged = u.vault.staged →
      (∀ r ∈ u.vault.staged, r ∈ v.vault.journal) ∧ v.vault.cfg = u.vault.staged.foldl cfgApply u.vault.cfg ∧
      v.vault.lostTail = u.vault.lostTail ∧ v.out = u.out))) ∧
  (∀ written : Nat, Gives (.vinOvervoltage written) s (fun v =>
    v.power.pwrGood = false ∧ v.power.vinOk = false ∧ v.power.overV = true ∧ v.vault.crumb = u.vault.crumb)) ∧
  (u.power.overV = true → u.power.pwrEn = true →
    exec .vinRestart s = .next { u with power := { u.power with overV := false, vinOk := true, enAt := u.now } }) ∧
  (islandOn u = true → Gives .pwrInLow s (fun v => Flagged v evPwrInLow ∧ v = { u with regs := v.regs, mgmt := v.mgmt, out := v.out })) ∧
  (u.power.pwrEn = false → Gives .pwrEnRise s (fun v =>
    (v.power.risePend = true ↔ u.power.pwrGood = true ∨ (u.power.fallAt ≠ 0 ∧ u.now < u.power.fallAt + pwrenLow)) ∧
    v = { u with power := { u.power with pwrEn := true, vinOk := true, enAt := u.now, risePend := v.power.risePend } })) ∧
  (u.power.risePend = true → u.power.pwrGood = false → Gives .pwrenLowElapsed s (fun v =>
    v.now = max u.now (u.power.fallAt + pwrenLow) ∧
    v = { u with now := v.now, power := { u.power with risePend := false, enAt := v.now } })) ∧
  (u.power.pwrEn = true → u.power.pwrGood = true ∨ u.mgmt.tripped = false → Gives .pwrEnFall s (fun v =>
    v.power.flush = (if u.power.pwrGood then some .off else u.power.flush) ∧
    v = { u with power := { u.power with pwrEn := false, fallAt := u.now, risePend := false, late := false, flush := v.power.flush } })) ∧
  (u.power.pwrEn = true → u.power.pwrGood = false → u.mgmt.tripped = true → Gives .pwrEnFall s (fun v =>
    islandOn v = false ∧ v.power.pwrEn = false ∧ v.vault.crumb = u.vault.crumb)) ∧
  (u.power.flush = some .off → Gives .powerDown s (fun v => v.power.pwrGood = false ∧ v.power.flush = none ∧ v.power.pwrEn = u.power.pwrEn ∧
    v.holds = [] ∧ v.cmds = [] ∧ v.tables = [] ∧ v.mem = [] ∧ v.stage.stage = 0 ∧ v.vault.st = 0 ∧ v.vault.staged = [])) ∧
  (∀ (t microfarad : Nat) (modId : BitVec 2), u.power.pwrEn = true → u.power.pwrGood = false → u.power.risePend = false →
    u.power.overV = false → u.mgmt.tripped = false → Gives (.pwrGoodRise t microfarad modId) s (fun v =>
      v.power.pwrGood = true ∧ v.power.vinOk = true ∧ v.power.holdup = microfarad ∧ v.power.smbAddr = 0x3C + modId.toNat ∧
      v.now = max u.now t ∧ v.stage.stage = 0 ∧ v.own = Own.reset ∧ v.tables = [] ∧ v.mem = [] ∧ v.vault.st = 0 ∧
      v.vault.crumb = u.vault.crumb ∧ v.epoch.count = 0 ∧ (v.power.holdupBad = true ↔ microfarad < 1750) ∧
      (microfarad < 1750 → faultN v = true) ∧ (microfarad < 2000 → Flagged v evPwrHoldupLow) ∧
      (u.power.mrstN = true → v.csc.pos = modId ∧ v.stage.startRef = v.now))) ∧
  (u.power.pwrEn = true → u.power.pwrGood = false → u.power.risePend = false → u.mgmt.tripped = false → Gives .pwrGoodLate s (fun v =>
    v.now = max u.now (u.power.enAt + 400000000) ∧ faultN v = true ∧
    v = { u with now := v.now, power := { u.power with late := true } }))

/-- R309, R331, R343, R365, R375: MRST_N and the end of a reset flush, and the reset of a management port and its mailbox. -/
def Obligations.ResetsClearWhatTheyShould : Prop := ∀ (s : State),
  let u := pre s
  (u.power.mrstN = true → exec .mrstNLow s = .next { u with power := { u.power with
    mrstN := false, flush := if u.power.pwrGood then some (u.power.flush.getD .mrst) else u.power.flush } }) ∧
  (∀ (t : Nat) (modId : BitVec 2), u.power.mrstN = false → Gives (.mrstNRelease t modId) s (fun v =>
    v.now = max u.now t ∧ v.power.mrstN = true ∧
    (u.power.pwrGood = true → v.csc = Csc.reset modId ∧ v.stage = { u.stage with startRef := v.now }) ∧
    (u.power.pwrGood = false → v.csc = u.csc ∧ v.stage = u.stage ∧ v.links = u.links) ∧
    (u.power.pwrGood = true → u.power.flush = none → ∀ p : Nat, p < 18 → p < u.links.length → (u.link p).st = 0 →
      (v.link p).st = if bit (u.live (hpAddr p 8)) 7 then 1 else 0) ∧
    v = { u with now := v.now, links := v.links, power := { u.power with mrstN := true, jtag := v.power.jtag }, csc := v.csc, stage := v.stage })) ∧
  (∀ k : FlushFor, u.power.flush = some k → k ≠ .off → Gives .resetFlushDone s (fun v =>
    v.power.flush = none ∧ v.stage.stage = 0 ∧ v.own = Own.reset ∧ v.tables = [] ∧ v.holds = [] ∧ v.cmds = [] ∧
    v.epoch = Epoch.reset v.now ∧ v.vault.st = 0 ∧ v.vault.staged = [] ∧ v.vault.crumb = u.vault.crumb ∧ v.vault.keys = u.vault.keys ∧
    (vaultTakes u = true → fitRecs (8 * 2 ^ 20) u.vault.staged = u.vault.staged → ∀ r ∈ u.vault.staged, r ∈ v.vault.journal) ∧
    (k = .soft → bit (v.live 0x108) 2 = true ∧ v.power.pwrGood = u.power.pwrGood) ∧
    (k = .mrst → bit (v.live 0x108) 1 = true ∧ v.power.pwrGood = u.power.pwrGood) ∧
    (k = .trip → v.power.pwrGood = false ∧ v.mgmt.tripped = true ∧ islandOn v = true))) ∧
  (∀ (port : Fin 4) (kind : PerstKind), Gives (.perstAssert port kind) s (fun v =>
    (port < u.mbox.length → (v.box port).stopped = true ∧ (v.box port).resetHeld = true) ∧
    (∀ q : Nat, q ≠ port → v.box q = u.box q) ∧ portUp v port = false ∧ v.regs.view.getD port false = false ∧
    (isOwner u port = true → u.own.st ≠ .draining →
      v.own = { u.own with linkLoss := some (if kind = .perst then 1 else 2) }) ∧
    (isOwner u port = false ∨ u.own.st = .draining → v.own = u.own) ∧ v.regs.live = u.regs.live ∧
    v = { u with mbox := v.mbox, power := { u.power with mpUp := v.power.mpUp }, regs := v.regs, own := v.own })) ∧
  (∀ port : Fin 4, (u.box port).resetHeld = true → inflight u port = 0 → u.power.pwrGood = true → memWf u.mem = true →
    port < u.power.mpUp.length → Gives (.mailboxRestart port) s (fun v =>
      v.box port = { Mbox.reset with stopped := u.stage.stage == 0 } ∧ (∀ q : Nat, q ≠ port → v.box q = u.box q) ∧
      portUp v port = true ∧ Stored u v (cplSlot port 0) (List.replicate 4096 0) ∧
      v = { u with
        now := v.now, mbox := v.mbox, power := { u.power with mpUp := v.power.mpUp }, mem := v.mem, regs := v.regs, spk := v.spk }))

/-- R365, R366, R370, R372 to R374, R385: the module leaves DORMANT, restores and promotes its tables, returns the crumb spares,
and enters FAULTSAFE (what a running checkpoint does then: assumption 50). -/
def Obligations.TablesAreRestoredInStages : Prop := ∀ (s : State) (table : Fin 255),
  (∀ (t n : Nat) (a b config : Bool), let u := preAt t s
    mayLeaveDormant u → Gives (.crumbEntry t a b config n) s (fun v =>
      v.stage.stage = (if u.stage.fsPending then 4 else 1) ∧ v.stage.fsPending = false ∧ v.stage.image = newerImage u ∧
      v.vault.st = (if u.vault.free < 2048 then 2 else 1) ∧ Flagged v evStgChange ∧
      v.mbox = u.mbox.map (fun (b : Mbox) => { b with stopped := b.resetHeld }) ∧
      (u.vault.cfg = none ∨ config = false → v.stage.vaultEmpty = true ∧ Flagged v evStgEmptyVault ∧ v.tables = u.tables) ∧
      (∀ c : CfgImg, u.vault.cfg = some c → config = true → ∀ p ∈ c.tables, p.2.tab.st ≠ .destroying →
        ∃ y, v.table p.1 = some y ∧ y.st = .proofing ∧ y.restored = false) ∧
      v.mem = u.mem ∧ v.cmds = u.cmds ∧ v.own = u.own)) ∧
  (let u := pre s
   ∀ (t : Nat) (x : Table), curTable u = t → t ≠ 255 → u.table t = some x →
    (∀ a b : Bool, restoreSource u t a b = none → Gives (.tableRestoreDone a b none) s (fun v => v.table t = some { x with restoreFail := true } ∧ Flagged v evStgRestoreFail ∧
      OtherTables u v t ∧ v = { u with tables := v.tables, regs := v.regs, mgmt := v.mgmt, out := v.out })) ∧
    (∀ (a b : Bool) (k : Nat) (i : TableImg), restoreSource u t a b = some k → lastImg t (baseImg u k t) (replayed u k t) = some i →
      Gives (.tableRestoreDone a b none) s (fun v =>
      OtherTables u v t ∧ v.mem = u.mem ∧ v.cmds = u.cmds ∧ v.epoch = u.epoch ∧ v.vault = u.vault ∧
      ∃ y, v.table t = some y ∧ y.restored = true ∧ y.st = x.st ∧ y.kind = x.kind ∧
        y.rows.map rowData = (restoredRows i).map rowData))) ∧
  (∀ (x : Table) (l : List Due), DueNow s (fun d => d == .promote table) (.promote table) l → s.table table = some x →
    promoteDue s x = true → Gives (.stgPromote table) s (fun v => v.due = l ∧ OtherTables s v table ∧ Counts s v 0x88000 ∧
      Flagged v evStgPromote ∧ v.mem = s.mem ∧ v.epoch = s.epoch ∧
      ∃ y, v.table table = some y ∧ y.st = .live ∧ y.floor = s.epoch.count ∧ y.glazed = s.epoch.count ∧ y.restored = false ∧
        y.rows = x.rows ∧ (∀ k : Nat, x.kind ≠ .direct → effectSlot x = some k →
          (y.slot k).st = .live ∧ (y.slot k).epoch = s.epoch.count))) ∧
  (let u := pre s
   ∀ e : Nat, mapGet u.stage.release table = some e → (∀ h ∈ u.holds, e ≤ h.t0) ∨ e + 40000 ≤ u.now →
    Gives (.crumbSpareRelease table) s (fun v => (∀ d k : Nat, k < 32 → (v.spare d k).crumb ≠ some table.val) ∧
      v.stage.crumb = u.stage.crumb.filter (fun c => c.1 != table.val) ∧ mapGet v.stage.release table = none ∧
      v = { u with stage := v.stage, dies := v.dies })) ∧
  (let u := pre s
   s.power.pwrGood = true → u.stage.stage ≠ 0 →
    (∀ d : Fin 4, Gives (.faultsafeEntry (.die d)) s (fun v => v.stage.stage = 4 ∧ bit v.stage.fsCause 0 = true ∧
      bit v.stage.fsDie d = true ∧ v = { u with stage := v.stage, regs := v.regs, mgmt := v.mgmt, out := v.out })) ∧
    Gives (.faultsafeEntry .activityStore) s (fun v => v.stage.stage = 4 ∧ bit v.stage.fsCause 1 = true ∧ v.cache.lines = [] ∧
      v.cache.victim = [] ∧ v.vault = { u.vault with ckpt := none } ∧
      (∀ k : Ckpt, u.vault.ckpt = some k → ∀ d ∈ v.cmds, d.id ∈ k.cmds → d.st = .finished ∧ d.status = stAborted) ∧
      v = { u with cmds := v.cmds, vault := v.vault, stage := v.stage, cache := v.cache, regs := v.regs, mgmt := v.mgmt, out := v.out }) ∧
    Gives (.faultsafeEntry .config) s (fun v => v.stage.stage = 4 ∧ bit v.stage.fsCause 4 = true ∧
      v = { u with stage := v.stage, regs := v.regs, mgmt := v.mgmt, out := v.out }) ∧
    (u.stage.stage ≠ 4 → Gives (.faultsafeEntry .config) s (fun v => Flagged v evStgChange)))

/-- R404, R405, R407, R408, R411 to R414: readings and levels, the thermal trip and its end, rails, the restart of the
processor, and the log. -/
def Obligations.SensorsTripAndLog : Prop := ∀ (s : State),
  let u := pre s
  (∀ r : Readings, islandOn s = true → Gives (.sensorConversion r) s (fun v =>
    v.mgmt.temp = r.temp ∧ v.mgmt.volt = r.volt ∧ v.mgmt.curr = r.curr ∧ v.mgmt.power = r.power ∧ v.mgmt.bad = r.bad ∧ v.mgmt.valid = true ∧
    (u.mgmt.valid = true → v.mgmt.mins = (u.mgmt.mins.zip (sensorValues v.mgmt)).map (fun p => min p.1 p.2) ∧
      v.mgmt.maxs = (u.mgmt.maxs.zip (sensorValues v.mgmt)).map (fun p => max p.1 p.2)) ∧
    (∀ n : Nat, n < 32 → n < u.mgmt.warn.length → n < u.mgmt.limit.length →
      natAt v.mgmt.warn n = levelNext (natAt u.mgmt.warn n) (tempWarn u n) (r.temp.getD n 0) ∧
      natAt v.mgmt.limit n = levelNext (natAt u.mgmt.limit n) (tempLimit n) (r.temp.getD n 0) ∧
      (natAt u.mgmt.warn n = 0 → tempWarn u n ≤ r.temp.getD n 0 → Flagged v evMgtTempWarn) ∧
      (natAt u.mgmt.limit n = 0 → tempLimit n ≤ r.temp.getD n 0 → Flagged v evMgtTempLimit)) ∧
    v = { u with mgmt := v.mgmt, regs := v.regs, out := v.out })) ∧
  (∀ n : Fin 32, u.power.pwrGood = true → tempTrip n ≤ u.mgmt.temp.getD n 0 → u.power.flush ≠ some .trip → u.power.flush ≠ some .off →
    Gives (.mgtThermTrip n) s (fun v => v.power = { u.power with flush := some .trip } ∧ v.stage.stage = 0 ∧ Flagged v evMgtThermTrip ∧
      (∀ b ∈ v.mbox, b.stopped = true) ∧ bit (v.live 0x160008) 31 = true ∧ fld (v.live 0x160008) 4 0 = n.val ∧
      fld (v.live 0x160008) 23 16 = min 255 (fld (u.live 0x160008) 23 16 + 1) ∧
      v = { u with power := v.power, stage := { u.stage with stage := 0 }, mbox := v.mbox, regs := v.regs, mgmt := v.mgmt, out := v.out })) ∧
  (∀ t : Nat, u.mgmt.tripped = true → u.power.pwrEn = true → (∀ n : Nat, n < 32 → u.mgmt.temp.getD n 0 ≤ tempLimit n - 160) →
    Gives (.thermalRestart t) s (fun v => v.power.pwrGood = true ∧ v.mgmt = { u.mgmt with tripped := false } ∧ v.now = max u.now t ∧
      v.epoch = Epoch.reset v.now ∧ v.stage = { u.stage with startRef := v.now } ∧
      v = { u with now := v.now, links := v.links, mgmt := v.mgmt, epoch := v.epoch, power := v.power, stage := v.stage })) ∧
  (∀ (rail : Fin 14) (mv : Nat), islandOn s = true →
    (railOut rail mv = true → Gives (.mgtRailFault rail mv) s (fun v => rail.val ∈ v.mgmt.rails ∧ Flagged v evMgtRailFault ∧
      faultN v = true ∧ v = { u with mgmt := v.mgmt, regs := v.regs, out := v.out })) ∧
    (railOut rail mv = false → exec (.mgtRailFault rail mv) s = .next u)) ∧
  (islandOn s = true → Gives .mgtRestart s (fun v => v.mgmt.run = false ∧ Flagged v evMgtRestart ∧
    fld (v.live 0x160004) 7 0 = min 255 (fld (u.live 0x160004) 7 0 + 1) ∧
    (∀ c : Cmd, u.cmds.find? (fun c => c.st == .running && opMgmt c.op) = some c → Ends u v c stAborted 0xFFFFFFFF 0 false) ∧
    v = { u with cmds := v.cmds, regs := v.regs, mgmt := v.mgmt, out := v.out })) ∧
  (∀ (e : EvRec) (l : List EvRec), u.mgmt.evq = e :: l → memWf u.mem = true → Gives .logRecordWrite s (fun v =>
    v.mgmt.evq = l ∧ v.mgmt.run = true ∧ v.mgmt.logSeq = u.mgmt.logSeq + 1 ∧ (∃ r, v.mgmt.ring.getLast? = some r ∧
      r.seq = u.mgmt.logSeq + 1 ∧ r.src = e.src ∧ r.sev = e.sev ∧ r.op0 = e.op0 ∧ r.op1 = e.op1 ∧ r.op2 = e.op2 ∧ r.epoch = e.epoch ∧
      r.phase = e.phase ∧ r.held = e.held ∧ r.dropped = u.mgmt.dropped ∧
      Stored u v (0x20000 + r.seq % 4096 * 0x40) r.bytes) ∧
    v = { u with now := v.now, mgmt := v.mgmt, mem := v.mem, regs := v.regs, spk := v.spk })) ∧
  (u.mgmt.evq = [] → exec .logRecordWrite s = .next u) ∧
  (∀ r : LogRec, vaultTakes u = true → (logWaiting u)[255]? = some r →
    let new := u.mgmt.ring.filter (fun q => decide (u.mgmt.copied < q.seq) && decide (q.seq ≤ r.seq))
    (u.vault.log ++ new).length ≤ logPartition → exec .logFlush s = .next { u with
      vault := { u.vault with log := u.vault.log ++ new }
      mgmt := { u.mgmt with copied := max u.mgmt.copied (maxNat (new.map (fun r => r.seq))) } }) ∧
  (vaultTakes u = false → exec .logFlush s = .next u)

/-- R419 to R421, R444: the test port and the sideband. -/
def Obligations.TestPortAndSidebandAnswer : Prop := ∀ (s : State),
  let u := pre s
  (islandOn u = true →
    (∀ p ∈ tapInstrs, exec p.2 s = .next { u with power := { u.power with jtag := if 3 ≤ p.1 ∧ u.power.mrstN = true then 0 else p.1 } }) ∧
    Gives .idcode s (fun v => (∃ w : BitVec 32, v.out = u.out ++ [.jtag w] ∧ fld w 31 28 = 2 ∧ fld w 27 12 = 0x2416 ∧
      fld w 11 1 = Config.jedecCode.toNat ∧ fld w 0 0 = 1) ∧ v = { u with out := v.out, power := { u.power with jtag := 1 } }) ∧
    Answers .smbReadId s u 0 true (bytesLE 4 (u.live 0).toNat ++ bytesLE 4 (u.live 4).toNat) ∧
    Answers .smbReadStage s u 1 false (bytesLE 1 u.stage.stage ++ bytesLE 1 u.stage.fsCause.toNat) ∧
    Answers .smbReadStageStatus s u 2 true (bytesLE 4 (stageStatus u)) ∧
    (∀ code : Fin 32, Answers (.smbReadTemp code) s u (16 + code) false (bytesLE 2 (intBits 16 (u.mgmt.temp.getD code 0)))) ∧
    (∀ code : Fin 16, Answers (.smbReadVolt code) s u (48 + code) false (bytesLE 2 (natAt u.mgmt.volt code))) ∧
    (∀ code : Fin 16, Answers (.smbReadCurr code) s u (64 + code) false (bytesLE 2 (natAt u.mgmt.curr code))) ∧
    Answers .smbReadPower s u 80 false (bytesLE 2 u.mgmt.power) ∧
    (∃ last : List Byte, Answers .smbLogSummary s u 96 true (bytesLE 8 u.mgmt.logSeq ++ bytesLE 4 u.mgmt.warns ++ bytesLE 4 u.mgmt.errs ++
        bytesLE 4 u.mgmt.crits ++ last) ∧ last.length = 12 ∧
      (∀ r : LogRec, u.mgmt.lastBad = some r → leAt last 0 2 = r.src % 65536 ∧ leAt last 2 1 = r.sev % 256 ∧ leAt last 4 6 = r.epoch % 2 ^ 48)) ∧
    exec .alertStatus s = .next { u with
      out := u.out ++ [.smb (some (bytesLE 2 u.mgmt.alert)) (readPec u 81 false (bytesLE 2 u.mgmt.alert))]
      mgmt := { u.mgmt with alert := alertCauses u } } ∧
    (u.mgmt.alertN = true → ∃ p : Byte, exec .alertResponse s = .next { u with
      out := u.out ++ [.smb (some (bytesLE 1 (u.power.smbAddr * 2))) p], mgmt := { u.mgmt with alertN := false } }) ∧
    (u.mgmt.alertN = false → exec .alertResponse s = .next { u with out := u.out ++ [.smb none 0] }) ∧
    (∀ write : Bool, Gives (.smbWriteReject write) s (fun v => v.out = u.out ++ [.smb none 0] ∧
      fld (v.live 0x160010) 7 0 = min 255 (fld (u.live 0x160010) 7 0 + 1) ∧ v = { u with regs := v.regs, out := v.out }))) ∧
  (islandOn u = false → ∀ i ∈ [Instr.smbReadId, .smbReadStage, .smbReadStageStatus, .smbReadPower, .smbLogSummary, .alertStatus,
    .alertResponse, .bypass, .trstN, .idcode], exec i s = .next u)

/-- R123: the overall status in the header of a response. Its records hold statuses of R476. -/
def Obligations.OverallStatusTakesTheFirst : Prop := ∀ (h : Hold), h.recs.all (fun r => decide (r.status ≤ 9)) = true →
  let o := payload (responseFrame h) 23 8
  (h.recs = [] → o = luTableAbsent) ∧
  (h.recs ≠ [] → precedence.find? (fun st => h.recs.any (fun r => r.status == st)) = some o) ∧
  (o = luHit ↔ h.recs ≠ [] ∧ ∀ r ∈ h.recs, r.status = luHit)

/-- R32, R329, R365, R375: the module after power-on reset. -/
def Obligations.ResetLeavesDormant : Prop := State.reset.stage.stage = 0 ∧ State.reset.epoch.count = 0 ∧ State.reset.epoch.qual = .acquire ∧ State.reset.own.st = .vacant ∧
  State.reset.mem = [] ∧ memWf State.reset.mem = true ∧ State.reset.tables = [] ∧ State.reset.cmds = [] ∧ State.reset.holds = [] ∧
  State.reset.vault.st = 0 ∧ State.reset.pending = [] ∧ (∀ p : Nat, (State.reset.link p).st = 0) ∧
  (∀ m : Nat, State.reset.box m = Mbox.reset) ∧ takesRequests State.reset = false ∧ State.reset.live 0 = 0x2416#32 ∧ State.reset.live 4 = 0xA2#32

/-- A step runs the command at the front of the queue, with the rest of the queue; an empty queue leaves the state as it is
(assumption 1). -/
def Obligations.StepRunsTheFrontCommand : Prop := ∀ (c : Instr) (rest : List Instr) (s : State),
  step { s with pending := c :: rest } = exec c { s with pending := rest } ∧ step { s with pending := [] } = .next { s with pending := [] }

/-- Every command goes on in every state, and leaves the queue to the step. -/
def Obligations.EveryCommandGoesOn : Prop := ∀ (i : Instr) (s : State), Gives i s (fun t => t.pending = s.pending)

/-- R14: the shared banks keep their canonical form: offsets within the 4 MiB, strictly rising, no zero byte listed. -/
def Obligations.BanksStayCanonical : Prop := ∀ s t : State, memWf s.mem = true → step s = .next t → memWf t.mem = true

/-- R38: the epoch counter does not go back, but for the resets of the module. -/
def Obligations.EpochNeverGoesBack : Prop := ∀ (s t : State) (c : Instr) (rest : List Instr), s.pending = c :: rest →
  resetsEpoch c = false → step s = .next t → s.epoch.count ≤ t.epoch.count
end

