-- ==== Sys2Proof/Laws/Crc.lean ====
section
/-! SUPPORT. The CRC of the signatures and the records: it tells any two byte strings apart that differ in one byte. -/

namespace Sys2Proof.Machine
theorem crcBit_inj {c d : BitVec 32} (h : crcBit c = crcBit d) : c = d := by
  have top : ∀ x y : BitVec 32, x >>> 1 ^^^ 0xEDB88320#32 ≠ y >>> 1 := by
    intro x y e
    have h31 := congrArg (fun z : BitVec 32 => z.getLsbD 31) e
    simp at h31
  have half : ∀ x y : BitVec 32, x >>> 1 = y >>> 1 → x.toNat % 2 = y.toNat % 2 → x = y := by
    intro x y e p
    have hn := congrArg BitVec.toNat e
    simp only [BitVec.toNat_ushiftRight, Nat.shiftRight_eq_div_pow] at hn
    exact BitVec.eq_of_toNat_eq (by omega)
  unfold crcBit at h
  split at h <;> split at h
  · exact half c d (BitVec.xor_left_inj _ |>.mp h) (by omega)
  · exact absurd h (top c d)
  · exact absurd h.symm (top d c)
  · exact half c d h (by omega)

theorem crcByte_inj {c d : BitVec 32} {a b : Byte} (h : crcByte c a = crcByte d b) : c ^^^ a.setWidth 32 = d ^^^ b.setWidth 32 := by
  unfold crcByte at h
  exact crcBit_inj (crcBit_inj (crcBit_inj (crcBit_inj (crcBit_inj (crcBit_inj (crcBit_inj (crcBit_inj h)))))))

theorem crcRun_inj {c d : BitVec 32} (l : List Byte) (h : crcRun c l = crcRun d l) : c = d := by
  induction l generalizing c d with
  | nil => exact h
  | cons b l ih => exact (BitVec.xor_left_inj _).mp (crcByte_inj (ih h))

theorem crcRun_append (c : BitVec 32) (k l : List Byte) : crcRun c (k ++ l) = crcRun (crcRun c k) l := by
  induction k generalizing c with
  | nil => rfl
  | cons b k ih => exact ih _

/-- Two byte strings that differ in one byte have different CRCs. -/
theorem crc32_one_byte (k l : List Byte) {a b : Byte} (h : a ≠ b) : crc32 (k ++ a :: l) ≠ crc32 (k ++ b :: l) := by
  intro e
  have e : crcRun 0xFFFFFFFF#32 (k ++ a :: l) = crcRun 0xFFFFFFFF#32 (k ++ b :: l) := by
    have := congrArg (fun x => ~~~x) e
    simpa [crc32] using this
  rw [crcRun_append, crcRun_append] at e
  have e := BitVec.xor_right_inj _ |>.mp (crcByte_inj (crcRun_inj l e))
  apply h
  have e := congrArg (BitVec.setWidth 8) e
  simpa using e

/-- Two runs that differ in the lowest byte of their first row have different signatures. -/
theorem runCrc_first (r q : BitVec 168) (l : List (BitVec 168)) (h : BitVec.ofNat 8 r.toNat ≠ BitVec.ofNat 8 q.toNat)
    (e : r.toNat / 256 = q.toNat / 256) : runCrc (r :: l) ≠ runCrc (q :: l) := by
  have step : ∀ x : BitVec 168, runCrc (x :: l) =
      crc32 ([] ++ BitVec.ofNat 8 x.toNat :: (bytesLE 20 (x.toNat / 256) ++ (l.map (fun r => bytesLE 21 r.toNat)).flatten)) := fun _ => rfl
  rw [step r, step q, e]
  exact crc32_one_byte _ _ h

end Sys2Proof.Machine
end

