-- ==== Sys2Proof/Laws/State.lean ====
section
/-! SUPPORT. What each update of the state changes and what it leaves, field by field: the updates of
Machine/Ops.lean and Machine/RegMap.lean. -/

namespace Sys2Proof.Machine

@[simp] theorem emit_now (s : State) (o : Out) : (emit o s).now = s.now := rfl
@[simp] theorem emit_epoch (s : State) (o : Out) : (emit o s).epoch = s.epoch := rfl
@[simp] theorem emit_due (s : State) (o : Out) : (emit o s).due = s.due := rfl
@[simp] theorem emit_own (s : State) (o : Out) : (emit o s).own = s.own := rfl
@[simp] theorem emit_mbox (s : State) (o : Out) : (emit o s).mbox = s.mbox := rfl
@[simp] theorem emit_cmds (s : State) (o : Out) : (emit o s).cmds = s.cmds := rfl
@[simp] theorem emit_nextCmd (s : State) (o : Out) : (emit o s).nextCmd = s.nextCmd := rfl
@[simp] theorem emit_rrMbox (s : State) (o : Out) : (emit o s).rrMbox = s.rrMbox := rfl
@[simp] theorem emit_rrStart (s : State) (o : Out) : (emit o s).rrStart = s.rrStart := rfl
@[simp] theorem emit_regs (s : State) (o : Out) : (emit o s).regs = s.regs := rfl
@[simp] theorem emit_mem (s : State) (o : Out) : (emit o s).mem = s.mem := rfl
@[simp] theorem emit_tables (s : State) (o : Out) : (emit o s).tables = s.tables := rfl
@[simp] theorem emit_seals (s : State) (o : Out) : (emit o s).seals = s.seals := rfl
@[simp] theorem emit_direct (s : State) (o : Out) : (emit o s).direct = s.direct := rfl
@[simp] theorem emit_dies (s : State) (o : Out) : (emit o s).dies = s.dies := rfl
@[simp] theorem emit_links (s : State) (o : Out) : (emit o s).links = s.links := rfl
@[simp] theorem emit_holds (s : State) (o : Out) : (emit o s).holds = s.holds := rfl
@[simp] theorem emit_walkEnds (s : State) (o : Out) : (emit o s).walkEnds = s.walkEnds := rfl
@[simp] theorem emit_act (s : State) (o : Out) : (emit o s).act = s.act := rfl
@[simp] theorem emit_cache (s : State) (o : Out) : (emit o s).cache = s.cache := rfl
@[simp] theorem emit_learnQ (s : State) (o : Out) : (emit o s).learnQ = s.learnQ := rfl
@[simp] theorem emit_snaps (s : State) (o : Out) : (emit o s).snaps = s.snaps := rfl
@[simp] theorem emit_csc (s : State) (o : Out) : (emit o s).csc = s.csc := rfl
@[simp] theorem emit_spk (s : State) (o : Out) : (emit o s).spk = s.spk := rfl
@[simp] theorem emit_waitSnap (s : State) (o : Out) : (emit o s).waitSnap = s.waitSnap := rfl
@[simp] theorem emit_vault (s : State) (o : Out) : (emit o s).vault = s.vault := rfl
@[simp] theorem emit_mgmt (s : State) (o : Out) : (emit o s).mgmt = s.mgmt := rfl
@[simp] theorem emit_power (s : State) (o : Out) : (emit o s).power = s.power := rfl
@[simp] theorem emit_stage (s : State) (o : Out) : (emit o s).stage = s.stage := rfl
@[simp] theorem emit_out (s : State) (o : Out) : (emit o s).out = s.out ++ [o] := rfl
@[simp] theorem emit_free (s : State) (o : Out) : (emit o s).free = s.free := rfl
@[simp] theorem emit_pending (s : State) (o : Out) : (emit o s).pending = s.pending := rfl

@[simp] theorem advance_now (s : State) (t : Nat) : (advance t s).now = max s.now t := rfl
@[simp] theorem advance_epoch (s : State) (t : Nat) : (advance t s).epoch = s.epoch := rfl
@[simp] theorem advance_due (s : State) (t : Nat) : (advance t s).due = s.due := rfl
@[simp] theorem advance_own (s : State) (t : Nat) : (advance t s).own = s.own := rfl
@[simp] theorem advance_mbox (s : State) (t : Nat) : (advance t s).mbox = s.mbox := rfl
@[simp] theorem advance_cmds (s : State) (t : Nat) : (advance t s).cmds = s.cmds := rfl
@[simp] theorem advance_nextCmd (s : State) (t : Nat) : (advance t s).nextCmd = s.nextCmd := rfl
@[simp] theorem advance_rrMbox (s : State) (t : Nat) : (advance t s).rrMbox = s.rrMbox := rfl
@[simp] theorem advance_rrStart (s : State) (t : Nat) : (advance t s).rrStart = s.rrStart := rfl
@[simp] theorem advance_regs (s : State) (t : Nat) : (advance t s).regs = s.regs := rfl
@[simp] theorem advance_mem (s : State) (t : Nat) : (advance t s).mem = s.mem := rfl
@[simp] theorem advance_tables (s : State) (t : Nat) : (advance t s).tables = s.tables := rfl
@[simp] theorem advance_seals (s : State) (t : Nat) : (advance t s).seals = s.seals := rfl
@[simp] theorem advance_direct (s : State) (t : Nat) : (advance t s).direct = s.direct := rfl
@[simp] theorem advance_dies (s : State) (t : Nat) : (advance t s).dies = s.dies := rfl
@[simp] theorem advance_links (s : State) (t : Nat) : (advance t s).links = s.links := rfl
@[simp] theorem advance_holds (s : State) (t : Nat) : (advance t s).holds = s.holds := rfl
@[simp] theorem advance_walkEnds (s : State) (t : Nat) : (advance t s).walkEnds = s.walkEnds := rfl
@[simp] theorem advance_act (s : State) (t : Nat) : (advance t s).act = s.act := rfl
@[simp] theorem advance_cache (s : State) (t : Nat) : (advance t s).cache = s.cache := rfl
@[simp] theorem advance_learnQ (s : State) (t : Nat) : (advance t s).learnQ = s.learnQ := rfl
@[simp] theorem advance_snaps (s : State) (t : Nat) : (advance t s).snaps = s.snaps := rfl
@[simp] theorem advance_csc (s : State) (t : Nat) : (advance t s).csc = s.csc := rfl
@[simp] theorem advance_spk (s : State) (t : Nat) : (advance t s).spk = s.spk := rfl
@[simp] theorem advance_waitSnap (s : State) (t : Nat) : (advance t s).waitSnap = s.waitSnap := rfl
@[simp] theorem advance_vault (s : State) (t : Nat) : (advance t s).vault = s.vault := rfl
@[simp] theorem advance_mgmt (s : State) (t : Nat) : (advance t s).mgmt = s.mgmt := rfl
@[simp] theorem advance_power (s : State) (t : Nat) : (advance t s).power = s.power := rfl
@[simp] theorem advance_stage (s : State) (t : Nat) : (advance t s).stage = s.stage := rfl
@[simp] theorem advance_out (s : State) (t : Nat) : (advance t s).out = s.out := rfl
@[simp] theorem advance_free (s : State) (t : Nat) : (advance t s).free = s.free := rfl
@[simp] theorem advance_pending (s : State) (t : Nat) : (advance t s).pending = s.pending := rfl

@[simp] theorem State.setTable_now (s : State) (t : Nat) (x : Table) : (s.setTable t x).now = s.now := rfl
@[simp] theorem State.setTable_epoch (s : State) (t : Nat) (x : Table) : (s.setTable t x).epoch = s.epoch := rfl
@[simp] theorem State.setTable_due (s : State) (t : Nat) (x : Table) : (s.setTable t x).due = s.due := rfl
@[simp] theorem State.setTable_own (s : State) (t : Nat) (x : Table) : (s.setTable t x).own = s.own := rfl
@[simp] theorem State.setTable_mbox (s : State) (t : Nat) (x : Table) : (s.setTable t x).mbox = s.mbox := rfl
@[simp] theorem State.setTable_cmds (s : State) (t : Nat) (x : Table) : (s.setTable t x).cmds = s.cmds := rfl
@[simp] theorem State.setTable_nextCmd (s : State) (t : Nat) (x : Table) : (s.setTable t x).nextCmd = s.nextCmd := rfl
@[simp] theorem State.setTable_rrMbox (s : State) (t : Nat) (x : Table) : (s.setTable t x).rrMbox = s.rrMbox := rfl
@[simp] theorem State.setTable_rrStart (s : State) (t : Nat) (x : Table) : (s.setTable t x).rrStart = s.rrStart := rfl
@[simp] theorem State.setTable_regs (s : State) (t : Nat) (x : Table) : (s.setTable t x).regs = s.regs := rfl
@[simp] theorem State.setTable_mem (s : State) (t : Nat) (x : Table) : (s.setTable t x).mem = s.mem := rfl
@[simp] theorem State.setTable_tables (s : State) (t : Nat) (x : Table) : (s.setTable t x).tables = mapSet s.tables t x := rfl
@[simp] theorem State.setTable_seals (s : State) (t : Nat) (x : Table) : (s.setTable t x).seals = s.seals := rfl
@[simp] theorem State.setTable_direct (s : State) (t : Nat) (x : Table) : (s.setTable t x).direct = s.direct := rfl
@[simp] theorem State.setTable_dies (s : State) (t : Nat) (x : Table) : (s.setTable t x).dies = s.dies := rfl
@[simp] theorem State.setTable_links (s : State) (t : Nat) (x : Table) : (s.setTable t x).links = s.links := rfl
@[simp] theorem State.setTable_holds (s : State) (t : Nat) (x : Table) : (s.setTable t x).holds = s.holds := rfl
@[simp] theorem State.setTable_walkEnds (s : State) (t : Nat) (x : Table) : (s.setTable t x).walkEnds = s.walkEnds := rfl
@[simp] theorem State.setTable_act (s : State) (t : Nat) (x : Table) : (s.setTable t x).act = s.act := rfl
@[simp] theorem State.setTable_cache (s : State) (t : Nat) (x : Table) : (s.setTable t x).cache = s.cache := rfl
@[simp] theorem State.setTable_learnQ (s : State) (t : Nat) (x : Table) : (s.setTable t x).learnQ = s.learnQ := rfl
@[simp] theorem State.setTable_snaps (s : State) (t : Nat) (x : Table) : (s.setTable t x).snaps = s.snaps := rfl
@[simp] theorem State.setTable_csc (s : State) (t : Nat) (x : Table) : (s.setTable t x).csc = s.csc := rfl
@[simp] theorem State.setTable_spk (s : State) (t : Nat) (x : Table) : (s.setTable t x).spk = s.spk := rfl
@[simp] theorem State.setTable_waitSnap (s : State) (t : Nat) (x : Table) : (s.setTable t x).waitSnap = s.waitSnap := rfl
@[simp] theorem State.setTable_vault (s : State) (t : Nat) (x : Table) : (s.setTable t x).vault = s.vault := rfl
@[simp] theorem State.setTable_mgmt (s : State) (t : Nat) (x : Table) : (s.setTable t x).mgmt = s.mgmt := rfl
@[simp] theorem State.setTable_power (s : State) (t : Nat) (x : Table) : (s.setTable t x).power = s.power := rfl
@[simp] theorem State.setTable_stage (s : State) (t : Nat) (x : Table) : (s.setTable t x).stage = s.stage := rfl
@[simp] theorem State.setTable_out (s : State) (t : Nat) (x : Table) : (s.setTable t x).out = s.out := rfl
@[simp] theorem State.setTable_free (s : State) (t : Nat) (x : Table) : (s.setTable t x).free = s.free := rfl
@[simp] theorem State.setTable_pending (s : State) (t : Nat) (x : Table) : (s.setTable t x).pending = s.pending := rfl

@[simp] theorem State.modLink_now (s : State) (p : Nat) (f : Link → Link) : (s.modLink p f).now = s.now := rfl
@[simp] theorem State.modLink_epoch (s : State) (p : Nat) (f : Link → Link) : (s.modLink p f).epoch = s.epoch := rfl
@[simp] theorem State.modLink_due (s : State) (p : Nat) (f : Link → Link) : (s.modLink p f).due = s.due := rfl
@[simp] theorem State.modLink_own (s : State) (p : Nat) (f : Link → Link) : (s.modLink p f).own = s.own := rfl
@[simp] theorem State.modLink_mbox (s : State) (p : Nat) (f : Link → Link) : (s.modLink p f).mbox = s.mbox := rfl
@[simp] theorem State.modLink_cmds (s : State) (p : Nat) (f : Link → Link) : (s.modLink p f).cmds = s.cmds := rfl
@[simp] theorem State.modLink_nextCmd (s : State) (p : Nat) (f : Link → Link) : (s.modLink p f).nextCmd = s.nextCmd := rfl
@[simp] theorem State.modLink_rrMbox (s : State) (p : Nat) (f : Link → Link) : (s.modLink p f).rrMbox = s.rrMbox := rfl
@[simp] theorem State.modLink_rrStart (s : State) (p : Nat) (f : Link → Link) : (s.modLink p f).rrStart = s.rrStart := rfl
@[simp] theorem State.modLink_regs (s : State) (p : Nat) (f : Link → Link) : (s.modLink p f).regs = s.regs := rfl
@[simp] theorem State.modLink_mem (s : State) (p : Nat) (f : Link → Link) : (s.modLink p f).mem = s.mem := rfl
@[simp] theorem State.modLink_tables (s : State) (p : Nat) (f : Link → Link) : (s.modLink p f).tables = s.tables := rfl
@[simp] theorem State.modLink_seals (s : State) (p : Nat) (f : Link → Link) : (s.modLink p f).seals = s.seals := rfl
@[simp] theorem State.modLink_direct (s : State) (p : Nat) (f : Link → Link) : (s.modLink p f).direct = s.direct := rfl
@[simp] theorem State.modLink_dies (s : State) (p : Nat) (f : Link → Link) : (s.modLink p f).dies = s.dies := rfl
@[simp] theorem State.modLink_links (s : State) (p : Nat) (f : Link → Link) : (s.modLink p f).links = listMod s.links p f := rfl
@[simp] theorem State.modLink_holds (s : State) (p : Nat) (f : Link → Link) : (s.modLink p f).holds = s.holds := rfl
@[simp] theorem State.modLink_walkEnds (s : State) (p : Nat) (f : Link → Link) : (s.modLink p f).walkEnds = s.walkEnds := rfl
@[simp] theorem State.modLink_act (s : State) (p : Nat) (f : Link → Link) : (s.modLink p f).act = s.act := rfl
@[simp] theorem State.modLink_cache (s : State) (p : Nat) (f : Link → Link) : (s.modLink p f).cache = s.cache := rfl
@[simp] theorem State.modLink_learnQ (s : State) (p : Nat) (f : Link → Link) : (s.modLink p f).learnQ = s.learnQ := rfl
@[simp] theorem State.modLink_snaps (s : State) (p : Nat) (f : Link → Link) : (s.modLink p f).snaps = s.snaps := rfl
@[simp] theorem State.modLink_csc (s : State) (p : Nat) (f : Link → Link) : (s.modLink p f).csc = s.csc := rfl
@[simp] theorem State.modLink_spk (s : State) (p : Nat) (f : Link → Link) : (s.modLink p f).spk = s.spk := rfl
@[simp] theorem State.modLink_waitSnap (s : State) (p : Nat) (f : Link → Link) : (s.modLink p f).waitSnap = s.waitSnap := rfl
@[simp] theorem State.modLink_vault (s : State) (p : Nat) (f : Link → Link) : (s.modLink p f).vault = s.vault := rfl
@[simp] theorem State.modLink_mgmt (s : State) (p : Nat) (f : Link → Link) : (s.modLink p f).mgmt = s.mgmt := rfl
@[simp] theorem State.modLink_power (s : State) (p : Nat) (f : Link → Link) : (s.modLink p f).power = s.power := rfl
@[simp] theorem State.modLink_stage (s : State) (p : Nat) (f : Link → Link) : (s.modLink p f).stage = s.stage := rfl
@[simp] theorem State.modLink_out (s : State) (p : Nat) (f : Link → Link) : (s.modLink p f).out = s.out := rfl
@[simp] theorem State.modLink_free (s : State) (p : Nat) (f : Link → Link) : (s.modLink p f).free = s.free := rfl
@[simp] theorem State.modLink_pending (s : State) (p : Nat) (f : Link → Link) : (s.modLink p f).pending = s.pending := rfl

@[simp] theorem State.modBox_now (s : State) (m : Nat) (f : Mbox → Mbox) : (s.modBox m f).now = s.now := rfl
@[simp] theorem State.modBox_epoch (s : State) (m : Nat) (f : Mbox → Mbox) : (s.modBox m f).epoch = s.epoch := rfl
@[simp] theorem State.modBox_due (s : State) (m : Nat) (f : Mbox → Mbox) : (s.modBox m f).due = s.due := rfl
@[simp] theorem State.modBox_own (s : State) (m : Nat) (f : Mbox → Mbox) : (s.modBox m f).own = s.own := rfl
@[simp] theorem State.modBox_mbox (s : State) (m : Nat) (f : Mbox → Mbox) : (s.modBox m f).mbox = listMod s.mbox m f := rfl
@[simp] theorem State.modBox_cmds (s : State) (m : Nat) (f : Mbox → Mbox) : (s.modBox m f).cmds = s.cmds := rfl
@[simp] theorem State.modBox_nextCmd (s : State) (m : Nat) (f : Mbox → Mbox) : (s.modBox m f).nextCmd = s.nextCmd := rfl
@[simp] theorem State.modBox_rrMbox (s : State) (m : Nat) (f : Mbox → Mbox) : (s.modBox m f).rrMbox = s.rrMbox := rfl
@[simp] theorem State.modBox_rrStart (s : State) (m : Nat) (f : Mbox → Mbox) : (s.modBox m f).rrStart = s.rrStart := rfl
@[simp] theorem State.modBox_regs (s : State) (m : Nat) (f : Mbox → Mbox) : (s.modBox m f).regs = s.regs := rfl
@[simp] theorem State.modBox_mem (s : State) (m : Nat) (f : Mbox → Mbox) : (s.modBox m f).mem = s.mem := rfl
@[simp] theorem State.modBox_tables (s : State) (m : Nat) (f : Mbox → Mbox) : (s.modBox m f).tables = s.tables := rfl
@[simp] theorem State.modBox_seals (s : State) (m : Nat) (f : Mbox → Mbox) : (s.modBox m f).seals = s.seals := rfl
@[simp] theorem State.modBox_direct (s : State) (m : Nat) (f : Mbox → Mbox) : (s.modBox m f).direct = s.direct := rfl
@[simp] theorem State.modBox_dies (s : State) (m : Nat) (f : Mbox → Mbox) : (s.modBox m f).dies = s.dies := rfl
@[simp] theorem State.modBox_links (s : State) (m : Nat) (f : Mbox → Mbox) : (s.modBox m f).links = s.links := rfl
@[simp] theorem State.modBox_holds (s : State) (m : Nat) (f : Mbox → Mbox) : (s.modBox m f).holds = s.holds := rfl
@[simp] theorem State.modBox_walkEnds (s : State) (m : Nat) (f : Mbox → Mbox) : (s.modBox m f).walkEnds = s.walkEnds := rfl
@[simp] theorem State.modBox_act (s : State) (m : Nat) (f : Mbox → Mbox) : (s.modBox m f).act = s.act := rfl
@[simp] theorem State.modBox_cache (s : State) (m : Nat) (f : Mbox → Mbox) : (s.modBox m f).cache = s.cache := rfl
@[simp] theorem State.modBox_learnQ (s : State) (m : Nat) (f : Mbox → Mbox) : (s.modBox m f).learnQ = s.learnQ := rfl
@[simp] theorem State.modBox_snaps (s : State) (m : Nat) (f : Mbox → Mbox) : (s.modBox m f).snaps = s.snaps := rfl
@[simp] theorem State.modBox_csc (s : State) (m : Nat) (f : Mbox → Mbox) : (s.modBox m f).csc = s.csc := rfl
@[simp] theorem State.modBox_spk (s : State) (m : Nat) (f : Mbox → Mbox) : (s.modBox m f).spk = s.spk := rfl
@[simp] theorem State.modBox_waitSnap (s : State) (m : Nat) (f : Mbox → Mbox) : (s.modBox m f).waitSnap = s.waitSnap := rfl
@[simp] theorem State.modBox_vault (s : State) (m : Nat) (f : Mbox → Mbox) : (s.modBox m f).vault = s.vault := rfl
@[simp] theorem State.modBox_mgmt (s : State) (m : Nat) (f : Mbox → Mbox) : (s.modBox m f).mgmt = s.mgmt := rfl
@[simp] theorem State.modBox_power (s : State) (m : Nat) (f : Mbox → Mbox) : (s.modBox m f).power = s.power := rfl
@[simp] theorem State.modBox_stage (s : State) (m : Nat) (f : Mbox → Mbox) : (s.modBox m f).stage = s.stage := rfl
@[simp] theorem State.modBox_out (s : State) (m : Nat) (f : Mbox → Mbox) : (s.modBox m f).out = s.out := rfl
@[simp] theorem State.modBox_free (s : State) (m : Nat) (f : Mbox → Mbox) : (s.modBox m f).free = s.free := rfl
@[simp] theorem State.modBox_pending (s : State) (m : Nat) (f : Mbox → Mbox) : (s.modBox m f).pending = s.pending := rfl

@[simp] theorem State.modCmds_now (s : State) (p : Cmd → Bool) (f : Cmd → Cmd) : (s.modCmds p f).now = s.now := rfl
@[simp] theorem State.modCmds_epoch (s : State) (p : Cmd → Bool) (f : Cmd → Cmd) : (s.modCmds p f).epoch = s.epoch := rfl
@[simp] theorem State.modCmds_due (s : State) (p : Cmd → Bool) (f : Cmd → Cmd) : (s.modCmds p f).due = s.due := rfl
@[simp] theorem State.modCmds_own (s : State) (p : Cmd → Bool) (f : Cmd → Cmd) : (s.modCmds p f).own = s.own := rfl
@[simp] theorem State.modCmds_mbox (s : State) (p : Cmd → Bool) (f : Cmd → Cmd) : (s.modCmds p f).mbox = s.mbox := rfl
@[simp] theorem State.modCmds_cmds (s : State) (p : Cmd → Bool) (f : Cmd → Cmd) : (s.modCmds p f).cmds = s.cmds.map (fun c => if p c then f c else c) := rfl
@[simp] theorem State.modCmds_nextCmd (s : State) (p : Cmd → Bool) (f : Cmd → Cmd) : (s.modCmds p f).nextCmd = s.nextCmd := rfl
@[simp] theorem State.modCmds_rrMbox (s : State) (p : Cmd → Bool) (f : Cmd → Cmd) : (s.modCmds p f).rrMbox = s.rrMbox := rfl
@[simp] theorem State.modCmds_rrStart (s : State) (p : Cmd → Bool) (f : Cmd → Cmd) : (s.modCmds p f).rrStart = s.rrStart := rfl
@[simp] theorem State.modCmds_regs (s : State) (p : Cmd → Bool) (f : Cmd → Cmd) : (s.modCmds p f).regs = s.regs := rfl
@[simp] theorem State.modCmds_mem (s : State) (p : Cmd → Bool) (f : Cmd → Cmd) : (s.modCmds p f).mem = s.mem := rfl
@[simp] theorem State.modCmds_tables (s : State) (p : Cmd → Bool) (f : Cmd → Cmd) : (s.modCmds p f).tables = s.tables := rfl
@[simp] theorem State.modCmds_seals (s : State) (p : Cmd → Bool) (f : Cmd → Cmd) : (s.modCmds p f).seals = s.seals := rfl
@[simp] theorem State.modCmds_direct (s : State) (p : Cmd → Bool) (f : Cmd → Cmd) : (s.modCmds p f).direct = s.direct := rfl
@[simp] theorem State.modCmds_dies (s : State) (p : Cmd → Bool) (f : Cmd → Cmd) : (s.modCmds p f).dies = s.dies := rfl
@[simp] theorem State.modCmds_links (s : State) (p : Cmd → Bool) (f : Cmd → Cmd) : (s.modCmds p f).links = s.links := rfl
@[simp] theorem State.modCmds_holds (s : State) (p : Cmd → Bool) (f : Cmd → Cmd) : (s.modCmds p f).holds = s.holds := rfl
@[simp] theorem State.modCmds_walkEnds (s : State) (p : Cmd → Bool) (f : Cmd → Cmd) : (s.modCmds p f).walkEnds = s.walkEnds := rfl
@[simp] theorem State.modCmds_act (s : State) (p : Cmd → Bool) (f : Cmd → Cmd) : (s.modCmds p f).act = s.act := rfl
@[simp] theorem State.modCmds_cache (s : State) (p : Cmd → Bool) (f : Cmd → Cmd) : (s.modCmds p f).cache = s.cache := rfl
@[simp] theorem State.modCmds_learnQ (s : State) (p : Cmd → Bool) (f : Cmd → Cmd) : (s.modCmds p f).learnQ = s.learnQ := rfl
@[simp] theorem State.modCmds_snaps (s : State) (p : Cmd → Bool) (f : Cmd → Cmd) : (s.modCmds p f).snaps = s.snaps := rfl
@[simp] theorem State.modCmds_csc (s : State) (p : Cmd → Bool) (f : Cmd → Cmd) : (s.modCmds p f).csc = s.csc := rfl
@[simp] theorem State.modCmds_spk (s : State) (p : Cmd → Bool) (f : Cmd → Cmd) : (s.modCmds p f).spk = s.spk := rfl
@[simp] theorem State.modCmds_waitSnap (s : State) (p : Cmd → Bool) (f : Cmd → Cmd) : (s.modCmds p f).waitSnap = s.waitSnap := rfl
@[simp] theorem State.modCmds_vault (s : State) (p : Cmd → Bool) (f : Cmd → Cmd) : (s.modCmds p f).vault = s.vault := rfl
@[simp] theorem State.modCmds_mgmt (s : State) (p : Cmd → Bool) (f : Cmd → Cmd) : (s.modCmds p f).mgmt = s.mgmt := rfl
@[simp] theorem State.modCmds_power (s : State) (p : Cmd → Bool) (f : Cmd → Cmd) : (s.modCmds p f).power = s.power := rfl
@[simp] theorem State.modCmds_stage (s : State) (p : Cmd → Bool) (f : Cmd → Cmd) : (s.modCmds p f).stage = s.stage := rfl
@[simp] theorem State.modCmds_out (s : State) (p : Cmd → Bool) (f : Cmd → Cmd) : (s.modCmds p f).out = s.out := rfl
@[simp] theorem State.modCmds_free (s : State) (p : Cmd → Bool) (f : Cmd → Cmd) : (s.modCmds p f).free = s.free := rfl
@[simp] theorem State.modCmds_pending (s : State) (p : Cmd → Bool) (f : Cmd → Cmd) : (s.modCmds p f).pending = s.pending := rfl

@[simp] theorem State.setLive_now (s : State) (a : Nat) (v : Word) : (s.setLive a v).now = s.now := rfl
@[simp] theorem State.setLive_epoch (s : State) (a : Nat) (v : Word) : (s.setLive a v).epoch = s.epoch := rfl
@[simp] theorem State.setLive_due (s : State) (a : Nat) (v : Word) : (s.setLive a v).due = s.due := rfl
@[simp] theorem State.setLive_own (s : State) (a : Nat) (v : Word) : (s.setLive a v).own = s.own := rfl
@[simp] theorem State.setLive_mbox (s : State) (a : Nat) (v : Word) : (s.setLive a v).mbox = s.mbox := rfl
@[simp] theorem State.setLive_cmds (s : State) (a : Nat) (v : Word) : (s.setLive a v).cmds = s.cmds := rfl
@[simp] theorem State.setLive_nextCmd (s : State) (a : Nat) (v : Word) : (s.setLive a v).nextCmd = s.nextCmd := rfl
@[simp] theorem State.setLive_rrMbox (s : State) (a : Nat) (v : Word) : (s.setLive a v).rrMbox = s.rrMbox := rfl
@[simp] theorem State.setLive_rrStart (s : State) (a : Nat) (v : Word) : (s.setLive a v).rrStart = s.rrStart := rfl
@[simp] theorem State.setLive_regs (s : State) (a : Nat) (v : Word) : (s.setLive a v).regs = { s.regs with live := mapSet s.regs.live a v } := rfl
@[simp] theorem State.setLive_mem (s : State) (a : Nat) (v : Word) : (s.setLive a v).mem = s.mem := rfl
@[simp] theorem State.setLive_tables (s : State) (a : Nat) (v : Word) : (s.setLive a v).tables = s.tables := rfl
@[simp] theorem State.setLive_seals (s : State) (a : Nat) (v : Word) : (s.setLive a v).seals = s.seals := rfl
@[simp] theorem State.setLive_direct (s : State) (a : Nat) (v : Word) : (s.setLive a v).direct = s.direct := rfl
@[simp] theorem State.setLive_dies (s : State) (a : Nat) (v : Word) : (s.setLive a v).dies = s.dies := rfl
@[simp] theorem State.setLive_links (s : State) (a : Nat) (v : Word) : (s.setLive a v).links = s.links := rfl
@[simp] theorem State.setLive_holds (s : State) (a : Nat) (v : Word) : (s.setLive a v).holds = s.holds := rfl
@[simp] theorem State.setLive_walkEnds (s : State) (a : Nat) (v : Word) : (s.setLive a v).walkEnds = s.walkEnds := rfl
@[simp] theorem State.setLive_act (s : State) (a : Nat) (v : Word) : (s.setLive a v).act = s.act := rfl
@[simp] theorem State.setLive_cache (s : State) (a : Nat) (v : Word) : (s.setLive a v).cache = s.cache := rfl
@[simp] theorem State.setLive_learnQ (s : State) (a : Nat) (v : Word) : (s.setLive a v).learnQ = s.learnQ := rfl
@[simp] theorem State.setLive_snaps (s : State) (a : Nat) (v : Word) : (s.setLive a v).snaps = s.snaps := rfl
@[simp] theorem State.setLive_csc (s : State) (a : Nat) (v : Word) : (s.setLive a v).csc = s.csc := rfl
@[simp] theorem State.setLive_spk (s : State) (a : Nat) (v : Word) : (s.setLive a v).spk = s.spk := rfl
@[simp] theorem State.setLive_waitSnap (s : State) (a : Nat) (v : Word) : (s.setLive a v).waitSnap = s.waitSnap := rfl
@[simp] theorem State.setLive_vault (s : State) (a : Nat) (v : Word) : (s.setLive a v).vault = s.vault := rfl
@[simp] theorem State.setLive_mgmt (s : State) (a : Nat) (v : Word) : (s.setLive a v).mgmt = s.mgmt := rfl
@[simp] theorem State.setLive_power (s : State) (a : Nat) (v : Word) : (s.setLive a v).power = s.power := rfl
@[simp] theorem State.setLive_stage (s : State) (a : Nat) (v : Word) : (s.setLive a v).stage = s.stage := rfl
@[simp] theorem State.setLive_out (s : State) (a : Nat) (v : Word) : (s.setLive a v).out = s.out := rfl
@[simp] theorem State.setLive_free (s : State) (a : Nat) (v : Word) : (s.setLive a v).free = s.free := rfl
@[simp] theorem State.setLive_pending (s : State) (a : Nat) (v : Word) : (s.setLive a v).pending = s.pending := rfl

@[simp] theorem State.setBuf_now (s : State) (a : Nat) (v : Word) : (s.setBuf a v).now = s.now := rfl
@[simp] theorem State.setBuf_epoch (s : State) (a : Nat) (v : Word) : (s.setBuf a v).epoch = s.epoch := rfl
@[simp] theorem State.setBuf_due (s : State) (a : Nat) (v : Word) : (s.setBuf a v).due = s.due := rfl
@[simp] theorem State.setBuf_own (s : State) (a : Nat) (v : Word) : (s.setBuf a v).own = s.own := rfl
@[simp] theorem State.setBuf_mbox (s : State) (a : Nat) (v : Word) : (s.setBuf a v).mbox = s.mbox := rfl
@[simp] theorem State.setBuf_cmds (s : State) (a : Nat) (v : Word) : (s.setBuf a v).cmds = s.cmds := rfl
@[simp] theorem State.setBuf_nextCmd (s : State) (a : Nat) (v : Word) : (s.setBuf a v).nextCmd = s.nextCmd := rfl
@[simp] theorem State.setBuf_rrMbox (s : State) (a : Nat) (v : Word) : (s.setBuf a v).rrMbox = s.rrMbox := rfl
@[simp] theorem State.setBuf_rrStart (s : State) (a : Nat) (v : Word) : (s.setBuf a v).rrStart = s.rrStart := rfl
@[simp] theorem State.setBuf_regs (s : State) (a : Nat) (v : Word) : (s.setBuf a v).regs = { s.regs with buf := mapSet s.regs.buf a v } := rfl
@[simp] theorem State.setBuf_mem (s : State) (a : Nat) (v : Word) : (s.setBuf a v).mem = s.mem := rfl
@[simp] theorem State.setBuf_tables (s : State) (a : Nat) (v : Word) : (s.setBuf a v).tables = s.tables := rfl
@[simp] theorem State.setBuf_seals (s : State) (a : Nat) (v : Word) : (s.setBuf a v).seals = s.seals := rfl
@[simp] theorem State.setBuf_direct (s : State) (a : Nat) (v : Word) : (s.setBuf a v).direct = s.direct := rfl
@[simp] theorem State.setBuf_dies (s : State) (a : Nat) (v : Word) : (s.setBuf a v).dies = s.dies := rfl
@[simp] theorem State.setBuf_links (s : State) (a : Nat) (v : Word) : (s.setBuf a v).links = s.links := rfl
@[simp] theorem State.setBuf_holds (s : State) (a : Nat) (v : Word) : (s.setBuf a v).holds = s.holds := rfl
@[simp] theorem State.setBuf_walkEnds (s : State) (a : Nat) (v : Word) : (s.setBuf a v).walkEnds = s.walkEnds := rfl
@[simp] theorem State.setBuf_act (s : State) (a : Nat) (v : Word) : (s.setBuf a v).act = s.act := rfl
@[simp] theorem State.setBuf_cache (s : State) (a : Nat) (v : Word) : (s.setBuf a v).cache = s.cache := rfl
@[simp] theorem State.setBuf_learnQ (s : State) (a : Nat) (v : Word) : (s.setBuf a v).learnQ = s.learnQ := rfl
@[simp] theorem State.setBuf_snaps (s : State) (a : Nat) (v : Word) : (s.setBuf a v).snaps = s.snaps := rfl
@[simp] theorem State.setBuf_csc (s : State) (a : Nat) (v : Word) : (s.setBuf a v).csc = s.csc := rfl
@[simp] theorem State.setBuf_spk (s : State) (a : Nat) (v : Word) : (s.setBuf a v).spk = s.spk := rfl
@[simp] theorem State.setBuf_waitSnap (s : State) (a : Nat) (v : Word) : (s.setBuf a v).waitSnap = s.waitSnap := rfl
@[simp] theorem State.setBuf_vault (s : State) (a : Nat) (v : Word) : (s.setBuf a v).vault = s.vault := rfl
@[simp] theorem State.setBuf_mgmt (s : State) (a : Nat) (v : Word) : (s.setBuf a v).mgmt = s.mgmt := rfl
@[simp] theorem State.setBuf_power (s : State) (a : Nat) (v : Word) : (s.setBuf a v).power = s.power := rfl
@[simp] theorem State.setBuf_stage (s : State) (a : Nat) (v : Word) : (s.setBuf a v).stage = s.stage := rfl
@[simp] theorem State.setBuf_out (s : State) (a : Nat) (v : Word) : (s.setBuf a v).out = s.out := rfl
@[simp] theorem State.setBuf_free (s : State) (a : Nat) (v : Word) : (s.setBuf a v).free = s.free := rfl
@[simp] theorem State.setBuf_pending (s : State) (a : Nat) (v : Word) : (s.setBuf a v).pending = s.pending := rfl

@[simp] theorem metPut_now (s : State) (a : Nat) (w : Word) (n : Nat) : (metPut s a w n).now = s.now := rfl
@[simp] theorem metPut_epoch (s : State) (a : Nat) (w : Word) (n : Nat) : (metPut s a w n).epoch = s.epoch := rfl
@[simp] theorem metPut_due (s : State) (a : Nat) (w : Word) (n : Nat) : (metPut s a w n).due = s.due := rfl
@[simp] theorem metPut_own (s : State) (a : Nat) (w : Word) (n : Nat) : (metPut s a w n).own = s.own := rfl
@[simp] theorem metPut_mbox (s : State) (a : Nat) (w : Word) (n : Nat) : (metPut s a w n).mbox = s.mbox := rfl
@[simp] theorem metPut_cmds (s : State) (a : Nat) (w : Word) (n : Nat) : (metPut s a w n).cmds = s.cmds := rfl
@[simp] theorem metPut_nextCmd (s : State) (a : Nat) (w : Word) (n : Nat) : (metPut s a w n).nextCmd = s.nextCmd := rfl
@[simp] theorem metPut_rrMbox (s : State) (a : Nat) (w : Word) (n : Nat) : (metPut s a w n).rrMbox = s.rrMbox := rfl
@[simp] theorem metPut_rrStart (s : State) (a : Nat) (w : Word) (n : Nat) : (metPut s a w n).rrStart = s.rrStart := rfl
@[simp] theorem metPut_regs (s : State) (a : Nat) (w : Word) (n : Nat) : (metPut s a w n).regs = { s.regs with met := mapSet s.regs.met a (s.now, w, n) } := rfl
@[simp] theorem metPut_mem (s : State) (a : Nat) (w : Word) (n : Nat) : (metPut s a w n).mem = s.mem := rfl
@[simp] theorem metPut_tables (s : State) (a : Nat) (w : Word) (n : Nat) : (metPut s a w n).tables = s.tables := rfl
@[simp] theorem metPut_seals (s : State) (a : Nat) (w : Word) (n : Nat) : (metPut s a w n).seals = s.seals := rfl
@[simp] theorem metPut_direct (s : State) (a : Nat) (w : Word) (n : Nat) : (metPut s a w n).direct = s.direct := rfl
@[simp] theorem metPut_dies (s : State) (a : Nat) (w : Word) (n : Nat) : (metPut s a w n).dies = s.dies := rfl
@[simp] theorem metPut_links (s : State) (a : Nat) (w : Word) (n : Nat) : (metPut s a w n).links = s.links := rfl
@[simp] theorem metPut_holds (s : State) (a : Nat) (w : Word) (n : Nat) : (metPut s a w n).holds = s.holds := rfl
@[simp] theorem metPut_walkEnds (s : State) (a : Nat) (w : Word) (n : Nat) : (metPut s a w n).walkEnds = s.walkEnds := rfl
@[simp] theorem metPut_act (s : State) (a : Nat) (w : Word) (n : Nat) : (metPut s a w n).act = s.act := rfl
@[simp] theorem metPut_cache (s : State) (a : Nat) (w : Word) (n : Nat) : (metPut s a w n).cache = s.cache := rfl
@[simp] theorem metPut_learnQ (s : State) (a : Nat) (w : Word) (n : Nat) : (metPut s a w n).learnQ = s.learnQ := rfl
@[simp] theorem metPut_snaps (s : State) (a : Nat) (w : Word) (n : Nat) : (metPut s a w n).snaps = s.snaps := rfl
@[simp] theorem metPut_csc (s : State) (a : Nat) (w : Word) (n : Nat) : (metPut s a w n).csc = s.csc := rfl
@[simp] theorem metPut_spk (s : State) (a : Nat) (w : Word) (n : Nat) : (metPut s a w n).spk = s.spk := rfl
@[simp] theorem metPut_waitSnap (s : State) (a : Nat) (w : Word) (n : Nat) : (metPut s a w n).waitSnap = s.waitSnap := rfl
@[simp] theorem metPut_vault (s : State) (a : Nat) (w : Word) (n : Nat) : (metPut s a w n).vault = s.vault := rfl
@[simp] theorem metPut_mgmt (s : State) (a : Nat) (w : Word) (n : Nat) : (metPut s a w n).mgmt = s.mgmt := rfl
@[simp] theorem metPut_power (s : State) (a : Nat) (w : Word) (n : Nat) : (metPut s a w n).power = s.power := rfl
@[simp] theorem metPut_stage (s : State) (a : Nat) (w : Word) (n : Nat) : (metPut s a w n).stage = s.stage := rfl
@[simp] theorem metPut_out (s : State) (a : Nat) (w : Word) (n : Nat) : (metPut s a w n).out = s.out := rfl
@[simp] theorem metPut_free (s : State) (a : Nat) (w : Word) (n : Nat) : (metPut s a w n).free = s.free := rfl
@[simp] theorem metPut_pending (s : State) (a : Nat) (w : Word) (n : Nat) : (metPut s a w n).pending = s.pending := rfl

@[simp] theorem draw_fst (s : State) : (draw s).1 = s.free := rfl
@[simp] theorem draw_now (s : State) : (draw s).2.now = s.now := rfl
@[simp] theorem draw_epoch (s : State) : (draw s).2.epoch = s.epoch := rfl
@[simp] theorem draw_due (s : State) : (draw s).2.due = s.due := rfl
@[simp] theorem draw_own (s : State) : (draw s).2.own = s.own := rfl
@[simp] theorem draw_mbox (s : State) : (draw s).2.mbox = s.mbox := rfl
@[simp] theorem draw_cmds (s : State) : (draw s).2.cmds = s.cmds := rfl
@[simp] theorem draw_nextCmd (s : State) : (draw s).2.nextCmd = s.nextCmd := rfl
@[simp] theorem draw_rrMbox (s : State) : (draw s).2.rrMbox = s.rrMbox := rfl
@[simp] theorem draw_rrStart (s : State) : (draw s).2.rrStart = s.rrStart := rfl
@[simp] theorem draw_regs (s : State) : (draw s).2.regs = s.regs := rfl
@[simp] theorem draw_mem (s : State) : (draw s).2.mem = s.mem := rfl
@[simp] theorem draw_tables (s : State) : (draw s).2.tables = s.tables := rfl
@[simp] theorem draw_seals (s : State) : (draw s).2.seals = s.seals := rfl
@[simp] theorem draw_direct (s : State) : (draw s).2.direct = s.direct := rfl
@[simp] theorem draw_dies (s : State) : (draw s).2.dies = s.dies := rfl
@[simp] theorem draw_links (s : State) : (draw s).2.links = s.links := rfl
@[simp] theorem draw_holds (s : State) : (draw s).2.holds = s.holds := rfl
@[simp] theorem draw_walkEnds (s : State) : (draw s).2.walkEnds = s.walkEnds := rfl
@[simp] theorem draw_act (s : State) : (draw s).2.act = s.act := rfl
@[simp] theorem draw_cache (s : State) : (draw s).2.cache = s.cache := rfl
@[simp] theorem draw_learnQ (s : State) : (draw s).2.learnQ = s.learnQ := rfl
@[simp] theorem draw_snaps (s : State) : (draw s).2.snaps = s.snaps := rfl
@[simp] theorem draw_csc (s : State) : (draw s).2.csc = s.csc := rfl
@[simp] theorem draw_spk (s : State) : (draw s).2.spk = s.spk := rfl
@[simp] theorem draw_waitSnap (s : State) : (draw s).2.waitSnap = s.waitSnap := rfl
@[simp] theorem draw_vault (s : State) : (draw s).2.vault = s.vault := rfl
@[simp] theorem draw_mgmt (s : State) : (draw s).2.mgmt = s.mgmt := rfl
@[simp] theorem draw_power (s : State) : (draw s).2.power = s.power := rfl
@[simp] theorem draw_stage (s : State) : (draw s).2.stage = s.stage := rfl
@[simp] theorem draw_out (s : State) : (draw s).2.out = s.out := rfl
@[simp] theorem draw_free (s : State) : (draw s).2.free = s.free + 1 := rfl
@[simp] theorem draw_pending (s : State) : (draw s).2.pending = s.pending := rfl

@[simp] theorem State.setBoth_now (s : State) (a : Nat) (v : Word) : (s.setBoth a v).now = s.now := rfl
@[simp] theorem State.setBoth_epoch (s : State) (a : Nat) (v : Word) : (s.setBoth a v).epoch = s.epoch := rfl
@[simp] theorem State.setBoth_due (s : State) (a : Nat) (v : Word) : (s.setBoth a v).due = s.due := rfl
@[simp] theorem State.setBoth_own (s : State) (a : Nat) (v : Word) : (s.setBoth a v).own = s.own := rfl
@[simp] theorem State.setBoth_mbox (s : State) (a : Nat) (v : Word) : (s.setBoth a v).mbox = s.mbox := rfl
@[simp] theorem State.setBoth_cmds (s : State) (a : Nat) (v : Word) : (s.setBoth a v).cmds = s.cmds := rfl
@[simp] theorem State.setBoth_nextCmd (s : State) (a : Nat) (v : Word) : (s.setBoth a v).nextCmd = s.nextCmd := rfl
@[simp] theorem State.setBoth_rrMbox (s : State) (a : Nat) (v : Word) : (s.setBoth a v).rrMbox = s.rrMbox := rfl
@[simp] theorem State.setBoth_rrStart (s : State) (a : Nat) (v : Word) : (s.setBoth a v).rrStart = s.rrStart := rfl
@[simp] theorem State.setBoth_mem (s : State) (a : Nat) (v : Word) : (s.setBoth a v).mem = s.mem := rfl
@[simp] theorem State.setBoth_tables (s : State) (a : Nat) (v : Word) : (s.setBoth a v).tables = s.tables := rfl
@[simp] theorem State.setBoth_seals (s : State) (a : Nat) (v : Word) : (s.setBoth a v).seals = s.seals := rfl
@[simp] theorem State.setBoth_direct (s : State) (a : Nat) (v : Word) : (s.setBoth a v).direct = s.direct := rfl
@[simp] theorem State.setBoth_dies (s : State) (a : Nat) (v : Word) : (s.setBoth a v).dies = s.dies := rfl
@[simp] theorem State.setBoth_links (s : State) (a : Nat) (v : Word) : (s.setBoth a v).links = s.links := rfl
@[simp] theorem State.setBoth_holds (s : State) (a : Nat) (v : Word) : (s.setBoth a v).holds = s.holds := rfl
@[simp] theorem State.setBoth_walkEnds (s : State) (a : Nat) (v : Word) : (s.setBoth a v).walkEnds = s.walkEnds := rfl
@[simp] theorem State.setBoth_act (s : State) (a : Nat) (v : Word) : (s.setBoth a v).act = s.act := rfl
@[simp] theorem State.setBoth_cache (s : State) (a : Nat) (v : Word) : (s.setBoth a v).cache = s.cache := rfl
@[simp] theorem State.setBoth_learnQ (s : State) (a : Nat) (v : Word) : (s.setBoth a v).learnQ = s.learnQ := rfl
@[simp] theorem State.setBoth_snaps (s : State) (a : Nat) (v : Word) : (s.setBoth a v).snaps = s.snaps := rfl
@[simp] theorem State.setBoth_csc (s : State) (a : Nat) (v : Word) : (s.setBoth a v).csc = s.csc := rfl
@[simp] theorem State.setBoth_spk (s : State) (a : Nat) (v : Word) : (s.setBoth a v).spk = s.spk := rfl
@[simp] theorem State.setBoth_waitSnap (s : State) (a : Nat) (v : Word) : (s.setBoth a v).waitSnap = s.waitSnap := rfl
@[simp] theorem State.setBoth_vault (s : State) (a : Nat) (v : Word) : (s.setBoth a v).vault = s.vault := rfl
@[simp] theorem State.setBoth_mgmt (s : State) (a : Nat) (v : Word) : (s.setBoth a v).mgmt = s.mgmt := rfl
@[simp] theorem State.setBoth_power (s : State) (a : Nat) (v : Word) : (s.setBoth a v).power = s.power := rfl
@[simp] theorem State.setBoth_stage (s : State) (a : Nat) (v : Word) : (s.setBoth a v).stage = s.stage := rfl
@[simp] theorem State.setBoth_out (s : State) (a : Nat) (v : Word) : (s.setBoth a v).out = s.out := rfl
@[simp] theorem State.setBoth_free (s : State) (a : Nat) (v : Word) : (s.setBoth a v).free = s.free := rfl
@[simp] theorem State.setBoth_pending (s : State) (a : Nat) (v : Word) : (s.setBoth a v).pending = s.pending := rfl

@[simp] theorem State.bump_now (s : State) (a n : Nat) : (s.bump a n).now = s.now := by unfold State.bump; split <;> rfl
@[simp] theorem State.bump_epoch (s : State) (a n : Nat) : (s.bump a n).epoch = s.epoch := by unfold State.bump; split <;> rfl
@[simp] theorem State.bump_due (s : State) (a n : Nat) : (s.bump a n).due = s.due := by unfold State.bump; split <;> rfl
@[simp] theorem State.bump_own (s : State) (a n : Nat) : (s.bump a n).own = s.own := by unfold State.bump; split <;> rfl
@[simp] theorem State.bump_mbox (s : State) (a n : Nat) : (s.bump a n).mbox = s.mbox := by unfold State.bump; split <;> rfl
@[simp] theorem State.bump_cmds (s : State) (a n : Nat) : (s.bump a n).cmds = s.cmds := by unfold State.bump; split <;> rfl
@[simp] theorem State.bump_nextCmd (s : State) (a n : Nat) : (s.bump a n).nextCmd = s.nextCmd := by unfold State.bump; split <;> rfl
@[simp] theorem State.bump_rrMbox (s : State) (a n : Nat) : (s.bump a n).rrMbox = s.rrMbox := by unfold State.bump; split <;> rfl
@[simp] theorem State.bump_rrStart (s : State) (a n : Nat) : (s.bump a n).rrStart = s.rrStart := by unfold State.bump; split <;> rfl
@[simp] theorem State.bump_mem (s : State) (a n : Nat) : (s.bump a n).mem = s.mem := by unfold State.bump; split <;> rfl
@[simp] theorem State.bump_tables (s : State) (a n : Nat) : (s.bump a n).tables = s.tables := by unfold State.bump; split <;> rfl
@[simp] theorem State.bump_seals (s : State) (a n : Nat) : (s.bump a n).seals = s.seals := by unfold State.bump; split <;> rfl
@[simp] theorem State.bump_direct (s : State) (a n : Nat) : (s.bump a n).direct = s.direct := by unfold State.bump; split <;> rfl
@[simp] theorem State.bump_dies (s : State) (a n : Nat) : (s.bump a n).dies = s.dies := by unfold State.bump; split <;> rfl
@[simp] theorem State.bump_links (s : State) (a n : Nat) : (s.bump a n).links = s.links := by unfold State.bump; split <;> rfl
@[simp] theorem State.bump_holds (s : State) (a n : Nat) : (s.bump a n).holds = s.holds := by unfold State.bump; split <;> rfl
@[simp] theorem State.bump_walkEnds (s : State) (a n : Nat) : (s.bump a n).walkEnds = s.walkEnds := by unfold State.bump; split <;> rfl
@[simp] theorem State.bump_act (s : State) (a n : Nat) : (s.bump a n).act = s.act := by unfold State.bump; split <;> rfl
@[simp] theorem State.bump_cache (s : State) (a n : Nat) : (s.bump a n).cache = s.cache := by unfold State.bump; split <;> rfl
@[simp] theorem State.bump_learnQ (s : State) (a n : Nat) : (s.bump a n).learnQ = s.learnQ := by unfold State.bump; split <;> rfl
@[simp] theorem State.bump_snaps (s : State) (a n : Nat) : (s.bump a n).snaps = s.snaps := by unfold State.bump; split <;> rfl
@[simp] theorem State.bump_csc (s : State) (a n : Nat) : (s.bump a n).csc = s.csc := by unfold State.bump; split <;> rfl
@[simp] theorem State.bump_spk (s : State) (a n : Nat) : (s.bump a n).spk = s.spk := by unfold State.bump; split <;> rfl
@[simp] theorem State.bump_waitSnap (s : State) (a n : Nat) : (s.bump a n).waitSnap = s.waitSnap := by unfold State.bump; split <;> rfl
@[simp] theorem State.bump_vault (s : State) (a n : Nat) : (s.bump a n).vault = s.vault := by unfold State.bump; split <;> rfl
@[simp] theorem State.bump_mgmt (s : State) (a n : Nat) : (s.bump a n).mgmt = s.mgmt := by unfold State.bump; split <;> rfl
@[simp] theorem State.bump_power (s : State) (a n : Nat) : (s.bump a n).power = s.power := by unfold State.bump; split <;> rfl
@[simp] theorem State.bump_stage (s : State) (a n : Nat) : (s.bump a n).stage = s.stage := by unfold State.bump; split <;> rfl
@[simp] theorem State.bump_out (s : State) (a n : Nat) : (s.bump a n).out = s.out := by unfold State.bump; split <;> rfl
@[simp] theorem State.bump_free (s : State) (a n : Nat) : (s.bump a n).free = s.free := by unfold State.bump; split <;> rfl
@[simp] theorem State.bump_pending (s : State) (a n : Nat) : (s.bump a n).pending = s.pending := by unfold State.bump; split <;> rfl

@[simp] theorem State.setField_now (s : State) (a hi lo v : Nat) : (s.setField a hi lo v).now = s.now := rfl
@[simp] theorem State.setField_epoch (s : State) (a hi lo v : Nat) : (s.setField a hi lo v).epoch = s.epoch := rfl
@[simp] theorem State.setField_due (s : State) (a hi lo v : Nat) : (s.setField a hi lo v).due = s.due := rfl
@[simp] theorem State.setField_own (s : State) (a hi lo v : Nat) : (s.setField a hi lo v).own = s.own := rfl
@[simp] theorem State.setField_mbox (s : State) (a hi lo v : Nat) : (s.setField a hi lo v).mbox = s.mbox := rfl
@[simp] theorem State.setField_cmds (s : State) (a hi lo v : Nat) : (s.setField a hi lo v).cmds = s.cmds := rfl
@[simp] theorem State.setField_nextCmd (s : State) (a hi lo v : Nat) : (s.setField a hi lo v).nextCmd = s.nextCmd := rfl
@[simp] theorem State.setField_rrMbox (s : State) (a hi lo v : Nat) : (s.setField a hi lo v).rrMbox = s.rrMbox := rfl
@[simp] theorem State.setField_rrStart (s : State) (a hi lo v : Nat) : (s.setField a hi lo v).rrStart = s.rrStart := rfl
@[simp] theorem State.setField_mem (s : State) (a hi lo v : Nat) : (s.setField a hi lo v).mem = s.mem := rfl
@[simp] theorem State.setField_tables (s : State) (a hi lo v : Nat) : (s.setField a hi lo v).tables = s.tables := rfl
@[simp] theorem State.setField_seals (s : State) (a hi lo v : Nat) : (s.setField a hi lo v).seals = s.seals := rfl
@[simp] theorem State.setField_direct (s : State) (a hi lo v : Nat) : (s.setField a hi lo v).direct = s.direct := rfl
@[simp] theorem State.setField_dies (s : State) (a hi lo v : Nat) : (s.setField a hi lo v).dies = s.dies := rfl
@[simp] theorem State.setField_links (s : State) (a hi lo v : Nat) : (s.setField a hi lo v).links = s.links := rfl
@[simp] theorem State.setField_holds (s : State) (a hi lo v : Nat) : (s.setField a hi lo v).holds = s.holds := rfl
@[simp] theorem State.setField_walkEnds (s : State) (a hi lo v : Nat) : (s.setField a hi lo v).walkEnds = s.walkEnds := rfl
@[simp] theorem State.setField_act (s : State) (a hi lo v : Nat) : (s.setField a hi lo v).act = s.act := rfl
@[simp] theorem State.setField_cache (s : State) (a hi lo v : Nat) : (s.setField a hi lo v).cache = s.cache := rfl
@[simp] theorem State.setField_learnQ (s : State) (a hi lo v : Nat) : (s.setField a hi lo v).learnQ = s.learnQ := rfl
@[simp] theorem State.setField_snaps (s : State) (a hi lo v : Nat) : (s.setField a hi lo v).snaps = s.snaps := rfl
@[simp] theorem State.setField_csc (s : State) (a hi lo v : Nat) : (s.setField a hi lo v).csc = s.csc := rfl
@[simp] theorem State.setField_spk (s : State) (a hi lo v : Nat) : (s.setField a hi lo v).spk = s.spk := rfl
@[simp] theorem State.setField_waitSnap (s : State) (a hi lo v : Nat) : (s.setField a hi lo v).waitSnap = s.waitSnap := rfl
@[simp] theorem State.setField_vault (s : State) (a hi lo v : Nat) : (s.setField a hi lo v).vault = s.vault := rfl
@[simp] theorem State.setField_mgmt (s : State) (a hi lo v : Nat) : (s.setField a hi lo v).mgmt = s.mgmt := rfl
@[simp] theorem State.setField_power (s : State) (a hi lo v : Nat) : (s.setField a hi lo v).power = s.power := rfl
@[simp] theorem State.setField_stage (s : State) (a hi lo v : Nat) : (s.setField a hi lo v).stage = s.stage := rfl
@[simp] theorem State.setField_out (s : State) (a hi lo v : Nat) : (s.setField a hi lo v).out = s.out := rfl
@[simp] theorem State.setField_free (s : State) (a hi lo v : Nat) : (s.setField a hi lo v).free = s.free := rfl
@[simp] theorem State.setField_pending (s : State) (a hi lo v : Nat) : (s.setField a hi lo v).pending = s.pending := rfl

@[simp] theorem State.bumpField_now (s : State) (a hi lo n : Nat) : (s.bumpField a hi lo n).now = s.now := by unfold State.bumpField; dsimp only; split <;> rfl
@[simp] theorem State.bumpField_epoch (s : State) (a hi lo n : Nat) : (s.bumpField a hi lo n).epoch = s.epoch := by unfold State.bumpField; dsimp only; split <;> rfl
@[simp] theorem State.bumpField_due (s : State) (a hi lo n : Nat) : (s.bumpField a hi lo n).due = s.due := by unfold State.bumpField; dsimp only; split <;> rfl
@[simp] theorem State.bumpField_own (s : State) (a hi lo n : Nat) : (s.bumpField a hi lo n).own = s.own := by unfold State.bumpField; dsimp only; split <;> rfl
@[simp] theorem State.bumpField_mbox (s : State) (a hi lo n : Nat) : (s.bumpField a hi lo n).mbox = s.mbox := by unfold State.bumpField; dsimp only; split <;> rfl
@[simp] theorem State.bumpField_cmds (s : State) (a hi lo n : Nat) : (s.bumpField a hi lo n).cmds = s.cmds := by unfold State.bumpField; dsimp only; split <;> rfl
@[simp] theorem State.bumpField_nextCmd (s : State) (a hi lo n : Nat) : (s.bumpField a hi lo n).nextCmd = s.nextCmd := by unfold State.bumpField; dsimp only; split <;> rfl
@[simp] theorem State.bumpField_rrMbox (s : State) (a hi lo n : Nat) : (s.bumpField a hi lo n).rrMbox = s.rrMbox := by unfold State.bumpField; dsimp only; split <;> rfl
@[simp] theorem State.bumpField_rrStart (s : State) (a hi lo n : Nat) : (s.bumpField a hi lo n).rrStart = s.rrStart := by unfold State.bumpField; dsimp only; split <;> rfl
@[simp] theorem State.bumpField_mem (s : State) (a hi lo n : Nat) : (s.bumpField a hi lo n).mem = s.mem := by unfold State.bumpField; dsimp only; split <;> rfl
@[simp] theorem State.bumpField_tables (s : State) (a hi lo n : Nat) : (s.bumpField a hi lo n).tables = s.tables := by unfold State.bumpField; dsimp only; split <;> rfl
@[simp] theorem State.bumpField_seals (s : State) (a hi lo n : Nat) : (s.bumpField a hi lo n).seals = s.seals := by unfold State.bumpField; dsimp only; split <;> rfl
@[simp] theorem State.bumpField_direct (s : State) (a hi lo n : Nat) : (s.bumpField a hi lo n).direct = s.direct := by unfold State.bumpField; dsimp only; split <;> rfl
@[simp] theorem State.bumpField_dies (s : State) (a hi lo n : Nat) : (s.bumpField a hi lo n).dies = s.dies := by unfold State.bumpField; dsimp only; split <;> rfl
@[simp] theorem State.bumpField_links (s : State) (a hi lo n : Nat) : (s.bumpField a hi lo n).links = s.links := by unfold State.bumpField; dsimp only; split <;> rfl
@[simp] theorem State.bumpField_holds (s : State) (a hi lo n : Nat) : (s.bumpField a hi lo n).holds = s.holds := by unfold State.bumpField; dsimp only; split <;> rfl
@[simp] theorem State.bumpField_walkEnds (s : State) (a hi lo n : Nat) : (s.bumpField a hi lo n).walkEnds = s.walkEnds := by unfold State.bumpField; dsimp only; split <;> rfl
@[simp] theorem State.bumpField_act (s : State) (a hi lo n : Nat) : (s.bumpField a hi lo n).act = s.act := by unfold State.bumpField; dsimp only; split <;> rfl
@[simp] theorem State.bumpField_cache (s : State) (a hi lo n : Nat) : (s.bumpField a hi lo n).cache = s.cache := by unfold State.bumpField; dsimp only; split <;> rfl
@[simp] theorem State.bumpField_learnQ (s : State) (a hi lo n : Nat) : (s.bumpField a hi lo n).learnQ = s.learnQ := by unfold State.bumpField; dsimp only; split <;> rfl
@[simp] theorem State.bumpField_snaps (s : State) (a hi lo n : Nat) : (s.bumpField a hi lo n).snaps = s.snaps := by unfold State.bumpField; dsimp only; split <;> rfl
@[simp] theorem State.bumpField_csc (s : State) (a hi lo n : Nat) : (s.bumpField a hi lo n).csc = s.csc := by unfold State.bumpField; dsimp only; split <;> rfl
@[simp] theorem State.bumpField_spk (s : State) (a hi lo n : Nat) : (s.bumpField a hi lo n).spk = s.spk := by unfold State.bumpField; dsimp only; split <;> rfl
@[simp] theorem State.bumpField_waitSnap (s : State) (a hi lo n : Nat) : (s.bumpField a hi lo n).waitSnap = s.waitSnap := by unfold State.bumpField; dsimp only; split <;> rfl
@[simp] theorem State.bumpField_vault (s : State) (a hi lo n : Nat) : (s.bumpField a hi lo n).vault = s.vault := by unfold State.bumpField; dsimp only; split <;> rfl
@[simp] theorem State.bumpField_mgmt (s : State) (a hi lo n : Nat) : (s.bumpField a hi lo n).mgmt = s.mgmt := by unfold State.bumpField; dsimp only; split <;> rfl
@[simp] theorem State.bumpField_power (s : State) (a hi lo n : Nat) : (s.bumpField a hi lo n).power = s.power := by unfold State.bumpField; dsimp only; split <;> rfl
@[simp] theorem State.bumpField_stage (s : State) (a hi lo n : Nat) : (s.bumpField a hi lo n).stage = s.stage := by unfold State.bumpField; dsimp only; split <;> rfl
@[simp] theorem State.bumpField_out (s : State) (a hi lo n : Nat) : (s.bumpField a hi lo n).out = s.out := by unfold State.bumpField; dsimp only; split <;> rfl
@[simp] theorem State.bumpField_free (s : State) (a hi lo n : Nat) : (s.bumpField a hi lo n).free = s.free := by unfold State.bumpField; dsimp only; split <;> rfl
@[simp] theorem State.bumpField_pending (s : State) (a hi lo n : Nat) : (s.bumpField a hi lo n).pending = s.pending := by unfold State.bumpField; dsimp only; split <;> rfl

@[simp] theorem State.setBits_now (s : State) (a v : Nat) : (s.setBits a v).now = s.now := by unfold State.setBits; split <;> rfl
@[simp] theorem State.setBits_epoch (s : State) (a v : Nat) : (s.setBits a v).epoch = s.epoch := by unfold State.setBits; split <;> rfl
@[simp] theorem State.setBits_due (s : State) (a v : Nat) : (s.setBits a v).due = s.due := by unfold State.setBits; split <;> rfl
@[simp] theorem State.setBits_own (s : State) (a v : Nat) : (s.setBits a v).own = s.own := by unfold State.setBits; split <;> rfl
@[simp] theorem State.setBits_mbox (s : State) (a v : Nat) : (s.setBits a v).mbox = s.mbox := by unfold State.setBits; split <;> rfl
@[simp] theorem State.setBits_cmds (s : State) (a v : Nat) : (s.setBits a v).cmds = s.cmds := by unfold State.setBits; split <;> rfl
@[simp] theorem State.setBits_nextCmd (s : State) (a v : Nat) : (s.setBits a v).nextCmd = s.nextCmd := by unfold State.setBits; split <;> rfl
@[simp] theorem State.setBits_rrMbox (s : State) (a v : Nat) : (s.setBits a v).rrMbox = s.rrMbox := by unfold State.setBits; split <;> rfl
@[simp] theorem State.setBits_rrStart (s : State) (a v : Nat) : (s.setBits a v).rrStart = s.rrStart := by unfold State.setBits; split <;> rfl
@[simp] theorem State.setBits_mem (s : State) (a v : Nat) : (s.setBits a v).mem = s.mem := by unfold State.setBits; split <;> rfl
@[simp] theorem State.setBits_tables (s : State) (a v : Nat) : (s.setBits a v).tables = s.tables := by unfold State.setBits; split <;> rfl
@[simp] theorem State.setBits_seals (s : State) (a v : Nat) : (s.setBits a v).seals = s.seals := by unfold State.setBits; split <;> rfl
@[simp] theorem State.setBits_direct (s : State) (a v : Nat) : (s.setBits a v).direct = s.direct := by unfold State.setBits; split <;> rfl
@[simp] theorem State.setBits_dies (s : State) (a v : Nat) : (s.setBits a v).dies = s.dies := by unfold State.setBits; split <;> rfl
@[simp] theorem State.setBits_links (s : State) (a v : Nat) : (s.setBits a v).links = s.links := by unfold State.setBits; split <;> rfl
@[simp] theorem State.setBits_holds (s : State) (a v : Nat) : (s.setBits a v).holds = s.holds := by unfold State.setBits; split <;> rfl
@[simp] theorem State.setBits_walkEnds (s : State) (a v : Nat) : (s.setBits a v).walkEnds = s.walkEnds := by unfold State.setBits; split <;> rfl
@[simp] theorem State.setBits_act (s : State) (a v : Nat) : (s.setBits a v).act = s.act := by unfold State.setBits; split <;> rfl
@[simp] theorem State.setBits_cache (s : State) (a v : Nat) : (s.setBits a v).cache = s.cache := by unfold State.setBits; split <;> rfl
@[simp] theorem State.setBits_learnQ (s : State) (a v : Nat) : (s.setBits a v).learnQ = s.learnQ := by unfold State.setBits; split <;> rfl
@[simp] theorem State.setBits_snaps (s : State) (a v : Nat) : (s.setBits a v).snaps = s.snaps := by unfold State.setBits; split <;> rfl
@[simp] theorem State.setBits_csc (s : State) (a v : Nat) : (s.setBits a v).csc = s.csc := by unfold State.setBits; split <;> rfl
@[simp] theorem State.setBits_spk (s : State) (a v : Nat) : (s.setBits a v).spk = s.spk := by unfold State.setBits; split <;> rfl
@[simp] theorem State.setBits_waitSnap (s : State) (a v : Nat) : (s.setBits a v).waitSnap = s.waitSnap := by unfold State.setBits; split <;> rfl
@[simp] theorem State.setBits_vault (s : State) (a v : Nat) : (s.setBits a v).vault = s.vault := by unfold State.setBits; split <;> rfl
@[simp] theorem State.setBits_mgmt (s : State) (a v : Nat) : (s.setBits a v).mgmt = s.mgmt := by unfold State.setBits; split <;> rfl
@[simp] theorem State.setBits_power (s : State) (a v : Nat) : (s.setBits a v).power = s.power := by unfold State.setBits; split <;> rfl
@[simp] theorem State.setBits_stage (s : State) (a v : Nat) : (s.setBits a v).stage = s.stage := by unfold State.setBits; split <;> rfl
@[simp] theorem State.setBits_out (s : State) (a v : Nat) : (s.setBits a v).out = s.out := by unfold State.setBits; split <;> rfl
@[simp] theorem State.setBits_free (s : State) (a v : Nat) : (s.setBits a v).free = s.free := by unfold State.setBits; split <;> rfl
@[simp] theorem State.setBits_pending (s : State) (a v : Nat) : (s.setBits a v).pending = s.pending := by unfold State.setBits; split <;> rfl

@[simp] theorem State.clrBits_now (s : State) (a v : Nat) : (s.clrBits a v).now = s.now := rfl
@[simp] theorem State.clrBits_epoch (s : State) (a v : Nat) : (s.clrBits a v).epoch = s.epoch := rfl
@[simp] theorem State.clrBits_due (s : State) (a v : Nat) : (s.clrBits a v).due = s.due := rfl
@[simp] theorem State.clrBits_own (s : State) (a v : Nat) : (s.clrBits a v).own = s.own := rfl
@[simp] theorem State.clrBits_mbox (s : State) (a v : Nat) : (s.clrBits a v).mbox = s.mbox := rfl
@[simp] theorem State.clrBits_cmds (s : State) (a v : Nat) : (s.clrBits a v).cmds = s.cmds := rfl
@[simp] theorem State.clrBits_nextCmd (s : State) (a v : Nat) : (s.clrBits a v).nextCmd = s.nextCmd := rfl
@[simp] theorem State.clrBits_rrMbox (s : State) (a v : Nat) : (s.clrBits a v).rrMbox = s.rrMbox := rfl
@[simp] theorem State.clrBits_rrStart (s : State) (a v : Nat) : (s.clrBits a v).rrStart = s.rrStart := rfl
@[simp] theorem State.clrBits_mem (s : State) (a v : Nat) : (s.clrBits a v).mem = s.mem := rfl
@[simp] theorem State.clrBits_tables (s : State) (a v : Nat) : (s.clrBits a v).tables = s.tables := rfl
@[simp] theorem State.clrBits_seals (s : State) (a v : Nat) : (s.clrBits a v).seals = s.seals := rfl
@[simp] theorem State.clrBits_direct (s : State) (a v : Nat) : (s.clrBits a v).direct = s.direct := rfl
@[simp] theorem State.clrBits_dies (s : State) (a v : Nat) : (s.clrBits a v).dies = s.dies := rfl
@[simp] theorem State.clrBits_links (s : State) (a v : Nat) : (s.clrBits a v).links = s.links := rfl
@[simp] theorem State.clrBits_holds (s : State) (a v : Nat) : (s.clrBits a v).holds = s.holds := rfl
@[simp] theorem State.clrBits_walkEnds (s : State) (a v : Nat) : (s.clrBits a v).walkEnds = s.walkEnds := rfl
@[simp] theorem State.clrBits_act (s : State) (a v : Nat) : (s.clrBits a v).act = s.act := rfl
@[simp] theorem State.clrBits_cache (s : State) (a v : Nat) : (s.clrBits a v).cache = s.cache := rfl
@[simp] theorem State.clrBits_learnQ (s : State) (a v : Nat) : (s.clrBits a v).learnQ = s.learnQ := rfl
@[simp] theorem State.clrBits_snaps (s : State) (a v : Nat) : (s.clrBits a v).snaps = s.snaps := rfl
@[simp] theorem State.clrBits_csc (s : State) (a v : Nat) : (s.clrBits a v).csc = s.csc := rfl
@[simp] theorem State.clrBits_spk (s : State) (a v : Nat) : (s.clrBits a v).spk = s.spk := rfl
@[simp] theorem State.clrBits_waitSnap (s : State) (a v : Nat) : (s.clrBits a v).waitSnap = s.waitSnap := rfl
@[simp] theorem State.clrBits_vault (s : State) (a v : Nat) : (s.clrBits a v).vault = s.vault := rfl
@[simp] theorem State.clrBits_mgmt (s : State) (a v : Nat) : (s.clrBits a v).mgmt = s.mgmt := rfl
@[simp] theorem State.clrBits_power (s : State) (a v : Nat) : (s.clrBits a v).power = s.power := rfl
@[simp] theorem State.clrBits_stage (s : State) (a v : Nat) : (s.clrBits a v).stage = s.stage := rfl
@[simp] theorem State.clrBits_out (s : State) (a v : Nat) : (s.clrBits a v).out = s.out := rfl
@[simp] theorem State.clrBits_free (s : State) (a v : Nat) : (s.clrBits a v).free = s.free := rfl
@[simp] theorem State.clrBits_pending (s : State) (a v : Nat) : (s.clrBits a v).pending = s.pending := rfl

@[simp] theorem State.modTable_now (s : State) (t : Nat) (f : Table → Table) : (s.modTable t f).now = s.now := by unfold State.modTable; split <;> rfl
@[simp] theorem State.modTable_epoch (s : State) (t : Nat) (f : Table → Table) : (s.modTable t f).epoch = s.epoch := by unfold State.modTable; split <;> rfl
@[simp] theorem State.modTable_due (s : State) (t : Nat) (f : Table → Table) : (s.modTable t f).due = s.due := by unfold State.modTable; split <;> rfl
@[simp] theorem State.modTable_own (s : State) (t : Nat) (f : Table → Table) : (s.modTable t f).own = s.own := by unfold State.modTable; split <;> rfl
@[simp] theorem State.modTable_mbox (s : State) (t : Nat) (f : Table → Table) : (s.modTable t f).mbox = s.mbox := by unfold State.modTable; split <;> rfl
@[simp] theorem State.modTable_cmds (s : State) (t : Nat) (f : Table → Table) : (s.modTable t f).cmds = s.cmds := by unfold State.modTable; split <;> rfl
@[simp] theorem State.modTable_nextCmd (s : State) (t : Nat) (f : Table → Table) : (s.modTable t f).nextCmd = s.nextCmd := by unfold State.modTable; split <;> rfl
@[simp] theorem State.modTable_rrMbox (s : State) (t : Nat) (f : Table → Table) : (s.modTable t f).rrMbox = s.rrMbox := by unfold State.modTable; split <;> rfl
@[simp] theorem State.modTable_rrStart (s : State) (t : Nat) (f : Table → Table) : (s.modTable t f).rrStart = s.rrStart := by unfold State.modTable; split <;> rfl
@[simp] theorem State.modTable_regs (s : State) (t : Nat) (f : Table → Table) : (s.modTable t f).regs = s.regs := by unfold State.modTable; split <;> rfl
@[simp] theorem State.modTable_mem (s : State) (t : Nat) (f : Table → Table) : (s.modTable t f).mem = s.mem := by unfold State.modTable; split <;> rfl
@[simp] theorem State.modTable_seals (s : State) (t : Nat) (f : Table → Table) : (s.modTable t f).seals = s.seals := by unfold State.modTable; split <;> rfl
@[simp] theorem State.modTable_direct (s : State) (t : Nat) (f : Table → Table) : (s.modTable t f).direct = s.direct := by unfold State.modTable; split <;> rfl
@[simp] theorem State.modTable_dies (s : State) (t : Nat) (f : Table → Table) : (s.modTable t f).dies = s.dies := by unfold State.modTable; split <;> rfl
@[simp] theorem State.modTable_links (s : State) (t : Nat) (f : Table → Table) : (s.modTable t f).links = s.links := by unfold State.modTable; split <;> rfl
@[simp] theorem State.modTable_holds (s : State) (t : Nat) (f : Table → Table) : (s.modTable t f).holds = s.holds := by unfold State.modTable; split <;> rfl
@[simp] theorem State.modTable_walkEnds (s : State) (t : Nat) (f : Table → Table) : (s.modTable t f).walkEnds = s.walkEnds := by unfold State.modTable; split <;> rfl
@[simp] theorem State.modTable_act (s : State) (t : Nat) (f : Table → Table) : (s.modTable t f).act = s.act := by unfold State.modTable; split <;> rfl
@[simp] theorem State.modTable_cache (s : State) (t : Nat) (f : Table → Table) : (s.modTable t f).cache = s.cache := by unfold State.modTable; split <;> rfl
@[simp] theorem State.modTable_learnQ (s : State) (t : Nat) (f : Table → Table) : (s.modTable t f).learnQ = s.learnQ := by unfold State.modTable; split <;> rfl
@[simp] theorem State.modTable_snaps (s : State) (t : Nat) (f : Table → Table) : (s.modTable t f).snaps = s.snaps := by unfold State.modTable; split <;> rfl
@[simp] theorem State.modTable_csc (s : State) (t : Nat) (f : Table → Table) : (s.modTable t f).csc = s.csc := by unfold State.modTable; split <;> rfl
@[simp] theorem State.modTable_spk (s : State) (t : Nat) (f : Table → Table) : (s.modTable t f).spk = s.spk := by unfold State.modTable; split <;> rfl
@[simp] theorem State.modTable_waitSnap (s : State) (t : Nat) (f : Table → Table) : (s.modTable t f).waitSnap = s.waitSnap := by unfold State.modTable; split <;> rfl
@[simp] theorem State.modTable_vault (s : State) (t : Nat) (f : Table → Table) : (s.modTable t f).vault = s.vault := by unfold State.modTable; split <;> rfl
@[simp] theorem State.modTable_mgmt (s : State) (t : Nat) (f : Table → Table) : (s.modTable t f).mgmt = s.mgmt := by unfold State.modTable; split <;> rfl
@[simp] theorem State.modTable_power (s : State) (t : Nat) (f : Table → Table) : (s.modTable t f).power = s.power := by unfold State.modTable; split <;> rfl
@[simp] theorem State.modTable_stage (s : State) (t : Nat) (f : Table → Table) : (s.modTable t f).stage = s.stage := by unfold State.modTable; split <;> rfl
@[simp] theorem State.modTable_out (s : State) (t : Nat) (f : Table → Table) : (s.modTable t f).out = s.out := by unfold State.modTable; split <;> rfl
@[simp] theorem State.modTable_free (s : State) (t : Nat) (f : Table → Table) : (s.modTable t f).free = s.free := by unfold State.modTable; split <;> rfl
@[simp] theorem State.modTable_pending (s : State) (t : Nat) (f : Table → Table) : (s.modTable t f).pending = s.pending := by unfold State.modTable; split <;> rfl

@[simp] theorem softWrite_now (s : State) (a : Nat) : (softWrite s a).now = s.now := rfl
@[simp] theorem softWrite_epoch (s : State) (a : Nat) : (softWrite s a).epoch = s.epoch := rfl
@[simp] theorem softWrite_due (s : State) (a : Nat) : (softWrite s a).due = s.due := rfl
@[simp] theorem softWrite_own (s : State) (a : Nat) : (softWrite s a).own = s.own := rfl
@[simp] theorem softWrite_mbox (s : State) (a : Nat) : (softWrite s a).mbox = s.mbox := rfl
@[simp] theorem softWrite_cmds (s : State) (a : Nat) : (softWrite s a).cmds = s.cmds := rfl
@[simp] theorem softWrite_nextCmd (s : State) (a : Nat) : (softWrite s a).nextCmd = s.nextCmd := rfl
@[simp] theorem softWrite_rrMbox (s : State) (a : Nat) : (softWrite s a).rrMbox = s.rrMbox := rfl
@[simp] theorem softWrite_rrStart (s : State) (a : Nat) : (softWrite s a).rrStart = s.rrStart := rfl
@[simp] theorem softWrite_mem (s : State) (a : Nat) : (softWrite s a).mem = s.mem := rfl
@[simp] theorem softWrite_tables (s : State) (a : Nat) : (softWrite s a).tables = s.tables := rfl
@[simp] theorem softWrite_seals (s : State) (a : Nat) : (softWrite s a).seals = s.seals := rfl
@[simp] theorem softWrite_direct (s : State) (a : Nat) : (softWrite s a).direct = s.direct := rfl
@[simp] theorem softWrite_dies (s : State) (a : Nat) : (softWrite s a).dies = s.dies := rfl
@[simp] theorem softWrite_links (s : State) (a : Nat) : (softWrite s a).links = s.links := rfl
@[simp] theorem softWrite_holds (s : State) (a : Nat) : (softWrite s a).holds = s.holds := rfl
@[simp] theorem softWrite_walkEnds (s : State) (a : Nat) : (softWrite s a).walkEnds = s.walkEnds := rfl
@[simp] theorem softWrite_act (s : State) (a : Nat) : (softWrite s a).act = s.act := rfl
@[simp] theorem softWrite_cache (s : State) (a : Nat) : (softWrite s a).cache = s.cache := rfl
@[simp] theorem softWrite_learnQ (s : State) (a : Nat) : (softWrite s a).learnQ = s.learnQ := rfl
@[simp] theorem softWrite_snaps (s : State) (a : Nat) : (softWrite s a).snaps = s.snaps := rfl
@[simp] theorem softWrite_csc (s : State) (a : Nat) : (softWrite s a).csc = s.csc := rfl
@[simp] theorem softWrite_spk (s : State) (a : Nat) : (softWrite s a).spk = s.spk := rfl
@[simp] theorem softWrite_waitSnap (s : State) (a : Nat) : (softWrite s a).waitSnap = s.waitSnap := rfl
@[simp] theorem softWrite_vault (s : State) (a : Nat) : (softWrite s a).vault = s.vault := rfl
@[simp] theorem softWrite_mgmt (s : State) (a : Nat) : (softWrite s a).mgmt = s.mgmt := rfl
@[simp] theorem softWrite_power (s : State) (a : Nat) : (softWrite s a).power = s.power := rfl
@[simp] theorem softWrite_stage (s : State) (a : Nat) : (softWrite s a).stage = s.stage := rfl
@[simp] theorem softWrite_out (s : State) (a : Nat) : (softWrite s a).out = s.out := rfl
@[simp] theorem softWrite_free (s : State) (a : Nat) : (softWrite s a).free = s.free := rfl
@[simp] theorem softWrite_pending (s : State) (a : Nat) : (softWrite s a).pending = s.pending := rfl

end Sys2Proof.Machine
end

