-- ==== Sys2Proof/Laws/Frames.lean ====
section
/-! SUPPORT. What the shared operations leave unchanged, field by field: events, MSI-X messages, the end and the
wait of a command, and the staging of a journal record. -/

namespace Sys2Proof.Machine

@[simp] theorem askSlots_now (s : State) (d g u req n : Nat) (w : Who) : (askSlots s d g u req n w).now = s.now := rfl
@[simp] theorem askSlots_epoch (s : State) (d g u req n : Nat) (w : Who) : (askSlots s d g u req n w).epoch = s.epoch := rfl
@[simp] theorem askSlots_due (s : State) (d g u req n : Nat) (w : Who) : (askSlots s d g u req n w).due = s.due := rfl
@[simp] theorem askSlots_own (s : State) (d g u req n : Nat) (w : Who) : (askSlots s d g u req n w).own = s.own := rfl
@[simp] theorem askSlots_mbox (s : State) (d g u req n : Nat) (w : Who) : (askSlots s d g u req n w).mbox = s.mbox := rfl
@[simp] theorem askSlots_cmds (s : State) (d g u req n : Nat) (w : Who) : (askSlots s d g u req n w).cmds = s.cmds := rfl
@[simp] theorem askSlots_nextCmd (s : State) (d g u req n : Nat) (w : Who) : (askSlots s d g u req n w).nextCmd = s.nextCmd := rfl
@[simp] theorem askSlots_rrMbox (s : State) (d g u req n : Nat) (w : Who) : (askSlots s d g u req n w).rrMbox = s.rrMbox := rfl
@[simp] theorem askSlots_rrStart (s : State) (d g u req n : Nat) (w : Who) : (askSlots s d g u req n w).rrStart = s.rrStart := rfl
@[simp] theorem askSlots_regs (s : State) (d g u req n : Nat) (w : Who) : (askSlots s d g u req n w).regs = s.regs := rfl
@[simp] theorem askSlots_mem (s : State) (d g u req n : Nat) (w : Who) : (askSlots s d g u req n w).mem = s.mem := rfl
@[simp] theorem askSlots_tables (s : State) (d g u req n : Nat) (w : Who) : (askSlots s d g u req n w).tables = s.tables := rfl
@[simp] theorem askSlots_seals (s : State) (d g u req n : Nat) (w : Who) : (askSlots s d g u req n w).seals = s.seals := rfl
@[simp] theorem askSlots_direct (s : State) (d g u req n : Nat) (w : Who) : (askSlots s d g u req n w).direct = s.direct := rfl
@[simp] theorem askSlots_links (s : State) (d g u req n : Nat) (w : Who) : (askSlots s d g u req n w).links = s.links := rfl
@[simp] theorem askSlots_holds (s : State) (d g u req n : Nat) (w : Who) : (askSlots s d g u req n w).holds = s.holds := rfl
@[simp] theorem askSlots_walkEnds (s : State) (d g u req n : Nat) (w : Who) : (askSlots s d g u req n w).walkEnds = s.walkEnds := rfl
@[simp] theorem askSlots_act (s : State) (d g u req n : Nat) (w : Who) : (askSlots s d g u req n w).act = s.act := rfl
@[simp] theorem askSlots_cache (s : State) (d g u req n : Nat) (w : Who) : (askSlots s d g u req n w).cache = s.cache := rfl
@[simp] theorem askSlots_learnQ (s : State) (d g u req n : Nat) (w : Who) : (askSlots s d g u req n w).learnQ = s.learnQ := rfl
@[simp] theorem askSlots_snaps (s : State) (d g u req n : Nat) (w : Who) : (askSlots s d g u req n w).snaps = s.snaps := rfl
@[simp] theorem askSlots_csc (s : State) (d g u req n : Nat) (w : Who) : (askSlots s d g u req n w).csc = s.csc := rfl
@[simp] theorem askSlots_spk (s : State) (d g u req n : Nat) (w : Who) : (askSlots s d g u req n w).spk = s.spk := rfl
@[simp] theorem askSlots_waitSnap (s : State) (d g u req n : Nat) (w : Who) : (askSlots s d g u req n w).waitSnap = s.waitSnap := rfl
@[simp] theorem askSlots_vault (s : State) (d g u req n : Nat) (w : Who) : (askSlots s d g u req n w).vault = s.vault := rfl
@[simp] theorem askSlots_mgmt (s : State) (d g u req n : Nat) (w : Who) : (askSlots s d g u req n w).mgmt = s.mgmt := rfl
@[simp] theorem askSlots_power (s : State) (d g u req n : Nat) (w : Who) : (askSlots s d g u req n w).power = s.power := rfl
@[simp] theorem askSlots_stage (s : State) (d g u req n : Nat) (w : Who) : (askSlots s d g u req n w).stage = s.stage := rfl
@[simp] theorem askSlots_out (s : State) (d g u req n : Nat) (w : Who) : (askSlots s d g u req n w).out = s.out := rfl
@[simp] theorem askSlots_free (s : State) (d g u req n : Nat) (w : Who) : (askSlots s d g u req n w).free = s.free := rfl
@[simp] theorem askSlots_pending (s : State) (d g u req n : Nat) (w : Who) : (askSlots s d g u req n w).pending = s.pending := rfl

@[simp] theorem askStack_now (s : State) (k req n order : Nat) (w : Who) : (askStack s k req n order w).now = s.now := rfl
@[simp] theorem askStack_epoch (s : State) (k req n order : Nat) (w : Who) : (askStack s k req n order w).epoch = s.epoch := rfl
@[simp] theorem askStack_due (s : State) (k req n order : Nat) (w : Who) : (askStack s k req n order w).due = s.due := rfl
@[simp] theorem askStack_own (s : State) (k req n order : Nat) (w : Who) : (askStack s k req n order w).own = s.own := rfl
@[simp] theorem askStack_mbox (s : State) (k req n order : Nat) (w : Who) : (askStack s k req n order w).mbox = s.mbox := rfl
@[simp] theorem askStack_cmds (s : State) (k req n order : Nat) (w : Who) : (askStack s k req n order w).cmds = s.cmds := rfl
@[simp] theorem askStack_nextCmd (s : State) (k req n order : Nat) (w : Who) : (askStack s k req n order w).nextCmd = s.nextCmd := rfl
@[simp] theorem askStack_rrMbox (s : State) (k req n order : Nat) (w : Who) : (askStack s k req n order w).rrMbox = s.rrMbox := rfl
@[simp] theorem askStack_rrStart (s : State) (k req n order : Nat) (w : Who) : (askStack s k req n order w).rrStart = s.rrStart := rfl
@[simp] theorem askStack_regs (s : State) (k req n order : Nat) (w : Who) : (askStack s k req n order w).regs = s.regs := rfl
@[simp] theorem askStack_mem (s : State) (k req n order : Nat) (w : Who) : (askStack s k req n order w).mem = s.mem := rfl
@[simp] theorem askStack_tables (s : State) (k req n order : Nat) (w : Who) : (askStack s k req n order w).tables = s.tables := rfl
@[simp] theorem askStack_seals (s : State) (k req n order : Nat) (w : Who) : (askStack s k req n order w).seals = s.seals := rfl
@[simp] theorem askStack_direct (s : State) (k req n order : Nat) (w : Who) : (askStack s k req n order w).direct = s.direct := rfl
@[simp] theorem askStack_links (s : State) (k req n order : Nat) (w : Who) : (askStack s k req n order w).links = s.links := rfl
@[simp] theorem askStack_holds (s : State) (k req n order : Nat) (w : Who) : (askStack s k req n order w).holds = s.holds := rfl
@[simp] theorem askStack_walkEnds (s : State) (k req n order : Nat) (w : Who) : (askStack s k req n order w).walkEnds = s.walkEnds := rfl
@[simp] theorem askStack_act (s : State) (k req n order : Nat) (w : Who) : (askStack s k req n order w).act = s.act := rfl
@[simp] theorem askStack_cache (s : State) (k req n order : Nat) (w : Who) : (askStack s k req n order w).cache = s.cache := rfl
@[simp] theorem askStack_learnQ (s : State) (k req n order : Nat) (w : Who) : (askStack s k req n order w).learnQ = s.learnQ := rfl
@[simp] theorem askStack_snaps (s : State) (k req n order : Nat) (w : Who) : (askStack s k req n order w).snaps = s.snaps := rfl
@[simp] theorem askStack_csc (s : State) (k req n order : Nat) (w : Who) : (askStack s k req n order w).csc = s.csc := rfl
@[simp] theorem askStack_spk (s : State) (k req n order : Nat) (w : Who) : (askStack s k req n order w).spk = s.spk := rfl
@[simp] theorem askStack_waitSnap (s : State) (k req n order : Nat) (w : Who) : (askStack s k req n order w).waitSnap = s.waitSnap := rfl
@[simp] theorem askStack_vault (s : State) (k req n order : Nat) (w : Who) : (askStack s k req n order w).vault = s.vault := rfl
@[simp] theorem askStack_mgmt (s : State) (k req n order : Nat) (w : Who) : (askStack s k req n order w).mgmt = s.mgmt := rfl
@[simp] theorem askStack_power (s : State) (k req n order : Nat) (w : Who) : (askStack s k req n order w).power = s.power := rfl
@[simp] theorem askStack_stage (s : State) (k req n order : Nat) (w : Who) : (askStack s k req n order w).stage = s.stage := rfl
@[simp] theorem askStack_out (s : State) (k req n order : Nat) (w : Who) : (askStack s k req n order w).out = s.out := rfl
@[simp] theorem askStack_free (s : State) (k req n order : Nat) (w : Who) : (askStack s k req n order w).free = s.free := rfl
@[simp] theorem askStack_pending (s : State) (k req n order : Nat) (w : Who) : (askStack s k req n order w).pending = s.pending := rfl

@[simp] theorem askDram_now (s : State) (req a n order : Nat) (w : Who) : (askDram s req a n order w).now = s.now := rfl
@[simp] theorem askDram_epoch (s : State) (req a n order : Nat) (w : Who) : (askDram s req a n order w).epoch = s.epoch := rfl
@[simp] theorem askDram_due (s : State) (req a n order : Nat) (w : Who) : (askDram s req a n order w).due = s.due := rfl
@[simp] theorem askDram_own (s : State) (req a n order : Nat) (w : Who) : (askDram s req a n order w).own = s.own := rfl
@[simp] theorem askDram_mbox (s : State) (req a n order : Nat) (w : Who) : (askDram s req a n order w).mbox = s.mbox := rfl
@[simp] theorem askDram_cmds (s : State) (req a n order : Nat) (w : Who) : (askDram s req a n order w).cmds = s.cmds := rfl
@[simp] theorem askDram_nextCmd (s : State) (req a n order : Nat) (w : Who) : (askDram s req a n order w).nextCmd = s.nextCmd := rfl
@[simp] theorem askDram_rrMbox (s : State) (req a n order : Nat) (w : Who) : (askDram s req a n order w).rrMbox = s.rrMbox := rfl
@[simp] theorem askDram_rrStart (s : State) (req a n order : Nat) (w : Who) : (askDram s req a n order w).rrStart = s.rrStart := rfl
@[simp] theorem askDram_regs (s : State) (req a n order : Nat) (w : Who) : (askDram s req a n order w).regs = s.regs := rfl
@[simp] theorem askDram_mem (s : State) (req a n order : Nat) (w : Who) : (askDram s req a n order w).mem = s.mem := rfl
@[simp] theorem askDram_tables (s : State) (req a n order : Nat) (w : Who) : (askDram s req a n order w).tables = s.tables := rfl
@[simp] theorem askDram_seals (s : State) (req a n order : Nat) (w : Who) : (askDram s req a n order w).seals = s.seals := rfl
@[simp] theorem askDram_direct (s : State) (req a n order : Nat) (w : Who) : (askDram s req a n order w).direct = s.direct := rfl
@[simp] theorem askDram_links (s : State) (req a n order : Nat) (w : Who) : (askDram s req a n order w).links = s.links := rfl
@[simp] theorem askDram_holds (s : State) (req a n order : Nat) (w : Who) : (askDram s req a n order w).holds = s.holds := rfl
@[simp] theorem askDram_walkEnds (s : State) (req a n order : Nat) (w : Who) : (askDram s req a n order w).walkEnds = s.walkEnds := rfl
@[simp] theorem askDram_act (s : State) (req a n order : Nat) (w : Who) : (askDram s req a n order w).act = s.act := rfl
@[simp] theorem askDram_cache (s : State) (req a n order : Nat) (w : Who) : (askDram s req a n order w).cache = s.cache := rfl
@[simp] theorem askDram_learnQ (s : State) (req a n order : Nat) (w : Who) : (askDram s req a n order w).learnQ = s.learnQ := rfl
@[simp] theorem askDram_snaps (s : State) (req a n order : Nat) (w : Who) : (askDram s req a n order w).snaps = s.snaps := rfl
@[simp] theorem askDram_csc (s : State) (req a n order : Nat) (w : Who) : (askDram s req a n order w).csc = s.csc := rfl
@[simp] theorem askDram_spk (s : State) (req a n order : Nat) (w : Who) : (askDram s req a n order w).spk = s.spk := rfl
@[simp] theorem askDram_waitSnap (s : State) (req a n order : Nat) (w : Who) : (askDram s req a n order w).waitSnap = s.waitSnap := rfl
@[simp] theorem askDram_vault (s : State) (req a n order : Nat) (w : Who) : (askDram s req a n order w).vault = s.vault := rfl
@[simp] theorem askDram_mgmt (s : State) (req a n order : Nat) (w : Who) : (askDram s req a n order w).mgmt = s.mgmt := rfl
@[simp] theorem askDram_power (s : State) (req a n order : Nat) (w : Who) : (askDram s req a n order w).power = s.power := rfl
@[simp] theorem askDram_stage (s : State) (req a n order : Nat) (w : Who) : (askDram s req a n order w).stage = s.stage := rfl
@[simp] theorem askDram_out (s : State) (req a n order : Nat) (w : Who) : (askDram s req a n order w).out = s.out := rfl
@[simp] theorem askDram_free (s : State) (req a n order : Nat) (w : Who) : (askDram s req a n order w).free = s.free := rfl
@[simp] theorem askDram_pending (s : State) (req a n order : Nat) (w : Who) : (askDram s req a n order w).pending = s.pending := rfl

@[simp] theorem sendMsix_now (s : State) (p v : Nat) : (sendMsix s p v).now = s.now := by unfold sendMsix; (repeat' split) <;> simp
@[simp] theorem sendMsix_epoch (s : State) (p v : Nat) : (sendMsix s p v).epoch = s.epoch := by unfold sendMsix; (repeat' split) <;> simp
@[simp] theorem sendMsix_due (s : State) (p v : Nat) : (sendMsix s p v).due = s.due := by unfold sendMsix; (repeat' split) <;> simp
@[simp] theorem sendMsix_own (s : State) (p v : Nat) : (sendMsix s p v).own = s.own := by unfold sendMsix; (repeat' split) <;> simp
@[simp] theorem sendMsix_mbox (s : State) (p v : Nat) : (sendMsix s p v).mbox = s.mbox := by unfold sendMsix; (repeat' split) <;> simp
@[simp] theorem sendMsix_cmds (s : State) (p v : Nat) : (sendMsix s p v).cmds = s.cmds := by unfold sendMsix; (repeat' split) <;> simp
@[simp] theorem sendMsix_nextCmd (s : State) (p v : Nat) : (sendMsix s p v).nextCmd = s.nextCmd := by unfold sendMsix; (repeat' split) <;> simp
@[simp] theorem sendMsix_rrMbox (s : State) (p v : Nat) : (sendMsix s p v).rrMbox = s.rrMbox := by unfold sendMsix; (repeat' split) <;> simp
@[simp] theorem sendMsix_rrStart (s : State) (p v : Nat) : (sendMsix s p v).rrStart = s.rrStart := by unfold sendMsix; (repeat' split) <;> simp
@[simp] theorem sendMsix_mem (s : State) (p v : Nat) : (sendMsix s p v).mem = s.mem := by unfold sendMsix; (repeat' split) <;> simp
@[simp] theorem sendMsix_tables (s : State) (p v : Nat) : (sendMsix s p v).tables = s.tables := by unfold sendMsix; (repeat' split) <;> simp
@[simp] theorem sendMsix_seals (s : State) (p v : Nat) : (sendMsix s p v).seals = s.seals := by unfold sendMsix; (repeat' split) <;> simp
@[simp] theorem sendMsix_direct (s : State) (p v : Nat) : (sendMsix s p v).direct = s.direct := by unfold sendMsix; (repeat' split) <;> simp
@[simp] theorem sendMsix_dies (s : State) (p v : Nat) : (sendMsix s p v).dies = s.dies := by unfold sendMsix; (repeat' split) <;> simp
@[simp] theorem sendMsix_links (s : State) (p v : Nat) : (sendMsix s p v).links = s.links := by unfold sendMsix; (repeat' split) <;> simp
@[simp] theorem sendMsix_holds (s : State) (p v : Nat) : (sendMsix s p v).holds = s.holds := by unfold sendMsix; (repeat' split) <;> simp
@[simp] theorem sendMsix_walkEnds (s : State) (p v : Nat) : (sendMsix s p v).walkEnds = s.walkEnds := by unfold sendMsix; (repeat' split) <;> simp
@[simp] theorem sendMsix_act (s : State) (p v : Nat) : (sendMsix s p v).act = s.act := by unfold sendMsix; (repeat' split) <;> simp
@[simp] theorem sendMsix_cache (s : State) (p v : Nat) : (sendMsix s p v).cache = s.cache := by unfold sendMsix; (repeat' split) <;> simp
@[simp] theorem sendMsix_learnQ (s : State) (p v : Nat) : (sendMsix s p v).learnQ = s.learnQ := by unfold sendMsix; (repeat' split) <;> simp
@[simp] theorem sendMsix_snaps (s : State) (p v : Nat) : (sendMsix s p v).snaps = s.snaps := by unfold sendMsix; (repeat' split) <;> simp
@[simp] theorem sendMsix_csc (s : State) (p v : Nat) : (sendMsix s p v).csc = s.csc := by unfold sendMsix; (repeat' split) <;> simp
@[simp] theorem sendMsix_spk (s : State) (p v : Nat) : (sendMsix s p v).spk = s.spk := by unfold sendMsix; (repeat' split) <;> simp
@[simp] theorem sendMsix_waitSnap (s : State) (p v : Nat) : (sendMsix s p v).waitSnap = s.waitSnap := by unfold sendMsix; (repeat' split) <;> simp
@[simp] theorem sendMsix_vault (s : State) (p v : Nat) : (sendMsix s p v).vault = s.vault := by unfold sendMsix; (repeat' split) <;> simp
@[simp] theorem sendMsix_mgmt (s : State) (p v : Nat) : (sendMsix s p v).mgmt = s.mgmt := by unfold sendMsix; (repeat' split) <;> simp
@[simp] theorem sendMsix_power (s : State) (p v : Nat) : (sendMsix s p v).power = s.power := by unfold sendMsix; (repeat' split) <;> simp
@[simp] theorem sendMsix_stage (s : State) (p v : Nat) : (sendMsix s p v).stage = s.stage := by unfold sendMsix; (repeat' split) <;> simp
@[simp] theorem sendMsix_free (s : State) (p v : Nat) : (sendMsix s p v).free = s.free := by unfold sendMsix; (repeat' split) <;> simp
@[simp] theorem sendMsix_pending (s : State) (p v : Nat) : (sendMsix s p v).pending = s.pending := by unfold sendMsix; (repeat' split) <;> simp

@[simp] theorem raiseVec_now (s : State) (p v : Nat) : (raiseVec s p v).now = s.now := by unfold raiseVec; dsimp only; split <;> simp
@[simp] theorem raiseVec_epoch (s : State) (p v : Nat) : (raiseVec s p v).epoch = s.epoch := by unfold raiseVec; dsimp only; split <;> simp
@[simp] theorem raiseVec_due (s : State) (p v : Nat) : (raiseVec s p v).due = s.due := by unfold raiseVec; dsimp only; split <;> simp
@[simp] theorem raiseVec_own (s : State) (p v : Nat) : (raiseVec s p v).own = s.own := by unfold raiseVec; dsimp only; split <;> simp
@[simp] theorem raiseVec_mbox (s : State) (p v : Nat) : (raiseVec s p v).mbox = s.mbox := by unfold raiseVec; dsimp only; split <;> simp
@[simp] theorem raiseVec_cmds (s : State) (p v : Nat) : (raiseVec s p v).cmds = s.cmds := by unfold raiseVec; dsimp only; split <;> simp
@[simp] theorem raiseVec_nextCmd (s : State) (p v : Nat) : (raiseVec s p v).nextCmd = s.nextCmd := by unfold raiseVec; dsimp only; split <;> simp
@[simp] theorem raiseVec_rrMbox (s : State) (p v : Nat) : (raiseVec s p v).rrMbox = s.rrMbox := by unfold raiseVec; dsimp only; split <;> simp
@[simp] theorem raiseVec_rrStart (s : State) (p v : Nat) : (raiseVec s p v).rrStart = s.rrStart := by unfold raiseVec; dsimp only; split <;> simp
@[simp] theorem raiseVec_mem (s : State) (p v : Nat) : (raiseVec s p v).mem = s.mem := by unfold raiseVec; dsimp only; split <;> simp
@[simp] theorem raiseVec_tables (s : State) (p v : Nat) : (raiseVec s p v).tables = s.tables := by unfold raiseVec; dsimp only; split <;> simp
@[simp] theorem raiseVec_seals (s : State) (p v : Nat) : (raiseVec s p v).seals = s.seals := by unfold raiseVec; dsimp only; split <;> simp
@[simp] theorem raiseVec_direct (s : State) (p v : Nat) : (raiseVec s p v).direct = s.direct := by unfold raiseVec; dsimp only; split <;> simp
@[simp] theorem raiseVec_dies (s : State) (p v : Nat) : (raiseVec s p v).dies = s.dies := by unfold raiseVec; dsimp only; split <;> simp
@[simp] theorem raiseVec_links (s : State) (p v : Nat) : (raiseVec s p v).links = s.links := by unfold raiseVec; dsimp only; split <;> simp
@[simp] theorem raiseVec_holds (s : State) (p v : Nat) : (raiseVec s p v).holds = s.holds := by unfold raiseVec; dsimp only; split <;> simp
@[simp] theorem raiseVec_walkEnds (s : State) (p v : Nat) : (raiseVec s p v).walkEnds = s.walkEnds := by unfold raiseVec; dsimp only; split <;> simp
@[simp] theorem raiseVec_act (s : State) (p v : Nat) : (raiseVec s p v).act = s.act := by unfold raiseVec; dsimp only; split <;> simp
@[simp] theorem raiseVec_cache (s : State) (p v : Nat) : (raiseVec s p v).cache = s.cache := by unfold raiseVec; dsimp only; split <;> simp
@[simp] theorem raiseVec_learnQ (s : State) (p v : Nat) : (raiseVec s p v).learnQ = s.learnQ := by unfold raiseVec; dsimp only; split <;> simp
@[simp] theorem raiseVec_snaps (s : State) (p v : Nat) : (raiseVec s p v).snaps = s.snaps := by unfold raiseVec; dsimp only; split <;> simp
@[simp] theorem raiseVec_csc (s : State) (p v : Nat) : (raiseVec s p v).csc = s.csc := by unfold raiseVec; dsimp only; split <;> simp
@[simp] theorem raiseVec_spk (s : State) (p v : Nat) : (raiseVec s p v).spk = s.spk := by unfold raiseVec; dsimp only; split <;> simp
@[simp] theorem raiseVec_waitSnap (s : State) (p v : Nat) : (raiseVec s p v).waitSnap = s.waitSnap := by unfold raiseVec; dsimp only; split <;> simp
@[simp] theorem raiseVec_vault (s : State) (p v : Nat) : (raiseVec s p v).vault = s.vault := by unfold raiseVec; dsimp only; split <;> simp
@[simp] theorem raiseVec_power (s : State) (p v : Nat) : (raiseVec s p v).power = s.power := by unfold raiseVec; dsimp only; split <;> simp
@[simp] theorem raiseVec_stage (s : State) (p v : Nat) : (raiseVec s p v).stage = s.stage := by unfold raiseVec; dsimp only; split <;> simp
@[simp] theorem raiseVec_free (s : State) (p v : Nat) : (raiseVec s p v).free = s.free := by unfold raiseVec; dsimp only; split <;> simp
@[simp] theorem raiseVec_pending (s : State) (p v : Nat) : (raiseVec s p v).pending = s.pending := by unfold raiseVec; dsimp only; split <;> simp

@[simp] theorem deliver_now (s : State) (p e : Nat) : (deliver s p e).now = s.now := by unfold deliver; split <;> simp
@[simp] theorem deliver_epoch (s : State) (p e : Nat) : (deliver s p e).epoch = s.epoch := by unfold deliver; split <;> simp
@[simp] theorem deliver_due (s : State) (p e : Nat) : (deliver s p e).due = s.due := by unfold deliver; split <;> simp
@[simp] theorem deliver_own (s : State) (p e : Nat) : (deliver s p e).own = s.own := by unfold deliver; split <;> simp
@[simp] theorem deliver_mbox (s : State) (p e : Nat) : (deliver s p e).mbox = s.mbox := by unfold deliver; split <;> simp
@[simp] theorem deliver_cmds (s : State) (p e : Nat) : (deliver s p e).cmds = s.cmds := by unfold deliver; split <;> simp
@[simp] theorem deliver_nextCmd (s : State) (p e : Nat) : (deliver s p e).nextCmd = s.nextCmd := by unfold deliver; split <;> simp
@[simp] theorem deliver_rrMbox (s : State) (p e : Nat) : (deliver s p e).rrMbox = s.rrMbox := by unfold deliver; split <;> simp
@[simp] theorem deliver_rrStart (s : State) (p e : Nat) : (deliver s p e).rrStart = s.rrStart := by unfold deliver; split <;> simp
@[simp] theorem deliver_mem (s : State) (p e : Nat) : (deliver s p e).mem = s.mem := by unfold deliver; split <;> simp
@[simp] theorem deliver_tables (s : State) (p e : Nat) : (deliver s p e).tables = s.tables := by unfold deliver; split <;> simp
@[simp] theorem deliver_seals (s : State) (p e : Nat) : (deliver s p e).seals = s.seals := by unfold deliver; split <;> simp
@[simp] theorem deliver_direct (s : State) (p e : Nat) : (deliver s p e).direct = s.direct := by unfold deliver; split <;> simp
@[simp] theorem deliver_dies (s : State) (p e : Nat) : (deliver s p e).dies = s.dies := by unfold deliver; split <;> simp
@[simp] theorem deliver_links (s : State) (p e : Nat) : (deliver s p e).links = s.links := by unfold deliver; split <;> simp
@[simp] theorem deliver_holds (s : State) (p e : Nat) : (deliver s p e).holds = s.holds := by unfold deliver; split <;> simp
@[simp] theorem deliver_walkEnds (s : State) (p e : Nat) : (deliver s p e).walkEnds = s.walkEnds := by unfold deliver; split <;> simp
@[simp] theorem deliver_act (s : State) (p e : Nat) : (deliver s p e).act = s.act := by unfold deliver; split <;> simp
@[simp] theorem deliver_cache (s : State) (p e : Nat) : (deliver s p e).cache = s.cache := by unfold deliver; split <;> simp
@[simp] theorem deliver_learnQ (s : State) (p e : Nat) : (deliver s p e).learnQ = s.learnQ := by unfold deliver; split <;> simp
@[simp] theorem deliver_snaps (s : State) (p e : Nat) : (deliver s p e).snaps = s.snaps := by unfold deliver; split <;> simp
@[simp] theorem deliver_csc (s : State) (p e : Nat) : (deliver s p e).csc = s.csc := by unfold deliver; split <;> simp
@[simp] theorem deliver_spk (s : State) (p e : Nat) : (deliver s p e).spk = s.spk := by unfold deliver; split <;> simp
@[simp] theorem deliver_waitSnap (s : State) (p e : Nat) : (deliver s p e).waitSnap = s.waitSnap := by unfold deliver; split <;> simp
@[simp] theorem deliver_vault (s : State) (p e : Nat) : (deliver s p e).vault = s.vault := by unfold deliver; split <;> simp
@[simp] theorem deliver_power (s : State) (p e : Nat) : (deliver s p e).power = s.power := by unfold deliver; split <;> simp
@[simp] theorem deliver_stage (s : State) (p e : Nat) : (deliver s p e).stage = s.stage := by unfold deliver; split <;> simp
@[simp] theorem deliver_free (s : State) (p e : Nat) : (deliver s p e).free = s.free := by unfold deliver; split <;> simp
@[simp] theorem deliver_pending (s : State) (p e : Nat) : (deliver s p e).pending = s.pending := by unfold deliver; split <;> simp

@[simp] theorem recordEvent_now (s : State) (e : Ev) (a b c : Word) : (recordEvent s e a b c).now = s.now := by unfold recordEvent; dsimp only; split <;> simp
@[simp] theorem recordEvent_epoch (s : State) (e : Ev) (a b c : Word) : (recordEvent s e a b c).epoch = s.epoch := by unfold recordEvent; dsimp only; split <;> simp
@[simp] theorem recordEvent_due (s : State) (e : Ev) (a b c : Word) : (recordEvent s e a b c).due = s.due := by unfold recordEvent; dsimp only; split <;> simp
@[simp] theorem recordEvent_own (s : State) (e : Ev) (a b c : Word) : (recordEvent s e a b c).own = s.own := by unfold recordEvent; dsimp only; split <;> simp
@[simp] theorem recordEvent_mbox (s : State) (e : Ev) (a b c : Word) : (recordEvent s e a b c).mbox = s.mbox := by unfold recordEvent; dsimp only; split <;> simp
@[simp] theorem recordEvent_cmds (s : State) (e : Ev) (a b c : Word) : (recordEvent s e a b c).cmds = s.cmds := by unfold recordEvent; dsimp only; split <;> simp
@[simp] theorem recordEvent_nextCmd (s : State) (e : Ev) (a b c : Word) : (recordEvent s e a b c).nextCmd = s.nextCmd := by unfold recordEvent; dsimp only; split <;> simp
@[simp] theorem recordEvent_rrMbox (s : State) (e : Ev) (a b c : Word) : (recordEvent s e a b c).rrMbox = s.rrMbox := by unfold recordEvent; dsimp only; split <;> simp
@[simp] theorem recordEvent_rrStart (s : State) (e : Ev) (a b c : Word) : (recordEvent s e a b c).rrStart = s.rrStart := by unfold recordEvent; dsimp only; split <;> simp
@[simp] theorem recordEvent_mem (s : State) (e : Ev) (a b c : Word) : (recordEvent s e a b c).mem = s.mem := by unfold recordEvent; dsimp only; split <;> simp
@[simp] theorem recordEvent_tables (s : State) (e : Ev) (a b c : Word) : (recordEvent s e a b c).tables = s.tables := by unfold recordEvent; dsimp only; split <;> simp
@[simp] theorem recordEvent_seals (s : State) (e : Ev) (a b c : Word) : (recordEvent s e a b c).seals = s.seals := by unfold recordEvent; dsimp only; split <;> simp
@[simp] theorem recordEvent_direct (s : State) (e : Ev) (a b c : Word) : (recordEvent s e a b c).direct = s.direct := by unfold recordEvent; dsimp only; split <;> simp
@[simp] theorem recordEvent_dies (s : State) (e : Ev) (a b c : Word) : (recordEvent s e a b c).dies = s.dies := by unfold recordEvent; dsimp only; split <;> simp
@[simp] theorem recordEvent_links (s : State) (e : Ev) (a b c : Word) : (recordEvent s e a b c).links = s.links := by unfold recordEvent; dsimp only; split <;> simp
@[simp] theorem recordEvent_holds (s : State) (e : Ev) (a b c : Word) : (recordEvent s e a b c).holds = s.holds := by unfold recordEvent; dsimp only; split <;> simp
@[simp] theorem recordEvent_walkEnds (s : State) (e : Ev) (a b c : Word) : (recordEvent s e a b c).walkEnds = s.walkEnds := by unfold recordEvent; dsimp only; split <;> simp
@[simp] theorem recordEvent_act (s : State) (e : Ev) (a b c : Word) : (recordEvent s e a b c).act = s.act := by unfold recordEvent; dsimp only; split <;> simp
@[simp] theorem recordEvent_cache (s : State) (e : Ev) (a b c : Word) : (recordEvent s e a b c).cache = s.cache := by unfold recordEvent; dsimp only; split <;> simp
@[simp] theorem recordEvent_learnQ (s : State) (e : Ev) (a b c : Word) : (recordEvent s e a b c).learnQ = s.learnQ := by unfold recordEvent; dsimp only; split <;> simp
@[simp] theorem recordEvent_snaps (s : State) (e : Ev) (a b c : Word) : (recordEvent s e a b c).snaps = s.snaps := by unfold recordEvent; dsimp only; split <;> simp
@[simp] theorem recordEvent_csc (s : State) (e : Ev) (a b c : Word) : (recordEvent s e a b c).csc = s.csc := by unfold recordEvent; dsimp only; split <;> simp
@[simp] theorem recordEvent_spk (s : State) (e : Ev) (a b c : Word) : (recordEvent s e a b c).spk = s.spk := by unfold recordEvent; dsimp only; split <;> simp
@[simp] theorem recordEvent_waitSnap (s : State) (e : Ev) (a b c : Word) : (recordEvent s e a b c).waitSnap = s.waitSnap := by unfold recordEvent; dsimp only; split <;> simp
@[simp] theorem recordEvent_vault (s : State) (e : Ev) (a b c : Word) : (recordEvent s e a b c).vault = s.vault := by unfold recordEvent; dsimp only; split <;> simp
@[simp] theorem recordEvent_power (s : State) (e : Ev) (a b c : Word) : (recordEvent s e a b c).power = s.power := by unfold recordEvent; dsimp only; split <;> simp
@[simp] theorem recordEvent_stage (s : State) (e : Ev) (a b c : Word) : (recordEvent s e a b c).stage = s.stage := by unfold recordEvent; dsimp only; split <;> simp
@[simp] theorem recordEvent_free (s : State) (e : Ev) (a b c : Word) : (recordEvent s e a b c).free = s.free := by unfold recordEvent; dsimp only; split <;> simp
@[simp] theorem recordEvent_pending (s : State) (e : Ev) (a b c : Word) : (recordEvent s e a b c).pending = s.pending := by unfold recordEvent; dsimp only; split <;> simp

@[simp] theorem State.raise_now (s : State) (e : Ev) (a b c : Nat) : (s.raise e a b c).now = s.now := by unfold State.raise; simp
@[simp] theorem State.raise_epoch (s : State) (e : Ev) (a b c : Nat) : (s.raise e a b c).epoch = s.epoch := by unfold State.raise; simp
@[simp] theorem State.raise_due (s : State) (e : Ev) (a b c : Nat) : (s.raise e a b c).due = s.due := by unfold State.raise; simp
@[simp] theorem State.raise_own (s : State) (e : Ev) (a b c : Nat) : (s.raise e a b c).own = s.own := by unfold State.raise; simp
@[simp] theorem State.raise_mbox (s : State) (e : Ev) (a b c : Nat) : (s.raise e a b c).mbox = s.mbox := by unfold State.raise; simp
@[simp] theorem State.raise_cmds (s : State) (e : Ev) (a b c : Nat) : (s.raise e a b c).cmds = s.cmds := by unfold State.raise; simp
@[simp] theorem State.raise_nextCmd (s : State) (e : Ev) (a b c : Nat) : (s.raise e a b c).nextCmd = s.nextCmd := by unfold State.raise; simp
@[simp] theorem State.raise_rrMbox (s : State) (e : Ev) (a b c : Nat) : (s.raise e a b c).rrMbox = s.rrMbox := by unfold State.raise; simp
@[simp] theorem State.raise_rrStart (s : State) (e : Ev) (a b c : Nat) : (s.raise e a b c).rrStart = s.rrStart := by unfold State.raise; simp
@[simp] theorem State.raise_mem (s : State) (e : Ev) (a b c : Nat) : (s.raise e a b c).mem = s.mem := by unfold State.raise; simp
@[simp] theorem State.raise_tables (s : State) (e : Ev) (a b c : Nat) : (s.raise e a b c).tables = s.tables := by unfold State.raise; simp
@[simp] theorem State.raise_seals (s : State) (e : Ev) (a b c : Nat) : (s.raise e a b c).seals = s.seals := by unfold State.raise; simp
@[simp] theorem State.raise_direct (s : State) (e : Ev) (a b c : Nat) : (s.raise e a b c).direct = s.direct := by unfold State.raise; simp
@[simp] theorem State.raise_dies (s : State) (e : Ev) (a b c : Nat) : (s.raise e a b c).dies = s.dies := by unfold State.raise; simp
@[simp] theorem State.raise_links (s : State) (e : Ev) (a b c : Nat) : (s.raise e a b c).links = s.links := by unfold State.raise; simp
@[simp] theorem State.raise_holds (s : State) (e : Ev) (a b c : Nat) : (s.raise e a b c).holds = s.holds := by unfold State.raise; simp
@[simp] theorem State.raise_walkEnds (s : State) (e : Ev) (a b c : Nat) : (s.raise e a b c).walkEnds = s.walkEnds := by unfold State.raise; simp
@[simp] theorem State.raise_act (s : State) (e : Ev) (a b c : Nat) : (s.raise e a b c).act = s.act := by unfold State.raise; simp
@[simp] theorem State.raise_cache (s : State) (e : Ev) (a b c : Nat) : (s.raise e a b c).cache = s.cache := by unfold State.raise; simp
@[simp] theorem State.raise_learnQ (s : State) (e : Ev) (a b c : Nat) : (s.raise e a b c).learnQ = s.learnQ := by unfold State.raise; simp
@[simp] theorem State.raise_snaps (s : State) (e : Ev) (a b c : Nat) : (s.raise e a b c).snaps = s.snaps := by unfold State.raise; simp
@[simp] theorem State.raise_csc (s : State) (e : Ev) (a b c : Nat) : (s.raise e a b c).csc = s.csc := by unfold State.raise; simp
@[simp] theorem State.raise_spk (s : State) (e : Ev) (a b c : Nat) : (s.raise e a b c).spk = s.spk := by unfold State.raise; simp
@[simp] theorem State.raise_waitSnap (s : State) (e : Ev) (a b c : Nat) : (s.raise e a b c).waitSnap = s.waitSnap := by unfold State.raise; simp
@[simp] theorem State.raise_vault (s : State) (e : Ev) (a b c : Nat) : (s.raise e a b c).vault = s.vault := by unfold State.raise; simp
@[simp] theorem State.raise_power (s : State) (e : Ev) (a b c : Nat) : (s.raise e a b c).power = s.power := by unfold State.raise; simp
@[simp] theorem State.raise_stage (s : State) (e : Ev) (a b c : Nat) : (s.raise e a b c).stage = s.stage := by unfold State.raise; simp
@[simp] theorem State.raise_free (s : State) (e : Ev) (a b c : Nat) : (s.raise e a b c).free = s.free := by unfold State.raise; simp
@[simp] theorem State.raise_pending (s : State) (e : Ev) (a b c : Nat) : (s.raise e a b c).pending = s.pending := by unfold State.raise; simp

@[simp] theorem State.raiseOnce_now (s : State) (e : Ev) (k a b c : Nat) : (s.raiseOnce e k a b c).now = s.now := by unfold State.raiseOnce; split <;> simp
@[simp] theorem State.raiseOnce_epoch (s : State) (e : Ev) (k a b c : Nat) : (s.raiseOnce e k a b c).epoch = s.epoch := by unfold State.raiseOnce; split <;> simp
@[simp] theorem State.raiseOnce_due (s : State) (e : Ev) (k a b c : Nat) : (s.raiseOnce e k a b c).due = s.due := by unfold State.raiseOnce; split <;> simp
@[simp] theorem State.raiseOnce_own (s : State) (e : Ev) (k a b c : Nat) : (s.raiseOnce e k a b c).own = s.own := by unfold State.raiseOnce; split <;> simp
@[simp] theorem State.raiseOnce_mbox (s : State) (e : Ev) (k a b c : Nat) : (s.raiseOnce e k a b c).mbox = s.mbox := by unfold State.raiseOnce; split <;> simp
@[simp] theorem State.raiseOnce_cmds (s : State) (e : Ev) (k a b c : Nat) : (s.raiseOnce e k a b c).cmds = s.cmds := by unfold State.raiseOnce; split <;> simp
@[simp] theorem State.raiseOnce_nextCmd (s : State) (e : Ev) (k a b c : Nat) : (s.raiseOnce e k a b c).nextCmd = s.nextCmd := by unfold State.raiseOnce; split <;> simp
@[simp] theorem State.raiseOnce_rrMbox (s : State) (e : Ev) (k a b c : Nat) : (s.raiseOnce e k a b c).rrMbox = s.rrMbox := by unfold State.raiseOnce; split <;> simp
@[simp] theorem State.raiseOnce_rrStart (s : State) (e : Ev) (k a b c : Nat) : (s.raiseOnce e k a b c).rrStart = s.rrStart := by unfold State.raiseOnce; split <;> simp
@[simp] theorem State.raiseOnce_mem (s : State) (e : Ev) (k a b c : Nat) : (s.raiseOnce e k a b c).mem = s.mem := by unfold State.raiseOnce; split <;> simp
@[simp] theorem State.raiseOnce_tables (s : State) (e : Ev) (k a b c : Nat) : (s.raiseOnce e k a b c).tables = s.tables := by unfold State.raiseOnce; split <;> simp
@[simp] theorem State.raiseOnce_seals (s : State) (e : Ev) (k a b c : Nat) : (s.raiseOnce e k a b c).seals = s.seals := by unfold State.raiseOnce; split <;> simp
@[simp] theorem State.raiseOnce_direct (s : State) (e : Ev) (k a b c : Nat) : (s.raiseOnce e k a b c).direct = s.direct := by unfold State.raiseOnce; split <;> simp
@[simp] theorem State.raiseOnce_dies (s : State) (e : Ev) (k a b c : Nat) : (s.raiseOnce e k a b c).dies = s.dies := by unfold State.raiseOnce; split <;> simp
@[simp] theorem State.raiseOnce_links (s : State) (e : Ev) (k a b c : Nat) : (s.raiseOnce e k a b c).links = s.links := by unfold State.raiseOnce; split <;> simp
@[simp] theorem State.raiseOnce_holds (s : State) (e : Ev) (k a b c : Nat) : (s.raiseOnce e k a b c).holds = s.holds := by unfold State.raiseOnce; split <;> simp
@[simp] theorem State.raiseOnce_walkEnds (s : State) (e : Ev) (k a b c : Nat) : (s.raiseOnce e k a b c).walkEnds = s.walkEnds := by unfold State.raiseOnce; split <;> simp
@[simp] theorem State.raiseOnce_act (s : State) (e : Ev) (k a b c : Nat) : (s.raiseOnce e k a b c).act = s.act := by unfold State.raiseOnce; split <;> simp
@[simp] theorem State.raiseOnce_cache (s : State) (e : Ev) (k a b c : Nat) : (s.raiseOnce e k a b c).cache = s.cache := by unfold State.raiseOnce; split <;> simp
@[simp] theorem State.raiseOnce_learnQ (s : State) (e : Ev) (k a b c : Nat) : (s.raiseOnce e k a b c).learnQ = s.learnQ := by unfold State.raiseOnce; split <;> simp
@[simp] theorem State.raiseOnce_snaps (s : State) (e : Ev) (k a b c : Nat) : (s.raiseOnce e k a b c).snaps = s.snaps := by unfold State.raiseOnce; split <;> simp
@[simp] theorem State.raiseOnce_csc (s : State) (e : Ev) (k a b c : Nat) : (s.raiseOnce e k a b c).csc = s.csc := by unfold State.raiseOnce; split <;> simp
@[simp] theorem State.raiseOnce_spk (s : State) (e : Ev) (k a b c : Nat) : (s.raiseOnce e k a b c).spk = s.spk := by unfold State.raiseOnce; split <;> simp
@[simp] theorem State.raiseOnce_waitSnap (s : State) (e : Ev) (k a b c : Nat) : (s.raiseOnce e k a b c).waitSnap = s.waitSnap := by unfold State.raiseOnce; split <;> simp
@[simp] theorem State.raiseOnce_vault (s : State) (e : Ev) (k a b c : Nat) : (s.raiseOnce e k a b c).vault = s.vault := by unfold State.raiseOnce; split <;> simp
@[simp] theorem State.raiseOnce_power (s : State) (e : Ev) (k a b c : Nat) : (s.raiseOnce e k a b c).power = s.power := by unfold State.raiseOnce; split <;> simp
@[simp] theorem State.raiseOnce_stage (s : State) (e : Ev) (k a b c : Nat) : (s.raiseOnce e k a b c).stage = s.stage := by unfold State.raiseOnce; split <;> simp
@[simp] theorem State.raiseOnce_free (s : State) (e : Ev) (k a b c : Nat) : (s.raiseOnce e k a b c).free = s.free := by unfold State.raiseOnce; split <;> simp
@[simp] theorem State.raiseOnce_pending (s : State) (e : Ev) (k a b c : Nat) : (s.raiseOnce e k a b c).pending = s.pending := by unfold State.raiseOnce; split <;> simp

@[simp] theorem hardChange_now (s : State) (a m : Nat) : (hardChange s a m).now = s.now := by unfold hardChange; dsimp only; (repeat' split) <;> simp
@[simp] theorem hardChange_epoch (s : State) (a m : Nat) : (hardChange s a m).epoch = s.epoch := by unfold hardChange; dsimp only; (repeat' split) <;> simp
@[simp] theorem hardChange_due (s : State) (a m : Nat) : (hardChange s a m).due = s.due := by unfold hardChange; dsimp only; (repeat' split) <;> simp
@[simp] theorem hardChange_own (s : State) (a m : Nat) : (hardChange s a m).own = s.own := by unfold hardChange; dsimp only; (repeat' split) <;> simp
@[simp] theorem hardChange_mbox (s : State) (a m : Nat) : (hardChange s a m).mbox = s.mbox := by unfold hardChange; dsimp only; (repeat' split) <;> simp
@[simp] theorem hardChange_cmds (s : State) (a m : Nat) : (hardChange s a m).cmds = s.cmds := by unfold hardChange; dsimp only; (repeat' split) <;> simp
@[simp] theorem hardChange_nextCmd (s : State) (a m : Nat) : (hardChange s a m).nextCmd = s.nextCmd := by unfold hardChange; dsimp only; (repeat' split) <;> simp
@[simp] theorem hardChange_rrMbox (s : State) (a m : Nat) : (hardChange s a m).rrMbox = s.rrMbox := by unfold hardChange; dsimp only; (repeat' split) <;> simp
@[simp] theorem hardChange_rrStart (s : State) (a m : Nat) : (hardChange s a m).rrStart = s.rrStart := by unfold hardChange; dsimp only; (repeat' split) <;> simp
@[simp] theorem hardChange_mem (s : State) (a m : Nat) : (hardChange s a m).mem = s.mem := by unfold hardChange; dsimp only; (repeat' split) <;> simp
@[simp] theorem hardChange_tables (s : State) (a m : Nat) : (hardChange s a m).tables = s.tables := by unfold hardChange; dsimp only; (repeat' split) <;> simp
@[simp] theorem hardChange_seals (s : State) (a m : Nat) : (hardChange s a m).seals = s.seals := by unfold hardChange; dsimp only; (repeat' split) <;> simp
@[simp] theorem hardChange_direct (s : State) (a m : Nat) : (hardChange s a m).direct = s.direct := by unfold hardChange; dsimp only; (repeat' split) <;> simp
@[simp] theorem hardChange_dies (s : State) (a m : Nat) : (hardChange s a m).dies = s.dies := by unfold hardChange; dsimp only; (repeat' split) <;> simp
@[simp] theorem hardChange_links (s : State) (a m : Nat) : (hardChange s a m).links = s.links := by unfold hardChange; dsimp only; (repeat' split) <;> simp
@[simp] theorem hardChange_holds (s : State) (a m : Nat) : (hardChange s a m).holds = s.holds := by unfold hardChange; dsimp only; (repeat' split) <;> simp
@[simp] theorem hardChange_walkEnds (s : State) (a m : Nat) : (hardChange s a m).walkEnds = s.walkEnds := by unfold hardChange; dsimp only; (repeat' split) <;> simp
@[simp] theorem hardChange_act (s : State) (a m : Nat) : (hardChange s a m).act = s.act := by unfold hardChange; dsimp only; (repeat' split) <;> simp
@[simp] theorem hardChange_cache (s : State) (a m : Nat) : (hardChange s a m).cache = s.cache := by unfold hardChange; dsimp only; (repeat' split) <;> simp
@[simp] theorem hardChange_learnQ (s : State) (a m : Nat) : (hardChange s a m).learnQ = s.learnQ := by unfold hardChange; dsimp only; (repeat' split) <;> simp
@[simp] theorem hardChange_snaps (s : State) (a m : Nat) : (hardChange s a m).snaps = s.snaps := by unfold hardChange; dsimp only; (repeat' split) <;> simp
@[simp] theorem hardChange_csc (s : State) (a m : Nat) : (hardChange s a m).csc = s.csc := by unfold hardChange; dsimp only; (repeat' split) <;> simp
@[simp] theorem hardChange_spk (s : State) (a m : Nat) : (hardChange s a m).spk = s.spk := by unfold hardChange; dsimp only; (repeat' split) <;> simp
@[simp] theorem hardChange_waitSnap (s : State) (a m : Nat) : (hardChange s a m).waitSnap = s.waitSnap := by unfold hardChange; dsimp only; (repeat' split) <;> simp
@[simp] theorem hardChange_vault (s : State) (a m : Nat) : (hardChange s a m).vault = s.vault := by unfold hardChange; dsimp only; (repeat' split) <;> simp
@[simp] theorem hardChange_power (s : State) (a m : Nat) : (hardChange s a m).power = s.power := by unfold hardChange; dsimp only; (repeat' split) <;> simp
@[simp] theorem hardChange_stage (s : State) (a m : Nat) : (hardChange s a m).stage = s.stage := by unfold hardChange; dsimp only; (repeat' split) <;> simp
@[simp] theorem hardChange_free (s : State) (a m : Nat) : (hardChange s a m).free = s.free := by unfold hardChange; dsimp only; (repeat' split) <;> simp
@[simp] theorem hardChange_pending (s : State) (a m : Nat) : (hardChange s a m).pending = s.pending := by unfold hardChange; dsimp only; (repeat' split) <;> simp

@[simp] theorem heldAction_now (s : State) (k o : Nat) : (heldAction s k o).now = s.now := by unfold heldAction; split <;> simp
@[simp] theorem heldAction_epoch (s : State) (k o : Nat) : (heldAction s k o).epoch = s.epoch := by unfold heldAction; split <;> simp
@[simp] theorem heldAction_due (s : State) (k o : Nat) : (heldAction s k o).due = s.due := by unfold heldAction; split <;> simp
@[simp] theorem heldAction_own (s : State) (k o : Nat) : (heldAction s k o).own = s.own := by unfold heldAction; split <;> simp
@[simp] theorem heldAction_mbox (s : State) (k o : Nat) : (heldAction s k o).mbox = s.mbox := by unfold heldAction; split <;> simp
@[simp] theorem heldAction_cmds (s : State) (k o : Nat) : (heldAction s k o).cmds = s.cmds := by unfold heldAction; split <;> simp
@[simp] theorem heldAction_nextCmd (s : State) (k o : Nat) : (heldAction s k o).nextCmd = s.nextCmd := by unfold heldAction; split <;> simp
@[simp] theorem heldAction_rrMbox (s : State) (k o : Nat) : (heldAction s k o).rrMbox = s.rrMbox := by unfold heldAction; split <;> simp
@[simp] theorem heldAction_rrStart (s : State) (k o : Nat) : (heldAction s k o).rrStart = s.rrStart := by unfold heldAction; split <;> simp
@[simp] theorem heldAction_mem (s : State) (k o : Nat) : (heldAction s k o).mem = s.mem := by unfold heldAction; split <;> simp
@[simp] theorem heldAction_tables (s : State) (k o : Nat) : (heldAction s k o).tables = s.tables := by unfold heldAction; split <;> simp
@[simp] theorem heldAction_seals (s : State) (k o : Nat) : (heldAction s k o).seals = s.seals := by unfold heldAction; split <;> simp
@[simp] theorem heldAction_direct (s : State) (k o : Nat) : (heldAction s k o).direct = s.direct := by unfold heldAction; split <;> simp
@[simp] theorem heldAction_dies (s : State) (k o : Nat) : (heldAction s k o).dies = s.dies := by unfold heldAction; split <;> simp
@[simp] theorem heldAction_links (s : State) (k o : Nat) : (heldAction s k o).links = s.links := by unfold heldAction; split <;> simp
@[simp] theorem heldAction_holds (s : State) (k o : Nat) : (heldAction s k o).holds = s.holds := by unfold heldAction; split <;> simp
@[simp] theorem heldAction_walkEnds (s : State) (k o : Nat) : (heldAction s k o).walkEnds = s.walkEnds := by unfold heldAction; split <;> simp
@[simp] theorem heldAction_act (s : State) (k o : Nat) : (heldAction s k o).act = s.act := by unfold heldAction; split <;> simp
@[simp] theorem heldAction_cache (s : State) (k o : Nat) : (heldAction s k o).cache = s.cache := by unfold heldAction; split <;> simp
@[simp] theorem heldAction_learnQ (s : State) (k o : Nat) : (heldAction s k o).learnQ = s.learnQ := by unfold heldAction; split <;> simp
@[simp] theorem heldAction_snaps (s : State) (k o : Nat) : (heldAction s k o).snaps = s.snaps := by unfold heldAction; split <;> simp
@[simp] theorem heldAction_csc (s : State) (k o : Nat) : (heldAction s k o).csc = s.csc := by unfold heldAction; split <;> simp
@[simp] theorem heldAction_spk (s : State) (k o : Nat) : (heldAction s k o).spk = s.spk := by unfold heldAction; split <;> simp
@[simp] theorem heldAction_waitSnap (s : State) (k o : Nat) : (heldAction s k o).waitSnap = s.waitSnap := by unfold heldAction; split <;> simp
@[simp] theorem heldAction_vault (s : State) (k o : Nat) : (heldAction s k o).vault = s.vault := by unfold heldAction; split <;> simp
@[simp] theorem heldAction_power (s : State) (k o : Nat) : (heldAction s k o).power = s.power := by unfold heldAction; split <;> simp
@[simp] theorem heldAction_stage (s : State) (k o : Nat) : (heldAction s k o).stage = s.stage := by unfold heldAction; split <;> simp
@[simp] theorem heldAction_free (s : State) (k o : Nat) : (heldAction s k o).free = s.free := by unfold heldAction; split <;> simp
@[simp] theorem heldAction_pending (s : State) (k o : Nat) : (heldAction s k o).pending = s.pending := by unfold heldAction; split <;> simp

@[simp] theorem mbErr_now (s : State) (m b : Nat) : (mbErr s m b).now = s.now := by unfold mbErr; simp
@[simp] theorem mbErr_epoch (s : State) (m b : Nat) : (mbErr s m b).epoch = s.epoch := by unfold mbErr; simp
@[simp] theorem mbErr_due (s : State) (m b : Nat) : (mbErr s m b).due = s.due := by unfold mbErr; simp
@[simp] theorem mbErr_own (s : State) (m b : Nat) : (mbErr s m b).own = s.own := by unfold mbErr; simp
@[simp] theorem mbErr_mbox (s : State) (m b : Nat) : (mbErr s m b).mbox = s.mbox := by unfold mbErr; simp
@[simp] theorem mbErr_cmds (s : State) (m b : Nat) : (mbErr s m b).cmds = s.cmds := by unfold mbErr; simp
@[simp] theorem mbErr_nextCmd (s : State) (m b : Nat) : (mbErr s m b).nextCmd = s.nextCmd := by unfold mbErr; simp
@[simp] theorem mbErr_rrMbox (s : State) (m b : Nat) : (mbErr s m b).rrMbox = s.rrMbox := by unfold mbErr; simp
@[simp] theorem mbErr_rrStart (s : State) (m b : Nat) : (mbErr s m b).rrStart = s.rrStart := by unfold mbErr; simp
@[simp] theorem mbErr_mem (s : State) (m b : Nat) : (mbErr s m b).mem = s.mem := by unfold mbErr; simp
@[simp] theorem mbErr_tables (s : State) (m b : Nat) : (mbErr s m b).tables = s.tables := by unfold mbErr; simp
@[simp] theorem mbErr_seals (s : State) (m b : Nat) : (mbErr s m b).seals = s.seals := by unfold mbErr; simp
@[simp] theorem mbErr_direct (s : State) (m b : Nat) : (mbErr s m b).direct = s.direct := by unfold mbErr; simp
@[simp] theorem mbErr_dies (s : State) (m b : Nat) : (mbErr s m b).dies = s.dies := by unfold mbErr; simp
@[simp] theorem mbErr_links (s : State) (m b : Nat) : (mbErr s m b).links = s.links := by unfold mbErr; simp
@[simp] theorem mbErr_holds (s : State) (m b : Nat) : (mbErr s m b).holds = s.holds := by unfold mbErr; simp
@[simp] theorem mbErr_walkEnds (s : State) (m b : Nat) : (mbErr s m b).walkEnds = s.walkEnds := by unfold mbErr; simp
@[simp] theorem mbErr_act (s : State) (m b : Nat) : (mbErr s m b).act = s.act := by unfold mbErr; simp
@[simp] theorem mbErr_cache (s : State) (m b : Nat) : (mbErr s m b).cache = s.cache := by unfold mbErr; simp
@[simp] theorem mbErr_learnQ (s : State) (m b : Nat) : (mbErr s m b).learnQ = s.learnQ := by unfold mbErr; simp
@[simp] theorem mbErr_snaps (s : State) (m b : Nat) : (mbErr s m b).snaps = s.snaps := by unfold mbErr; simp
@[simp] theorem mbErr_csc (s : State) (m b : Nat) : (mbErr s m b).csc = s.csc := by unfold mbErr; simp
@[simp] theorem mbErr_spk (s : State) (m b : Nat) : (mbErr s m b).spk = s.spk := by unfold mbErr; simp
@[simp] theorem mbErr_waitSnap (s : State) (m b : Nat) : (mbErr s m b).waitSnap = s.waitSnap := by unfold mbErr; simp
@[simp] theorem mbErr_vault (s : State) (m b : Nat) : (mbErr s m b).vault = s.vault := by unfold mbErr; simp
@[simp] theorem mbErr_power (s : State) (m b : Nat) : (mbErr s m b).power = s.power := by unfold mbErr; simp
@[simp] theorem mbErr_stage (s : State) (m b : Nat) : (mbErr s m b).stage = s.stage := by unfold mbErr; simp
@[simp] theorem mbErr_free (s : State) (m b : Nat) : (mbErr s m b).free = s.free := by unfold mbErr; simp
@[simp] theorem mbErr_pending (s : State) (m b : Nat) : (mbErr s m b).pending = s.pending := by unfold mbErr; simp

@[simp] theorem finishAs_now (s : State) (id st k v : Nat) (q : Bool) : (finishAs s id st k v q).now = s.now := by unfold finishAs; dsimp only; (repeat' split) <;> simp
@[simp] theorem finishAs_epoch (s : State) (id st k v : Nat) (q : Bool) : (finishAs s id st k v q).epoch = s.epoch := by unfold finishAs; dsimp only; (repeat' split) <;> simp
@[simp] theorem finishAs_due (s : State) (id st k v : Nat) (q : Bool) : (finishAs s id st k v q).due = s.due := by unfold finishAs; dsimp only; (repeat' split) <;> simp
@[simp] theorem finishAs_own (s : State) (id st k v : Nat) (q : Bool) : (finishAs s id st k v q).own = s.own := by unfold finishAs; dsimp only; (repeat' split) <;> simp
@[simp] theorem finishAs_mbox (s : State) (id st k v : Nat) (q : Bool) : (finishAs s id st k v q).mbox = s.mbox := by unfold finishAs; dsimp only; (repeat' split) <;> simp
@[simp] theorem finishAs_nextCmd (s : State) (id st k v : Nat) (q : Bool) : (finishAs s id st k v q).nextCmd = s.nextCmd := by unfold finishAs; dsimp only; (repeat' split) <;> simp
@[simp] theorem finishAs_rrMbox (s : State) (id st k v : Nat) (q : Bool) : (finishAs s id st k v q).rrMbox = s.rrMbox := by unfold finishAs; dsimp only; (repeat' split) <;> simp
@[simp] theorem finishAs_rrStart (s : State) (id st k v : Nat) (q : Bool) : (finishAs s id st k v q).rrStart = s.rrStart := by unfold finishAs; dsimp only; (repeat' split) <;> simp
@[simp] theorem finishAs_mem (s : State) (id st k v : Nat) (q : Bool) : (finishAs s id st k v q).mem = s.mem := by unfold finishAs; dsimp only; (repeat' split) <;> simp
@[simp] theorem finishAs_tables (s : State) (id st k v : Nat) (q : Bool) : (finishAs s id st k v q).tables = s.tables := by unfold finishAs; dsimp only; (repeat' split) <;> simp
@[simp] theorem finishAs_seals (s : State) (id st k v : Nat) (q : Bool) : (finishAs s id st k v q).seals = s.seals := by unfold finishAs; dsimp only; (repeat' split) <;> simp
@[simp] theorem finishAs_direct (s : State) (id st k v : Nat) (q : Bool) : (finishAs s id st k v q).direct = s.direct := by unfold finishAs; dsimp only; (repeat' split) <;> simp
@[simp] theorem finishAs_dies (s : State) (id st k v : Nat) (q : Bool) : (finishAs s id st k v q).dies = s.dies := by unfold finishAs; dsimp only; (repeat' split) <;> simp
@[simp] theorem finishAs_links (s : State) (id st k v : Nat) (q : Bool) : (finishAs s id st k v q).links = s.links := by unfold finishAs; dsimp only; (repeat' split) <;> simp
@[simp] theorem finishAs_holds (s : State) (id st k v : Nat) (q : Bool) : (finishAs s id st k v q).holds = s.holds := by unfold finishAs; dsimp only; (repeat' split) <;> simp
@[simp] theorem finishAs_walkEnds (s : State) (id st k v : Nat) (q : Bool) : (finishAs s id st k v q).walkEnds = s.walkEnds := by unfold finishAs; dsimp only; (repeat' split) <;> simp
@[simp] theorem finishAs_act (s : State) (id st k v : Nat) (q : Bool) : (finishAs s id st k v q).act = s.act := by unfold finishAs; dsimp only; (repeat' split) <;> simp
@[simp] theorem finishAs_cache (s : State) (id st k v : Nat) (q : Bool) : (finishAs s id st k v q).cache = s.cache := by unfold finishAs; dsimp only; (repeat' split) <;> simp
@[simp] theorem finishAs_learnQ (s : State) (id st k v : Nat) (q : Bool) : (finishAs s id st k v q).learnQ = s.learnQ := by unfold finishAs; dsimp only; (repeat' split) <;> simp
@[simp] theorem finishAs_snaps (s : State) (id st k v : Nat) (q : Bool) : (finishAs s id st k v q).snaps = s.snaps := by unfold finishAs; dsimp only; (repeat' split) <;> simp
@[simp] theorem finishAs_csc (s : State) (id st k v : Nat) (q : Bool) : (finishAs s id st k v q).csc = s.csc := by unfold finishAs; dsimp only; (repeat' split) <;> simp
@[simp] theorem finishAs_spk (s : State) (id st k v : Nat) (q : Bool) : (finishAs s id st k v q).spk = s.spk := by unfold finishAs; dsimp only; (repeat' split) <;> simp
@[simp] theorem finishAs_waitSnap (s : State) (id st k v : Nat) (q : Bool) : (finishAs s id st k v q).waitSnap = s.waitSnap := by unfold finishAs; dsimp only; (repeat' split) <;> simp
@[simp] theorem finishAs_vault (s : State) (id st k v : Nat) (q : Bool) : (finishAs s id st k v q).vault = s.vault := by unfold finishAs; dsimp only; (repeat' split) <;> simp
@[simp] theorem finishAs_power (s : State) (id st k v : Nat) (q : Bool) : (finishAs s id st k v q).power = s.power := by unfold finishAs; dsimp only; (repeat' split) <;> simp
@[simp] theorem finishAs_stage (s : State) (id st k v : Nat) (q : Bool) : (finishAs s id st k v q).stage = s.stage := by unfold finishAs; dsimp only; (repeat' split) <;> simp
@[simp] theorem finishAs_free (s : State) (id st k v : Nat) (q : Bool) : (finishAs s id st k v q).free = s.free := by unfold finishAs; dsimp only; (repeat' split) <;> simp
@[simp] theorem finishAs_pending (s : State) (id st k v : Nat) (q : Bool) : (finishAs s id st k v q).pending = s.pending := by unfold finishAs; dsimp only; (repeat' split) <;> simp

@[simp] theorem finish_now (s : State) (id st k v : Nat) : (finish s id st k v).now = s.now := by unfold finish; simp
@[simp] theorem finish_epoch (s : State) (id st k v : Nat) : (finish s id st k v).epoch = s.epoch := by unfold finish; simp
@[simp] theorem finish_due (s : State) (id st k v : Nat) : (finish s id st k v).due = s.due := by unfold finish; simp
@[simp] theorem finish_own (s : State) (id st k v : Nat) : (finish s id st k v).own = s.own := by unfold finish; simp
@[simp] theorem finish_mbox (s : State) (id st k v : Nat) : (finish s id st k v).mbox = s.mbox := by unfold finish; simp
@[simp] theorem finish_nextCmd (s : State) (id st k v : Nat) : (finish s id st k v).nextCmd = s.nextCmd := by unfold finish; simp
@[simp] theorem finish_rrMbox (s : State) (id st k v : Nat) : (finish s id st k v).rrMbox = s.rrMbox := by unfold finish; simp
@[simp] theorem finish_rrStart (s : State) (id st k v : Nat) : (finish s id st k v).rrStart = s.rrStart := by unfold finish; simp
@[simp] theorem finish_mem (s : State) (id st k v : Nat) : (finish s id st k v).mem = s.mem := by unfold finish; simp
@[simp] theorem finish_tables (s : State) (id st k v : Nat) : (finish s id st k v).tables = s.tables := by unfold finish; simp
@[simp] theorem finish_seals (s : State) (id st k v : Nat) : (finish s id st k v).seals = s.seals := by unfold finish; simp
@[simp] theorem finish_direct (s : State) (id st k v : Nat) : (finish s id st k v).direct = s.direct := by unfold finish; simp
@[simp] theorem finish_dies (s : State) (id st k v : Nat) : (finish s id st k v).dies = s.dies := by unfold finish; simp
@[simp] theorem finish_links (s : State) (id st k v : Nat) : (finish s id st k v).links = s.links := by unfold finish; simp
@[simp] theorem finish_holds (s : State) (id st k v : Nat) : (finish s id st k v).holds = s.holds := by unfold finish; simp
@[simp] theorem finish_walkEnds (s : State) (id st k v : Nat) : (finish s id st k v).walkEnds = s.walkEnds := by unfold finish; simp
@[simp] theorem finish_act (s : State) (id st k v : Nat) : (finish s id st k v).act = s.act := by unfold finish; simp
@[simp] theorem finish_cache (s : State) (id st k v : Nat) : (finish s id st k v).cache = s.cache := by unfold finish; simp
@[simp] theorem finish_learnQ (s : State) (id st k v : Nat) : (finish s id st k v).learnQ = s.learnQ := by unfold finish; simp
@[simp] theorem finish_snaps (s : State) (id st k v : Nat) : (finish s id st k v).snaps = s.snaps := by unfold finish; simp
@[simp] theorem finish_csc (s : State) (id st k v : Nat) : (finish s id st k v).csc = s.csc := by unfold finish; simp
@[simp] theorem finish_spk (s : State) (id st k v : Nat) : (finish s id st k v).spk = s.spk := by unfold finish; simp
@[simp] theorem finish_waitSnap (s : State) (id st k v : Nat) : (finish s id st k v).waitSnap = s.waitSnap := by unfold finish; simp
@[simp] theorem finish_vault (s : State) (id st k v : Nat) : (finish s id st k v).vault = s.vault := by unfold finish; simp
@[simp] theorem finish_power (s : State) (id st k v : Nat) : (finish s id st k v).power = s.power := by unfold finish; simp
@[simp] theorem finish_stage (s : State) (id st k v : Nat) : (finish s id st k v).stage = s.stage := by unfold finish; simp
@[simp] theorem finish_free (s : State) (id st k v : Nat) : (finish s id st k v).free = s.free := by unfold finish; simp
@[simp] theorem finish_pending (s : State) (id st k v : Nat) : (finish s id st k v).pending = s.pending := by unfold finish; simp

@[simp] theorem cmdWait_now (s : State) (id : Nat) (w : Wait) : (cmdWait s id w).now = s.now := by unfold cmdWait; simp
@[simp] theorem cmdWait_epoch (s : State) (id : Nat) (w : Wait) : (cmdWait s id w).epoch = s.epoch := by unfold cmdWait; simp
@[simp] theorem cmdWait_due (s : State) (id : Nat) (w : Wait) : (cmdWait s id w).due = s.due := by unfold cmdWait; simp
@[simp] theorem cmdWait_own (s : State) (id : Nat) (w : Wait) : (cmdWait s id w).own = s.own := by unfold cmdWait; simp
@[simp] theorem cmdWait_mbox (s : State) (id : Nat) (w : Wait) : (cmdWait s id w).mbox = s.mbox := by unfold cmdWait; simp
@[simp] theorem cmdWait_nextCmd (s : State) (id : Nat) (w : Wait) : (cmdWait s id w).nextCmd = s.nextCmd := by unfold cmdWait; simp
@[simp] theorem cmdWait_rrMbox (s : State) (id : Nat) (w : Wait) : (cmdWait s id w).rrMbox = s.rrMbox := by unfold cmdWait; simp
@[simp] theorem cmdWait_rrStart (s : State) (id : Nat) (w : Wait) : (cmdWait s id w).rrStart = s.rrStart := by unfold cmdWait; simp
@[simp] theorem cmdWait_regs (s : State) (id : Nat) (w : Wait) : (cmdWait s id w).regs = s.regs := by unfold cmdWait; simp
@[simp] theorem cmdWait_mem (s : State) (id : Nat) (w : Wait) : (cmdWait s id w).mem = s.mem := by unfold cmdWait; simp
@[simp] theorem cmdWait_tables (s : State) (id : Nat) (w : Wait) : (cmdWait s id w).tables = s.tables := by unfold cmdWait; simp
@[simp] theorem cmdWait_seals (s : State) (id : Nat) (w : Wait) : (cmdWait s id w).seals = s.seals := by unfold cmdWait; simp
@[simp] theorem cmdWait_direct (s : State) (id : Nat) (w : Wait) : (cmdWait s id w).direct = s.direct := by unfold cmdWait; simp
@[simp] theorem cmdWait_dies (s : State) (id : Nat) (w : Wait) : (cmdWait s id w).dies = s.dies := by unfold cmdWait; simp
@[simp] theorem cmdWait_links (s : State) (id : Nat) (w : Wait) : (cmdWait s id w).links = s.links := by unfold cmdWait; simp
@[simp] theorem cmdWait_holds (s : State) (id : Nat) (w : Wait) : (cmdWait s id w).holds = s.holds := by unfold cmdWait; simp
@[simp] theorem cmdWait_walkEnds (s : State) (id : Nat) (w : Wait) : (cmdWait s id w).walkEnds = s.walkEnds := by unfold cmdWait; simp
@[simp] theorem cmdWait_act (s : State) (id : Nat) (w : Wait) : (cmdWait s id w).act = s.act := by unfold cmdWait; simp
@[simp] theorem cmdWait_cache (s : State) (id : Nat) (w : Wait) : (cmdWait s id w).cache = s.cache := by unfold cmdWait; simp
@[simp] theorem cmdWait_learnQ (s : State) (id : Nat) (w : Wait) : (cmdWait s id w).learnQ = s.learnQ := by unfold cmdWait; simp
@[simp] theorem cmdWait_snaps (s : State) (id : Nat) (w : Wait) : (cmdWait s id w).snaps = s.snaps := by unfold cmdWait; simp
@[simp] theorem cmdWait_csc (s : State) (id : Nat) (w : Wait) : (cmdWait s id w).csc = s.csc := by unfold cmdWait; simp
@[simp] theorem cmdWait_spk (s : State) (id : Nat) (w : Wait) : (cmdWait s id w).spk = s.spk := by unfold cmdWait; simp
@[simp] theorem cmdWait_waitSnap (s : State) (id : Nat) (w : Wait) : (cmdWait s id w).waitSnap = s.waitSnap := by unfold cmdWait; simp
@[simp] theorem cmdWait_vault (s : State) (id : Nat) (w : Wait) : (cmdWait s id w).vault = s.vault := by unfold cmdWait; simp
@[simp] theorem cmdWait_mgmt (s : State) (id : Nat) (w : Wait) : (cmdWait s id w).mgmt = s.mgmt := by unfold cmdWait; simp
@[simp] theorem cmdWait_power (s : State) (id : Nat) (w : Wait) : (cmdWait s id w).power = s.power := by unfold cmdWait; simp
@[simp] theorem cmdWait_stage (s : State) (id : Nat) (w : Wait) : (cmdWait s id w).stage = s.stage := by unfold cmdWait; simp
@[simp] theorem cmdWait_out (s : State) (id : Nat) (w : Wait) : (cmdWait s id w).out = s.out := by unfold cmdWait; simp
@[simp] theorem cmdWait_free (s : State) (id : Nat) (w : Wait) : (cmdWait s id w).free = s.free := by unfold cmdWait; simp
@[simp] theorem cmdWait_pending (s : State) (id : Nat) (w : Wait) : (cmdWait s id w).pending = s.pending := by unfold cmdWait; simp

@[simp] theorem setOwn_now (s : State) (o : Own) : (setOwn s o).now = s.now := by unfold setOwn; dsimp only; split <;> simp
@[simp] theorem setOwn_epoch (s : State) (o : Own) : (setOwn s o).epoch = s.epoch := by unfold setOwn; dsimp only; split <;> simp
@[simp] theorem setOwn_due (s : State) (o : Own) : (setOwn s o).due = s.due := by unfold setOwn; dsimp only; split <;> simp
@[simp] theorem setOwn_mbox (s : State) (o : Own) : (setOwn s o).mbox = s.mbox := by unfold setOwn; dsimp only; split <;> simp
@[simp] theorem setOwn_cmds (s : State) (o : Own) : (setOwn s o).cmds = s.cmds := by unfold setOwn; dsimp only; split <;> simp
@[simp] theorem setOwn_nextCmd (s : State) (o : Own) : (setOwn s o).nextCmd = s.nextCmd := by unfold setOwn; dsimp only; split <;> simp
@[simp] theorem setOwn_rrMbox (s : State) (o : Own) : (setOwn s o).rrMbox = s.rrMbox := by unfold setOwn; dsimp only; split <;> simp
@[simp] theorem setOwn_rrStart (s : State) (o : Own) : (setOwn s o).rrStart = s.rrStart := by unfold setOwn; dsimp only; split <;> simp
@[simp] theorem setOwn_mem (s : State) (o : Own) : (setOwn s o).mem = s.mem := by unfold setOwn; dsimp only; split <;> simp
@[simp] theorem setOwn_tables (s : State) (o : Own) : (setOwn s o).tables = s.tables := by unfold setOwn; dsimp only; split <;> simp
@[simp] theorem setOwn_seals (s : State) (o : Own) : (setOwn s o).seals = s.seals := by unfold setOwn; dsimp only; split <;> simp
@[simp] theorem setOwn_direct (s : State) (o : Own) : (setOwn s o).direct = s.direct := by unfold setOwn; dsimp only; split <;> simp
@[simp] theorem setOwn_dies (s : State) (o : Own) : (setOwn s o).dies = s.dies := by unfold setOwn; dsimp only; split <;> simp
@[simp] theorem setOwn_links (s : State) (o : Own) : (setOwn s o).links = s.links := by unfold setOwn; dsimp only; split <;> simp
@[simp] theorem setOwn_holds (s : State) (o : Own) : (setOwn s o).holds = s.holds := by unfold setOwn; dsimp only; split <;> simp
@[simp] theorem setOwn_walkEnds (s : State) (o : Own) : (setOwn s o).walkEnds = s.walkEnds := by unfold setOwn; dsimp only; split <;> simp
@[simp] theorem setOwn_act (s : State) (o : Own) : (setOwn s o).act = s.act := by unfold setOwn; dsimp only; split <;> simp
@[simp] theorem setOwn_cache (s : State) (o : Own) : (setOwn s o).cache = s.cache := by unfold setOwn; dsimp only; split <;> simp
@[simp] theorem setOwn_learnQ (s : State) (o : Own) : (setOwn s o).learnQ = s.learnQ := by unfold setOwn; dsimp only; split <;> simp
@[simp] theorem setOwn_snaps (s : State) (o : Own) : (setOwn s o).snaps = s.snaps := by unfold setOwn; dsimp only; split <;> simp
@[simp] theorem setOwn_csc (s : State) (o : Own) : (setOwn s o).csc = s.csc := by unfold setOwn; dsimp only; split <;> simp
@[simp] theorem setOwn_spk (s : State) (o : Own) : (setOwn s o).spk = s.spk := by unfold setOwn; dsimp only; split <;> simp
@[simp] theorem setOwn_waitSnap (s : State) (o : Own) : (setOwn s o).waitSnap = s.waitSnap := by unfold setOwn; dsimp only; split <;> simp
@[simp] theorem setOwn_vault (s : State) (o : Own) : (setOwn s o).vault = s.vault := by unfold setOwn; dsimp only; split <;> simp
@[simp] theorem setOwn_power (s : State) (o : Own) : (setOwn s o).power = s.power := by unfold setOwn; dsimp only; split <;> simp
@[simp] theorem setOwn_stage (s : State) (o : Own) : (setOwn s o).stage = s.stage := by unfold setOwn; dsimp only; split <;> simp
@[simp] theorem setOwn_free (s : State) (o : Own) : (setOwn s o).free = s.free := by unfold setOwn; dsimp only; split <;> simp
@[simp] theorem setOwn_pending (s : State) (o : Own) : (setOwn s o).pending = s.pending := by unfold setOwn; dsimp only; split <;> simp

@[simp] theorem stageRec_now (s : State) (y t : Nat) (c : Option Nat) (b : JBody) : (stageRec s y t c b).now = s.now := by unfold stageRec; dsimp only; (repeat' split) <;> simp
@[simp] theorem stageRec_epoch (s : State) (y t : Nat) (c : Option Nat) (b : JBody) : (stageRec s y t c b).epoch = s.epoch := by unfold stageRec; dsimp only; (repeat' split) <;> simp
@[simp] theorem stageRec_due (s : State) (y t : Nat) (c : Option Nat) (b : JBody) : (stageRec s y t c b).due = s.due := by unfold stageRec; dsimp only; (repeat' split) <;> simp
@[simp] theorem stageRec_own (s : State) (y t : Nat) (c : Option Nat) (b : JBody) : (stageRec s y t c b).own = s.own := by unfold stageRec; dsimp only; (repeat' split) <;> simp
@[simp] theorem stageRec_mbox (s : State) (y t : Nat) (c : Option Nat) (b : JBody) : (stageRec s y t c b).mbox = s.mbox := by unfold stageRec; dsimp only; (repeat' split) <;> simp
@[simp] theorem stageRec_nextCmd (s : State) (y t : Nat) (c : Option Nat) (b : JBody) : (stageRec s y t c b).nextCmd = s.nextCmd := by unfold stageRec; dsimp only; (repeat' split) <;> simp
@[simp] theorem stageRec_rrMbox (s : State) (y t : Nat) (c : Option Nat) (b : JBody) : (stageRec s y t c b).rrMbox = s.rrMbox := by unfold stageRec; dsimp only; (repeat' split) <;> simp
@[simp] theorem stageRec_rrStart (s : State) (y t : Nat) (c : Option Nat) (b : JBody) : (stageRec s y t c b).rrStart = s.rrStart := by unfold stageRec; dsimp only; (repeat' split) <;> simp
@[simp] theorem stageRec_mem (s : State) (y t : Nat) (c : Option Nat) (b : JBody) : (stageRec s y t c b).mem = s.mem := by unfold stageRec; dsimp only; (repeat' split) <;> simp
@[simp] theorem stageRec_tables (s : State) (y t : Nat) (c : Option Nat) (b : JBody) : (stageRec s y t c b).tables = s.tables := by unfold stageRec; dsimp only; (repeat' split) <;> simp
@[simp] theorem stageRec_seals (s : State) (y t : Nat) (c : Option Nat) (b : JBody) : (stageRec s y t c b).seals = s.seals := by unfold stageRec; dsimp only; (repeat' split) <;> simp
@[simp] theorem stageRec_direct (s : State) (y t : Nat) (c : Option Nat) (b : JBody) : (stageRec s y t c b).direct = s.direct := by unfold stageRec; dsimp only; (repeat' split) <;> simp
@[simp] theorem stageRec_links (s : State) (y t : Nat) (c : Option Nat) (b : JBody) : (stageRec s y t c b).links = s.links := by unfold stageRec; dsimp only; (repeat' split) <;> simp
@[simp] theorem stageRec_holds (s : State) (y t : Nat) (c : Option Nat) (b : JBody) : (stageRec s y t c b).holds = s.holds := by unfold stageRec; dsimp only; (repeat' split) <;> simp
@[simp] theorem stageRec_walkEnds (s : State) (y t : Nat) (c : Option Nat) (b : JBody) : (stageRec s y t c b).walkEnds = s.walkEnds := by unfold stageRec; dsimp only; (repeat' split) <;> simp
@[simp] theorem stageRec_act (s : State) (y t : Nat) (c : Option Nat) (b : JBody) : (stageRec s y t c b).act = s.act := by unfold stageRec; dsimp only; (repeat' split) <;> simp
@[simp] theorem stageRec_cache (s : State) (y t : Nat) (c : Option Nat) (b : JBody) : (stageRec s y t c b).cache = s.cache := by unfold stageRec; dsimp only; (repeat' split) <;> simp
@[simp] theorem stageRec_learnQ (s : State) (y t : Nat) (c : Option Nat) (b : JBody) : (stageRec s y t c b).learnQ = s.learnQ := by unfold stageRec; dsimp only; (repeat' split) <;> simp
@[simp] theorem stageRec_snaps (s : State) (y t : Nat) (c : Option Nat) (b : JBody) : (stageRec s y t c b).snaps = s.snaps := by unfold stageRec; dsimp only; (repeat' split) <;> simp
@[simp] theorem stageRec_csc (s : State) (y t : Nat) (c : Option Nat) (b : JBody) : (stageRec s y t c b).csc = s.csc := by unfold stageRec; dsimp only; (repeat' split) <;> simp
@[simp] theorem stageRec_spk (s : State) (y t : Nat) (c : Option Nat) (b : JBody) : (stageRec s y t c b).spk = s.spk := by unfold stageRec; dsimp only; (repeat' split) <;> simp
@[simp] theorem stageRec_waitSnap (s : State) (y t : Nat) (c : Option Nat) (b : JBody) : (stageRec s y t c b).waitSnap = s.waitSnap := by unfold stageRec; dsimp only; (repeat' split) <;> simp
@[simp] theorem stageRec_power (s : State) (y t : Nat) (c : Option Nat) (b : JBody) : (stageRec s y t c b).power = s.power := by unfold stageRec; dsimp only; (repeat' split) <;> simp
@[simp] theorem stageRec_stage (s : State) (y t : Nat) (c : Option Nat) (b : JBody) : (stageRec s y t c b).stage = s.stage := by unfold stageRec; dsimp only; (repeat' split) <;> simp
@[simp] theorem stageRec_pending (s : State) (y t : Nat) (c : Option Nat) (b : JBody) : (stageRec s y t c b).pending = s.pending := by unfold stageRec; dsimp only; (repeat' split) <;> simp

@[simp] theorem stageCmd_now (s : State) (c : Cmd) (y : Nat) (b : JBody) : (stageCmd s c y b).now = s.now := by unfold stageCmd; simp
@[simp] theorem stageCmd_epoch (s : State) (c : Cmd) (y : Nat) (b : JBody) : (stageCmd s c y b).epoch = s.epoch := by unfold stageCmd; simp
@[simp] theorem stageCmd_due (s : State) (c : Cmd) (y : Nat) (b : JBody) : (stageCmd s c y b).due = s.due := by unfold stageCmd; simp
@[simp] theorem stageCmd_own (s : State) (c : Cmd) (y : Nat) (b : JBody) : (stageCmd s c y b).own = s.own := by unfold stageCmd; simp
@[simp] theorem stageCmd_mbox (s : State) (c : Cmd) (y : Nat) (b : JBody) : (stageCmd s c y b).mbox = s.mbox := by unfold stageCmd; simp
@[simp] theorem stageCmd_nextCmd (s : State) (c : Cmd) (y : Nat) (b : JBody) : (stageCmd s c y b).nextCmd = s.nextCmd := by unfold stageCmd; simp
@[simp] theorem stageCmd_rrMbox (s : State) (c : Cmd) (y : Nat) (b : JBody) : (stageCmd s c y b).rrMbox = s.rrMbox := by unfold stageCmd; simp
@[simp] theorem stageCmd_rrStart (s : State) (c : Cmd) (y : Nat) (b : JBody) : (stageCmd s c y b).rrStart = s.rrStart := by unfold stageCmd; simp
@[simp] theorem stageCmd_mem (s : State) (c : Cmd) (y : Nat) (b : JBody) : (stageCmd s c y b).mem = s.mem := by unfold stageCmd; simp
@[simp] theorem stageCmd_tables (s : State) (c : Cmd) (y : Nat) (b : JBody) : (stageCmd s c y b).tables = s.tables := by unfold stageCmd; simp
@[simp] theorem stageCmd_seals (s : State) (c : Cmd) (y : Nat) (b : JBody) : (stageCmd s c y b).seals = s.seals := by unfold stageCmd; simp
@[simp] theorem stageCmd_direct (s : State) (c : Cmd) (y : Nat) (b : JBody) : (stageCmd s c y b).direct = s.direct := by unfold stageCmd; simp
@[simp] theorem stageCmd_links (s : State) (c : Cmd) (y : Nat) (b : JBody) : (stageCmd s c y b).links = s.links := by unfold stageCmd; simp
@[simp] theorem stageCmd_holds (s : State) (c : Cmd) (y : Nat) (b : JBody) : (stageCmd s c y b).holds = s.holds := by unfold stageCmd; simp
@[simp] theorem stageCmd_walkEnds (s : State) (c : Cmd) (y : Nat) (b : JBody) : (stageCmd s c y b).walkEnds = s.walkEnds := by unfold stageCmd; simp
@[simp] theorem stageCmd_act (s : State) (c : Cmd) (y : Nat) (b : JBody) : (stageCmd s c y b).act = s.act := by unfold stageCmd; simp
@[simp] theorem stageCmd_cache (s : State) (c : Cmd) (y : Nat) (b : JBody) : (stageCmd s c y b).cache = s.cache := by unfold stageCmd; simp
@[simp] theorem stageCmd_learnQ (s : State) (c : Cmd) (y : Nat) (b : JBody) : (stageCmd s c y b).learnQ = s.learnQ := by unfold stageCmd; simp
@[simp] theorem stageCmd_snaps (s : State) (c : Cmd) (y : Nat) (b : JBody) : (stageCmd s c y b).snaps = s.snaps := by unfold stageCmd; simp
@[simp] theorem stageCmd_csc (s : State) (c : Cmd) (y : Nat) (b : JBody) : (stageCmd s c y b).csc = s.csc := by unfold stageCmd; simp
@[simp] theorem stageCmd_spk (s : State) (c : Cmd) (y : Nat) (b : JBody) : (stageCmd s c y b).spk = s.spk := by unfold stageCmd; simp
@[simp] theorem stageCmd_waitSnap (s : State) (c : Cmd) (y : Nat) (b : JBody) : (stageCmd s c y b).waitSnap = s.waitSnap := by unfold stageCmd; simp
@[simp] theorem stageCmd_power (s : State) (c : Cmd) (y : Nat) (b : JBody) : (stageCmd s c y b).power = s.power := by unfold stageCmd; simp
@[simp] theorem stageCmd_stage (s : State) (c : Cmd) (y : Nat) (b : JBody) : (stageCmd s c y b).stage = s.stage := by unfold stageCmd; simp
@[simp] theorem stageCmd_pending (s : State) (c : Cmd) (y : Nat) (b : JBody) : (stageCmd s c y b).pending = s.pending := by unfold stageCmd; simp

@[simp] theorem setOwn_own (s : State) (o : Own) : (setOwn s o).own = o := by unfold setOwn; dsimp only; split <;> simp

end Sys2Proof.Machine
end

