-- ==== Sys2Proof/Laws/Maps.lean ====
section
/-! SUPPORT. Sparse maps, and the registers read after an update: what is set reads back, everything else reads
as before. -/

namespace Sys2Proof.Machine

@[simp] theorem mapGet_mapSet_same {α : Type} (m : NMap α) (k : Nat) (v : α) : mapGet (mapSet m k v) k = some v := by
  induction m with
  | nil => simp [mapSet, mapGet]
  | cons p m ih => obtain ⟨j, w⟩ := p; simp only [mapSet]; grind [mapGet]

theorem mapGet_mapSet_ne {α : Type} (m : NMap α) (k j : Nat) (v : α) (h : j ≠ k) : mapGet (mapSet m k v) j = mapGet m j := by
  induction m with
  | nil => simp [mapSet, mapGet]; omega
  | cons p m ih => obtain ⟨i, w⟩ := p; simp only [mapSet]; grind [mapGet]

theorem mapGet_mapSet {α : Type} (m : NMap α) (k j : Nat) (v : α) : mapGet (mapSet m k v) j = if j = k then some v else mapGet m j := by
  split
  · subst j; simp
  · exact mapGet_mapSet_ne m k j v ‹_›

@[simp] theorem mapGet_mapErase_same {α : Type} (m : NMap α) (k : Nat) : mapGet (mapErase m k) k = none := by
  induction m with
  | nil => rfl
  | cons p m ih => obtain ⟨i, w⟩ := p; simp only [mapErase]; grind [mapGet]

theorem mapGet_mapErase_ne {α : Type} (m : NMap α) (k j : Nat) (h : j ≠ k) : mapGet (mapErase m k) j = mapGet m j := by
  induction m with
  | nil => rfl
  | cons p m ih => obtain ⟨i, w⟩ := p; simp only [mapErase]; grind [mapGet]

/-! ### Lists of units -/

@[simp] theorem length_listMod {α : Type} (l : List α) (k : Nat) (f : α → α) : (listMod l k f).length = l.length := by
  induction l generalizing k with
  | nil => rfl
  | cons a l ih => cases k <;> simp_all [listMod]

theorem getD_listMod {α : Type} (l : List α) (k j : Nat) (f : α → α) (d : α) (hk : k < l.length) :
    (listMod l k f).getD j d = if j = k then f (l.getD k d) else l.getD j d := by
  induction l generalizing k j with
  | nil => simp at hk
  | cons a l ih => cases k <;> cases j <;> simp_all [listMod]

/-- A port whose link runs is one of the module's ports. -/
theorem linkUp_lt (s : State) (p : Nat) (h : linkUp (s.link p) = true) : p < s.links.length := by
  by_cases q : p < s.links.length
  · exact q
  · have : s.link p = Link.reset := by simp [State.link, List.getD_eq_getElem?_getD, List.getElem?_eq_none (Nat.le_of_not_lt q)]
    rw [this] at h; exact absurd h (by decide)

theorem link_modLink (s : State) (p q : Nat) (f : Link → Link) (h : p < s.links.length) :
    (s.modLink p f).link q = if q = p then f (s.link p) else s.link q := getD_listMod _ _ _ _ _ h

theorem box_modBox (s : State) (p q : Nat) (f : Mbox → Mbox) (h : p < s.mbox.length) :
    (s.modBox p f).box q = if q = p then f (s.box p) else s.box q := getD_listMod _ _ _ _ _ h

/-! ### Live values -/

@[simp] theorem live_setLive_same (s : State) (a : Nat) (v : Word) : (s.setLive a v).live a = v := by
  simp [State.live, State.setLive, mapGetD]

theorem live_setLive_ne (s : State) (a b : Nat) (v : Word) (h : b ≠ a) : (s.setLive a v).live b = s.live b := by
  simp [State.live, State.setLive, mapGetD, mapGet_mapSet_ne _ _ _ _ h]

theorem live_of_regs {s t : State} (h : t.regs.live = s.regs.live) (a : Nat) : t.live a = s.live a := by
  simp [State.live, h]

@[simp] theorem live_metPut (s : State) (a b : Nat) (w : Word) (n : Nat) : (metPut s a w n).live b = s.live b := rfl

@[simp] theorem live_setBuf (s : State) (a b : Nat) (v : Word) : (s.setBuf a v).live b = s.live b := rfl

@[simp] theorem buffer_setBuf_same (s : State) (a : Nat) (v : Word) : (s.setBuf a v).buffer a = v := by
  simp [State.buffer, State.setBuf, mapGetD]

theorem live_setBits_same (s : State) (a v : Nat) : (s.setBits a v).live a = s.live a ||| word v := by
  simp only [State.setBits, live_setLive_same]; split <;> simp

theorem live_setBits_ne (s : State) (a b v : Nat) (h : b ≠ a) : (s.setBits a v).live b = s.live b := by
  simp only [State.setBits, live_setLive_ne _ _ _ _ h]; split <;> simp

theorem live_clrBits_same (s : State) (a v : Nat) : (s.clrBits a v).live a = s.live a &&& ~~~ word v := by
  simp [State.clrBits]

theorem live_clrBits_ne (s : State) (a b v : Nat) (h : b ≠ a) : (s.clrBits a v).live b = s.live b :=
  live_setLive_ne _ _ _ _ h

theorem live_bump_same (s : State) (a n : Nat) : (s.bump a n).live a = word (min 0xFFFFFFFF ((s.live a).toNat + n)) := by
  simp only [State.bump, live_setLive_same]; split <;> simp

theorem live_bump_ne (s : State) (a b n : Nat) (h : b ≠ a) : (s.bump a n).live b = s.live b := by
  simp only [State.bump, live_setLive_ne _ _ _ _ h]; split <;> simp

theorem live_bumpField_ne (s : State) (a b hi lo n : Nat) (h : b ≠ a) : (s.bumpField a hi lo n).live b = s.live b := by
  simp only [State.bumpField, live_setLive_ne _ _ _ _ h]; split <;> simp

theorem live_setField_ne (s : State) (a b hi lo v : Nat) (h : b ≠ a) : (s.setField a hi lo v).live b = s.live b :=
  live_setLive_ne _ _ _ _ h

/-! ### Live values when an event is raised -/

/-- The registers that raising an event can change: the status words of the sources, EVT_DROP and the Pending Bit
Arrays of the ports. -/
def evReg (a : Nat) : Bool :=
  (decide (0x20000 ≤ a) && decide (a < 0x21000)) || (decide (0x171000 ≤ a % 0x1000000) && decide (a % 0x1000000 < 0x172000))

theorem live_sendMsix (s : State) (p v b : Nat) (h : evReg b = false) (hv : v < 64) : (sendMsix s p v).live b = s.live b := by
  have : b ≠ portKey p (0x171000 + 4 * (v / 32)) := by
    intro e; subst e
    have e : portKey p (0x171000 + 4 * (v / 32)) % 0x1000000 = 0x171000 + 4 * (v / 32) := by unfold portKey; omega
    simp [evReg, e] at h
    omega
  simp only [sendMsix]
  split
  · rfl
  · split
    · exact live_setBits_ne _ _ _ _ this
    · split <;> rfl

theorem live_raiseVec (s : State) (p v b : Nat) (h : evReg b = false) (hv : v < 64) : (raiseVec s p v).live b = s.live b := by
  simp only [raiseVec]
  split
  · rfl
  · exact live_sendMsix _ _ _ _ h hv

theorem live_deliver (s : State) (p src b : Nat) (h : evReg b = false) (hs : src < 704) : (deliver s p src).live b = s.live b := by
  simp only [deliver]
  split
  · exact live_raiseVec _ _ _ _ h (by omega)
  · rfl

theorem live_raise (s : State) (e : Ev) (o0 o1 o2 b : Nat) (h : evReg b = false) (hs : e.src < 704) :
    (s.raise e o0 o1 o2).live b = s.live b := by
  have h1 : b ≠ 0x20000 + e.src / 16 * 4 := by
    intro k; subst k
    simp only [evReg, Bool.or_eq_false_iff, Bool.and_eq_false_iff, decide_eq_false_iff_not] at h
    omega
  have h2 : b ≠ 0x20920 := by intro k; subst k; simp [evReg] at h
  simp only [State.raise, recordEvent]
  split
  · show ((State.setBits s _ _).bump 0x20920).live b = _
    rw [live_bump_ne _ _ _ _ h2, live_setBits_ne _ _ _ _ h1]
  · rw [live_deliver _ _ _ _ h hs, live_deliver _ _ _ _ h hs, live_deliver _ _ _ _ h hs, live_deliver _ _ _ _ h hs]
    exact live_setBits_ne _ _ _ _ h1

theorem live_raiseOnce (s : State) (e : Ev) (k o0 o1 o2 b : Nat) (h : evReg b = false) (hs : e.src < 704) :
    (s.raiseOnce e k o0 o1 o2).live b = s.live b := by
  have h1 : b ≠ 0x20000 + e.src / 16 * 4 := by
    intro k; subst k
    simp only [evReg, Bool.or_eq_false_iff, Bool.and_eq_false_iff, decide_eq_false_iff_not] at h
    omega
  simp only [State.raiseOnce]
  split
  · exact live_setBits_ne _ _ _ _ h1
  · rw [live_raise _ _ _ _ _ _ h hs]; rfl

theorem live_heldAction (s : State) (k o b : Nat) (h : evReg b = false) (hb : b ≠ 0x30018) : (heldAction s k o).live b = s.live b := by
  simp only [heldAction]
  split
  · rw [live_raise _ _ _ _ _ _ h (by decide), live_bumpField_ne _ _ _ _ _ _ hb]
  · rfl

/-! ### Whole states -/

/-- Two states with the same fields are the same. -/
theorem State.same_fields {s t : State} (hnow : s.now = t.now) (hepoch : s.epoch = t.epoch) (hdue : s.due = t.due) (hown : s.own = t.own) (hmbox : s.mbox = t.mbox) (hcmds : s.cmds = t.cmds) (hnextCmd : s.nextCmd = t.nextCmd) (hrrMbox : s.rrMbox = t.rrMbox) (hrrStart : s.rrStart = t.rrStart) (hregs : s.regs = t.regs) (hmem : s.mem = t.mem) (htables : s.tables = t.tables) (hseals : s.seals = t.seals) (hdirect : s.direct = t.direct) (hdies : s.dies = t.dies) (hlinks : s.links = t.links) (hholds : s.holds = t.holds) (hwalkEnds : s.walkEnds = t.walkEnds) (hact : s.act = t.act) (hcache : s.cache = t.cache) (hlearnQ : s.learnQ = t.learnQ) (hsnaps : s.snaps = t.snaps) (hcsc : s.csc = t.csc) (hspk : s.spk = t.spk) (hwaitSnap : s.waitSnap = t.waitSnap) (hvault : s.vault = t.vault) (hmgmt : s.mgmt = t.mgmt) (hpower : s.power = t.power) (hstage : s.stage = t.stage) (hout : s.out = t.out) (hfree : s.free = t.free) (hpending : s.pending = t.pending) : s = t := by
  cases s; cases t; simp_all

/-! ### Words and bytes -/

theorem bytesLE_length (n v : Nat) : (bytesLE n v).length = n := by
  induction n generalizing v with
  | zero => rfl
  | succ n ih => simp [bytesLE, ih]

theorem natLE_bytesLE (n v : Nat) : natLE (bytesLE n v) = v % 256 ^ n := by
  induction n generalizing v with
  | zero => simp [bytesLE, natLE, Nat.mod_one]
  | succ n ih =>
    simp only [bytesLE, natLE, ih, BitVec.toNat_ofNat]
    show v % 256 + 256 * (v / 256 % 256 ^ n) = v % 256 ^ (n + 1)
    rw [Nat.pow_succ, Nat.mul_comm (256 ^ n) 256, Nat.mod_mul]

theorem word_bytes (v : Word) : word (natLE (bytesLE 4 v.toNat)) = v := by
  rw [natLE_bytesLE, Nat.mod_eq_of_lt (Nat.lt_of_lt_of_le v.isLt (by decide))]
  simp [word]

end Sys2Proof.Machine
end

