-- ==== Sys2Proof/Laws/Events.lean ====
section
/-! SUPPORT. Raising an event sets its status bit, clears none, and leaves every other register but EVT_DROP and the
Pending Bit Arrays (R409 to R411). -/
namespace Sys2Proof.Machine

/-- A Pending Bit Array of a port. -/
def pbaReg (a : Nat) : Bool := decide (0x171000 ≤ a % 0x1000000) && decide (a % 0x1000000 < 0x172000)

theorem sendMsix_keeps_live (s : State) (p v b : Nat) (h : pbaReg b = false) (hv : v < 64) : (sendMsix s p v).live b = s.live b := by
  have : b ≠ portKey p (0x171000 + 4 * (v / 32)) := by
    intro e; subst e
    have e : portKey p (0x171000 + 4 * (v / 32)) % 0x1000000 = 0x171000 + 4 * (v / 32) := by unfold portKey; omega
    simp [pbaReg, e] at h
    omega
  simp only [sendMsix]
  split
  · rfl
  · split
    · exact live_setBits_ne _ _ _ _ this
    · split <;> rfl

theorem deliver_keeps_live (s : State) (p src b : Nat) (h : pbaReg b = false) (hs : src < 704) : (deliver s p src).live b = s.live b := by
  simp only [deliver]
  split
  · simp only [raiseVec]
    split
    · rfl
    · exact sendMsix_keeps_live _ _ _ _ h (by omega)
  · rfl

theorem recordEvent_keeps_live (s : State) (e : Ev) (o0 o1 o2 : Word) (b : Nat) (h : pbaReg b = false) (hd : b ≠ 0x20920)
    (hs : e.src < 704) : (recordEvent s e o0 o1 o2).live b = s.live b := by
  simp only [recordEvent]
  split
  · exact live_bump_ne _ _ _ _ hd
  · rw [deliver_keeps_live _ _ _ _ h hs, deliver_keeps_live _ _ _ _ h hs, deliver_keeps_live _ _ _ _ h hs, deliver_keeps_live _ _ _ _ h hs]
    rfl

/-- The status word of a source is neither EVT_DROP nor a Pending Bit Array. -/
theorem statusWord (n : Nat) (h : n < 44) : pbaReg (0x20000 + n * 4) = false ∧ 0x20000 + n * 4 ≠ 0x20920 := by
  simp only [pbaReg, Bool.and_eq_false_iff, decide_eq_false_iff_not]
  omega

/-- Raising an event sets its status bit (R409). -/
theorem raise_flags (s : State) (e : Ev) (o0 o1 o2 : Nat) (hs : e.src < 704) :
    bit ((s.raise e o0 o1 o2).live (0x20000 + e.src / 16 * 4)) (e.src % 16) = true := by
  have h := statusWord (e.src / 16) (by omega)
  rw [State.raise, recordEvent_keeps_live _ _ _ _ _ _ h.1 h.2 hs, live_setBits_same]
  have : 2 ^ (e.src % 16) < 2 ^ 32 := Nat.pow_lt_pow_right (by decide) (by omega)
  simp only [bit, word, BitVec.toNat_or, BitVec.toNat_ofNat, Nat.mod_eq_of_lt this, Nat.testBit_or, Nat.testBit_two_pow_self, Bool.or_true]

/-- A status bit that is set stays set when an event is raised. -/
theorem raise_keeps_flag (s : State) (e : Ev) (o0 o1 o2 n i : Nat) (hs : e.src < 704) (hn : n < 44)
    (h : bit (s.live (0x20000 + n * 4)) i = true) : bit ((s.raise e o0 o1 o2).live (0x20000 + n * 4)) i = true := by
  have k := statusWord n hn
  rw [State.raise, recordEvent_keeps_live _ _ _ _ _ _ k.1 k.2 hs]
  by_cases q : 0x20000 + n * 4 = 0x20000 + e.src / 16 * 4
  · rw [q, live_setBits_same, ← q]
    simp only [bit] at h ⊢
    rw [BitVec.toNat_or, Nat.testBit_or, h, Bool.true_or]
  · rw [live_setBits_ne _ _ _ _ q]; exact h

end Sys2Proof.Machine
end

