-- ==== Sys2Proof/Laws/Memory.lean ====
section
/-! SUPPORT. The shared banks: every write keeps the canonical form, a read after a write gives the byte
written, and every other byte stays. -/

namespace Sys2Proof.Machine

/-- Every listed offset is at least `lo`. -/
def memFrom (lo : Nat) (m : List Host.Cell) : Prop := ∀ c ∈ m, lo ≤ c.1

theorem memWf_cons (a : Nat) (b : Byte) (m : List Host.Cell) :
    memWf ((a, b) :: m) = true ↔ a < bankSize ∧ b ≠ 0 ∧ memFrom (a + 1) m ∧ memWf m = true := by
  cases m with
  | nil => simp [memWf, memFrom]
  | cons c m =>
    obtain ⟨a', b'⟩ := c
    constructor
    · intro h
      have h' := h
      induction m generalizing a b a' b' with
      | nil => simp_all [memWf, memFrom]; omega
      | cons d m ih =>
        obtain ⟨a2, b2⟩ := d
        simp only [memWf, Bool.and_eq_true, decide_eq_true_eq, bne_iff_ne, ne_eq] at h
        obtain ⟨⟨h1, h2⟩, h3⟩ := h
        have h4 := ih a' b' a2 b2 (by simpa [memWf] using h3) (by simpa [memWf] using h3)
        refine ⟨by omega, h2, ?_, by simpa [memWf] using h3⟩
        intro c hc
        rcases List.mem_cons.mp hc with rfl | hc
        · show a + 1 ≤ a'
          omega
        · have := h4.2.2.1 c hc
          omega
    · rintro ⟨-, h2, h3, h4⟩
      have := h3 (a', b') (by simp)
      simp only [memWf, Bool.and_eq_true, decide_eq_true_eq, bne_iff_ne, ne_eq]
      exact ⟨⟨this, h2⟩, h4⟩

theorem memFrom_mono {lo hi : Nat} {m : List Host.Cell} (h : lo ≤ hi) (hm : memFrom hi m) : memFrom lo m :=
  fun c hc => Nat.le_trans h (hm c hc)

theorem memPut_from (m : List Host.Cell) (lo a : Nat) (v : Byte) (h : lo ≤ a) (hm : memFrom lo m) : memFrom lo (memPut m a v) := by
  induction m with
  | nil =>
    simp only [memPut]
    split
    · exact hm
    · intro c hc; simp_all
  | cons d m ih =>
    obtain ⟨j, b⟩ := d
    have hj : lo ≤ j := hm (j, b) (by simp)
    have ht : memFrom lo m := fun c hc => hm c (by simp [hc])
    intro c hc
    simp only [memPut] at hc
    repeat' split at hc
    all_goals grind [memFrom]

/-- A write of a byte keeps the canonical form. -/
theorem memPut_wf (m : List Host.Cell) (a : Nat) (v : Byte) (ha : a < bankSize) (h : memWf m = true) : memWf (memPut m a v) = true := by
  induction m with
  | nil =>
    simp only [memPut]
    split
    · rfl
    · simp_all [memWf]
  | cons d m ih =>
    obtain ⟨j, b⟩ := d
    obtain ⟨h1, h2, h3, h4⟩ := (memWf_cons j b m).mp h
    simp only [memPut]
    repeat' split
    · exact h
    · exact (memWf_cons _ _ _).mpr ⟨ha, by assumption, fun c hc => by
        rcases List.mem_cons.mp hc with rfl | hc
        · show a + 1 ≤ j; omega
        · have := h3 c hc; omega, h⟩
    · exact h4
    · subst_vars; exact (memWf_cons _ _ _).mpr ⟨ha, by assumption, h3, h4⟩
    · exact (memWf_cons _ _ _).mpr ⟨h1, h2, memPut_from m (j + 1) a v (by omega) h3, ih h4⟩

theorem memWrite_wf (m : List Host.Cell) (a : Nat) (v : Byte) (h : memWf m = true) : memWf (memWrite m a v) = true := by
  unfold memWrite
  split
  · exact memPut_wf m a v (by assumption) h
  · exact h

/-- A write of bytes keeps the canonical form. -/
theorem memWriteAll_wf (m : List Host.Cell) (a : Nat) (l : List Byte) (h : memWf m = true) : memWf (memWriteAll m a l) = true := by
  induction l generalizing m a with
  | nil => exact h
  | cons b l ih => exact ih _ _ (memWrite_wf m a b h)

theorem memFilter_wf (p : Host.Cell → Bool) (m : List Host.Cell) (h : memWf m = true) : memWf (m.filter p) = true := by
  induction m with
  | nil => rfl
  | cons d m ih =>
    obtain ⟨j, b⟩ := d
    obtain ⟨h1, h2, h3, h4⟩ := (memWf_cons j b m).mp h
    rw [List.filter_cons]
    split
    · exact (memWf_cons _ _ _).mpr ⟨h1, h2, fun c hc => h3 c (List.mem_filter.mp hc).1, ih h4⟩
    · exact ih h4

theorem memRead_from (m : List Host.Cell) (lo a : Nat) (h : a < lo) (hm : memFrom lo m) : memRead m a = 0 := by
  induction m with
  | nil => rfl
  | cons d m ih =>
    obtain ⟨j, b⟩ := d
    have : lo ≤ j := hm (j, b) (by simp)
    simp only [memRead]
    rw [if_neg (by omega)]
    exact ih (fun c hc => hm c (by simp [hc]))

/-- What a byte reads as after a write of one byte. -/
theorem memPut_read (m : List Host.Cell) (a : Nat) (v : Byte) (x : Nat) (h : memWf m = true) :
    memRead (memPut m a v) x = if x = a then v else memRead m x := by
  induction m with
  | nil =>
    simp only [memPut]
    split <;> grind [memRead]
  | cons d m ih =>
    obtain ⟨j, b⟩ := d
    obtain ⟨-, -, h3, h4⟩ := (memWf_cons j b m).mp h
    have h0 := memRead_from m (j + 1)
    have ih := ih h4
    simp only [memPut]
    repeat' split
    all_goals grind [memRead]

theorem memWrite_read (m : List Host.Cell) (a : Nat) (v : Byte) (x : Nat) (ha : a < bankSize) (h : memWf m = true) :
    memRead (memWrite m a v) x = if x = a then v else memRead m x := by
  rw [memWrite, if_pos ha, memPut_read m a v x h]

/-- Bytes outside a write read as before. -/
theorem memWriteAll_other (m : List Host.Cell) (a : Nat) (l : List Byte) (x : Nat) (h : memWf m = true)
    (hx : x < a ∨ a + l.length ≤ x) : memRead (memWriteAll m a l) x = memRead m x := by
  induction l generalizing m a with
  | nil => rfl
  | cons b l ih =>
    rw [memWriteAll, ih _ _ (memWrite_wf m a b h) (by simp only [List.length_cons] at hx; omega)]
    unfold memWrite
    split
    · rw [memPut_read m a b x h, if_neg (by simp only [List.length_cons] at hx; omega)]
    · rfl

/-- The bytes of a write read as they were written. -/
theorem memWriteAll_read (m : List Host.Cell) (a : Nat) (l : List Byte) (k : Nat) (h : memWf m = true)
    (hk : k < l.length) (ha : a + l.length ≤ bankSize) : memRead (memWriteAll m a l) (a + k) = l.getD k 0 := by
  induction l generalizing m a k with
  | nil => simp at hk
  | cons b l ih =>
    simp only [List.length_cons] at hk ha
    rw [memWriteAll]
    cases k with
    | zero =>
      rw [memWriteAll_other _ _ _ _ (memWrite_wf m a b h) (by omega), memWrite_read m a b _ (by omega) h]
      simp
    | succ k =>
      have := ih (memWrite m a b) (a + 1) k (memWrite_wf m a b h) (by omega) (by omega)
      rw [show a + (k + 1) = a + 1 + k by omega, this]
      rfl

end Sys2Proof.Machine
end

