-- ==== Sys2Proof/Laws/StillOps.lean ====
section
/-! SUPPORT. Operations that leave the shared banks, the queue and the epoch counter as they were: the named operations, the register file, the mailboxes, ownership and the tables. -/

namespace Sys2Proof.Machine

/-- What most operations leave as it was: the bytes of the shared banks, the queue of commands and the epoch counter. -/
def State.still (s : State) : List Host.Cell × List Instr × Nat := (s.mem, s.pending, s.epoch.count)

theorem still_eta (s : State) : (s.mem, s.pending, s.epoch.count) = s.still := rfl

theorem still_mk (now epoch due own mbox cmds nextCmd rrMbox rrStart regs mem tables seals direct dies links holds walkEnds act cache learnQ snaps csc spk waitSnap vault mgmt power stage out free pending) :
    State.still (State.mk now epoch due own mbox cmds nextCmd rrMbox rrStart regs mem tables seals direct dies links holds walkEnds act cache learnQ snaps csc spk waitSnap vault mgmt power stage out free pending)
      = (mem, pending, epoch.count) := rfl
theorem ite_still (c : Prop) [Decidable c] (a b : State) : (if c then a else b).still = if c then a.still else b.still := by split <;> rfl
theorem ite_of {c : Prop} [Decidable c] {a b s : State} (ha : a.still = s.still) (hb : b.still = s.still) :
    (if c then a else b).still = s.still := by split <;> assumption
theorem ite_p {α : Type} {c : Prop} [Decidable c] {a b : α × State} {s : State} (ha : a.2.still = s.still) (hb : b.2.still = s.still) :
    (if c then a else b).2.still = s.still := by split <;> assumption
theorem foldl_still {α : Type} (f : State → α → State) (h : ∀ s a, (f s a).still = s.still) (l : List α) (s : State) :
    (l.foldl f s).still = s.still := by
  induction l generalizing s with
  | nil => rfl
  | cons a l ih => exact (ih (f s a)).trans (h s a)
theorem foldl_keep {α β : Type} (P : β → Prop) (f : β → α → β) (h : ∀ q a, P q → P (f q a)) (l : List α) (q : β) (hq : P q) :
    P (l.foldl f q) := by
  induction l generalizing q with
  | nil => exact hq
  | cons a l ih => exact ih (f q a) (h q a hq)

theorem emit_still (o) (s : State) : (emit o s).still = s.still := by
  unfold emit
  simp only [still_mk, still_eta, ite_still, ite_self]

theorem draw_still {s : State} {v1 z} (h : draw s = (v1, z)) : z.still = s.still := by
  unfold draw at h
  grind [still_mk, still_eta]

theorem advance_still (t) (s : State) : (advance t s).still = s.still := by
  unfold advance
  simp only [still_mk, still_eta, ite_still, ite_self]

theorem askSlots_still (s : State) (d g) (u req) (n who) : (askSlots s d g u req n who).still = s.still := by
  unfold askSlots
  simp only [still_mk, still_eta, ite_still, ite_self]

theorem askStack_still (s : State) (k req n order who) : (askStack s k req n order who).still = s.still := by
  unfold askStack
  split <;> rfl

theorem askDram_still (s : State) (req a len order who) : (askDram s req a len order who).still = s.still := by
  unfold askDram
  simp only [ite_still, askStack_still, ite_self]

theorem State.setTable_still (s : State) (t x) : (State.setTable s t x).still = s.still := by
  unfold State.setTable
  simp only [still_mk, still_eta, ite_still, ite_self]

theorem State.modTable_still (s : State) (t f) : (State.modTable s t f).still = s.still := by
  unfold State.modTable
  repeat' (first | rfl | (simp only [still_mk, still_eta, ite_still, ite_self, State.setTable_still]; done) | split)
  all_goals simp only [still_mk, still_eta, ite_still, ite_self, State.setTable_still]

theorem State.modLink_still (s : State) (p f) : (State.modLink s p f).still = s.still := by
  unfold State.modLink
  simp only [still_mk, still_eta, ite_still, ite_self]

theorem State.modBox_still (s : State) (m f) : (State.modBox s m f).still = s.still := by
  unfold State.modBox
  simp only [still_mk, still_eta, ite_still, ite_self]

theorem State.modCmds_still (s : State) (p f) : (State.modCmds s p f).still = s.still := by
  unfold State.modCmds
  simp only [still_mk, still_eta, ite_still, ite_self]

theorem State.setLive_still (s : State) (a v) : (State.setLive s a v).still = s.still := by
  unfold State.setLive
  simp only [still_mk, still_eta, ite_still, ite_self]

theorem State.setBuf_still (s : State) (a v) : (State.setBuf s a v).still = s.still := by
  unfold State.setBuf
  simp only [still_mk, still_eta, ite_still, ite_self]

theorem State.setBoth_still (s : State) (a v) : (State.setBoth s a v).still = s.still := by
  unfold State.setBoth
  simp only [still_mk, still_eta, ite_still, ite_self, State.setLive_still, State.setBuf_still]

theorem metPut_still (s : State) (a w n) : (metPut s a w n).still = s.still := by
  unfold metPut
  simp only [still_mk, still_eta, ite_still, ite_self]

theorem State.bump_still (s : State) (a n) : (State.bump s a n).still = s.still := by
  unfold State.bump
  repeat' (first | rfl | (simp only [still_mk, still_eta, ite_still, ite_self, metPut_still, State.setLive_still]; done) | split)
  all_goals simp only [still_mk, still_eta, ite_still, ite_self, metPut_still, State.setLive_still]

theorem State.bumpField_still (s : State) (a hi) (lo n) : (State.bumpField s a hi lo n).still = s.still := by
  unfold State.bumpField
  repeat' (first | rfl | (simp only [still_mk, still_eta, ite_still, ite_self, metPut_still, State.setLive_still]; done) | split)
  all_goals simp only [still_mk, still_eta, ite_still, ite_self, metPut_still, State.setLive_still]

theorem State.setField_still (s : State) (a hi) (lo v) : (State.setField s a hi lo v).still = s.still := by
  unfold State.setField
  simp only [still_mk, still_eta, ite_still, ite_self, State.setLive_still]

theorem State.setBits_still (s : State) (a v) : (State.setBits s a v).still = s.still := by
  unfold State.setBits
  repeat' (first | rfl | (simp only [still_mk, still_eta, ite_still, ite_self, metPut_still, State.setLive_still]; done) | split)
  all_goals simp only [still_mk, still_eta, ite_still, ite_self, metPut_still, State.setLive_still]

theorem State.clrBits_still (s : State) (a v) : (State.clrBits s a v).still = s.still := by
  unfold State.clrBits
  simp only [still_mk, still_eta, ite_still, ite_self, State.setLive_still]

theorem sendMsix_still (s : State) (port v) : (sendMsix s port v).still = s.still := by
  unfold sendMsix
  simp only [still_mk, still_eta, ite_still, ite_self, State.setBits_still, emit_still]

theorem raiseVec_still (s : State) (port v) : (raiseVec s port v).still = s.still := by
  unfold raiseVec
  simp only [still_mk, still_eta, ite_still, ite_self, sendMsix_still]

theorem deliver_still (s : State) (port src) : (deliver s port src).still = s.still := by
  unfold deliver
  simp only [still_mk, still_eta, ite_still, ite_self, raiseVec_still]

theorem recordEvent_still (s : State) (e o0) (o1 o2) : (recordEvent s e o0 o1 o2).still = s.still := by
  unfold recordEvent
  simp only [still_mk, still_eta, ite_still, ite_self, State.bump_still, deliver_still]

theorem State.raise_still (s : State) (e o0) (o1 o2) : (State.raise s e o0 o1 o2).still = s.still := by
  unfold State.raise
  simp only [still_mk, still_eta, ite_still, ite_self, recordEvent_still, State.setBits_still]

theorem softWrite_still (s : State) (a) : (softWrite s a).still = s.still := by
  unfold softWrite
  simp only [still_mk, still_eta, ite_still, ite_self]

theorem hardChange_still (s : State) (a m) : (hardChange s a m).still = s.still := by
  unfold hardChange
  simp only [still_mk, still_eta, ite_still, ite_self, State.raise_still]
  repeat' split
  all_goals simp only [still_mk, still_eta, ite_still, ite_self, State.raise_still]

theorem State.raiseOnce_still (s : State) (e key) (o0 o1 o2) : (State.raiseOnce s e key o0 o1 o2).still = s.still := by
  unfold State.raiseOnce
  simp only [still_mk, still_eta, ite_still, ite_self, State.setBits_still, State.raise_still]

theorem stepVectors_still (s : State) : (stepVectors s).still = s.still := by
  unfold stepVectors
  repeat' (first | with_reducible rfl | with_reducible refine (foldl_still _ (fun s a => ?_) _ _).trans ?_ | (simp only [still_mk,
                                          still_eta, ite_still, ite_self, raiseVec_still]) | split)
  all_goals grind (splits := 0) [still_mk, still_eta, raiseVec_still]

theorem heldAction_still (s : State) (k o) : (heldAction s k o).still = s.still := by
  unfold heldAction
  simp only [still_mk, still_eta, ite_still, ite_self, State.bumpField_still, State.raise_still]

theorem bankConflict_still (s : State) (b m) : (bankConflict s b m).still = s.still := by
  unfold bankConflict
  simp only [still_mk, still_eta, ite_still, ite_self, State.bump_still]

theorem bankOrder_still (s : State) (b m) : (bankOrder s b m).still = s.still := by
  unfold bankOrder
  simp only [still_mk, still_eta, ite_still, ite_self, advance_still, bankConflict_still]
  repeat' split
  all_goals simp only [still_mk, still_eta, ite_still, ite_self, advance_still, bankConflict_still]

theorem bankTouch_still (s : State) (m a) : (bankTouch s m a).still = s.still := by
  unfold bankTouch
  simp only [still_mk, still_eta, ite_still, ite_self, bankOrder_still, bankConflict_still, State.bump_still]
  repeat' split
  all_goals simp only [still_mk, still_eta, ite_still, ite_self, bankOrder_still, bankConflict_still, State.bump_still]

theorem bankRead_still {s : State} {m a} {n v1 z} (h : bankRead s m a n = (v1, z)) : z.still = s.still := by
  unfold bankRead at h
  grind [still_mk, still_eta, bankTouch_still]

theorem mbErr_still (s : State) (m b) : (mbErr s m b).still = s.still := by
  unfold mbErr
  simp only [still_mk, still_eta, ite_still, ite_self, sendMsix_still, State.setBits_still]

theorem markRings_still (s : State) (m) : (markRings s m).still = s.still := by
  unfold markRings
  simp only [still_mk, still_eta, ite_still, ite_self, State.modBox_still]

theorem doDoorbell_still (s : State) (m r t) : (doDoorbell s m r t).still = s.still := by
  unfold doDoorbell
  simp only [still_mk, still_eta, ite_still, ite_self, markRings_still, State.modBox_still, mbErr_still, State.raise_still]

theorem doCplHead_still (s : State) (m h) : (doCplHead s m h).still = s.still := by
  unfold doCplHead
  simp only [still_mk, still_eta, ite_still, ite_self, markRings_still, State.modBox_still, mbErr_still, State.raise_still]

theorem finishAs_still (s : State) (id status) (handle vis held) : (finishAs s id status handle vis held).still = s.still := by
  unfold finishAs
  repeat' (first | rfl | (simp only [still_mk, still_eta, ite_still, ite_self, State.modCmds_still, State.setBits_still,
                                          State.bump_still, State.raise_still]; done) | split)
  all_goals simp only [still_mk, still_eta, ite_still, ite_self, State.modCmds_still, State.setBits_still, State.bump_still,
      State.raise_still]

theorem finish_still (s : State) (id status) (handle vis) : (finish s id status handle vis).still = s.still := by
  unfold finish
  simp only [still_mk, still_eta, ite_still, ite_self, finishAs_still]

theorem cmdWait_still (s : State) (id w) : (cmdWait s id w).still = s.still := by
  unfold cmdWait
  simp only [still_mk, still_eta, ite_still, ite_self, State.modCmds_still]

theorem finishWaiting_still (s : State) (p status) (handle vis held) : (finishWaiting s p status handle vis held).still = s.still := by
  unfold finishWaiting
  repeat' (first | with_reducible rfl | with_reducible refine (foldl_still _ (fun s a => ?_) _ _).trans ?_ | (simp only [still_mk,
                                          still_eta, ite_still, ite_self, finishAs_still]) | split)
  all_goals grind (splits := 0) [still_mk, still_eta, finishAs_still]

theorem dmaFail_still (s : State) (c) : (dmaFail s c).still = s.still := by
  unfold dmaFail
  simp only [still_mk, still_eta, ite_still, ite_self, finish_still, mbErr_still]

theorem readFail_still (s : State) (c io) : (readFail s c io).still = s.still := by
  unfold readFail
  simp only [still_mk, still_eta, ite_still, ite_self, dmaFail_still, emit_still]

theorem busWrite_still {s : State} {c io} {a l} {v1 z} (h : busWrite s c io a l = (v1, z)) : z.still = s.still := by
  unfold busWrite at h
  grind [still_mk, still_eta, emit_still, → draw_still]

theorem setOwn_still (s : State) (o) : (setOwn s o).still = s.still := by
  unfold setOwn
  simp only [still_mk, still_eta, ite_still, ite_self, State.raise_still, sendMsix_still]

theorem castBallot_still (s : State) (port rank token) : (castBallot s port rank token).still = s.still := by
  unfold castBallot
  simp only [still_mk, still_eta, ite_still, ite_self]

theorem doClaim_still (s : State) (port v) : (doClaim s port v).still = s.still := by
  unfold doClaim
  simp only [still_mk, still_eta, ite_still, ite_self, castBallot_still]

theorem renewLease_still (s : State) (len byReg) : (renewLease s len byReg).still = s.still := by
  unfold renewLease
  simp only [still_mk, still_eta, ite_still, ite_self]

theorem doLease_still (s : State) (port v) : (doLease s port v).still = s.still := by
  unfold doLease
  simp only [still_mk, still_eta, ite_still, ite_self, State.raise_still, State.setField_still, State.setBits_still, renewLease_still]

theorem expireOwner_still (s : State) (cause) : (expireOwner s cause).still = s.still := by
  unfold expireOwner
  repeat' (first | rfl | (simp only [still_mk, still_eta, ite_still, ite_self, finish_still, State.setBits_still, State.raise_still,
                                          setOwn_still, heldAction_still]; done) | split)
  all_goals simp only [still_mk, still_eta, ite_still, ite_self, finish_still, State.setBits_still, State.raise_still, setOwn_still,
      heldAction_still]

theorem passOwner_still (s : State) (h) : (passOwner s h).still = s.still := by
  unfold passOwner
  simp only [still_mk, still_eta, ite_still, ite_self, finishAs_still, setOwn_still, heldAction_still, finish_still,
      State.setBits_still, State.raise_still]

theorem vacateOwner_still (s : State) : (vacateOwner s).still = s.still := by
  unfold vacateOwner
  repeat' (first | with_reducible rfl | with_reducible refine (foldl_still _ (fun s a => ?_) _ _).trans ?_ | (simp only [still_mk,
                                          still_eta, ite_still, ite_self, setOwn_still, finishAs_still, heldAction_still]) | split)
  all_goals grind (splits := 0) [still_mk, still_eta, setOwn_still, finishAs_still, heldAction_still]

theorem elect_still (s : State) : (elect s).still = s.still := by
  unfold elect
  repeat' (first | with_reducible rfl | with_reducible refine (foldl_still _ (fun s a => ?_) _ _).trans ?_ | (simp only [still_mk,
                                          still_eta, ite_still, ite_self, setOwn_still, finishAs_still, finish_still,
                                          heldAction_still]) | split)
  all_goals grind (splits := 0) [still_mk, still_eta, setOwn_still, finishAs_still, finish_still, heldAction_still]

theorem endLease_still (s : State) : (endLease s).still = s.still := by
  unfold endLease
  simp only [still_mk, still_eta, ite_still, ite_self, State.raise_still, expireOwner_still]
  repeat' split
  all_goals simp only [still_mk, still_eta, ite_still, ite_self, State.raise_still, expireOwner_still]

theorem leaseEndAt_still (s : State) : (leaseEndAt s).still = s.still := by
  unfold leaseEndAt
  simp only [still_mk, still_eta, ite_still, ite_self, expireOwner_still, endLease_still]

theorem handoverAt_still (s : State) : (handoverAt s).still = s.still := by
  unfold handoverAt
  repeat' (first | rfl | (simp only [still_mk, still_eta, ite_still, ite_self, passOwner_still]; done) | split)
  all_goals simp only [still_mk, still_eta, ite_still, ite_self, passOwner_still]

theorem vacantAt_still (s : State) : (vacantAt s).still = s.still := by
  unfold vacantAt
  simp only [still_mk, still_eta, ite_still, ite_self, vacateOwner_still]

theorem electAt_still (s : State) : (electAt s).still = s.still := by
  unfold electAt
  simp only [still_mk, still_eta, ite_still, ite_self, elect_still]

theorem acceptOwn_still (s : State) (c) : (acceptOwn s c).still = s.still := by
  unfold acceptOwn
  repeat' (first | rfl | (simp only [still_mk, still_eta, ite_still, ite_self, setOwn_still]; done) | split)
  all_goals simp only [still_mk, still_eta, ite_still, ite_self, setOwn_still]

theorem cmdOwnClaim_still (s : State) (c) : (cmdOwnClaim s c).still = s.still := by
  unfold cmdOwnClaim
  simp only [still_mk, still_eta, ite_still, ite_self, finish_still, castBallot_still, finishAs_still, cmdWait_still]

theorem cmdOwnRenew_still (s : State) (c) : (cmdOwnRenew s c).still = s.still := by
  unfold cmdOwnRenew
  simp only [still_mk, still_eta, ite_still, ite_self, finish_still, renewLease_still, State.setBits_still]

theorem cmdOwnHandover_still (s : State) (c) : (cmdOwnHandover s c).still = s.still := by
  unfold cmdOwnHandover
  repeat' (first | rfl | (simp only [still_mk, still_eta, ite_still, ite_self, cmdWait_still, finish_still]; done) | split)
  all_goals simp only [still_mk, still_eta, ite_still, ite_self, cmdWait_still, finish_still]

theorem cmdOwnAccept_still (s : State) (c) : (cmdOwnAccept s c).still = s.still := by
  unfold cmdOwnAccept
  simp only [still_mk, still_eta, ite_still, ite_self, finish_still, State.setBits_still, renewLease_still]

theorem cmdOwnRelease_still (s : State) (c) : (cmdOwnRelease s c).still = s.still := by
  unfold cmdOwnRelease
  simp only [still_mk, still_eta, ite_still, ite_self, finish_still, cmdWait_still]

theorem withCmd_still (s : State) (m op) (f : State → Cmd → State) (hf : ∀ s c, (f s c).still = s.still) : (withCmd s m op f).still =
    s.still := by
  unfold withCmd
  repeat' split
  all_goals grind (splits := 0) [still_mk, still_eta]

theorem holdCmd_still (s : State) (c n) : (holdCmd s c n).still = s.still := by
  unfold holdCmd
  simp only [still_mk, still_eta, ite_still, ite_self, State.modCmds_still]

theorem needJournal_still (s : State) (c) (f : State) (hf : f.still = s.still) : (needJournal s c f).still = s.still := by
  unfold needJournal
  repeat' split
  all_goals grind (splits := 0) [still_mk, still_eta, cmdWait_still, holdCmd_still, State.bump_still]

theorem stageRec_still (s : State) (type table) (cmd body) : (stageRec s type table cmd body).still = s.still := by
  unfold stageRec
  grind [still_mk, still_eta, askDram_still, State.modCmds_still, State.raise_still, → draw_still]

theorem stageCmd_still (s : State) (c type body) : (stageCmd s c type body).still = s.still := by
  unfold stageCmd
  simp only [still_mk, still_eta, ite_still, ite_self, stageRec_still]

theorem State.setBlk_still (s : State) (d b x) : (State.setBlk s d b x).still = s.still := by
  unfold State.setBlk
  simp only [still_mk, still_eta, ite_still, ite_self]

theorem State.setSpare_still (s : State) (d k x) : (State.setSpare s d k x).still = s.still := by
  unfold State.setSpare
  simp only [still_mk, still_eta, ite_still, ite_self]

theorem dropCopies_still (s : State) (d u) : (dropCopies s d u).still = s.still := by
  unfold dropCopies
  repeat' (first | with_reducible rfl | with_reducible refine (foldl_still _ (fun s a => ?_) _ _).trans ?_ | (simp only [still_mk,
                                          still_eta, ite_still, ite_self, State.setSpare_still]) | split)
  all_goals grind (splits := 0) [still_mk, still_eta, State.setSpare_still]

theorem releaseSpare_still (s : State) (d k) : (releaseSpare s d k).still = s.still := by
  unfold releaseSpare
  simp only [still_mk, still_eta, ite_still, ite_self, dropCopies_still, State.setSpare_still]

theorem takeBlock_still (s : State) (t d) (b g) : (takeBlock s t d b g).still = s.still := by
  unfold takeBlock
  simp only [still_mk, still_eta, ite_still, ite_self, State.setBlk_still]

theorem freeBlock_still (s : State) (d b) : (freeBlock s d b).still = s.still := by
  unfold freeBlock
  repeat' (first | with_reducible rfl | with_reducible refine (foldl_still _ (fun s a => ?_) _ _).trans ?_ | (simp only [still_mk,
                                          still_eta, ite_still, ite_self, dropCopies_still, releaseSpare_still, State.setBlk_still]) |
                                          split)
  all_goals grind (splits := 0) [still_mk, still_eta, dropCopies_still, releaseSpare_still, State.setBlk_still]

theorem skipTest_still (s : State) (pos) : (skipTest s pos).still = s.still := by
  unfold skipTest
  repeat' split
  all_goals grind (splits := 0) [still_mk, still_eta, State.bump_still, State.raise_still, → draw_still]

theorem abortTest_still (s : State) (d) : (abortTest s d).still = s.still := by
  unfold abortTest
  repeat' (first | rfl | (simp only [still_mk, still_eta, ite_still, ite_self, skipTest_still, finish_still]; done) | split)
  all_goals simp only [still_mk, still_eta, ite_still, ite_self, skipTest_still, finish_still]

theorem pickOrAbort_still {s : State} {dies held} {ok v1 z} (h : pickOrAbort s dies held ok = (v1, z)) : z.still = s.still := by
  unfold pickOrAbort at h
  grind [still_mk, still_eta, abortTest_still]

theorem growGroup_still {s : State} {t g} {r dies} {maxBlk isRepl} {v1 z} (h : growGroup s t g r dies maxBlk isRepl = some (v1, z)) :
    z.still = s.still := by
  unfold growGroup at h
  grind [still_mk, still_eta, takeBlock_still, State.setTable_still, → pickOrAbort_still]

theorem putAttrs_still (s : State) (t l) : (putAttrs s t l).still = s.still := by
  unfold putAttrs
  repeat' (first | with_reducible rfl | with_reducible refine (foldl_still _ (fun s a => ?_) _ _).trans ?_ | (simp only [still_mk,
                                          still_eta, ite_still, ite_self, State.setBoth_still]) | split)
  all_goals grind (splits := 0) [still_mk, still_eta, State.setBoth_still]

theorem reserve_still {s : State} {t st} {a0 z} (h : reserve s t st a0 = some z) : z.still = s.still := by
  fun_induction reserve generalizing z
  all_goals grind [still_mk, still_eta, → growGroup_still]

end Sys2Proof.Machine
end

