-- ==== Sys2Proof/Laws/StillTables.lean ====
section
/-! SUPPORT. Operations that leave the shared banks, the queue and the epoch counter as they were: the counter cache, glazes, placement and the table commands. -/

namespace Sys2Proof.Machine

theorem putPair_still (s : State) (p v) : (putPair s p v).still = s.still := by
  unfold putPair
  simp only [still_mk, still_eta, ite_still, ite_self]

theorem putStamp_still (s : State) (p w) : (putStamp s p w).still = s.still := by
  unfold putStamp
  simp only [still_mk, still_eta, ite_still, ite_self]

theorem stampHit_still (s : State) (p e ph) : (stampHit s p e ph).still = s.still := by
  unfold stampHit
  simp only [still_mk, still_eta, ite_still, ite_self, askDram_still]

theorem askLine_still (s : State) (cls n) : (askLine s cls n).still = s.still := by
  unfold askLine
  simp only [still_mk, still_eta, ite_still, ite_self, askDram_still]

theorem writeBack_still (s : State) (cls l) : (writeBack s cls l).still = s.still := by
  unfold writeBack
  repeat' (first | with_reducible rfl | with_reducible refine (foldl_still _ (fun s a => ?_) _ _).trans ?_ | (simp only [still_mk,
                                          still_eta, ite_still, ite_self, askLine_still, putPair_still, State.bump_still]) | split)
  all_goals grind (splits := 0) [still_mk, still_eta, askLine_still, putPair_still, State.bump_still]

theorem dropLine_still (s : State) (n) : (dropLine s n).still = s.still := by
  unfold dropLine
  simp only [still_mk, still_eta, ite_still, ite_self]

theorem dropVictim_still (s : State) (n) : (dropVictim s n).still = s.still := by
  unfold dropVictim
  simp only [still_mk, still_eta, ite_still, ite_self]

theorem toVictim_still (s : State) (cls l) : (toVictim s cls l).still = s.still := by
  unfold toVictim
  repeat' (first | rfl | (simp only [still_mk, still_eta, ite_still, ite_self, writeBack_still]; done) | split)
  all_goals simp only [still_mk, still_eta, ite_still, ite_self, writeBack_still]

theorem allocate_still (s : State) (mask n sec) : (allocate s mask n sec).still = s.still := by
  unfold allocate
  simp only [still_mk, still_eta, ite_still, ite_self, State.setField_still, toVictim_still, dropLine_still]
  repeat' split
  all_goals simp only [still_mk, still_eta, ite_still, ite_self, State.setField_still, toVictim_still, dropLine_still]

theorem streamWrite_still (s : State) (cls n) : (streamWrite s cls n).still = s.still := by
  unfold streamWrite
  simp only [still_mk, still_eta, ite_still, ite_self, State.bump_still]

theorem modSector_still (s : State) (p f) : (modSector s p f).still = s.still := by
  unfold modSector
  simp only [still_mk, still_eta, ite_still, ite_self]

theorem sweepLine_still (s : State) (n) : (sweepLine s n).still = s.still := by
  unfold sweepLine
  repeat' (first | rfl | (simp only [still_mk, still_eta, ite_still, ite_self, dropLine_still, writeBack_still]; done) | split)
  all_goals simp only [still_mk, still_eta, ite_still, ite_self, dropLine_still, writeBack_still]

theorem recallLine_still (s : State) (cls n write) : (recallLine s cls n write).still = s.still := by
  unfold recallLine
  repeat' (first | rfl | (simp only [still_mk, still_eta, ite_still, ite_self, State.bump_still, allocate_still,
                                          dropVictim_still]; done) | split)
  all_goals simp only [still_mk, still_eta, ite_still, ite_self, State.bump_still, allocate_still, dropVictim_still]

theorem addCached_still (s : State) (o) : (addCached s o).still = s.still := by
  unfold addCached
  simp only [still_mk, still_eta, ite_still, ite_self, modSector_still]

theorem addBypass_still (s : State) (o) : (addBypass s o).still = s.still := by
  unfold addBypass
  simp only [still_mk, still_eta, ite_still, ite_self, askLine_still, putPair_still, State.bump_still]

theorem runOp_still (s : State) (o) : (runOp s o).still = s.still := by
  unfold runOp
  simp only [still_mk, still_eta, ite_still, ite_self, recallLine_still, sweepLine_still, addCached_still, State.bump_still,
      askLine_still, allocate_still, addBypass_still]

theorem pressTo_still (s : State) : (pressTo s).still = s.still := by
  unfold pressTo
  repeat' (first | rfl | (simp only [still_mk, still_eta, ite_still, ite_self, State.bump_still]; done) | split)
  all_goals simp only [still_mk, still_eta, ite_still, ite_self, State.bump_still]

theorem pressAt_still (s : State) (t) : (pressAt s t).still = s.still := by
  unfold pressAt
  repeat' (first | rfl | (simp only [still_mk, still_eta, ite_still, ite_self, State.bump_still]; done) | split)
  all_goals simp only [still_mk, still_eta, ite_still, ite_self, State.bump_still]

theorem pressEnd_still (s : State) : (pressEnd s).still = s.still := by
  unfold pressEnd
  simp only [still_mk, still_eta, ite_still, ite_self]

theorem fillReturn_still (s : State) (n) : (fillReturn s n).still = s.still := by
  unfold fillReturn
  repeat' (first | with_reducible rfl | with_reducible refine (foldl_still _ (fun s a => ?_) _ _).trans ?_ | (simp only [still_mk,
                                          still_eta, ite_still, ite_self, pressTo_still, pressEnd_still, runOp_still]) | split)
  all_goals grind (splits := 0) [still_mk, still_eta, pressTo_still, pressEnd_still, runOp_still]

theorem finishLine_still (s : State) (n) : (finishLine s n).still = s.still := by
  unfold finishLine
  simp only [still_mk, still_eta, ite_still, ite_self, fillReturn_still]

theorem counterAdd_still (s : State) (cls p) (pkt byte) : (counterAdd s cls p pkt byte).still = s.still := by
  unfold counterAdd
  simp only [still_mk, still_eta, ite_still, ite_self, runOp_still, sweepLine_still, streamWrite_still]

theorem counterRead_still {s : State} {cls p} {v1 z} (h : counterRead s cls p = (v1, z)) : z.still = s.still := by
  unfold counterRead at h
  grind [still_mk, still_eta, recallLine_still, sweepLine_still, finishLine_still, State.bump_still, askLine_still, allocate_still,
      fillReturn_still]

theorem counterZero_still (s : State) (cls p) : (counterZero s cls p).still = s.still := by
  unfold counterZero
  simp only [still_mk, still_eta, ite_still, ite_self, streamWrite_still, finishLine_still, recallLine_still, sweepLine_still,
      modSector_still, State.bump_still, putPair_still, askLine_still, allocate_still]

theorem counterClear_still (s : State) (cls p) : (counterClear s cls p).still = s.still := by
  unfold counterClear
  simp only [still_mk, still_eta, ite_still, ite_self, counterZero_still]

theorem freePosition_still (s : State) (p) : (freePosition s p).still = s.still := by
  unfold freePosition
  simp only [still_mk, still_eta, ite_still, ite_self, modSector_still, finishLine_still]

theorem wayDisable_still (s : State) (w cause) : (wayDisable s w cause).still = s.still := by
  unfold wayDisable
  simp only [still_mk, still_eta, ite_still, ite_self, State.clrBits_still, hardChange_still, State.setField_still, State.setBits_still,
      State.raise_still]

theorem wayOff_still (s : State) (w) : (wayOff s w).still = s.still := by
  unfold wayOff
  repeat' (first | with_reducible rfl | with_reducible refine (foldl_still _ (fun s a => ?_) _ _).trans ?_ | (simp only [still_mk,
                                          still_eta, ite_still, ite_self, dropLine_still, writeBack_still, State.clrBits_still,
                                          State.raise_still]) | split)
  all_goals grind (splits := 0) [still_mk, still_eta, dropLine_still, writeBack_still, State.clrBits_still, State.raise_still]

theorem wayEnWrite_still (s : State) (v) : (wayEnWrite s v).still = s.still := by
  unfold wayEnWrite
  repeat' (first | with_reducible rfl | with_reducible refine (foldl_still _ (fun s a => ?_) _ _).trans ?_ | (simp only [still_mk,
                                          still_eta, ite_still, ite_self, softWrite_still, State.raise_still, wayDisable_still,
                                          State.setBits_still, State.setLive_still]) | split)
  all_goals grind (splits := 0) [still_mk, still_eta, softWrite_still, State.raise_still, wayDisable_still, State.setBits_still,
      State.setLive_still]

theorem ccEnWrite_still (s : State) (en) : (ccEnWrite s en).still = s.still := by
  unfold ccEnWrite
  simp only [still_mk, still_eta, ite_still, ite_self, State.raise_still, softWrite_still, State.setBits_still]

theorem ccDrained_still (s : State) : (ccDrained s).still = s.still := by
  unfold ccDrained
  repeat' (first | with_reducible rfl | with_reducible refine (foldl_still _ (fun s a => ?_) _ _).trans ?_ | (simp only [still_mk,
                                          still_eta, ite_still, ite_self, fillReturn_still, writeBack_still, hardChange_still,
                                          State.setLive_still, State.raise_still]) | split)
  all_goals grind (splits := 0) [still_mk, still_eta, fillReturn_still, writeBack_still, hardChange_still, State.setLive_still,
      State.raise_still]

theorem cacheCe_still (s : State) (w) : (cacheCe s w).still = s.still := by
  unfold cacheCe
  simp only [still_mk, still_eta, ite_still, ite_self, State.bump_still, State.setBits_still, State.raiseOnce_still,
      State.setField_still, wayDisable_still]

theorem markPair_still (s : State) (p) : (markPair s p).still = s.still := by
  unfold markPair
  simp only [still_mk, still_eta, ite_still, ite_self, State.bump_still, State.raise_still]

theorem ueWayOff_still (s : State) (w) : (ueWayOff s w).still = s.still := by
  unfold ueWayOff
  simp only [still_mk, still_eta, ite_still, ite_self, wayDisable_still]

theorem loseSector_still (s : State) (l k) : (loseSector s l k).still = s.still := by
  unfold loseSector
  split
  · rfl
  · simp only [ite_still, markPair_still, modSector_still, ite_self]

theorem cacheUe_still (s : State) (l k) : (cacheUe s l k).still = s.still := by
  unfold cacheUe
  simp only [ite_still, ueWayOff_still, loseSector_still, State.raise_still, State.setBits_still, State.bump_still, ite_self]

theorem cacheTagUe_still (s : State) (l) : (cacheTagUe s l).still = s.still := by
  have hf : ∀ (r : List Nat) (s : State), (r.foldl (fun s k => loseSector s l k) s).still = s.still :=
    fun r s => foldl_still _ (fun s a => loseSector_still s l a) r s
  unfold cacheTagUe
  simp only [ueWayOff_still, dropVictim_still, dropLine_still, hf, State.raise_still, State.setBits_still, State.bump_still]
  exact draw_still rfl

theorem storeUe_still (s : State) (region addr) : (storeUe s region addr).still = s.still := by
  unfold storeUe
  simp only [still_mk, still_eta, ite_still, ite_self, State.bump_still, State.raise_still]

theorem cacheErr_still (s : State) (e p) : (cacheErr s e p).still = s.still := by
  unfold cacheErr
  dsimp only
  repeat' split
  all_goals simp only [cacheCe_still, cacheUe_still, cacheTagUe_still, storeUe_still, markPair_still]

theorem maintLine_still {s : State} {op n} {v1 z} (h : maintLine s op n = (v1, z)) : z.still = s.still := by
  unfold maintLine at h
  grind [still_mk, still_eta, finishLine_still, dropVictim_still, dropLine_still, State.bump_still, writeBack_still]

theorem cacheLost_still (s : State) : (cacheLost s).still = s.still := by
  unfold cacheLost
  simp only [still_mk, still_eta, ite_still, ite_self, pressTo_still]

theorem allocPos_still {s : State} {d w a v1 z} (h : allocPos s d w a = (v1, z)) : z.still = s.still := by
  unfold allocPos at h
  cases h; rfl

theorem allocReps_still {s : State} {w l a v1 z} (h : allocReps s w l a = (v1, z)) : z.still = s.still := by
  induction l generalizing s a v1 z with
  | nil => cases h; rfl
  | cons b l ih =>
    simp only [allocReps] at h
    split at h
    · rename_i h1; cases h; exact allocPos_still h1
    · rename_i h1
      split at h
      · rename_i h2; cases h; exact (ih h2).trans (allocPos_still h1)
      · rename_i h2; cases h; exact (ih h2).trans (allocPos_still h1)

theorem freeUnused_still (s : State) (t ps) : (freeUnused s t ps).still = s.still := by
  unfold freeUnused
  repeat' (first | with_reducible rfl | with_reducible refine (foldl_still _ (fun s a => ?_) _ _).trans ?_ | (simp only [still_mk,
                                          still_eta, ite_still, ite_self, freePosition_still]) | split)
  all_goals grind (splits := 0) [still_mk, still_eta, freePosition_still]

theorem markHeld_still (s : State) (x) : (markHeld s x).still = s.still := by
  unfold markHeld
  repeat' (first | with_reducible rfl | with_reducible refine (foldl_still _ (fun s a => ?_) _ _).trans ?_ | (simp only [still_mk,
                                          still_eta, ite_still, ite_self, State.setBlk_still]) | split)
  all_goals grind (splits := 0) [still_mk, still_eta, State.setBlk_still]

theorem sweepRows_still (s : State) (t) : (sweepRows s t).still = s.still := by
  unfold sweepRows
  repeat' (first | rfl | (simp only [still_mk, still_eta, ite_still, ite_self, freeUnused_still, markHeld_still,
                                          State.setTable_still]; done) | split)
  all_goals simp only [still_mk, still_eta, ite_still, ite_self, freeUnused_still, markHeld_still, State.setTable_still]

theorem openGen_still {s : State} {t v1 z} (h : openGen s t = some (v1, z)) : z.still = s.still := by
  unfold openGen at h
  grind [still_mk, still_eta, State.setTable_still]

theorem markChange_still (s : State) (t o cmd) : (markChange s t o cmd).still = s.still := by
  unfold markChange
  simp only [still_mk, still_eta, ite_still, ite_self, State.modTable_still]

theorem sealSlot_still {s : State} {t k} {e by_} {v1 z} (h : sealSlot s t k e by_ = (v1, z)) : z.still = s.still := by
  unfold sealSlot at h
  grind [still_mk, still_eta, State.modTable_still, → draw_still]

theorem sweepAged_still (s : State) (t) : (sweepAged s t).still = s.still := by
  unfold sweepAged
  simp only [still_mk, still_eta, ite_still, ite_self, State.modTable_still]

theorem discardSlots_still (s : State) (t ks) : (discardSlots s t ks).still = s.still := by
  unfold discardSlots
  repeat' (first | with_reducible rfl | with_reducible refine (foldl_still _ (fun s a => ?_) _ _).trans ?_ | (simp only [still_mk,
                                          still_eta, ite_still, ite_self, State.setTable_still, sweepAged_still, sweepRows_still,
                                          finish_still]) | split)
  all_goals grind (splits := 0) [still_mk, still_eta, State.setTable_still, sweepAged_still, sweepRows_still, finish_still]

theorem loseBlock_still (s : State) (t h) : (loseBlock s t h).still = s.still := by
  unfold loseBlock
  exact (freeBlock_still ..).trans (State.modTable_still ..)

theorem dropLeaving_still (s : State) (t) : (dropLeaving s t).still = s.still := by
  unfold dropLeaving
  split
  · rfl
  · exact foldl_still _ (fun s h => loseBlock_still s t h) _ _

theorem alterAt_still (s : State) (k) : (alterAt s k).still = s.still := by
  unfold alterAt
  split
  · rfl
  · exact (dropLeaving_still ..).trans ((putAttrs_still ..).trans
      ((foldl_still _ (fun s (h : BlkHold) => freeBlock_still s h.die h.block) _ _).trans
        ((foldl_still _ (fun s (h : BlkHold) => State.setBlk_still s h.die h.block _) _ _).trans (State.modTable_still ..))))

theorem alterGlaze_still (s : State) (t n) : (alterGlaze s t n).still = s.still := by
  unfold alterGlaze
  exact (foldl_still _ alterAt_still _ _).trans rfl

theorem glazeLate_still (s : State) (t e) : (glazeLate s t e).still = s.still := by
  unfold glazeLate
  simp only [still_mk, still_eta, ite_still, ite_self, State.bump_still, State.raise_still]

theorem switchGen_still (s : State) (t k) : (switchGen s t k).still = s.still := by
  unfold switchGen
  simp only [still_mk, still_eta, ite_still, ite_self, State.modTable_still, State.bump_still]

theorem glazeAt_still (s : State) (t n) : (glazeAt s t n).still = s.still := by
  unfold glazeAt
  repeat' (first | with_reducible rfl | with_reducible refine (foldl_still _ (fun s a => ?_) _ _).trans ?_ | (simp only [still_mk,
                                          still_eta, ite_still, ite_self, switchGen_still, alterGlaze_still, glazeLate_still,
                                          heldAction_still, stageRec_still, finishAs_still, State.modTable_still, State.bump_still]) |
                                          split)
  all_goals grind (splits := 0) [still_mk, still_eta, switchGen_still, alterGlaze_still, glazeLate_still, heldAction_still,
      stageRec_still, finishAs_still, State.modTable_still, State.bump_still]

theorem dtMeet_still (s : State) (k portA) : (dtMeet s k portA).still = s.still := by
  unfold dtMeet
  extract_lets same s1 _ a b s2
  have h1 : s1.still = s.still := ite_of (advance_still ..) rfl
  clear_value s1
  exact ite_of (((State.bump_still ..).trans (State.bump_still ..)).trans h1) h1

theorem markSettling_still (s : State) (step) : (markSettling s step).still = s.still := by
  unfold markSettling
  simp only [still_mk, still_eta, ite_still, ite_self]

theorem foldPosition_still (s : State) (t next r) : (foldPosition s t next r).still = s.still := by
  unfold foldPosition
  grind [still_mk, still_eta, counterAdd_still, putStamp_still, State.modTable_still, freePosition_still, → counterRead_still]

theorem returnBlocks_still (s : State) (t) : (returnBlocks s t).still = s.still := by
  unfold returnBlocks
  split
  · rfl
  · refine (foldl_still _ (fun s a => ?_) _ _).trans (dropLeaving_still s t)
    split
    · rfl
    · exact ite_of rfl (loseBlock_still ..)

theorem clearAttrs_still (s : State) (t) : (clearAttrs s t).still = s.still := by
  unfold clearAttrs
  repeat' (first | with_reducible rfl | with_reducible refine (foldl_still _ (fun s a => ?_) _ _).trans ?_ | (simp only [still_mk,
                                          still_eta, ite_still, ite_self, State.setBoth_still]) | split)
  all_goals grind (splits := 0) [still_mk, still_eta, State.setBoth_still]

theorem absentTable_still (s : State) (t) : (absentTable s t).still = s.still := by
  unfold absentTable
  repeat' (first | with_reducible rfl | with_reducible refine (foldl_still _ (fun s a => ?_) _ _).trans ?_ | (simp only [still_mk,
                                          still_eta, ite_still, ite_self, freeBlock_still, clearAttrs_still]) | split)
  all_goals grind (splits := 0) [still_mk, still_eta, freeBlock_still, clearAttrs_still]

theorem settleSlot_still (s : State) (t g) : (settleSlot s t g).still = s.still := by
  unfold settleSlot
  repeat' (first | with_reducible rfl | with_reducible refine (foldl_still _ (fun s a => ?_) _ _).trans ?_ | (simp only [still_mk,
                                          still_eta, ite_still, ite_self, markHeld_still, State.setTable_still, State.bump_still,
                                          sweepAged_still, foldPosition_still, State.modTable_still, returnBlocks_still,
                                          absentTable_still]) | split)
  all_goals grind (splits := 0) [still_mk, still_eta, markHeld_still, State.setTable_still, State.bump_still, sweepAged_still,
      foldPosition_still, State.modTable_still, returnBlocks_still, absentTable_still]

theorem dropIdle_still (s : State) (t) : (dropIdle s t).still = s.still := by
  unfold dropIdle
  repeat' (first | rfl | (simp only [still_mk, still_eta, ite_still, ite_self, discardSlots_still]; done) | split)
  all_goals simp only [still_mk, still_eta, ite_still, ite_self, discardSlots_still]

theorem failHeld_still (s : State) (c handle) : (failHeld s c handle).still = s.still := by
  unfold failHeld
  simp only [still_mk, still_eta, ite_still, ite_self, finish_still, dropIdle_still]

theorem settleTable_still (s : State) (t) : (settleTable s t).still = s.still := by
  unfold settleTable
  repeat' (first | rfl | (simp only [still_mk, still_eta, ite_still, ite_self, settleSlot_still]; done) | split)
  all_goals simp only [still_mk, still_eta, ite_still, ite_self, settleSlot_still]

theorem placeIn_still {s : State} {t o} {d b} {e keep} {stamp z} (h : placeIn s t o d b e keep stamp = .ok z) : z.still = s.still := by
  unfold placeIn at h
  grind [still_mk, still_eta, State.setTable_still, State.bump_still, State.modTable_still, putStamp_still, → allocPos_still,
      → allocReps_still]

theorem addMirrors_still {s : State} {d b} {auto built} {a0 v1 z} (h : addMirrors s d b auto built a0 = (v1, z)) : z.still = s.still := by
  induction a0 generalizing s  v1 z with
  | zero => grind [addMirrors]
  | succ n ih =>
    simp only [addMirrors] at h
    repeat' (split at h)
    all_goals grind (splits := 0) [still_mk, still_eta, State.setSpare_still]

theorem relocate_still {s : State} {t o} {d b} {r z} (h : relocate s t o d b r = .ok z) : z.still = s.still := by
  unfold relocate at h
  grind [still_mk, still_eta, putStamp_still, State.setTable_still, freeUnused_still, State.bump_still, → allocPos_still]

theorem relocateRows_still {s : State} {t o} {d b} {a0 z} (h : relocateRows s t o d b a0 = .ok z) : z.still = s.still := by
  fun_induction relocateRows generalizing z
  all_goals grind [still_mk, still_eta, → relocate_still]

theorem relocateAll_still {s : State} {t o} {d b} {l z} (h : relocateAll s t o d b l = .ok z) : z.still = s.still := by
  unfold relocateAll at h
  grind [still_mk, still_eta, → relocateRows_still]

theorem split_still {s : State} {t o} {c e} {stamp z} (h : split s t o c e stamp = .ok z) : z.still = s.still := by
  unfold split at h
  simp only [] at h
  repeat' (first | (cases h; done) | split at h)
  all_goals first | (cases h; done) | skip
  all_goals
    rename_i hg _ _ hr _ _ _ _ _ _ _ _ _ _
    have h1 := relocateAll_still hr
    simp only [placeIn_still h, State.raise_still, addMirrors_still rfl, State.setTable_still, State.bump_still, h1, growGroup_still hg]

theorem placeGroup_still {s : State} {t o} {e stamp} {room g z} (h : placeGroup s t o e stamp room g = .ok z) : z.still = s.still := by
  unfold placeGroup at h
  simp only [] at h
  repeat' (first | (cases h; done) | split at h)
  all_goals first
    | exact placeIn_still h
    | exact split_still h
    | exact (placeIn_still h).trans (State.setTable_still _ _ _)
    | exact (placeIn_still h).trans ((State.setTable_still _ _ _).trans (growGroup_still (by assumption)))

theorem placeFirst_still {s : State} {l f} {z : State} (hl : ∀ k ∈ l, ∀ y, k () = .ok y → y.still = s.still) (h : placeFirst l f = .ok
    z) : z.still = s.still := by
  induction l generalizing f with
  | nil => simp only [placeFirst, reduceCtorEq] at h
  | cons a l ih =>
    simp only [placeFirst] at h
    split at h
    · rename_i hk; cases h; exact hl a (by simp only [List.mem_cons, true_or]) _ hk
    · split at h
      · cases h
      · exact ih (fun k hk => hl k (by simp only [List.mem_cons, hk, or_true])) h

theorem placeAlways_still {s : State} {t o} {e stamp} {room z} (h : placeAlways s t o e stamp room = .ok z) : z.still = s.still := by
  unfold placeAlways at h
  grind [still_mk, still_eta, → placeIn_still]

theorem place_still {s : State} {t o} {e stamp z} (h : place s t o e stamp = .ok z) : z.still = s.still := by
  unfold place at h
  refine placeFirst_still (fun k hk y hy => ?_) h
  simp only [List.mem_append, List.mem_map] at hk
  rcases hk with (⟨g, -, rfl⟩ | ⟨g, -, rfl⟩) | hk
  · exact placeGroup_still hy
  · exact placeGroup_still hy
  · split at hk
    · simp only [List.mem_cons, List.not_mem_nil, or_false] at hk
      rcases hk with rfl | rfl <;> exact placeAlways_still hy
    · cases hk

theorem removeOpen_still (s : State) (t o h) : (removeOpen s t o h).still = s.still := by
  unfold removeOpen
  simp only [still_mk, still_eta, ite_still, ite_self, sweepRows_still, State.modTable_still]

theorem replaceCopy_still {s : State} {t o} {r e z} (h : replaceCopy s t o r e = .ok z) : z.still = s.still := by
  unfold replaceCopy at h
  grind [still_mk, still_eta, State.setTable_still, removeOpen_still, → placeIn_still, → place_still]

theorem placeEvents_still (s : State) (f) : (placeEvents s f).still = s.still := by
  unfold placeEvents
  simp only [still_mk, still_eta, ite_still, ite_self, State.raise_still]

theorem placed_still {s : State} {r : Except Nat State} {z : State} (hr : ∀ y, r = .ok y → y.still = s.still) (h : placed r = .ok z) :
    z.still = s.still := by
  unfold placed at h
  grind [still_mk, still_eta]

theorem applyChange_still {s : State} {t o c z} (h : applyChange s t o c = .ok z) : z.still = s.still := by
  have hm : ∀ k, (removeOpen s t o k).still = s.still := removeOpen_still s t o
  unfold applyChange at h
  split at h
  · cases h
  · split at h
    · exact placed_still (fun y hy => place_still hy) h
    · cases h; exact hm _
    · split at h
      · cases h
      · split at h
        · exact placed_still (fun y hy => replaceCopy_still hy) h
        · exact placed_still (fun y hy => (place_still hy).trans (hm _)) h
    · split at h
      · cases h
      · exact placed_still (fun y hy => replaceCopy_still hy) h
    · cases h; exact dtMeet_still ..

theorem applyAll_still {s : State} {t o} {i l} {z : State} (h : applyAll s t o i l = .ok z) : z.still = s.still := by
  fun_induction applyAll generalizing z
  all_goals grind [still_mk, still_eta, → applyChange_still]

theorem askRows_still (s : State) (d u w ps who) : (askRows s d u w ps who).still = s.still := by
  unfold askRows
  exact (foldl_still _ (fun s a => askDram_still ..) _ _).trans (askSlots_still ..)

theorem askCopy_still (s : State) (d b k who) : (askCopy s d b k who).still = s.still := by
  unfold askCopy
  dsimp only
  split
  · rfl
  · exact askRows_still ..

theorem statAdd_still (s : State) (t o n) : (statAdd s t o n).still = s.still := by
  unfold statAdd
  simp only [still_mk, still_eta, ite_still, ite_self, State.modTable_still]

theorem createTable_still {s : State} {t raw z} (h : createTable s t raw = .ok z) : z.still = s.still := by
  have hf : ∀ (l : List (Nat × Word)) (s : State), (l.foldl (fun s p => s.setBoth (taAddr t p.1) p.2) s).still = s.still :=
    fun l s => foldl_still _ (fun s a => State.setBoth_still s _ _) l s
  unfold createTable at h
  simp only [] at h
  repeat' (first | (cases h; done) | split at h)
  all_goals first | (cases h; done) | skip
  rename_i hr
  cases h
  have hm : ∀ (a : State) (d : NMap (BitVec 256)), ({ a with direct := d } : State).still = a.still := fun _ _ => rfl
  split at hr
  · rw [reserve_still hr, hm, State.setTable_still, hf]
  · cases hr; rw [hm, State.setTable_still, hf]

theorem cmdTblCreate_still (s : State) (c) : (cmdTblCreate s c).still = s.still := by
  unfold cmdTblCreate
  grind [still_mk, still_eta, finish_still, needJournal_still, stageCmd_still, → createTable_still]

theorem withdrawAlter_still (s : State) (t) : (withdrawAlter s t).still = s.still := by
  unfold withdrawAlter
  repeat' (first | with_reducible rfl | with_reducible refine (foldl_still _ (fun s a => ?_) _ _).trans ?_ | (simp only [still_mk,
                                          still_eta, ite_still, ite_self, freeBlock_still]) | split)
  all_goals grind (splits := 0) [still_mk, still_eta, freeBlock_still]

theorem endHolders_still (s : State) (t) : (endHolders s t).still = s.still := by
  unfold endHolders
  repeat' (first | with_reducible rfl | with_reducible refine (foldl_still _ (fun s a => ?_) _ _).trans ?_ | (simp only [still_mk,
                                          still_eta, ite_still, ite_self, finish_still]) | split)
  all_goals grind (splits := 0) [still_mk, still_eta, finish_still]

theorem abortTable_still {s : State} {t v1 z} (h : abortTable s t = (v1, z)) : z.still = s.still := by
  unfold abortTable at h
  grind [still_mk, still_eta, endHolders_still, withdrawAlter_still, discardSlots_still]

theorem destroyBegin_still (s : State) (c) : (destroyBegin s c).still = s.still := by
  unfold destroyBegin
  repeat' split
  all_goals grind (splits := 0) [still_mk, still_eta, State.modTable_still, → abortTable_still]

theorem destroySeal_still (s : State) (c) : (destroySeal s c).still = s.still := by
  unfold destroySeal
  repeat' split
  all_goals grind (splits := 0) [still_mk, still_eta, State.modTable_still, stageCmd_still, cmdWait_still, → draw_still]

theorem cmdTblDestroy_still (s : State) (c) : (cmdTblDestroy s c).still = s.still := by
  unfold cmdTblDestroy
  extract_lets t f
  refine ite_of (finish_still ..) ?_
  split
  · exact finish_still ..
  · refine ite_of (finish_still ..) (ite_of ?_ ?_)
    · exact (finish_still ..).trans (ite_of rfl (State.modTable_still ..))
    · have h1 : (if c.got = 0 then destroyBegin s c else s).still = s.still := ite_of (destroyBegin_still ..) rfl
      exact ite_of ((holdCmd_still ..).trans h1) ((needJournal_still _ c _ (destroySeal_still _ c)).trans h1)

theorem addChange_still {s : State} {k v1 z} (h : addChange s k = (v1, z)) : z.still = s.still := by
  unfold addChange at h
  extract_lets id at h
  split at h
  rename_i hd
  have hd := draw_still hd
  simp only [Prod.mk.injEq] at h
  obtain ⟨-, rfl⟩ := h
  exact (foldl_still _ (fun s a => askRows_still ..) _ _).trans ((foldl_still _ (fun s a => askCopy_still ..) _ _).trans hd)

theorem alterReserve_still {s : State} {t st minB maxB k v1 z} (h : alterReserve s t st minB maxB k = some (v1, z)) : z.still = s.still
    := by
  induction k generalizing s v1 z with
  | zero => simp only [alterReserve, Option.some.injEq, Prod.mk.injEq] at h; obtain ⟨-, rfl⟩ := h; rfl
  | succ n ih =>
    simp only [alterReserve] at h
    split at h
    · cases h
    · split at h
      · simp only [Option.some.injEq, Prod.mk.injEq] at h; obtain ⟨-, rfl⟩ := h; rfl
      · split at h
        · cases h
        · rename_i h1
          split at h
          · cases h
          · rename_i h2
            simp only [Option.some.injEq, Prod.mk.injEq] at h
            obtain ⟨-, rfl⟩ := h
            exact (ih h2).trans (growGroup_still h1)

theorem moveBlock_still {s : State} {t o} {h n z} (k : moveBlock s t o h n = some z) : z.still = s.still := by
  unfold moveBlock at k
  simp only [] at k
  repeat' (first | (cases k; done) | split at k)
  rename_i hr
  refine foldl_keep (fun (q : Option State) => ∀ z, q = some z → z.still = s.still) _ (fun q a hq y hy => ?_) _ _ (fun y hy => ?_) z k
  · skip
    repeat' (first | (cases hy; done) | split at hy)
    cases hy
    exact (State.setTable_still _ _ _).trans (hq _ rfl)
  · cases hy
    rw [State.bump_still, relocateAll_still hr]

theorem moveBlocks_still {s : State} {t o} {st maxB} {a0 v1 z} (h : moveBlocks s t o st maxB a0 = some (v1, z)) : z.still = s.still := by
  induction a0 generalizing s  v1 z with
  | nil => grind [moveBlocks]
  | cons a l ih =>
    simp only [moveBlocks] at h
    repeat' (split at h)
    all_goals grind (splits := 0) [still_mk, still_eta, → growGroup_still, → moveBlock_still]

theorem alterReps_still {s : State} {w new l a v1 z} (h : alterReps s w new l a = (v1, z)) : z.still = s.still := by
  induction l generalizing s a v1 z with
  | nil => cases h; rfl
  | cons b l ih =>
    simp only [alterReps] at h
    split at h
    · rename_i h1; cases h; exact allocReps_still h1
    · rename_i h1
      split at h
      · rename_i h2; cases h; exact (ih h2).trans (allocReps_still h1)
      · rename_i h2; cases h; exact (ih h2).trans (allocReps_still h1)

theorem alterPlan_still {s : State} {t x st a b p} (h : alterPlan s t x st a b = .ok p) : p.s.still = s.still := by
  unfold alterPlan at h
  extract_lets here onDie kept off away move s0 at h
  have h0 : s0.still = s.still := State.setTable_still ..
  clear_value s0
  split at h
  · cases h
  · rename_i ho
    have h1 : ∀ o s1, (if move.isEmpty then some (0, s0) else openGen s0 t) = some (o, s1) → s1.still = s0.still := by
      intro o s1 h
      split at h
      · cases h; rfl
      · exact openGen_still h
    have h1 := (h1 _ _ ho).trans h0
    split at h
    · cases h
    · rename_i hm
      have h2 := (moveBlocks_still hm).trans h1
      split at h
      · cases h
      · rename_i hr
        have h3 := (alterReserve_still hr).trans h2
        split at h
        · cases h
        · dsimp only at h
          split at h
          · cases h
          · rename_i hq
            cases h
            exact (State.modTable_still ..).trans ((alterReps_still hq).trans h3)

theorem alterRun_still (s : State) (c x attrs p) (hp : p.s.still = s.still) : (alterRun s c x attrs p).still = s.still := by
  unfold alterRun
  extract_lets t
  refine ite_of ((finish_still ..).trans ((stageCmd_still ..).trans ((putAttrs_still ..).trans hp))) ?_
  split
  · split
    rename_i hs
    have h1 := (sealSlot_still hs).trans ((markChange_still ..).trans hp)
    split
    rename_i ha
    exact (cmdWait_still ..).trans ((stageCmd_still ..).trans ((addChange_still ha).trans h1))
  · split
    rename_i ha
    exact (cmdWait_still ..).trans ((stageCmd_still ..).trans ((addChange_still ha).trans hp))

theorem alterTernary_still (s : State) (c st r0) : (alterTernary s c st r0).still = s.still := by
  unfold alterTernary
  split
  · exact finish_still ..
  · split
    · exact (finish_still ..).trans (placeEvents_still ..)
    · rename_i p hp
      have h : (if p.slot.isSome = true then ((openGen s c.table).map (fun q => q.2)).getD s else s).still = s.still := by
        refine ite_of ?_ rfl
        cases h : openGen s c.table with
        | none => rfl
        | some q => exact openGen_still h
      exact (needJournal_still _ c _ ((alterRun_still s c _ _ _ (alterPlan_still hp)).trans h.symm)).trans h

theorem cmdTblAlter_still (s : State) (c) : (cmdTblAlter s c).still = s.still := by
  unfold cmdTblAlter
  simp only [still_mk, still_eta, ite_still, ite_self, finish_still, alterTernary_still, needJournal_still, putAttrs_still, stageCmd_still]
  repeat' split
  all_goals simp only [still_mk, still_eta, ite_still, ite_self, finish_still, alterTernary_still, needJournal_still, putAttrs_still,
      stageCmd_still]

theorem cmdTblMirror_still (s : State) (c) : (cmdTblMirror s c).still = s.still := by
  have hf : ∀ (d : Nat) (l : List Nat) (s : State), (l.foldl (fun s k => s.setSpare d k { s.spare d k with auto := false }) s).still =
      s.still :=
    fun d l s => foldl_still _ (fun s a => State.setSpare_still s d a _) l s
  unfold cmdTblMirror
  simp only []
  repeat' split
  all_goals first
    | rfl
    | simp only [finish_still]
    | skip
  refine needJournal_still s c _ ?_
  rw [cmdWait_still, stageCmd_still]
  exact (addChange_still rfl).trans ((addMirrors_still rfl).trans (hf _ _ _))

theorem giveSpare_still (s : State) (id d n) : (giveSpare s id d n).still = s.still := by
  unfold giveSpare
  split
  · rfl
  · exact (askCopy_still ..).trans ((State.setSpare_still ..).trans rfl)

theorem copyMapAt_still (s : State) (id) : (copyMapAt s id).still = s.still := by
  unfold copyMapAt
  split
  · rfl
  · extract_lets _ s1 s2 s3 s4
    have h2 : s2.still = s.still := by
      refine (foldl_still _ (fun s a => ?_) _ _).trans rfl
      exact State.setSpare_still ..
    have h3 : s3.still = s.still := by
      refine (foldl_still _ (fun s a => ?_) _ _).trans h2
      exact (giveSpare_still ..).trans (ite_of (releaseSpare_still ..) rfl)
    have h4 : s4.still = s.still := (alterAt_still ..).trans h3
    split
    · exact (heldAction_still ..).trans h4
    · exact (heldAction_still ..).trans ((finishAs_still ..).trans h4)

theorem cmdGlazeSchedule_still (s : State) (c) : (cmdGlazeSchedule s c).still = s.still := by
  unfold cmdGlazeSchedule
  grind [still_mk, still_eta, finish_still, finishAs_still, needJournal_still, stageCmd_still, cmdWait_still, → sealSlot_still]

theorem cmdGlazeAbort_still (s : State) (c) : (cmdGlazeAbort s c).still = s.still := by
  unfold cmdGlazeAbort
  grind [still_mk, still_eta, finish_still, needJournal_still, stageCmd_still, → abortTable_still]

theorem cmdFence_still (s : State) (c) : (cmdFence s c).still = s.still := by
  unfold cmdFence
  simp only [still_mk, still_eta, ite_still, ite_self, finish_still, cmdWait_still]

theorem wakeFences_still (s : State) : (wakeFences s).still = s.still := by
  unfold wakeFences
  repeat' (first | with_reducible rfl | with_reducible refine (foldl_still _ (fun s a => ?_) _ _).trans ?_ | (simp only [still_mk,
                                          still_eta, ite_still, ite_self, finish_still]) | split)
  all_goals grind (splits := 0) [still_mk, still_eta, finish_still]

theorem cmdTblStats_still (s : State) (c io) : (cmdTblStats s c io).still = s.still := by
  unfold cmdTblStats
  repeat' split
  all_goals grind (splits := 0) [still_mk, still_eta, finish_still, dmaFail_still, readFail_still, → busWrite_still]

end Sys2Proof.Machine
end

