-- ==== Sys2Proof/Laws/StillCmds.lean ====
section
/-! SUPPORT. Operations that leave the shared banks, the queue and the epoch counter as they were: the entry, query, activity, learn and cache commands. -/

namespace Sys2Proof.Machine

theorem endEntry_still (s : State) (c o handle) : (endEntry s c o handle).still = s.still := by
  unfold endEntry
  grind [still_mk, still_eta, finish_still, stageCmd_still, State.modCmds_still, cmdWait_still, → sealSlot_still]

theorem loadImage_still (s : State) (c l len) : (loadImage s c l len).still = s.still := by
  unfold loadImage
  split
  · exact finish_still ..
  · extract_lets t n ws
    refine ite_of (finish_still ..) (ite_of ((finish_still ..).trans (State.raise_still ..)) (ite_of (finish_still ..)
      (ite_of ((finish_still ..).trans (State.raise_still ..)) ?_)))
    split
    · exact (finish_still ..).trans (State.raise_still ..)
    · split
      · exact finish_still ..
      · rename_i ho
        have ho := openGen_still ho
        refine ite_of (failHeld_still ..) ((needJournal_still _ c _ ?_).trans ho)
        exact (endEntry_still ..).trans ((stageCmd_still ..).trans ((markChange_still ..).trans (State.modTable_still ..)))

theorem runDirect_still (s : State) (c g) : (runDirect s c g).still = s.still := by
  unfold runDirect
  repeat' split
  all_goals grind (splits := 0) [still_mk, still_eta, finish_still, needJournal_still, stageCmd_still, State.bump_still, →
      applyChange_still]

theorem runChange_still (s : State) (c g) : (runChange s c g).still = s.still := by
  unfold runChange
  extract_lets t
  refine ite_of (finish_still ..) (ite_of rfl ?_)
  split
  · exact finish_still ..
  · refine ite_of (finish_still ..) (ite_of (finish_still ..) (ite_of (runDirect_still ..) (ite_of (finish_still ..) ?_)))
    split
    · exact finish_still ..
    · rename_i ho
      have ho := openGen_still ho
      split
      · exact (finish_still ..).trans (placeEvents_still ..)
      · rename_i ha
        have ha := applyChange_still ha
        refine ite_of (failHeld_still ..) ((needJournal_still _ c _ ?_).trans ho)
        exact (endEntry_still ..).trans ((stageCmd_still ..).trans ((markChange_still ..).trans ((State.bump_still ..).trans ha)))

theorem entryCmd_still (s : State) (c io ins) : (entryCmd s c io ins).still = s.still := by
  unfold entryCmd
  repeat' (first | rfl | (simp only [still_mk, still_eta, ite_still, ite_self, finish_still, dmaFail_still, readFail_still, runChange_still]; done) | split)
  all_goals simp only [still_mk, still_eta, ite_still, ite_self, finish_still, dmaFail_still, readFail_still, runChange_still]

theorem cmdEntInsert_still (s : State) (c io) : (cmdEntInsert s c io).still = s.still := by
  unfold cmdEntInsert
  simp only [still_mk, still_eta, ite_still, ite_self, entryCmd_still]

theorem cmdEntDelete_still (s : State) (c) : (cmdEntDelete s c).still = s.still := by
  unfold cmdEntDelete
  simp only [still_mk, still_eta, ite_still, ite_self, finish_still, runChange_still]

theorem cmdEntModify_still (s : State) (c io) : (cmdEntModify s c io).still = s.still := by
  unfold cmdEntModify
  simp only [still_mk, still_eta, ite_still, ite_self, finish_still, runChange_still, entryCmd_still]

theorem cmdEntReprio_still (s : State) (c) : (cmdEntReprio s c).still = s.still := by
  unfold cmdEntReprio
  simp only [still_mk, still_eta, ite_still, ite_self, finish_still, runChange_still]

theorem batchDirect_still (s : State) (c gs) : (batchDirect s c gs).still = s.still := by
  unfold batchDirect
  repeat' split
  all_goals grind (splits := 0) [still_mk, still_eta, finish_still, needJournal_still, State.bump_still, stageCmd_still, → applyAll_still]

theorem batchTernary_still (s : State) (c x gs) : (batchTernary s c x gs).still = s.still := by
  unfold batchTernary
  extract_lets t
  refine ite_of (finish_still ..) ?_
  split
  · exact finish_still ..
  · rename_i ho
    have ho := openGen_still ho
    split
    · exact (finish_still ..).trans (placeEvents_still ..)
    · rename_i ha
      have ha := applyAll_still ha
      refine ite_of (failHeld_still ..) ((needJournal_still _ c _ ?_).trans ho)
      exact (endEntry_still ..).trans ((stageCmd_still ..).trans ((stageCmd_still ..).trans ((markChange_still ..).trans
        ((State.bump_still ..).trans ha))))

theorem cmdEntBatch_still (s : State) (c io) : (cmdEntBatch s c io).still = s.still := by
  unfold cmdEntBatch
  simp only []
  refine ite_of (finish_still ..) (ite_of (finish_still ..) (ite_of (finish_still ..) (ite_of (finish_still ..) (ite_of rfl ?_))))
  split
  · exact readFail_still s c io
  · refine ite_of (loadImage_still ..) (ite_of (finish_still ..) (ite_of (finish_still ..) ?_))
    generalize batchRecs _ _ _ _ = r
    repeat' (first | with_reducible refine ite_of ?_ ?_ | split)
    all_goals simp only [finish_still, batchDirect_still, batchTernary_still]

theorem cmdEntRead_still (s : State) (c io) : (cmdEntRead s c io).still = s.still := by
  unfold cmdEntRead
  grind [still_mk, still_eta, finish_still, dmaFail_still, readFail_still, → busWrite_still]

theorem cmdQuerySearch_still (s : State) (c) : (cmdQuerySearch s c).still = s.still := by
  unfold cmdQuerySearch
  simp only [still_mk, still_eta, ite_still, ite_self, finish_still, finishAs_still]
  repeat' split
  all_goals simp only [still_mk, still_eta, ite_still, ite_self, finish_still, finishAs_still]

theorem cmdQueryFind_still (s : State) (c io) : (cmdQueryFind s c io).still = s.still := by
  unfold cmdQueryFind
  repeat' (first | with_reducible rfl | with_reducible refine (foldl_still _ (fun s a => ?_) _ _).trans ?_ | (simp only [still_mk,
                                          still_eta, ite_still, ite_self, finish_still, dmaFail_still, readFail_still]) | split)
  all_goals grind (splits := 0) [still_mk, still_eta, finish_still, dmaFail_still, readFail_still, → draw_still]

theorem readSum_still {s : State} {cls a0} {v1 z} (h : readSum s cls a0 = (v1, z)) : z.still = s.still := by
  induction a0 generalizing s  v1 z with
  | nil => grind [readSum]
  | cons a l ih =>
    simp only [readSum] at h
    repeat' (split at h)
    all_goals grind (splits := 0) [still_mk, still_eta, → counterRead_still]

theorem entryRecord_still {s : State} {x k} {e v1 z} (h : entryRecord s x k e = (v1, z)) : z.still = s.still := by
  unfold entryRecord at h
  grind [still_mk, still_eta, → readSum_still]

theorem accTotal_still {s : State} {cls x} {v1 z} (h : accTotal s cls x = (v1, z)) : z.still = s.still := by
  unfold accTotal at h
  grind [still_mk, still_eta, → readSum_still]

theorem tableRecord_still {s : State} {x v1 z} (h : tableRecord s x = (v1, z)) : z.still = s.still := by
  unfold tableRecord at h
  grind [still_mk, still_eta, → accTotal_still]

theorem recordsOf_still {s : State} {x k} {a0 v1 z} (h : recordsOf s x k a0 = (v1, z)) : z.still = s.still := by
  induction a0 generalizing s  v1 z with
  | nil => grind [recordsOf]
  | cons a l ih =>
    simp only [recordsOf] at h
    repeat' (split at h)
    all_goals grind (splits := 0) [still_mk, still_eta, → entryRecord_still]

theorem recordsListed_still {s : State} {x k} {a0 v1 z} (h : recordsListed s x k a0 = (v1, z)) : z.still = s.still := by
  induction a0 generalizing s  v1 z with
  | nil => grind [recordsListed]
  | cons a l ih =>
    simp only [recordsListed] at h
    repeat' (split at h)
    all_goals grind (splits := 0) [still_mk, still_eta, → entryRecord_still]

theorem cmdCntRead_still (s : State) (c io) : (cmdCntRead s c io).still = s.still := by
  unfold cmdCntRead
  extract_lets t n
  refine ite_of (finish_still ..) (ite_of (finish_still ..) (ite_of (finish_still ..) ?_))
  split
  · exact finish_still ..
  · extract_lets b snap
    refine ite_of (cmdWait_still ..) ?_
    split
    · exact readFail_still s c io
    · extract_lets out
      have ho : ∀ l z, out = some (l, z) → z.still = s.still := by
        intro l z hz
        simp only [out] at hz
        split at hz
        · split at hz
          · cases hz
          · cases hz; rfl
        · rw [Option.some_inj] at hz
          split at hz
          · cases hz
            exact (recordsOf_still rfl).trans (tableRecord_still rfl)
          · exact recordsListed_still hz
      clear_value out
      split
      · exact finish_still ..
      · have ho := ho _ _ rfl
        split
        · rename_i hb; exact (finish_still ..).trans ((busWrite_still hb).trans ho)
        · rename_i hb; exact (dmaFail_still ..).trans ((busWrite_still hb).trans ho)

theorem clearEntry_still (s : State) (x k e) : (clearEntry s x k e).still = s.still := by
  unfold clearEntry
  repeat' (first | with_reducible rfl | with_reducible refine (foldl_still _ (fun s a => ?_) _ _).trans ?_ | (simp only [still_mk,
                                          still_eta, ite_still, ite_self, counterClear_still]) | split)
  all_goals grind (splits := 0) [still_mk, still_eta, counterClear_still]

theorem clearAcc_still (s : State) (t) : (clearAcc s t).still = s.still := by
  unfold clearAcc
  repeat' (first | with_reducible rfl | with_reducible refine (foldl_still _ (fun s a => ?_) _ _).trans ?_ | (simp only [still_mk,
                                          still_eta, ite_still, ite_self, counterClear_still, State.setTable_still]) | split)
  all_goals grind (splits := 0) [still_mk, still_eta, counterClear_still, State.setTable_still]

theorem cmdCntClear_still (s : State) (c io written) : (cmdCntClear s c io written).still = s.still := by
  unfold cmdCntClear
  extract_lets t out n
  refine ite_of (finish_still ..) (ite_of (finish_still ..) (ite_of (finish_still ..) ?_))
  split
  · exact finish_still ..
  · split
    · exact readFail_still s c io
    · extract_lets k rows clear s1 done
      have hc : ∀ s l, (clear s l).still = s.still := fun s l => foldl_still _ (fun s a => clearEntry_still s _ _ _) _ s
      clear_value clear
      split
      · exact (finish_still ..).trans (ite_of ((clearAcc_still _ _).trans (hc _ _)) (hc _ _))
      · generalize hq : (ite (c.all = true) _ _ : List Byte × State) = q
        obtain ⟨l, z⟩ := q
        have hl : z.still = s.still := by
          split at hq
          · cases hq
            exact (recordsOf_still rfl).trans (tableRecord_still rfl)
          · exact recordsListed_still hq
        dsimp only
        split
        · rename_i hb
          have hb := (busWrite_still hb).trans hl
          exact (finish_still ..).trans (ite_of ((clearAcc_still _ _).trans ((hc _ _).trans hb)) ((hc _ _).trans hb))
        · rename_i hb
          exact (finish_still ..).trans ((mbErr_still _ _ _).trans ((hc _ _).trans ((busWrite_still hb).trans hl)))

theorem modSnap_still (s : State) (b f) : (modSnap s b f).still = s.still := by
  unfold modSnap
  simp only [still_mk, still_eta, ite_still, ite_self]

theorem cmdCntSnapshot_still (s : State) (c) : (cmdCntSnapshot s c).still = s.still := by
  unfold cmdCntSnapshot
  simp only [still_mk, still_eta, ite_still, ite_self, finish_still, modSnap_still, cmdWait_still]

theorem captureRows_still {s : State} {x k} {a0 v1 z} (h : captureRows s x k a0 = (v1, z)) : z.still = s.still := by
  induction a0 generalizing s  v1 z with
  | nil => grind [captureRows]
  | cons a l ih =>
    simp only [captureRows] at h
    repeat' (split at h)
    all_goals grind (splits := 0) [still_mk, still_eta, → readSum_still]

theorem captureTable_still {s : State} {t x} {clr v1 z} (h : captureTable s t x clr = (v1, z)) : z.still = s.still := by
  unfold captureTable at h
  extract_lets k rows at h
  split at h
  rename_i hr
  split at h
  rename_i ha
  have ha := (accTotal_still ha).trans (captureRows_still hr)
  cases h
  refine (foldl_still _ (fun s a => askDram_still ..) _ _).trans ?_
  exact ite_of ((foldl_still _ (fun s a => counterZero_still ..) _ _).trans ((State.setTable_still ..).trans ha)) ha

theorem captureAll_still {s : State} {clr a0} {v1 z} (h : captureAll s clr a0 = (v1, z)) : z.still = s.still := by
  induction a0 generalizing s  v1 z with
  | nil => grind [captureAll]
  | cons a l ih =>
    simp only [captureAll] at h
    repeat' (split at h)
    all_goals grind (splits := 0) [still_mk, still_eta, → captureTable_still]

theorem snapshotAt_still (s : State) (b) : (snapshotAt s b).still = s.still := by
  unfold snapshotAt
  grind [still_mk, still_eta, modSnap_still, finish_still, finishAs_still, heldAction_still, → captureAll_still]

theorem snapDone_still (s : State) (b) : (snapDone s b).still = s.still := by
  unfold snapDone
  simp only [still_mk, still_eta, ite_still, ite_self, modSnap_still, State.raise_still, State.modCmds_still]

theorem snapPost_still {s : State} {u a0} {v1 z} (h : snapPost s u a0 = (v1, z)) : z.still = s.still := by
  fun_induction snapPost generalizing z
  all_goals grind [still_mk, still_eta, modSnap_still]

theorem cmdLearnCfg_still (s : State) (c) : (cmdLearnCfg s c).still = s.still := by
  unfold cmdLearnCfg
  simp only [still_mk, still_eta, ite_still, ite_self, finish_still, needJournal_still, State.modTable_still, stageCmd_still]

theorem learnPush_still (s : State) (r) : (learnPush s r).still = s.still := by
  unfold learnPush
  simp only [still_mk, still_eta, ite_still, ite_self, State.bump_still, statAdd_still, State.raiseOnce_still]

theorem learnDrop_still (s : State) (t a) : (learnDrop s t a).still = s.still := by
  unfold learnDrop
  simp only [still_mk, still_eta, ite_still, ite_self, statAdd_still, State.bump_still]

theorem learnInsert_still {s : State} {x l} {r z} (h : learnInsert s x l r = some z) : z.still = s.still := by
  unfold learnInsert at h
  grind [still_mk, still_eta, learnDrop_still, State.raise_still, placeEvents_still, State.setBits_still, State.raiseOnce_still,
      markChange_still, State.bump_still, stageRec_still, statAdd_still, → openGen_still, → place_still]

theorem learnApply_still (s : State) : (learnApply s).still = s.still := by
  have h1 : ∀ l, ({ s with learnQ := l } : State).still = s.still := fun _ => rfl
  unfold learnApply
  split
  · rfl
  · simp only []
    repeat' split
    all_goals first
      | simp only [State.bump_still, learnDrop_still, h1]
      | skip
    rename_i rest _ _ _ _ _ l _ _
    cases hk : learnInsert { s with learnQ := rest } _ l _ with
    | none => rfl
    | some z => rw [Option.getD_some, learnInsert_still hk, h1]

theorem internalSealAt_still (s : State) : (internalSealAt s).still = s.still := by
  unfold internalSealAt
  repeat' (first | with_reducible rfl | with_reducible refine (foldl_still _ (fun s a => ?_) _ _).trans ?_ | (simp only [still_mk,
                                          still_eta, ite_still, ite_self, stageRec_still]) | split)
  all_goals grind (splits := 0) [still_mk, still_eta, stageRec_still, → sealSlot_still]

theorem cmdAgeSweep_still (s : State) (c) : (cmdAgeSweep s c).still = s.still := by
  unfold cmdAgeSweep
  simp only [still_mk, still_eta, ite_still, ite_self, finish_still, needJournal_still, State.modTable_still, stageCmd_still]

theorem ageStartAt_still (s : State) (t) : (ageStartAt s t).still = s.still := by
  unfold ageStartAt
  repeat' (first | rfl | (simp only [still_mk, still_eta, ite_still, ite_self, State.modTable_still, State.raise_still,
                                          heldAction_still, statAdd_still]; done) | split)
  all_goals simp only [still_mk, still_eta, ite_still, ite_self, State.modTable_still, State.raise_still, heldAction_still, statAdd_still]

theorem modSweep_still (s : State) (t f) : (modSweep s t f).still = s.still := by
  unfold modSweep
  simp only [still_mk, still_eta, ite_still, ite_self, State.modTable_still]

theorem ageReport_still (s : State) (t w) (h st wr) : (ageReport s t w h st wr).still = s.still := by
  unfold ageReport
  grind [still_mk, still_eta, statAdd_still, modSweep_still, emit_still, mbErr_still, → draw_still]

theorem ageDelete_still {s : State} {t x} {h st z} (h : ageDelete s t x h st = some z) : z.still = s.still := by
  unfold ageDelete at h
  grind [still_mk, still_eta, modSweep_still, statAdd_still, State.bump_still, markChange_still, removeOpen_still, State.modTable_still,
      stageRec_still, → openGen_still]

theorem ageCompare_still (s : State) (t k wr) : (ageCompare s t k wr).still = s.still := by
  unfold ageCompare
  repeat' split
  all_goals first
    | rfl
    | simp only [modSweep_still, ageReport_still]
    | skip
  rename_i x _ _ w _ _ c _ _ _ _
  cases hk : ageDelete (modSweep s t (fun w => { w with handled := w.handled + 1, cands := w.cands.filter (fun d => d.1 != k) })) t x k
      c.2 with
  | none => rfl
  | some z => rw [Option.getD_some, ageDelete_still hk, modSweep_still]

theorem ageDone_still (s : State) (t) : (ageDone s t).still = s.still := by
  unfold ageDone
  repeat' (first | rfl | (simp only [still_mk, still_eta, ite_still, ite_self, statAdd_still, State.modTable_still,
                                          State.raise_still]; done) | split)
  all_goals simp only [still_mk, still_eta, ite_still, ite_self, statAdd_still, State.modTable_still, State.raise_still]

theorem maintLines_still {s : State} {op a0} {v1 z} (h : maintLines s op a0 = (v1, z)) : z.still = s.still := by
  induction a0 generalizing s  v1 z with
  | nil => grind [maintLines]
  | cons a l ih =>
    simp only [maintLines] at h
    repeat' (split at h)
    all_goals grind (splits := 0) [still_mk, still_eta, → maintLine_still]

theorem cmdCacheMaint_still (s : State) (c) : (cmdCacheMaint s c).still = s.still := by
  unfold cmdCacheMaint
  repeat' split
  all_goals grind (splits := 0) [still_mk, still_eta, finish_still, → maintLines_still]

end Sys2Proof.Machine
end

