-- ==== Sys2Proof/Laws/StillLookup.lean ====
section
/-! SUPPORT. Operations that leave the shared banks, the queue and the epoch counter as they were: the walk, the search path, the slot wheels, lookups, requests and the cascade. -/

namespace Sys2Proof.Machine

theorem enterFs_still (s : State) (b die) : (enterFs s b die).still = s.still := by
  unfold enterFs
  simp only [still_mk, still_eta, ite_still, ite_self, State.raise_still]

theorem chooseFrom_still {s : State} {key d} {b l} {v1 z} (h : chooseFrom s key d b l = (v1, z)) : z.still = s.still := by
  unfold chooseFrom at h
  grind [still_mk, still_eta]

theorem coverTarget_still {s : State} {d b} {v1 z} (h : coverTarget s d b = (v1, z)) : z.still = s.still := by
  unfold coverTarget at h
  grind [still_mk, still_eta, → chooseFrom_still]

theorem aoTarget_still {s : State} {t x} {v1 z} (h : aoTarget s t x = some (v1, z)) : z.still = s.still := by
  unfold aoTarget at h
  grind [still_mk, still_eta, → chooseFrom_still]

theorem coverTargets_still {s : State} {a0 v1 z} (h : coverTargets s a0 = (v1, z)) : z.still = s.still := by
  induction a0 generalizing s  v1 z with
  | nil => grind [coverTargets]
  | cons a l ih =>
    simp only [coverTargets] at h
    repeat' (split at h)
    all_goals grind (splits := 0) [still_mk, still_eta, → coverTarget_still]

theorem targetsOf_still {s : State} {t x} {k key} {v1 z} (h : targetsOf s t x k key = (v1, z)) : z.still = s.still := by
  unfold targetsOf at h
  grind [still_mk, still_eta, → coverTargets_still, → aoTarget_still]

theorem countPick_still (s : State) (p) : (countPick s p).still = s.still := by
  unfold countPick
  simp only [still_mk, still_eta, ite_still, ite_self, State.bump_still, State.setBlk_still]

theorem bookPick_still (s : State) (p) : (bookPick s p).still = s.still := by
  unfold bookPick
  simp only [still_mk, still_eta, ite_still, ite_self, countPick_still]

theorem bookIssue_still (s : State) (i) : (bookIssue s i).still = s.still := by
  unfold bookIssue
  simp only [still_mk, still_eta, ite_still, ite_self]

theorem refuseAt_still (s : State) (t d b) : (refuseAt s t d b).still = s.still := by
  unfold refuseAt
  simp only [still_mk, still_eta, ite_still, ite_self, State.bump_still, State.setBlk_still, State.raise_still]

theorem admitKeys_still (s : State) (t ts) (arr slack) : (admitKeys s t ts arr slack).s.still = s.still := by
  unfold admitKeys
  repeat' (first | with_reducible rfl | with_reducible refine (foldl_still _ (fun s a => ?_) _ _).trans ?_ | (simp only [still_mk,
                                          still_eta, ite_still, ite_self, refuseAt_still, bookPick_still, bookIssue_still]) | split)
  all_goals grind (splits := 0) [still_mk, still_eta, refuseAt_still, bookPick_still, bookIssue_still]

theorem markSuspect_still (s : State) (d u) : (markSuspect s d u).still = s.still := by
  unfold markSuspect
  simp only [still_mk, still_eta, ite_still, ite_self, State.bump_still, State.setBlk_still, State.setSpare_still]

theorem cxRepair_still (s : State) (loc) : (cxRepair s loc).still = s.still := by
  unfold cxRepair
  repeat' split
  all_goals grind (splits := 0) [still_mk, still_eta, State.bump_still, State.raise_still, → draw_still]

theorem parityAt_still (s : State) (a) : (parityAt s a).still = s.still := by
  unfold parityAt
  repeat' (first | rfl | (simp only [still_mk, still_eta, ite_still, ite_self, State.bump_still, State.setLive_still,
                                          State.raise_still]; done) | split)
  all_goals simp only [still_mk, still_eta, ite_still, ite_self, State.bump_still, State.setLive_still, State.raise_still]

theorem readErr_still (s : State) (a e) : (readErr s a e).still = s.still := by
  unfold readErr
  repeat' (first | rfl | (simp only [still_mk, still_eta, ite_still, ite_self, parityAt_still, cxRepair_still, enterFs_still,
                                          State.raise_still]; done) | split)
  all_goals simp only [still_mk, still_eta, ite_still, ite_self, parityAt_still, cxRepair_still, enterFs_still, State.raise_still]

theorem rsRepair_still (s : State) (d) : (rsRepair s d).still = s.still := by
  unfold rsRepair
  simp only [still_mk, still_eta, ite_still, ite_self, State.bump_still, State.raise_still]

theorem faultEvent_still (s : State) (t d b) : (faultEvent s t d b).still = s.still := by
  unfold faultEvent
  simp only [still_mk, still_eta, ite_still, ite_self, State.raiseOnce_still]

theorem metFault_still (s : State) (q) : (metFault s q).still = s.still := by
  unfold metFault
  repeat' (first | with_reducible rfl | with_reducible refine (foldl_still _ (fun s a => ?_) _ _).trans ?_ | (simp only [still_mk,
                                          still_eta, ite_still, ite_self, markSuspect_still, rsRepair_still]) | split)
  all_goals grind (splits := 0) [still_mk, still_eta, markSuspect_still, rsRepair_still]

theorem pathFaults_still (s : State) (t ts) (picks arr) (slack fs) : (pathFaults s t ts picks arr slack fs).s.still = s.still := by
  unfold pathFaults
  repeat' (first | with_reducible rfl | with_reducible refine (foldl_still _ (fun s a => ?_) _ _).trans ?_ | (simp only [still_mk,
                                          still_eta, ite_still, ite_self, metFault_still, faultEvent_still, State.bump_still,
                                          bookPick_still]) | split)
  all_goals grind (splits := 0) [still_mk, still_eta, metFault_still, faultEvent_still, State.bump_still, bookPick_still]

theorem wheelsTo_still (s : State) : (wheelsTo s).still = s.still := by
  rfl

theorem withSlots_still (u s : State) (req who) : (withSlots u s req who).still = s.still := rfl

theorem withCmdSlots_still (s : State) (m op) (f : State → Cmd → State) (hf : ∀ s c, (f s c).still = s.still) : (withCmdSlots s m op
    f).still = s.still := by
  unfold withCmdSlots
  exact withCmd_still s m op _ (fun s c => (withSlots_still ..).trans (hf s c))

theorem askQuery_still (s : State) (c) : (askQuery s c).still = s.still := by
  unfold askQuery
  repeat' (first | with_reducible rfl | with_reducible refine (foldl_still _ (fun s a => ?_) _ _).trans ?_ | (simp only [still_mk,
                                          still_eta, ite_still, ite_self, askSlots_still]) | split)
  all_goals grind (splits := 0) [still_mk, still_eta, askSlots_still]

theorem answered_still (r) (s : State) : (answered r s).s.still = s.still := by
  unfold answered
  simp only [still_mk, still_eta, ite_still, ite_self]

theorem makeLearn_still {s : State} {a v} {t f} {v1 z} (h : makeLearn s a v t f = (v1, z)) : z.still = s.still := by
  unfold makeLearn at h
  grind [still_mk, still_eta, statAdd_still, State.raise_still]

theorem contentsRec_still {s : State} {a v} {t x} {tok adv} {f v1 z} (h : contentsRec s a v t x tok adv f = (v1, z)) : z.still = s.still
    := by
  unfold contentsRec at h
  grind [still_mk, still_eta, → makeLearn_still]

theorem faultRes_still (s : State) (t) : (faultRes s t).s.still = s.still := by
  unfold faultRes
  simp only [still_mk, still_eta, ite_still, ite_self, answered_still]

theorem modCover_still (s : State) (t c f) : (modCover s t c f).still = s.still := by
  unfold modCover
  simp only [still_mk, still_eta, ite_still, ite_self, State.modTable_still]

theorem siftFault_still (s : State) (t x) (c e) : (siftFault s t x c e).still = s.still := by
  unfold siftFault
  simp only [still_mk, still_eta, ite_still, ite_self, State.raise_still, modCover_still, enterFs_still]
  repeat' split
  all_goals simp only [still_mk, still_eta, ite_still, ite_self, State.raise_still, modCover_still, enterFs_still]

theorem activate_still {s : State} {t ts} {arr slack} {fs f} {v1 v2 z} (h : activate s t ts arr slack fs f = (v1, (v2, z))) : z.still =
    s.still := by
  unfold activate at h
  grind [still_mk, still_eta, faultEvent_still, admitKeys_still, pathFaults_still]

theorem searchTernary_still {s : State} {t x} {p k} {key arr} {slack fs} {v1 v2 z} (h : searchTernary s t x p k key arr slack fs = (v1,
    (v2, z))) : z.still = s.still := by
  unfold searchTernary at h
  grind [still_mk, still_eta, siftFault_still, → targetsOf_still, → activate_still]

theorem searchTree_still {s : State} {t x} {k key} {arr slack} {fs v1} {v2 z} (h : searchTree s t x k key arr slack fs = (v1, (v2, z)))
    : z.still = s.still := by
  unfold searchTree at h
  grind [still_mk, still_eta, statAdd_still, State.bump_still, State.raise_still, State.modTable_still]

theorem searchDirect_still {s : State} {t x} {key fs} {v1 v2 z} (h : searchDirect s t x key fs = (v1, (v2, z))) : z.still = s.still := by
  unfold searchDirect at h
  grind [still_mk, still_eta, State.bump_still, State.raise_still]

theorem crumbLookup_still (s : State) (t x) (key arr) (slack fs) : (crumbLookup s t x key arr slack fs).s.still = s.still := by
  unfold crumbLookup
  grind [still_mk, still_eta, answered_still, faultRes_still, State.bump_still, → activate_still]

theorem splitFound_still (s : State) (t e) : (splitFound s t e).still = s.still := by
  unfold splitFound
  simp only [still_mk, still_eta, ite_still, ite_self, State.bump_still, State.setBits_still, State.raise_still]

theorem sendOn_still {s : State} {p t} {slack fl} {v1 z} (h : sendOn s p t slack fl = some (v1, z)) : z.still = s.still := by
  unfold sendOn at h
  grind [still_mk, still_eta, emit_still, State.modLink_still]

theorem ownPart_still {s : State} {a v} {t x} {tok adv} {r v1} {v2 v3 z} (h : ownPart s a v t x tok adv r = ((v1, (v2, v3)), z)) :
    z.still = s.still := by
  unfold ownPart at h
  grind [still_mk, still_eta, → contentsRec_still]

theorem sendDown_still (s : State) (a slot) (t view) (tok adv) (key own) (wait leave slack) : (sendDown s a slot t view tok adv key own
    wait leave slack).s.still = s.still := by
  unfold sendDown
  grind [still_mk, still_eta, answered_still, State.bump_still, → sendOn_still]

theorem searchTable_still (s : State) (a v) (pass slot) (t x) (key view) (tok adv) (arr slack) : (searchTable s a v pass slot t x key
    view tok adv arr slack).s.still = s.still := by
  unfold searchTable
  extract_lets fs s1 casc safe
  have h1 : s1.still = s.still := ite_of (State.bump_still s _ _) rfl
  clear_value s1
  have hs : ∀ q st s, (safe q st s).s.still = s.still := fun q st s => sendDown_still ..
  clear_value safe
  refine Eq.trans ?_ h1
  clear h1
  split
  · exact (hs _ _ _).trans (splitFound_still _ _ _)
  · split
    · exact hs _ _ _
    · split
      · have := (cxRepair_still (s1.raise evGlzPtrRepair t) t).trans (State.raise_still _ _ _ _ _)
        split
        · exact (hs _ _ _).trans this
        · exact (faultRes_still _ _).trans this
      · split
        · split
          · exact hs _ _ _
          · exact faultRes_still _ _
        · split
          · exact hs _ _ _
          · split
            rename_i r w s2 he
            have h2 : s2.still = s1.still := by
              split at he
              · exact searchDirect_still he
              · split at he
                · exact searchTree_still he
                · cases he; rfl
              · split at he
                · exact searchTernary_still he
                · cases he; rfl
            clear he
            refine Eq.trans ?_ h2
            clear h2
            dsimp only
            split
            · exact (sendDown_still ..).trans (ownPart_still (v1 := _) (v2 := _) (v3 := _) rfl)
            · grind [still_mk, still_eta, answered_still, statAdd_still, → contentsRec_still]

theorem lookupOne_still (s : State) (a v) (pass spent) (prof slot) : (lookupOne s a v pass spent prof slot).s.still = s.still := by
  unfold lookupOne
  extract_lets t key
  split
  · exact faultRes_still s _
  · split
    · exact answered_still _ s
    · extract_lets stale s1 casc head pm arr
      have h1 : s1.still = s.still := ite_of (State.raise_still s _ _ _ _) rfl
      clear_value s1
      repeat' split
      all_goals first
        | exact h1
        | exact (statAdd_still _ _ _ _).trans h1
        | exact (faultRes_still _ _).trans h1
        | exact (crumbLookup_still _ _ _ _ _ _ _).trans h1
        | exact (searchTable_still _ _ _ _ _ _ _ _ _ _ _ _ _).trans h1
        | exact (answered_still _ _).trans h1
        | exact (answered_still _ _).trans ((State.bump_still _ _ _).trans h1)
        | exact (answered_still _ _).trans ((State.raiseOnce_still _ _ _ _ _ _).trans h1)
        | exact (answered_still _ _).trans ((statAdd_still _ _ _ _).trans h1)

theorem runSlots_still (a v) (pass spent) (prof n k) (s : State) : (runSlots a v pass spent prof n k s).s.still = s.still := by
  fun_induction runSlots
  all_goals grind [still_mk, still_eta, lookupOne_still]

theorem nextPass_still {s0} {s : State} {k n} {v1 v2 v3 z} (h : nextPass s0 s k n = (v1, v2, z, v3)) : z.still = s.still := by
  have hf : ∀ (a : Nat) (l : List Nat) (s : State), (l.foldl (fun s t => statAdd s t a) s).still = s.still :=
    fun a l s => foldl_still _ (fun s b => statAdd_still s b a 1) l s
  unfold nextPass at h
  split at h
  · cases h; rfl
  · simp only [] at h
    split at h
    · cases h; rw [hf]
    · split at h
      · cases h; rw [State.raise_still, hf]
      · cases h; rw [hf]

theorem runPasses_still {a v} {n0 fuel} {s : State} {k prof} {p v1 z} (h : runPasses a v n0 fuel s k prof p = (z, v1)) : z.still =
    s.still := by
  induction fuel generalizing s k prof p v1 z with
  | zero => grind [runPasses]
  | succ n ih =>
    simp only [runPasses] at h
    split at h
    · cases h; exact runSlots_still ..
    · split at h
      · rename_i hq
        cases h
        exact (nextPass_still (v1 := _) (v2 := _) (v3 := _) (z := _) rfl).trans (runSlots_still ..)
      · exact (ih h).trans ((nextPass_still (v1 := _) (v2 := _) (v3 := _) (z := _) rfl).trans (runSlots_still ..))

theorem mergeRead_still {s : State} {a v} {prof v1} {v2 z} (h : mergeRead s a v prof = (v1, (v2, z))) : z.still = s.still := by
  unfold mergeRead at h
  grind [still_mk, still_eta, State.bump_still, State.raise_still]

theorem atT0_still (s : State) (h : Hold) : (atT0 s h).still = s.still := by
  rfl

theorem walkReq_still {s : State} {r port} {parse v1} {v2 z} (h : walkReq s r port parse = (v1, (v2, z))) : z.still = s.still := by
  unfold walkReq at h
  grind [still_mk, still_eta, State.bump_still, State.raise_still]

theorem regFaults_still (s : State) (l) : (regFaults s l).still = s.still := by
  unfold regFaults
  repeat' (first | with_reducible rfl | with_reducible refine (foldl_still _ (fun s a => ?_) _ _).trans ?_ | (simp only [still_mk,
                                          still_eta, ite_still, ite_self, readErr_still]) | split)
  all_goals grind (splits := 0) [still_mk, still_eta, readErr_still]

theorem holdFor_still (s : State) (port r) (lat t0) (faults parse) : (holdFor s port r lat t0 faults parse).still = s.still := by
  unfold holdFor
  grind [still_mk, still_eta, regFaults_still, State.raise_still, → walkReq_still, → runPasses_still, → mergeRead_still]

theorem markWaited_still (s : State) (port ctx) : (markWaited s port ctx).still = s.still := by
  unfold markWaited
  simp only [still_mk, still_eta, ite_still, ite_self, State.modLink_still]

theorem acceptRequest_still (s : State) (port ctx) (t faults parse) : (acceptRequest s port ctx t faults parse).still = s.still := by
  unfold acceptRequest
  simp only [still_mk, still_eta, ite_still, ite_self, pressAt_still, markWaited_still, State.bump_still, wheelsTo_still,
      State.modLink_still, holdFor_still]
  repeat' split
  all_goals simp only [still_mk, still_eta, ite_still, ite_self, pressAt_still, markWaited_still, State.bump_still, wheelsTo_still,
      State.modLink_still, holdFor_still]

theorem postUpd_still (s : State) (u) : (postUpd s u).still = s.still := by
  unfold postUpd
  grind [still_mk, still_eta, statAdd_still, State.bump_still, State.modTable_still, counterAdd_still, stampHit_still, → snapPost_still]

theorem postAll_still (s : State) (err l) : (postAll s err l).still = s.still := by
  unfold postAll
  repeat' (first | with_reducible rfl | with_reducible refine (foldl_still _ (fun s a => ?_) _ _).trans ?_ | (simp only [still_mk,
                                          still_eta, ite_still, ite_self, cacheErr_still, postUpd_still]) | split)
  all_goals grind (splits := 0) [still_mk, still_eta, cacheErr_still, postUpd_still]

theorem checkWords_still {s0 bad i} {s : State} {r v1 z} (h : checkWords s0 bad i s r = (v1, z)) : z.still = s.still := by
  unfold checkWords at h
  grind [still_mk, still_eta, State.raise_still]

theorem checkAll_still {s0 bad} {i l} {s : State} {v1 z} (h : checkAll s0 bad i l s = (v1, z)) : z.still = s.still := by
  induction l generalizing s i v1 z with
  | nil => grind [checkAll]
  | cons a l ih =>
    simp only [checkAll] at h
    repeat' (split at h)
    all_goals grind (splits := 0) [still_mk, still_eta, → checkWords_still]

theorem returnCredit_still (s : State) (port ctx) : (returnCredit s port ctx).still = s.still := by
  unfold returnCredit
  simp only [still_mk, still_eta, ite_still, ite_self, State.modLink_still]

theorem emitHold_still (s : State) (h bad err) : (emitHold s h bad err).still = s.still := by
  unfold emitHold
  extract_lets s1
  have h1 : s1.still = s.still := foldl_still _ (fun s b => State.raise_still ..) _ _
  clear_value s1
  split
  rename_i recs s2 hc
  extract_lets h' h'' s3 s4 s5 s6 s7
  have h2 : s2.still = s.still := (checkAll_still hc).trans h1
  clear hc
  have h3 : s3.still = s.still := (foldl_still _ (fun s b => statAdd_still ..) _ _).trans h2
  clear_value s3
  have h4 : s4.still = s.still := (foldl_still _ (fun s b => by split; exact State.bump_still ..; rfl) _ _).trans h3
  clear_value s4
  have h5 : s5.still = s.still := (postAll_still ..).trans h4
  clear_value s5
  have h6 : s6.still = s.still := ite_of h5 ((foldl_still _ (fun s b => learnPush_still ..) _ _).trans h5)
  clear_value s6
  have h7 : s7.still = s.still := ite_of ((emit_still ..).trans h6) ((State.bump_still ..).trans h6)
  exact (markSettling_still ..).trans ((returnCredit_still ..).trans h7)

theorem chainBreak_still (s : State) : (chainBreak s).still = s.still := by
  unfold chainBreak
  simp only [still_mk, still_eta, ite_still, ite_self, State.setBits_still, State.raise_still]

theorem unverify_still (s : State) (c) : (unverify s c).still = s.still := by
  unfold unverify
  simp only [still_mk, still_eta, ite_still, ite_self, chainBreak_still]

theorem chainLost_still (s : State) (w) : (chainLost s w).still = s.still := by
  unfold chainLost
  repeat' (first | rfl | (simp only [still_mk, still_eta, ite_still, ite_self, unverify_still]; done) | split)
  all_goals simp only [still_mk, still_eta, ite_still, ite_self, unverify_still]

theorem chainStep_still (s : State) : (chainStep s).still = s.still := by
  unfold chainStep
  simp only [still_mk, still_eta, ite_still, ite_self, State.raise_still]

theorem cscApplied_still (s : State) (enWas) : (cscApplied s enWas).still = s.still := by
  unfold cscApplied
  simp only [still_mk, still_eta, ite_still, ite_self, chainBreak_still]

theorem helloSend_still (s : State) : (helloSend s).still = s.still := by
  unfold helloSend
  simp only [still_mk, still_eta, ite_still, ite_self, advance_still, emit_still]

theorem helloIn_still (s : State) (c f) : (helloIn s c f).still = s.still := by
  unfold helloIn
  simp only [still_mk, still_eta, ite_still, ite_self, State.bump_still, State.setBits_still, State.raise_still, unverify_still,
      chainBreak_still]

theorem partBelow_still {s : State} {t wc} {p v} {ok key} {now budget} {faults v1} {v2 v3 z} (h : partBelow s t wc p v ok key now budget
    faults = ((v1, (v2, v3)), z)) : z.still = s.still := by
  have h := congrArg (fun q => q.2.still) h
  rw [show z.still = ((v1, (v2, v3)), z).2.still from rfl, ← h]
  clear h
  unfold partBelow
  extract_lets miss
  have hm : ∀ s q, (miss s q).2.still = s.still := fun _ _ => rfl
  clear_value miss
  refine ite_p (hm _ _) ?_
  split
  · exact hm _ _
  · refine ite_p (hm _ _) (ite_p ((hm _ _).trans ((State.raise_still _ _ _ _ _).trans (State.setBits_still _ _ _))) (ite_p (hm _ _) (ite_p (hm _ _) ?_)))
    split
    split
    · exact (hm _ _).trans (splitFound_still _ _ _)
    · split
      · exact hm _ _
      · refine ite_p (hm _ _) (ite_p (hm _ _) (ite_p (hm _ _) ?_))
        extract_lets fs
        refine ite_p ((hm _ _).trans ((cxRepair_still _ _).trans (State.raise_still _ _ _ _ _))) (ite_p (hm _ _) ?_)
        split
        rename_i hs
        have h2 := (searchTernary_still hs).trans (ite_of (State.bump_still s _ _) rfl)
        split
        · exact (hm _ _).trans h2
        · exact (hm _ _).trans h2
        · exact (hm _ _).trans h2
        · exact h2

theorem searchIn_still (s : State) (fl t faults) : (searchIn s fl t faults).still = s.still := by
  unfold searchIn
  grind [still_mk, still_eta, wheelsTo_still, advance_still, State.bump_still, → partBelow_still, → sendOn_still]

theorem answerSend_still (s : State) (ctag) : (answerSend s ctag).still = s.still := by
  unfold answerSend
  repeat' (first | rfl | (simp only [still_mk, still_eta, ite_still, ite_self, advance_still, emit_still]; done) | split)
  all_goals simp only [still_mk, still_eta, ite_still, ite_self, advance_still, emit_still]

theorem answerIn__still (s : State) (fl t) : (answerIn_ s fl t).still = s.still := by
  unfold answerIn_
  simp only [still_mk, still_eta, ite_still, ite_self, advance_still, State.bump_still]

theorem sendWins_still (a0) (a0_ : State) : (sendWins a0 a0_).still = a0_.still := by
  fun_induction sendWins
  all_goals grind [still_mk, still_eta, State.bump_still, emit_still]

theorem headRec_still {s0} {s : State} {c v1} {v2 v3 z} (h : headRec s0 s c = (v1, v2, v3, z)) : z.still = s.still := by
  unfold headRec at h
  grind [still_mk, still_eta, State.bump_still, State.raise_still, statAdd_still]

theorem fateRec_still {s : State} {c r} {v1 z} (h : fateRec s c r = (v1, z)) : z.still = s.still := by
  unfold fateRec at h
  grind [still_mk, still_eta, statAdd_still]

theorem headAll_still {s0 bad l} {s : State} {k w} {v1 v2 z} (h : headAll s0 bad l s k w = (z, v1, v2)) : z.still = s.still := by
  induction l generalizing s k w v1 v2 z with
  | nil => grind [headAll]
  | cons a l ih =>
    simp only [headAll] at h
    exact (ih h).trans ((fateRec_still rfl).trans (headRec_still (v1 := _) (v2 := _) (v3 := _) rfl))

theorem lateRec_still {s0} {s : State} {k p} {n v1 z} (h : lateRec s0 s k p n = (v1, z)) : z.still = s.still := by
  unfold lateRec at h
  grind [still_mk, still_eta, State.bump_still, State.raiseOnce_still]

theorem lateRecs_still {s0 k} {p n i} {s : State} {v1 z} (h : lateRecs s0 k p n i s = (v1, z)) : z.still = s.still := by
  induction n generalizing s i v1 z with
  | zero => grind [lateRecs]
  | succ n ih =>
    simp only [lateRecs] at h
    repeat' (split at h)
    all_goals grind (splits := 0) [still_mk, still_eta, → lateRec_still]

theorem finishCsc_still {s : State} {x bad} {v1 z} (h : finishCsc s x bad = (z, v1)) : z.still = s.still := by
  unfold finishCsc at h
  split at h
  · cases h; rfl
  · dsimp only at h
    generalize hh : headAll _ bad x.csc s x [] = q at h
    obtain ⟨s1, k1, wins⟩ := q
    have h1 : s1.still = s.still := headAll_still hh
    clear hh
    dsimp only at h
    generalize hn : (if (x.csc.any fun c => c.fate == 0 && !c.gone) = true then _ else _ : Option Nat × Nat × State × Hold) = q at h
    obtain ⟨q, f, s2, k2⟩ := q
    have h2 : s2.still = s.still := by
      refine Eq.trans ?_ h1
      split at hn
      · exact nextPass_still hn
      · cases hn; rfl
    clear hn
    cases q <;> cases h
    · exact (sendWins_still ..).trans h2
    · exact (sendWins_still ..).trans ((lateRecs_still rfl).trans h2)

theorem emitResponse_still (s : State) (port ctx) (bad err) : (emitResponse s port ctx bad err).still = s.still := by
  unfold emitResponse
  repeat' split
  all_goals grind (splits := 0) [still_mk, still_eta, advance_still, emitHold_still, → finishCsc_still]

theorem winNotice_still (s : State) (n) : (winNotice s n).still = s.still := by
  unfold winNotice
  repeat' (first | rfl | (simp only [still_mk, still_eta, ite_still, ite_self, postUpd_still]; done) | split)
  all_goals simp only [still_mk, still_eta, ite_still, ite_self, postUpd_still]

theorem winIn_still (s : State) (f) : (winIn s f).still = s.still := by
  unfold winIn
  repeat' split
  all_goals grind (splits := 0) [still_mk, still_eta, winNotice_still, State.bump_still, sendWins_still]

end Sys2Proof.Machine
end

