-- ==== Sys2Proof/Laws/StillUnits.lean ====
section
/-! SUPPORT. Operations that leave the shared banks, the queue and the epoch counter as they were: recovery, the watchdog, the links, update groups and the management island. -/

namespace Sys2Proof.Machine

theorem claimR12_still {s : State} {d b} {v1 v2 z} (h : claimR12 s d b = some (v1, (v2, z))) : z.still = s.still := by
  unfold claimR12 at h
  grind [still_mk, still_eta, → addChange_still]

theorem dropBuild_still (s : State) (d u) : (dropBuild s d u).still = s.still := by
  unfold dropBuild
  simp only [still_mk, still_eta, ite_still, ite_self]

theorem modBuild_still (s : State) (d u f) : (modBuild s d u f).still = s.still := by
  unfold modBuild
  simp only [still_mk, still_eta, ite_still, ite_self]

theorem beginBuild_still (s : State) (d u) (b k) (use why hold) : (beginBuild s d u b k use why hold).still = s.still := by
  unfold beginBuild
  simp only [still_mk, still_eta, ite_still, ite_self, State.setSpare_still, askCopy_still]

theorem noSpare_still (s : State) (d u) (b kind) : (noSpare s d u b kind).still = s.still := by
  unfold noSpare
  simp only [still_mk, still_eta, ite_still, ite_self, State.raise_still]

theorem remakeMirror_still (s : State) (d b) : (remakeMirror s d b).still = s.still := by
  unfold remakeMirror
  repeat' (first | rfl | (simp only [still_mk, still_eta, ite_still, ite_self, beginBuild_still, State.raise_still]; done) | split)
  all_goals simp only [still_mk, still_eta, ite_still, ite_self, beginBuild_still, State.raise_still]

theorem rebuildStart_still (s : State) (d u) : (rebuildStart s d u).still = s.still := by
  unfold rebuildStart
  dsimp only
  refine ite_of (remakeMirror_still ..) (ite_of rfl (ite_of ?_ (ite_of rfl (ite_of (ite_of rfl ?_) (ite_of ?_ (ite_of ?_ rfl))))))
  · split
    · rename_i hc
      exact (State.raise_still ..).trans ((beginBuild_still ..).trans (claimR12_still (v1 := _) (v2 := _) hc))
    · exact noSpare_still ..
  · split
    · exact (State.raise_still ..).trans (beginBuild_still ..)
    · exact noSpare_still ..
  · simp only [still_mk, still_eta, dropBuild_still, skipTest_still]
    split
    · split
      · exact finish_still ..
      · rfl
    · rfl
  · split
    · rename_i hc
      exact (State.raise_still ..).trans ((beginBuild_still ..).trans (claimR12_still (v1 := _) (v2 := _) hc))
    · exact noSpare_still ..

theorem endTest_still (s : State) (d st h) : (endTest s d st h).still = s.still := by
  unfold endTest
  repeat' (first | rfl | (simp only [still_mk, still_eta, ite_still, ite_self, finish_still]; done) | split)
  all_goals simp only [still_mk, still_eta, ite_still, ite_self, finish_still]

theorem rebuildVerified_still (s : State) (d u good) : (rebuildVerified s d u good).still = s.still := by
  unfold rebuildVerified
  simp only [still_mk, still_eta, ite_still, ite_self, modBuild_still, askCopy_still, State.setSpare_still, State.raise_still,
      releaseSpare_still, endTest_still, skipTest_still, dropBuild_still, finishWaiting_still]
  repeat' split
  all_goals simp only [still_mk, still_eta, ite_still, ite_self, modBuild_still, askCopy_still, State.setSpare_still, State.raise_still,
      releaseSpare_still, endTest_still, skipTest_still, dropBuild_still, finishWaiting_still]

theorem releaseSuspects_still (s : State) (d) : (releaseSuspects s d).still = s.still := by
  unfold releaseSuspects
  repeat' (first | with_reducible rfl | with_reducible refine (foldl_still _ (fun s a => ?_) _ _).trans ?_ | (simp only [still_mk,
                                          still_eta, ite_still, ite_self, releaseSpare_still]) | split)
  all_goals grind (splits := 0) [still_mk, still_eta, releaseSpare_still]

theorem retirePos_still (s : State) (d p) : (retirePos s d p).still = s.still := by
  unfold retirePos
  simp only [still_mk, still_eta, ite_still, ite_self, State.setBlk_still, State.setSpare_still]

theorem retireDone_still (s : State) (d p ids) : (retireDone s d p ids).still = s.still := by
  unfold retireDone
  simp only [still_mk, still_eta, ite_still, ite_self, retirePos_still, stageRec_still, State.modCmds_still]

theorem retireNow_still (s : State) (d p c) : (retireNow s d p c).still = s.still := by
  unfold retireNow
  simp only [still_mk, still_eta, ite_still, ite_self, finish_still, retireDone_still]

theorem copySwapAt_still (s : State) (d u) : (copySwapAt s d u).still = s.still := by
  unfold copySwapAt
  simp only [still_mk, still_eta, ite_still, ite_self, dropBuild_still, State.setSpare_still, State.setBlk_still, releaseSpare_still,
      endTest_still, finishWaiting_still, retireDone_still, releaseSuspects_still, State.bump_still, State.raise_still, heldAction_still]
  repeat' split
  all_goals simp only [still_mk, still_eta, ite_still, ite_self, dropBuild_still, State.setSpare_still, State.setBlk_still,
      releaseSpare_still, endTest_still, finishWaiting_still, retireDone_still, releaseSuspects_still, State.bump_still, State.raise_still,
      heldAction_still]

theorem testStart_still (s : State) (d p cmd) : (testStart s d p cmd).still = s.still := by
  unfold testStart
  repeat' (first | rfl | (simp only [still_mk, still_eta, ite_still, ite_self, skipTest_still, finish_still, beginBuild_still]; done) |
                                          split)
  all_goals simp only [still_mk, still_eta, ite_still, ite_self, skipTest_still, finish_still, beginBuild_still]

theorem testWindowAt_still (s : State) (d) : (testWindowAt s d).still = s.still := by
  unfold testWindowAt
  repeat' (first | rfl | (simp only [still_mk, still_eta, ite_still, ite_self, testStart_still]; done) | split)
  all_goals simp only [still_mk, still_eta, ite_still, ite_self, testStart_still]

theorem arrayTestDone_still (s : State) (d pass) : (arrayTestDone s d pass).still = s.still := by
  unfold arrayTestDone
  repeat' (first | rfl | (simp only [still_mk, still_eta, ite_still, ite_self, State.bump_still, endTest_still, finish_still,
                                          State.raise_still, State.setSpare_still, retireDone_still]; done) | split)
  all_goals simp only [still_mk, still_eta, ite_still, ite_self, State.bump_still, endTest_still, finish_still, State.raise_still,
      State.setSpare_still, retireDone_still]

theorem scrubAt_still (s : State) : (scrubAt s).still = s.still := by
  unfold scrubAt
  simp only [still_mk, still_eta, ite_still, ite_self, State.raise_still, heldAction_still]

theorem askRun_still (s : State) (d u) : (askRun s d u).still = s.still := by
  unfold askRun
  repeat' split
  all_goals grind (splits := 0) [still_mk, still_eta, askDram_still, askSlots_still, → draw_still]

theorem scrubRun_still (s : State) (d u) (run first second) : (scrubRun s d u run first second).still = s.still := by
  unfold scrubRun
  repeat' (first | rfl | (simp only [still_mk, still_eta, ite_still, ite_self, askRun_still, State.bump_still, markSuspect_still,
                                          State.raise_still]; done) | split)
  all_goals simp only [still_mk, still_eta, ite_still, ite_self, askRun_still, State.bump_still, markSuspect_still, State.raise_still]

theorem scrubDone_still (s : State) : (scrubDone s).still = s.still := by
  unfold scrubDone
  repeat' (first | with_reducible rfl | with_reducible refine (foldl_still _ (fun s a => ?_) _ _).trans ?_ | (simp only [still_mk,
                                          still_eta, ite_still, ite_self, finish_still, State.bump_still]) | split)
  all_goals grind (splits := 0) [still_mk, still_eta, finish_still, State.bump_still]

theorem sbTestAt_still (s : State) : (sbTestAt s).still = s.still := by
  unfold sbTestAt
  grind [still_mk, still_eta, heldAction_still, → draw_still]

theorem remapRows_still (s : State) (bank rows) : (remapRows s bank rows).still = s.still := by
  unfold remapRows
  repeat' (first | with_reducible rfl | with_reducible refine (foldl_still _ (fun s a => ?_) _ _).trans ?_ | (simp only [still_mk,
                                          still_eta, ite_still, ite_self, State.bump_still, State.raise_still]) | split)
  all_goals grind (splits := 0) [still_mk, still_eta, State.bump_still, State.raise_still]

theorem sbTestDone_still (s : State) (failed) : (sbTestDone s failed).still = s.still := by
  unfold sbTestDone
  repeat' (first | rfl | (simp only [still_mk, still_eta, ite_still, ite_self, remapRows_still, State.bump_still]; done) | split)
  all_goals simp only [still_mk, still_eta, ite_still, ite_self, remapRows_still, State.bump_still]

theorem cmdSprinkle_still (s : State) (c) : (cmdSprinkle s c).still = s.still := by
  unfold cmdSprinkle
  simp only [still_mk, still_eta, ite_still, ite_self, finish_still, cmdWait_still]

theorem moveCrumb_still (s : State) (d k j) : (moveCrumb s d k j).still = s.still := by
  unfold moveCrumb
  simp only [still_mk, still_eta, ite_still, ite_self, State.setSpare_still]

theorem retireTested_still (s : State) (d p) : (retireTested s d p).still = s.still := by
  unfold retireTested
  repeat' (first | rfl | (simp only [still_mk, still_eta, ite_still, ite_self, endTest_still, State.setSpare_still]; done) | split)
  all_goals simp only [still_mk, still_eta, ite_still, ite_self, endTest_still, State.setSpare_still]

theorem cmdBlockRetire_still (s : State) (c) : (cmdBlockRetire s c).still = s.still := by
  unfold cmdBlockRetire
  dsimp only
  refine ite_of (finish_still ..) (ite_of (finish_still ..) (ite_of (finish_still ..) (ite_of (finish_still ..) ?_)))
  generalize hs : (if testedInPlace s (c.le 16 4 % 4) (c.le 20 4) = true then abortTest s (c.le 16 4 % 4) else s) = s1
  have h1 : s1.still = s.still := by rw [← hs]; exact ite_of (abortTest_still ..) rfl
  clear hs
  refine Eq.trans ?_ h1
  clear h1
  refine ite_of (ite_of ((retireNow_still ..).trans (retireTested_still ..)) ?_) (ite_of (retireNow_still ..) ?_)
  · split
    · refine ite_of ((cmdWait_still ..).trans ((modBuild_still ..).trans ?_)) ?_
      · exact (ite_of (ite_of (endTest_still ..) rfl) ((State.setSpare_still ..).trans (ite_of (endTest_still ..) rfl)))
      · split
        · exact finish_still ..
        · rename_i hc
          exact (cmdWait_still ..).trans ((beginBuild_still ..).trans ((dropBuild_still ..).trans (claimR12_still (v1 := _) (v2 := _) hc)))
    · split
      · exact finish_still ..
      · rename_i hc
        exact (cmdWait_still ..).trans ((beginBuild_still ..).trans (claimR12_still (v1 := _) (v2 := _) hc))
  · split
    · exact finish_still ..
    · refine ite_of ((retireNow_still ..).trans (moveCrumb_still ..)) (ite_of ((cmdWait_still ..).trans ((beginBuild_still ..).trans (dropBuild_still ..))) ((retireNow_still ..).trans ?_))
      rfl

theorem tellWait_still (s : State) (w) : (tellWait s w).still = s.still := by
  unfold tellWait
  repeat' (first | rfl | (simp only [still_mk, still_eta, ite_still, ite_self, State.modCmds_still, State.modBox_still]; done) | split)
  all_goals simp only [still_mk, still_eta, ite_still, ite_self, State.modCmds_still, State.modBox_still]

theorem wdgStall_still (s : State) (i) : (wdgStall s i).still = s.still := by
  unfold wdgStall
  repeat' (first | rfl | (simp only [still_mk, still_eta, ite_still, ite_self, tellWait_still, State.bump_still, State.setLive_still,
                                          State.raise_still, State.bumpField_still]; done) | split)
  all_goals simp only [still_mk, still_eta, ite_still, ite_self, tellWait_still, State.bump_still, State.setLive_still,
      State.raise_still, State.bumpField_still]

theorem cmdWaitgraph_still (s : State) (c io) : (cmdWaitgraph s c io).still = s.still := by
  unfold cmdWaitgraph
  grind [still_mk, still_eta, finish_still, dmaFail_still, readFail_still, → draw_still, → busWrite_still]

theorem windowBlock_still (s : State) (t d b) : (windowBlock s t d b).still = s.still := by
  unfold windowBlock
  grind [still_mk, still_eta, State.setBlk_still, State.raise_still, State.setSpare_still, → addChange_still]

theorem newWindow_still (s : State) (d) : (newWindow s d).still = s.still := by
  unfold newWindow
  simp only [still_mk, still_eta, ite_still, ite_self]

theorem mirrorWindowAt_still (s : State) (d) : (mirrorWindowAt s d).still = s.still := by
  unfold mirrorWindowAt
  repeat' (first | with_reducible rfl | with_reducible refine (foldl_still _ (fun s a => ?_) _ _).trans ?_ | (simp only [still_mk,
                                          still_eta, ite_still, ite_self, windowBlock_still, newWindow_still]) | split)
  all_goals grind (splits := 0) [still_mk, still_eta, windowBlock_still, newWindow_still]

theorem tellLongRun_still (s : State) (i) : (tellLongRun s i).still = s.still := by
  unfold tellLongRun
  simp only [still_mk, still_eta, ite_still, ite_self, State.raise_still]

theorem wheelLiveAt_still (s : State) (i) : (wheelLiveAt s i).still = s.still := by
  unfold wheelLiveAt
  repeat' (first | with_reducible rfl | with_reducible refine (foldl_still _ (fun s a => ?_) _ _).trans ?_ | (simp only [still_mk,
                                          still_eta, ite_still, ite_self, wheelsTo_still, advance_still, State.setLive_still,
                                          tellLongRun_still]) | split)
  all_goals grind (splits := 0) [still_mk, still_eta, wheelsTo_still, advance_still, State.setLive_still, tellLongRun_still]

theorem wheelPassed_still (i a0) (a0_ : State) : (wheelPassed i a0 a0_).still = a0_.still := by
  fun_induction wheelPassed
  all_goals grind [still_mk, still_eta, wheelLiveAt_still]

theorem strobeWheel_still (s : State) (i n) : (strobeWheel s i n).still = s.still := by
  unfold strobeWheel
  simp only [still_mk, still_eta, ite_still, ite_self, wheelPassed_still, State.raise_still]
  repeat' split
  all_goals simp only [still_mk, still_eta, ite_still, ite_self, wheelPassed_still, State.raise_still]

theorem strobeDie_still (s : State) (l) : (strobeDie s l).still = s.still := by
  unfold strobeDie
  repeat' (first | with_reducible rfl | with_reducible refine (foldl_still _ (fun s a => ?_) _ _).trans ?_ | (simp only [still_mk,
                                          still_eta, ite_still, ite_self, strobeWheel_still]) | split)
  all_goals grind (splits := 0) [still_mk, still_eta, strobeWheel_still, → draw_still]

theorem grantAll_still {s : State} {p v1 z} (h : grantAll s p = (v1, z)) : z.still = s.still := by
  have hf : ∀ (f : List Nat × State → Nat → List Nat) (g : List Nat × State → Nat → Link → Link) (l : List Nat) (a : List Nat × State),
      (l.foldl (fun a c => (f a c, a.2.modLink p (g a c))) a).2.still = a.2.still := by
    intro f g l
    induction l with
    | nil => intro a; rfl
    | cons c l ih => intro a; rw [List.foldl_cons, ih, State.modLink_still]
  unfold grantAll at h
  have := hf (fun a c => a.1 ++ [grantable a.2 p c (natAt (a.2.link p).back c)]) (fun a c l => { l with
      creds := listMod l.creds c (fun k => k + grantable a.2 p c (natAt (a.2.link p).back c)), back := listMod l.back c (fun k => k -
          grantable a.2 p c (natAt (a.2.link p).back c)) }) (List.range 8) ([], s)
  rw [h] at this
  exact this

theorem startCredits_still (s : State) (p) : (startCredits s p).still = s.still := by
  unfold startCredits
  repeat' split
  all_goals grind (splits := 0) [still_mk, still_eta, State.modLink_still, → grantAll_still]

theorem linkDown_still (s : State) (p) : (linkDown s p).still = s.still := by
  unfold linkDown
  simp only [still_mk, still_eta, ite_still, ite_self, State.modLink_still, unverify_still]

theorem startTraining_still (s : State) (p) : (startTraining s p).still = s.still := by
  unfold startTraining
  simp only [still_mk, still_eta, ite_still, ite_self, State.modLink_still]

theorem trainAll_still (s : State) : (trainAll s).still = s.still :=
  foldl_still _ (fun s a => ite_of (startTraining_still s a) rfl) _ s

theorem retrain_still (s : State) (p) : (retrain s p).still = s.still := by
  unfold retrain
  simp only [still_mk, still_eta, ite_still, ite_self, startTraining_still, linkDown_still]

theorem trainEnd_still (s : State) (p good peer) : (trainEnd s p good peer).still = s.still := by
  unfold trainEnd
  simp only [still_mk, still_eta, ite_still, ite_self, State.modLink_still, startCredits_still, State.raise_still]
  repeat' split
  all_goals simp only [still_mk, still_eta, ite_still, ite_self, State.modLink_still, startCredits_still, State.raise_still]

theorem laneLock_still (s : State) (n) : (laneLock s n).still = s.still := by
  unfold laneLock
  simp only [still_mk, still_eta, ite_still, ite_self, State.modLink_still]

theorem sendLink_still (s : State) (p state sw) : (sendLink s p state sw).still = s.still := by
  unfold sendLink
  simp only [still_mk, still_eta, ite_still, ite_self, emit_still]

theorem narrowAt_still (s : State) (p t) : (narrowAt s p t).still = s.still := by
  unfold narrowAt
  simp only [still_mk, still_eta, ite_still, ite_self, linkDown_still, State.modLink_still]
  repeat' split
  all_goals simp only [still_mk, still_eta, ite_still, ite_self, linkDown_still, State.modLink_still]

theorem degrade_still (s : State) (p) : (degrade s p).still = s.still := by
  unfold degrade
  simp only [still_mk, still_eta, ite_still, ite_self, narrowAt_still, sendLink_still]

theorem laneFails_still (s : State) (p j) : (laneFails s p j).still = s.still := by
  unfold laneFails
  simp only [still_mk, still_eta, ite_still, ite_self, State.modLink_still, degrade_still]

theorem widthChange_still (s : State) (p w t) : (widthChange s p w t).still = s.still := by
  unfold widthChange
  simp only [still_mk, still_eta, ite_still, ite_self, State.modLink_still, State.bump_still, State.raise_still]

theorem settleLinks_still (s : State) : (settleLinks s).still = s.still := by
  unfold settleLinks
  repeat' (first | with_reducible rfl | with_reducible refine (foldl_still _ (fun s a => ?_) _ _).trans ?_ | (simp only [still_mk,
                                          still_eta, ite_still, ite_self, widthChange_still]) | split)
  all_goals grind (splits := 0) [still_mk, still_eta, widthChange_still]

theorem widenFlit_still (s : State) (p f) : (widenFlit s p f).still = s.still := by
  unfold widenFlit
  simp only [still_mk, still_eta, ite_still, ite_self, State.modLink_still, sendLink_still]
  repeat' split
  all_goals simp only [still_mk, still_eta, ite_still, ite_self, State.modLink_still, sendLink_still]

theorem widenStart_still (s : State) (p) : (widenStart s p).still = s.still := by
  unfold widenStart
  simp only [still_mk, still_eta, ite_still, ite_self, sendLink_still, State.modLink_still]

theorem linkFlitIn_still (s : State) (p f) : (linkFlitIn s p f).still = s.still := by
  unfold linkFlitIn
  grind [still_mk, still_eta, widenFlit_still, State.modLink_still, narrowAt_still, sendLink_still, degrade_still, emit_still,
      → grantAll_still]

theorem checkFail_still (s : State) (p r) : (checkFail s p r).still = s.still := by
  unfold checkFail
  simp only [still_mk, still_eta, ite_still, ite_self, State.modLink_still, State.bump_still]

theorem replayLimit_still (s : State) (p) : (replayLimit s p).still = s.still := by
  unfold replayLimit
  simp only [still_mk, still_eta, ite_still, ite_self, retrain_still, State.raise_still]

theorem frameErr_still (s : State) (p t r) : (frameErr s p t r).still = s.still := by
  unfold frameErr
  simp only [still_mk, still_eta, ite_still, ite_self, State.bump_still, State.raiseOnce_still]

theorem useCredit_still (s : State) (p c) : (useCredit s p c).still = s.still := by
  unfold useCredit
  simp only [still_mk, still_eta, ite_still, ite_self, State.modLink_still]

theorem creditBack_still (s : State) (p c) : (creditBack s p c).still = s.still := by
  unfold creditBack
  simp only [still_mk, still_eta, ite_still, ite_self, returnCredit_still, useCredit_still]

theorem frameErrIn_still (s : State) (p f slot0) : (frameErrIn s p f slot0).still = s.still := by
  unfold frameErrIn
  simp only [still_mk, still_eta, ite_still, ite_self, creditBack_still, frameErr_still]

theorem requestIn_still (s : State) (p hform fl) : (requestIn s p hform fl).still = s.still := by
  unfold requestIn
  simp only [still_mk, still_eta, ite_still, ite_self, State.bump_still, useCredit_still, State.modLink_still]

theorem dtOrder_still (s : State) (p) : (dtOrder s p).still = s.still := by
  unfold dtOrder
  simp only [still_mk, still_eta, ite_still, ite_self, advance_still]

theorem dtWriteIn_still (s : State) (p fl) : (dtWriteIn s p fl).still = s.still := by
  unfold dtWriteIn
  simp only [still_mk, still_eta, ite_still, ite_self, State.bump_still, State.modLink_still, State.raiseOnce_still, dtMeet_still, dtOrder_still]

theorem beaconIn_still (s : State) (p f) : (beaconIn s p f).still = s.still := by
  unfold beaconIn
  simp only [still_mk, still_eta, ite_still, ite_self, State.bump_still, frameErr_still, State.setLive_still]

theorem rejectReg_still (s : State) (a v) (e o) : (rejectReg s a v e o).still = s.still := by
  unfold rejectReg
  repeat' (first | rfl | (simp only [still_mk, still_eta, ite_still, ite_self, State.setBits_still, State.raise_still]; done) | split)
  all_goals simp only [still_mk, still_eta, ite_still, ite_self, State.setBits_still, State.raise_still]

theorem latChange_still (s : State) (t old new) : (latChange s t old new).still = s.still := by
  unfold latChange
  simp only [still_mk, still_eta, ite_still, ite_self, State.modTable_still]

theorem afterReg_still (s : State) (a old new) : (afterReg s a old new).still = s.still := by
  unfold afterReg
  repeat' (first | rfl | (simp only [still_mk, still_eta, ite_still, ite_self, latChange_still, cscApplied_still, linkDown_still,
                                          startTraining_still]; done) | split)
  all_goals simp only [still_mk, still_eta, ite_still, ite_self, latChange_still, cscApplied_still, linkDown_still, startTraining_still]

theorem applyReg_still (s0) (s : State) (a) : (applyReg s0 s a).still = s.still := by
  unfold applyReg
  simp only [still_mk, still_eta, ite_still, ite_self, rejectReg_still, afterReg_still, State.setLive_still]
  repeat' split
  all_goals simp only [still_mk, still_eta, ite_still, ite_self, rejectReg_still, afterReg_still, State.setLive_still]

theorem applyProfiles_still (s : State) (l) : (applyProfiles s l).still = s.still := by
  unfold applyProfiles
  repeat' (first | with_reducible rfl | with_reducible refine (foldl_still _ (fun s a => ?_) _ _).trans ?_ | (simp only [still_mk,
                                          still_eta, ite_still, ite_self, State.setLive_still, State.raise_still]) | split)
  all_goals grind (splits := 0) [still_mk, still_eta, State.setLive_still, State.raise_still]

theorem applyRank_still (s : State) (a n) (l idx) : (applyRank s a n l idx).still = s.still := by
  unfold applyRank
  simp only [still_mk, still_eta, ite_still, ite_self, State.setLive_still, State.raise_still]

theorem applyWheels_still (s : State) (l) : (applyWheels s l).still = s.still := by
  unfold applyWheels
  grind [still_mk, still_eta, strobeDie_still, applyRank_still]

theorem discardAbsent_still (s : State) : (discardAbsent s).still = s.still := by
  unfold discardAbsent
  simp only [still_mk, still_eta, ite_still, ite_self]

theorem journalConfig_still (s : State) (l) : (journalConfig s l).still = s.still := by
  unfold journalConfig
  simp only [still_mk, still_eta, ite_still, ite_self, stageRec_still]

theorem applyWords_still (s : State) (g) : (applyWords s g).still = s.still := by
  unfold applyWords
  repeat' (first | with_reducible rfl | with_reducible refine (foldl_still _ (fun s a => ?_) _ _).trans ?_ | (simp only [still_mk,
                                          still_eta, ite_still, ite_self, applyReg_still, applyProfiles_still, State.setLive_still,
                                          journalConfig_still, applyWheels_still]) | split)
  all_goals grind (splits := 0) [still_mk, still_eta, applyReg_still, applyProfiles_still, State.setLive_still, journalConfig_still,
      applyWheels_still]

theorem applyBuffers_still (s : State) (g) : (applyBuffers s g).still = s.still := by
  unfold applyBuffers
  simp only [still_mk, still_eta, ite_still, ite_self, discardAbsent_still, State.raise_still, applyWords_still]
  repeat' split
  all_goals simp only [still_mk, still_eta, ite_still, ite_self, discardAbsent_still, State.raise_still, applyWords_still]

theorem applyGroup_still (s : State) (g) : (applyGroup s g).still = s.still := by
  unfold applyGroup
  simp only [still_mk, still_eta, applyBuffers_still]

theorem applyStrobe_still (s : State) (v) : (applyStrobe s v).still = s.still := by
  unfold applyStrobe
  repeat' (first | with_reducible rfl | with_reducible refine (foldl_still _ (fun s a => ?_) _ _).trans ?_ | (simp only [still_mk,
                                          still_eta, ite_still, ite_self, applyGroup_still]) | split)
  all_goals grind (splits := 0) [still_mk, still_eta, applyGroup_still]

theorem armGroups_still (s : State) (v) : (armGroups s v).still = s.still := by
  unfold armGroups
  repeat' (first | with_reducible rfl | with_reducible refine (foldl_still _ (fun s a => ?_) _ _).trans ?_ | (simp only [still_mk,
                                          still_eta, ite_still, ite_self]) | split)
  all_goals grind (splits := 0) [still_mk, still_eta]

theorem disarmGroups_still (s : State) (v) : (disarmGroups s v).still = s.still := by
  unfold disarmGroups
  simp only [still_mk, still_eta, ite_still, ite_self]

theorem applyArmed_still (s : State) (g) : (applyArmed s g).still = s.still := by
  unfold applyArmed
  repeat' (first | rfl | (simp only [still_mk, still_eta, ite_still, ite_self, applyGroup_still, heldAction_still]; done) | split)
  all_goals simp only [still_mk, still_eta, ite_still, ite_self, applyGroup_still, heldAction_still]

theorem alertSet_still (s : State) (c) : (alertSet s c).still = s.still := by
  unfold alertSet
  simp only [still_mk, still_eta, ite_still, ite_self]

theorem alertUpdate_still (s : State) : (alertUpdate s).still = s.still := by
  unfold alertUpdate
  simp only [still_mk, still_eta, ite_still, ite_self, alertSet_still]

theorem tempCompare_still (s : State) (n) : (tempCompare s n).still = s.still := by
  unfold tempCompare
  simp only [still_mk, still_eta, ite_still, ite_self, State.raise_still]

theorem sensorScan_still (s : State) (r) : (sensorScan s r).still = s.still := by
  unfold sensorScan
  repeat' (first | with_reducible rfl | with_reducible refine (foldl_still _ (fun s a => ?_) _ _).trans ?_ | (simp only [still_mk,
                                          still_eta, ite_still, ite_self, tempCompare_still, State.raise_still]) | split)
  all_goals grind (splits := 0) [still_mk, still_eta, tempCompare_still, State.raise_still]

theorem railFault_still (s : State) (n mv) : (railFault s n mv).still = s.still := by
  unfold railFault
  simp only [still_mk, still_eta, ite_still, ite_self, State.raise_still]

theorem ringPush_still (s : State) (r) : (ringPush s r).still = s.still := by
  unfold ringPush
  simp only [still_mk, still_eta, ite_still, ite_self, State.bump_still]
  repeat' split
  all_goals simp only [still_mk, still_eta, ite_still, ite_self, State.bump_still]

theorem logCopy_still (s : State) (q) : (logCopy s q).still = s.still := by
  unfold logCopy
  repeat' split
  all_goals grind (splits := 0) [still_mk, still_eta]

theorem logFlush_still (s : State) : (logFlush s).still = s.still := by
  unfold logFlush
  simp only [still_mk, still_eta, ite_still, ite_self, logCopy_still]
  repeat' split
  all_goals simp only [still_mk, still_eta, ite_still, ite_self, logCopy_still]

theorem cmdLogRead_still (s : State) (c io) : (cmdLogRead s c io).still = s.still := by
  unfold cmdLogRead
  grind [still_mk, still_eta, finish_still, dmaFail_still, readFail_still, → busWrite_still]

theorem cmdSensorRead_still (s : State) (c io) : (cmdSensorRead s c io).still = s.still := by
  unfold cmdSensorRead
  repeat' split
  all_goals grind (splits := 0) [still_mk, still_eta, finish_still, dmaFail_still, readFail_still, → busWrite_still]

theorem setKey_still (s : State) (k x) : (setKey s k x).still = s.still := by
  unfold setKey
  simp only [still_mk, still_eta, ite_still, ite_self]

theorem authFail_still (s : State) (c) : (authFail s c).still = s.still := by
  unfold authFail
  simp only [still_mk, still_eta, ite_still, ite_self, finish_still, State.raise_still]

theorem keyWrite_still (s : State) (c programmed x) : (keyWrite s c programmed x).still = s.still := by
  unfold keyWrite
  simp only [still_mk, still_eta, ite_still, ite_self, finish_still, setKey_still]

theorem cmdInstall_still (s : State) (c io programmed) : (cmdInstall s c io programmed).still = s.still := by
  unfold cmdInstall
  simp only [still_mk, still_eta, ite_still, ite_self, finish_still, dmaFail_still, readFail_still, authFail_still, keyWrite_still]
  repeat' split
  all_goals simp only [still_mk, still_eta, ite_still, ite_self, finish_still, dmaFail_still, readFail_still, authFail_still, keyWrite_still]

theorem cmdGenerate_still (s : State) (c io programmed) : (cmdGenerate s c io programmed).still = s.still := by
  unfold cmdGenerate
  grind [still_mk, still_eta, finish_still, dmaFail_still, readFail_still, authFail_still, keyWrite_still, → busWrite_still]

theorem cmdErase_still (s : State) (c io programmed) : (cmdErase s c io programmed).still = s.still := by
  unfold cmdErase
  simp only [still_mk, still_eta, ite_still, ite_self, finish_still, dmaFail_still, readFail_still, authFail_still, keyWrite_still]
  repeat' split
  all_goals simp only [still_mk, still_eta, ite_still, ite_self, finish_still, dmaFail_still, readFail_still, authFail_still, keyWrite_still]

theorem cmdReadPub_still (s : State) (c io) : (cmdReadPub s c io).still = s.still := by
  unfold cmdReadPub
  grind [still_mk, still_eta, finish_still, dmaFail_still, readFail_still, → busWrite_still]

theorem mgtRestart_still (s : State) : (mgtRestart s).still = s.still := by
  unfold mgtRestart
  simp only [still_mk, still_eta, ite_still, ite_self, State.bumpField_still, State.raise_still, finish_still]
  repeat' split
  all_goals simp only [still_mk, still_eta, ite_still, ite_self, State.bumpField_still, State.raise_still, finish_still]

theorem smbAnswer_still (s : State) (code block l) : (smbAnswer s code block l).still = s.still := by
  unfold smbAnswer
  simp only [still_mk, still_eta, ite_still, ite_self, emit_still]

theorem smbAlertStatus_still (s : State) : (smbAlertStatus s).still = s.still := by
  unfold smbAlertStatus
  simp only [still_mk, still_eta, ite_still, ite_self, emit_still]

theorem smbSummary_still (s : State) : (smbSummary s).still = s.still := by
  unfold smbSummary
  simp only [still_mk, still_eta, ite_still, ite_self, smbAnswer_still]

theorem smbAra_still (s : State) : (smbAra s).still = s.still := by
  unfold smbAra
  simp only [still_mk, still_eta, ite_still, ite_self, emit_still]

theorem smbReject_still (s : State) : (smbReject s).still = s.still := by
  unfold smbReject
  simp only [still_mk, still_eta, ite_still, ite_self, emit_still, State.bumpField_still]

end Sys2Proof.Machine
end

