-- ==== Sys2Proof/Laws/StillVault.lean ====
section
/-! SUPPORT. Operations that leave the shared banks, the queue and the epoch counter as they were: the vault, its images, the restore and power. -/

namespace Sys2Proof.Machine

theorem wear_still (s : State) : (wear s).still = s.still := by
  unfold wear
  grind [still_mk, still_eta, State.raise_still, → draw_still]

theorem programRecs_still (s : State) (q) : (programRecs s q).still = s.still := by
  unfold programRecs
  simp only [still_mk, still_eta, ite_still, ite_self]

theorem resumeJournal_still (s : State) : (resumeJournal s).still = s.still := by
  unfold resumeJournal
  simp only [still_mk, still_eta, ite_still, ite_self, State.modCmds_still]

theorem journalProgramDone_still (s : State) (q) : (journalProgramDone s q).still = s.still := by
  unfold journalProgramDone
  simp only [still_mk, still_eta, ite_still, ite_self, resumeJournal_still, wear_still, programRecs_still]

theorem setImage_still (s : State) (k i) : (setImage s k i).still = s.still := by
  unfold setImage
  simp only [still_mk, still_eta, ite_still, ite_self]

theorem dropCkptJoin_still (s : State) : (dropCkptJoin s).still = s.still := by
  unfold dropCkptJoin
  repeat' (first | with_reducible rfl | with_reducible refine (foldl_still _ (fun s a => ?_) _ _).trans ?_ | (simp only [still_mk,
                                          still_eta, ite_still, ite_self, finish_still]) | split)
  all_goals grind (splits := 0) [still_mk, still_eta, finish_still]

theorem askCheckpoint_still (s : State) : (askCheckpoint s).still = s.still := by
  unfold askCheckpoint
  repeat' (first | with_reducible rfl | with_reducible refine (foldl_still _ (fun s a => ?_) _ _).trans ?_ | (simp only [still_mk,
                                          still_eta, ite_still, ite_self, askDram_still]) | split)
  all_goals grind (splits := 0) [still_mk, still_eta, askDram_still, → draw_still]

theorem ckptStart_still (s : State) (forced) : (ckptStart s forced).still = s.still := by
  unfold ckptStart
  simp only [still_mk, still_eta, ite_still, ite_self, stageRec_still, askCheckpoint_still, setImage_still, heldAction_still,
      State.raise_still]

theorem ckptAt_still (s : State) : (ckptAt s).still = s.still := by
  unfold ckptAt
  simp only [still_mk, still_eta, ite_still, ite_self, dropCkptJoin_still, ckptStart_still]

theorem freeJournal_still (s : State) : (freeJournal s).still = s.still := by
  unfold freeJournal
  repeat' (first | rfl | (simp only [still_mk, still_eta, ite_still, ite_self]; done) | split)
  all_goals simp only [still_mk, still_eta, ite_still, ite_self]

theorem ckptDone_still (s : State) : (ckptDone s).still = s.still := by
  unfold ckptDone
  repeat' (first | with_reducible rfl | with_reducible refine (foldl_still _ (fun s a => ?_) _ _).trans ?_ | (simp only [still_mk,
                                          still_eta, ite_still, ite_self, stageRec_still, wear_still, programRecs_still, setImage_still,
                                          freeJournal_still, State.bump_still, State.raise_still, resumeJournal_still,
                                          finishAs_still]) | split)
  all_goals grind (splits := 0) [still_mk, still_eta, stageRec_still, wear_still, programRecs_still, setImage_still, freeJournal_still,
      State.bump_still, State.raise_still, resumeJournal_still, finishAs_still, → maintLines_still]

theorem cmdVaultCheckpoint_still (s : State) (c) : (cmdVaultCheckpoint s c).still = s.still := by
  unfold cmdVaultCheckpoint
  simp only [still_mk, still_eta, ite_still, ite_self, finish_still, cmdWait_still]

theorem patrolAt_still (s : State) : (patrolAt s).still = s.still := by
  unfold patrolAt
  simp only [still_mk, still_eta, ite_still, ite_self, heldAction_still]

theorem unTable_still (s : State) (t a b) : (unTable s t a b).still = s.still := by
  unfold unTable
  repeat' (first | with_reducible rfl | with_reducible refine (foldl_still _ (fun s a => ?_) _ _).trans ?_ | (simp only [still_mk,
                                          still_eta, ite_still, ite_self, sweepRows_still, State.setTable_still, putAttrs_still,
                                          freeBlock_still]) | split)
  all_goals grind (splits := 0) [still_mk, still_eta, sweepRows_still, State.setTable_still, putAttrs_still, freeBlock_still]

theorem unRec_still (s : State) (r) : (unRec s r).still = s.still := by
  unfold unRec
  repeat' (first | rfl | (simp only [still_mk, still_eta, ite_still, ite_self, unTable_still]; done) | split)
  all_goals simp only [still_mk, still_eta, ite_still, ite_self, unTable_still]

theorem unCopyMap_still (s : State) (id) : (unCopyMap s id).still = s.still := by
  unfold unCopyMap
  repeat' (first | with_reducible rfl | with_reducible refine (foldl_still _ (fun s a => ?_) _ _).trans ?_ | (simp only [still_mk,
                                          still_eta, ite_still, ite_self, releaseSpare_still, freeBlock_still]) | split)
  all_goals grind (splits := 0) [still_mk, still_eta, releaseSpare_still, freeBlock_still]

theorem unRetire_still (s : State) (c) : (unRetire s c).still = s.still := by
  unfold unRetire
  simp only [still_mk, still_eta, ite_still, ite_self, State.setBlk_still]

theorem dropRetire_still (s : State) (d u) : (dropRetire s d u).still = s.still := by
  unfold dropRetire
  repeat' (first | rfl | (simp only [still_mk, still_eta, ite_still, ite_self, modBuild_still, dropBuild_still,
                                          releaseSpare_still]; done) | split)
  all_goals simp only [still_mk, still_eta, ite_still, ite_self, modBuild_still, dropBuild_still, releaseSpare_still]

theorem faultCmd_still (s : State) (c) : (faultCmd s c).still = s.still := by
  unfold faultCmd
  repeat' (first | with_reducible rfl | with_reducible refine (foldl_still _ (fun s a => ?_) _ _).trans ?_ | (simp only [still_mk,
                                          still_eta, ite_still, ite_self, finish_still, dropRetire_still, finishAs_still,
                                          unRetire_still, unCopyMap_still, unRec_still]) | split)
  all_goals grind (splits := 0) [still_mk, still_eta, finish_still, dropRetire_still, finishAs_still, unRetire_still, unCopyMap_still,
      unRec_still]

theorem unLater_still (s : State) (r) : (unLater s r).still = s.still := by
  unfold unLater
  repeat' (first | rfl | (simp only [still_mk, still_eta, ite_still, ite_self]; done) | split)
  all_goals simp only [still_mk, still_eta, ite_still, ite_self]

theorem withdrawCmd_still (s : State) (c st) : (withdrawCmd s c st).still = s.still := by
  unfold withdrawCmd
  repeat' (first | with_reducible rfl | with_reducible refine (foldl_still _ (fun s a => ?_) _ _).trans ?_ | (simp only [still_mk,
                                          still_eta, ite_still, ite_self, unLater_still, unRec_still, finish_still, unRetire_still,
                                          unCopyMap_still, State.modCmds_still]) | split)
  all_goals grind (splits := 0) [still_mk, still_eta, unLater_still, unRec_still, finish_still, unRetire_still, unCopyMap_still,
      State.modCmds_still]

theorem askCkpt_still (s : State) : (askCkpt s).still = s.still := by
  exact (rfl)

theorem stageUe_still (s : State) (q) : (stageUe s q).still = s.still := by
  unfold stageUe
  simp only [still_mk, still_eta, ite_still, ite_self, State.raise_still, askCkpt_still, State.modCmds_still, finishAs_still,
      withdrawCmd_still]
  repeat' split
  all_goals simp only [still_mk, still_eta, ite_still, ite_self, State.raise_still, askCkpt_still, State.modCmds_still, finishAs_still,
      withdrawCmd_still]

theorem stallAbort_still (s : State) (m) : (stallAbort s m).still = s.still := by
  unfold stallAbort
  repeat' (first | rfl | (simp only [still_mk, still_eta, ite_still, ite_self, finish_still, dropIdle_still, withdrawCmd_still]; done) |
                                          split)
  all_goals simp only [still_mk, still_eta, ite_still, ite_self, finish_still, dropIdle_still, withdrawCmd_still]

theorem dropCkpt_still (s : State) : (dropCkpt s).still = s.still := by
  unfold dropCkpt
  split
  · rfl
  · exact foldl_still _ (fun s a => finish_still ..) _ _

theorem vltLost_still (s : State) : (vltLost s).still = s.still := by
  unfold vltLost
  repeat' (first | with_reducible rfl | with_reducible refine (foldl_still _ (fun s a => ?_) _ _).trans ?_ | (simp only [still_mk,
                                          still_eta, ite_still, ite_self, State.raise_still, faultCmd_still, State.modCmds_still,
                                          finish_still, enterFs_still, resumeJournal_still, dropCkptJoin_still, dropCkpt_still]) | split)
  all_goals grind (splits := 0) [still_mk, still_eta, State.raise_still, faultCmd_still, State.modCmds_still, finish_still,
      enterFs_still, resumeJournal_still, dropCkptJoin_still, dropCkpt_still]

theorem vltRetire_still (s : State) (b) : (vltRetire s b).still = s.still := by
  unfold vltRetire
  simp only [still_mk, still_eta, ite_still, ite_self, State.bump_still, State.raise_still, vltLost_still]

theorem cmdVaultStatus_still (s : State) (c io) : (cmdVaultStatus s c io).still = s.still := by
  unfold cmdVaultStatus
  repeat' split
  all_goals grind (splits := 0) [still_mk, still_eta, finish_still, dmaFail_still, readFail_still, → busWrite_still]

theorem cmdCrumbSet_still (s : State) (c io programmed) : (cmdCrumbSet s c io programmed).still = s.still := by
  unfold cmdCrumbSet
  simp only [still_mk, still_eta, ite_still, ite_self, finish_still, dmaFail_still, readFail_still]
  repeat' split
  all_goals simp only [still_mk, still_eta, ite_still, ite_self, finish_still, dmaFail_still, readFail_still]

theorem tableSections_still {s : State} {t x} {counters v1 z} (h : tableSections s t x counters = (v1, z)) : z.still = s.still := by
  unfold tableSections at h
  grind [still_mk, still_eta, → recordsOf_still]

theorem cmdVaultExport_still (s : State) (c io) : (cmdVaultExport s c io).still = s.still := by
  unfold cmdVaultExport
  repeat' (first | with_reducible rfl | with_reducible refine (foldl_still _ (fun s a => ?_) _ _).trans ?_ | (simp only [still_mk,
                                          still_eta, ite_still, ite_self, finish_still, State.raise_still, dmaFail_still, readFail_still]) | split)
  all_goals grind (splits := 0) [still_mk, still_eta, finish_still, State.raise_still, dmaFail_still, readFail_still, → busWrite_still,
      → tableSections_still]

theorem loadEntry_still {s : State} {t o e} {z : State} (h : loadEntry s t o e = .ok z) : z.still = s.still := by
  unfold loadEntry at h
  grind [still_mk, still_eta, → applyChange_still]

theorem loadEntries_still {s : State} {t o es} {z : State} (h : loadEntries s t o es = .ok z) : z.still = s.still := by
  unfold loadEntries at h
  simp only [] at h
  refine foldl_keep (fun (q : ChangeRes) => ∀ z, q = .ok z → z.still = s.still) _ (fun q a hq y hy => ?_) _ _ (fun y hy => ?_) z h
  · skip
    split at hy
    · cases hy
    · exact (loadEntry_still hy).trans (hq _ rfl)
  · cases hy
    exact foldl_still _ (fun s a => removeOpen_still s t o a) _ _

theorem loadInto_still {s : State} {t o l} {z : State} (h : loadInto s t o l = .ok z) : z.still = s.still := by
  unfold loadInto at h
  split at h
  · exact loadEntries_still h
  · cases h; exact State.modTable_still s t _
  · cases h; rfl

theorem loadCounters_still (s : State) (t o b) : (loadCounters s t o b).still = s.still := by
  unfold loadCounters
  repeat' (first | with_reducible rfl | with_reducible refine (foldl_still _ (fun s a => ?_) _ _).trans ?_ | (simp only [still_mk,
                                          still_eta, ite_still, ite_self, putPair_still]) | split)
  all_goals grind (splits := 0) [still_mk, still_eta, putPair_still]

theorem loadEvents_still (s : State) (i) : (loadEvents s i).still = s.still := by
  unfold loadEvents
  repeat' (first | rfl | (simp only [still_mk, still_eta, ite_still, ite_self, State.raise_still]; done) | split)
  all_goals simp only [still_mk, still_eta, ite_still, ite_self, State.raise_still]

theorem stageBulk_still (s : State) (c ld) : (stageBulk s c ld).still = s.still := by
  unfold stageBulk
  repeat' (first | rfl | (simp only [still_mk, still_eta, ite_still, ite_self, stageCmd_still]; done) | split)
  all_goals simp only [still_mk, still_eta, ite_still, ite_self, stageCmd_still]

theorem endImport_still (s : State) (c k) (o e) (by_ ld) : (endImport s c k o e by_ ld).still = s.still := by
  unfold endImport
  repeat' split
  all_goals grind (splits := 0) [still_mk, still_eta, finish_still, stageBulk_still, markChange_still, cmdWait_still, → sealSlot_still]

theorem importInto_still (s0 : State) (s : State) (c k) (e by_) (ld cnt) (hs : s.still = s0.still) : (importInto s0 s c k e by_ ld
    cnt).still = s0.still := by
  unfold importInto
  dsimp only
  generalize ho : (if k = .direct then some (0, s) else openGen s c.table) = q
  rcases q with _ | ⟨o, s1⟩
  · exact finish_still ..
  · have h1 : s1.still = s0.still := by
      by_cases hk : k = .direct
      · rw [if_pos hk] at ho; cases ho; exact hs
      · rw [if_neg hk] at ho; exact (openGen_still ho).trans hs
    clear ho
    dsimp only
    refine ite_of ((finish_still ..).trans (State.raise_still ..)) ?_
    generalize hl : loadInto s1 c.table o ld = q
    rcases q with ⟨st, f⟩ | s2
    · exact (finish_still ..).trans (placeEvents_still ..)
    · have h2 : s2.still = s0.still := (loadInto_still hl).trans h1
      have hb : ∀ (c : Prop) [Decidable c], (if c then s1 else s0).still = s0.still := fun c _ => ite_of h1 rfl
      refine ite_of (failHeld_still ..) ((needJournal_still _ _ _ ?_).trans (hb _))
      rw [hb]
      refine (endImport_still ..).trans ?_
      cases cnt
      · exact h2
      · exact (loadCounters_still ..).trans h2

theorem proofBlank_still (s : State) (t e) : (proofBlank s t e).still = s.still := by
  unfold proofBlank
  repeat' (first | with_reducible rfl | with_reducible refine (foldl_still _ (fun s a => ?_) _ _).trans ?_ | (simp only [still_mk,
                                          still_eta, ite_still, ite_self, freePosition_still, State.modTable_still]) | split)
  all_goals grind (splits := 0) [still_mk, still_eta, freePosition_still, State.modTable_still]

theorem importTable_still (s : State) (c e secs) : (importTable s c e secs).still = s.still := by
  unfold importTable
  repeat' (first | rfl | (refine (foldl_still _ (fun s a => ?_) _ _).trans ?_) | (simp only [still_mk, still_eta, ite_still, ite_self,
                                          finish_still, loadEvents_still, importInto_still, proofBlank_still]) | split)
  all_goals grind (splits := 0) [still_mk, still_eta, finish_still, loadEvents_still, importInto_still, proofBlank_still, →
      createTable_still]

theorem importCrumb_still (s : State) (c secs) : (importCrumb s c secs).still = s.still := by
  unfold importCrumb
  simp only [still_mk, still_eta, ite_still, ite_self, finish_still]
  repeat' split
  all_goals simp only [still_mk, still_eta, ite_still, ite_self, finish_still]

theorem importConfig_still (s : State) (c secs) : (importConfig s c secs).still = s.still := by
  unfold importConfig
  simp only [still_mk, still_eta, ite_still, ite_self, finish_still]

theorem cmdVaultImport_still (s : State) (c io) : (cmdVaultImport s c io).still = s.still := by
  unfold cmdVaultImport
  simp only [still_mk, still_eta, ite_still, ite_self, finish_still, dmaFail_still, readFail_still, State.raise_still, importTable_still,
      importCrumb_still, importConfig_still]
  repeat' split
  all_goals simp only [still_mk, still_eta, ite_still, ite_self, finish_still, dmaFail_still, readFail_still, State.raise_still, importTable_still,
      importCrumb_still, importConfig_still]

theorem stageTo_still (s : State) (new) : (stageTo s new).still = s.still := by
  unfold stageTo
  simp only [still_mk, still_eta, ite_still, ite_self, State.raise_still]

theorem fullWhenDone_still (s : State) : (fullWhenDone s).still = s.still := by
  unfold fullWhenDone
  simp only [still_mk, still_eta, ite_still, ite_self, stageTo_still]

theorem holdBlocks_still (s : State) (t l) : (holdBlocks s t l).still = s.still := by
  unfold holdBlocks
  repeat' (first | with_reducible rfl | with_reducible refine (foldl_still _ (fun s a => ?_) _ _).trans ?_ | (simp only [still_mk,
                                          still_eta, ite_still, ite_self, takeBlock_still, State.setBlk_still, State.setSpare_still]) |
                                          split)
  all_goals grind (splits := 0) [still_mk, still_eta, takeBlock_still, State.setBlk_still, State.setSpare_still]

theorem mountTable_still (s : State) (t i) : (mountTable s t i).still = s.still := by
  unfold mountTable
  simp only [still_mk, still_eta, ite_still, ite_self, putAttrs_still, State.setTable_still, holdBlocks_still]

theorem restoreWord_still (s : State) (a v) : (restoreWord s a v).still = s.still := by
  unfold restoreWord
  simp only [still_mk, still_eta, ite_still, ite_self, State.setLive_still, State.setBuf_still]

theorem closePorts_still (s : State) : (closePorts s).still = s.still :=
  foldl_still _ (fun s a => ite_of (linkDown_still s a) rfl) _ s

theorem badImages_still (s : State) (imgA imgB) : (badImages s imgA imgB).still = s.still := rfl

theorem loadConfig_still (s : State) (c) : (loadConfig s c).still = s.still := by
  unfold loadConfig
  repeat' (first | with_reducible rfl | with_reducible refine (foldl_still _ (fun s a => ?_) _ _).trans ?_ | (simp only [still_mk,
                                          still_eta, ite_still, ite_self, State.setBlk_still, mountTable_still, restoreWord_still,
                                          tellLongRun_still, cscApplied_still, closePorts_still]) | split)
  all_goals grind (splits := 0) [still_mk, still_eta, State.setBlk_still, mountTable_still, restoreWord_still, tellLongRun_still,
      cscApplied_still, closePorts_still]

theorem mountVault_still (s : State) (config) : (mountVault s config).still = s.still := by
  unfold mountVault
  simp only [still_mk, still_eta, ite_still, ite_self, vltLost_still, State.raise_still, loadConfig_still]
  repeat' split
  all_goals simp only [still_mk, still_eta, ite_still, ite_self, vltLost_still, State.raise_still, loadConfig_still]

theorem loadCrumbs_still (s : State) (ok) : (loadCrumbs s ok).still = s.still := by
  unfold loadCrumbs
  repeat' (first | with_reducible rfl | with_reducible refine (foldl_still _ (fun s a => ?_) _ _).trans ?_ | (simp only [still_mk,
                                          still_eta, ite_still, ite_self, State.raise_still, State.setSpare_still]) | split)
  all_goals grind (splits := 0) [still_mk, still_eta, State.raise_still, State.setSpare_still]

theorem leaveDormant_still (s : State) : (leaveDormant s).still = s.still := by
  unfold leaveDormant
  repeat' (first | with_reducible rfl | with_reducible refine (foldl_still _ (fun s a => ?_) _ _).trans ?_ | (simp only [still_mk,
                                          still_eta, ite_still, ite_self, stageTo_still, startCredits_still]) | split)
  all_goals grind (splits := 0) [still_mk, still_eta, stageTo_still, startCredits_still]

theorem hdrRepairs_still (s : State) (n) : (hdrRepairs s n).still = s.still := by
  unfold hdrRepairs
  repeat' (first | with_reducible rfl | with_reducible refine (foldl_still _ (fun s a => ?_) _ _).trans ?_ | (simp only [still_mk,
                                          still_eta, ite_still, ite_self, cxRepair_still, State.raise_still]) | split)
  all_goals grind (splits := 0) [still_mk, still_eta, cxRepair_still, State.raise_still, → draw_still]

theorem crumbEntry_still (s : State) (copyA copyB config repairs imgA imgB) :
    (crumbEntry s copyA copyB config repairs imgA imgB).still = s.still := by
  unfold crumbEntry
  simp only [still_mk, still_eta, ite_still, ite_self, hdrRepairs_still, mountVault_still, leaveDormant_still, loadCrumbs_still,
    badImages_still]

theorem restoreRow_still (s : State) (k t base r) : (restoreRow s k t base r).still = s.still := by
  unfold restoreRow
  extract_lets w used
  split
  rename_i p s1 h1
  have h1 : s1.still = s.still := by
    generalize ha : allocPos s (posDie r.pos) w = q at h1
    rcases q with ⟨_ | q, s2⟩ <;> exact (congrArg (fun q => q.2.still) h1).symm.trans (ite_p (allocPos_still ha) rfl)
  extract_lets own
  split
  rename_i reps s2 h2
  have h2 : s2.still = s.still := by
    refine Eq.trans ?_ h1
    generalize ha : allocReps s1 w _ [p] = q at h2
    rcases q with ⟨_ | q, s2⟩ <;> exact (congrArg (fun q => q.2.still) h2).symm.trans (ite_p rfl (allocReps_still ha))
  extract_lets s3
  have h3 : s3.still = s.still := (State.modTable_still ..).trans h2
  clear_value s3
  split
  · exact (putStamp_still ..).trans ((putPair_still ..).trans h3)
  · split
    rename_i hd
    exact (putStamp_still ..).trans ((putPair_still ..).trans ((draw_still hd).trans h3))

theorem restoreMirrors_still (s : State) (l) : (restoreMirrors s l).still = s.still := by
  unfold restoreMirrors
  repeat' (first | with_reducible rfl | with_reducible refine (foldl_still _ (fun s a => ?_) _ _).trans ?_ | (simp only [still_mk,
                                          still_eta, ite_still, ite_self]) | split)
  all_goals grind (splits := 0) [still_mk, still_eta, → addMirrors_still]

theorem restoreFrom_still (s : State) (k t x i) : (restoreFrom s k t x i).still = s.still := by
  unfold restoreFrom
  repeat' (first | with_reducible rfl | with_reducible refine (foldl_still _ (fun s a => ?_) _ _).trans ?_ | (simp only [still_mk,
                                          still_eta, ite_still, ite_self, askDram_still, State.setTable_still, restoreRow_still,
                                          restoreMirrors_still, State.raise_still]) | split)
  all_goals grind (splits := 0) [still_mk, still_eta, askDram_still, State.setTable_still, restoreRow_still, restoreMirrors_still,
      State.raise_still, → draw_still]

theorem restoreDone_still (s : State) (secA secB) : (restoreDone s secA secB).still = s.still := by
  unfold restoreDone
  simp only [still_mk, still_eta, ite_still, ite_self, restoreFrom_still, State.modTable_still, State.raise_still]
  repeat' split
  all_goals simp only [still_mk, still_eta, ite_still, ite_self, restoreFrom_still, State.modTable_still, State.raise_still]

theorem cutTable_still (s : State) (t) : (cutTable s t).still = s.still := by
  unfold cutTable
  repeat' (first | rfl | (simp only [still_mk, still_eta, ite_still, ite_self, State.modTable_still, State.raise_still]; done) | split)
  all_goals simp only [still_mk, still_eta, ite_still, ite_self, State.modTable_still, State.raise_still]

theorem cutJournal_still (s : State) (q) : (cutJournal s q).still = s.still := by
  unfold cutJournal
  repeat' (first | with_reducible rfl | with_reducible refine (foldl_still _ (fun s a => ?_) _ _).trans ?_ | (simp only [still_mk,
                                          still_eta, ite_still, ite_self, State.raise_still, cutTable_still]) | split)
  all_goals grind (splits := 0) [still_mk, still_eta, State.raise_still, cutTable_still]

theorem tableRestored_still (s : State) (secA secB cut) : (tableRestored s secA secB cut).still = s.still := by
  unfold tableRestored
  repeat' (first | rfl | (simp only [still_mk, still_eta, ite_still, ite_self, restoreDone_still, cutJournal_still]; done) | split)
  all_goals simp only [still_mk, still_eta, ite_still, ite_self, restoreDone_still, cutJournal_still]

theorem promoteTable_still (s : State) (t) : (promoteTable s t).still = s.still := by
  unfold promoteTable
  repeat' (first | rfl | (simp only [still_mk, still_eta, ite_still, ite_self, State.setTable_still, State.bump_still, heldAction_still,
                                          State.raise_still, stageRec_still, fullWhenDone_still, finishWaiting_still]; done) | split)
  all_goals simp only [still_mk, still_eta, ite_still, ite_self, State.setTable_still, State.bump_still, heldAction_still,
      State.raise_still, stageRec_still, fullWhenDone_still, finishWaiting_still]

theorem crumbRelease_still (s : State) (t) : (crumbRelease s t).still = s.still := by
  unfold crumbRelease
  repeat' (first | with_reducible rfl | with_reducible refine (foldl_still _ (fun s a => ?_) _ _).trans ?_ | (simp only [still_mk,
                                          still_eta, ite_still, ite_self, releaseSpare_still]) | split)
  all_goals grind (splits := 0) [still_mk, still_eta, releaseSpare_still]

theorem writeTail_still (s : State) (most) : (writeTail s most).still = s.still := by
  unfold writeTail
  repeat' (first | rfl | (simp only [still_mk, still_eta, ite_still, ite_self, programRecs_still, logCopy_still]; done) | split)
  all_goals simp only [still_mk, still_eta, ite_still, ite_self, programRecs_still, logCopy_still]

theorem answerAll_still (s : State) : (answerAll s).still = s.still := by
  unfold answerAll
  repeat' (first | with_reducible rfl | with_reducible refine (foldl_still _ (fun s a => ?_) _ _).trans ?_ | (simp only [still_mk,
                                          still_eta, ite_still, ite_self, emitResponse_still]) | split)
  all_goals grind (splits := 0) [still_mk, still_eta, emitResponse_still]

theorem startFlush_still (s : State) (k) : (startFlush s k).still = s.still := by
  unfold startFlush
  simp only [still_mk, still_eta, ite_still, ite_self]

theorem flushWork_still (s : State) : (flushWork s).still = s.still := by
  unfold flushWork
  simp only [still_mk, still_eta, ite_still, ite_self, writeTail_still, answerAll_still]

theorem vinRestart_still (s : State) : (vinRestart s).still = s.still := by
  unfold vinRestart
  simp only [still_mk, still_eta, ite_still, ite_self]

theorem pwrInLow_still (s : State) : (pwrInLow s).still = s.still := by
  unfold pwrInLow
  simp only [still_mk, still_eta, ite_still, ite_self, State.raiseOnce_still]

theorem pwrEnRise_still (s : State) : (pwrEnRise s).still = s.still := by
  unfold pwrEnRise
  simp only [still_mk, still_eta, ite_still, ite_self]

theorem pwrenElapsed_still (s : State) : (pwrenElapsed s).still = s.still := by
  unfold pwrenElapsed
  simp only [still_mk, still_eta, ite_still, ite_self, advance_still]

theorem pwrGoodLate_still (s : State) : (pwrGoodLate s).still = s.still := by
  unfold pwrGoodLate
  simp only [still_mk, still_eta, ite_still, ite_self, advance_still]

theorem startRef_still (s : State) (modId) : (startRef s modId).still = s.still := by
  unfold startRef
  simp only [still_mk, still_eta, ite_still, ite_self, trainAll_still]

theorem afterReset_still (s : State) : (afterReset s).still = s.still := by
  unfold afterReset
  simp only [ite_still, ite_self, trainAll_still]

theorem mrstLow_still (s : State) : (mrstLow s).still = s.still := by
  unfold mrstLow
  simp only [still_mk, still_eta, ite_still, ite_self, startFlush_still]

theorem mrstRelease_still (s : State) (t modId) : (mrstRelease s t modId).still = s.still := by
  unfold mrstRelease
  simp only [still_mk, still_eta, ite_still, ite_self, advance_still, startRef_still]

theorem perstAssert_still (s : State) (p k) : (perstAssert s p k).still = s.still := by
  unfold perstAssert
  simp only [still_mk, still_eta, ite_still, ite_self, State.modBox_still, linkDown_still]

theorem thermTrip_still (s : State) (n) : (thermTrip s n).still = s.still := by
  unfold thermTrip
  simp only [still_mk, still_eta, ite_still, ite_self, State.raise_still, State.bumpField_still, State.setBits_still,
      State.setField_still, stageTo_still, startFlush_still]

theorem oscSwitch_still (s : State) : (oscSwitch s).still = s.still := by
  unfold oscSwitch
  simp only [still_mk, still_eta, ite_still, ite_self, State.raise_still]

theorem oscFail_still (s : State) : (oscFail s).still = s.still := by
  unfold oscFail
  simp only [still_mk, still_eta, ite_still, ite_self, enterFs_still, State.raise_still]

theorem tapLoad_still (s : State) (k) : (tapLoad s k).still = s.still := by
  unfold tapLoad
  simp only [still_mk, still_eta, ite_still, ite_self]

theorem tapIdcode_still (s : State) : (tapIdcode s).still = s.still := by
  unfold tapIdcode
  simp only [still_mk, still_eta, ite_still, ite_self, emit_still, tapLoad_still]

end Sys2Proof.Machine
end

