-- ==== Sys2Proof/Laws/StillRegs.lean ====
section
/-! SUPPORT. Operations that leave the shared banks, the queue and the epoch counter as they were: register accesses, patrol errors, the epoch step and the commands. -/

namespace Sys2Proof.Machine

theorem logAccess_still (s : State) (p a c) : (logAccess s p a c).still = s.still := by
  unfold logAccess
  simp only [still_mk, still_eta, ite_still, ite_self, State.setField_still, State.setLive_still, State.setBits_still, State.bump_still,
      emit_still, State.raiseOnce_still]

theorem latchPair_still (s : State) (p a) : (latchPair s p a).still = s.still := by
  unfold latchPair
  simp only [still_mk, still_eta, ite_still, ite_self]

theorem readClear_still (s : State) (a rc) : (readClear s a rc).still = s.still := by
  unfold readClear
  repeat' (first | rfl | (simp only [still_mk, still_eta, ite_still, ite_self, metPut_still, State.setLive_still]; done) | split)
  all_goals simp only [still_mk, still_eta, ite_still, ite_self, metPut_still, State.setLive_still]

theorem readFull_still {s : State} {p a} {v1 z} (h : readFull s p a = (v1, z)) : z.still = s.still := by
  unfold readFull at h
  grind [still_mk, still_eta, pressTo_still, latchPair_still, readClear_still, → draw_still]

theorem pwTake_still (s : State) (n) : (pwTake s n).still = s.still := by
  unfold pwTake
  repeat' (first | rfl | (simp only [still_mk, still_eta, ite_still, ite_self, State.setLive_still]; done) | split)
  all_goals simp only [still_mk, still_eta, ite_still, ite_self, State.setLive_still]

theorem pwSettle_still (s : State) (a) : (pwSettle s a).still = s.still := by
  unfold pwSettle
  repeat' (first | rfl | (simp only [still_mk, still_eta, ite_still, ite_self, pwTake_still]; done) | split)
  all_goals simp only [still_mk, still_eta, ite_still, ite_self, pwTake_still]

theorem answerRead_still (s : State) (p l) : (answerRead s p l).still = s.still := by
  unfold answerRead
  simp only [still_mk, still_eta, ite_still, ite_self, emit_still]

theorem rejectRead_still (s : State) (p a c) : (rejectRead s p a c).still = s.still := by
  unfold rejectRead
  simp only [still_mk, still_eta, ite_still, ite_self, emit_still, logAccess_still]

theorem regReadAt_still (s : State) (p a) (n e) : (regReadAt s p a n e).still = s.still := by
  unfold regReadAt
  grind [still_mk, still_eta, rejectRead_still, pwSettle_still, readErr_still, answerRead_still, → readFull_still]

theorem raiseGroup_still (s : State) (m g on) : (raiseGroup s m g on).still = s.still := by
  unfold raiseGroup
  simp only [still_mk, still_eta, ite_still, ite_self, raiseVec_still]

theorem writeEvtEn_still (s : State) (a m) (g v) : (writeEvtEn s a m g v).still = s.still := by
  unfold writeEvtEn
  simp only [still_mk, still_eta, ite_still, ite_self, raiseGroup_still, State.setLive_still]

theorem writeEvtMask_still (s : State) (a m) (g v) : (writeEvtMask s a m g v).still = s.still := by
  unfold writeEvtMask
  simp only [still_mk, still_eta, ite_still, ite_self, raiseGroup_still, State.setLive_still]

theorem writeVecCtrl_still (s : State) (p a v) : (writeVecCtrl s p a v).still = s.still := by
  unfold writeVecCtrl
  simp only [still_mk, still_eta, ite_still, ite_self, State.setLive_still, sendMsix_still, State.clrBits_still]

theorem noteBuf_still (s : State) : (noteBuf s).still = s.still := rfl

@[simp] theorem noteBuf_now (s : State) : (noteBuf s).now = s.now := rfl
@[simp] theorem noteBuf_epoch (s : State) : (noteBuf s).epoch = s.epoch := rfl
@[simp] theorem noteBuf_due (s : State) : (noteBuf s).due = s.due := rfl
@[simp] theorem noteBuf_own (s : State) : (noteBuf s).own = s.own := rfl
@[simp] theorem noteBuf_mbox (s : State) : (noteBuf s).mbox = s.mbox := rfl
@[simp] theorem noteBuf_cmds (s : State) : (noteBuf s).cmds = s.cmds := rfl
@[simp] theorem noteBuf_nextCmd (s : State) : (noteBuf s).nextCmd = s.nextCmd := rfl
@[simp] theorem noteBuf_rrMbox (s : State) : (noteBuf s).rrMbox = s.rrMbox := rfl
@[simp] theorem noteBuf_rrStart (s : State) : (noteBuf s).rrStart = s.rrStart := rfl
@[simp] theorem noteBuf_mem (s : State) : (noteBuf s).mem = s.mem := rfl
@[simp] theorem noteBuf_tables (s : State) : (noteBuf s).tables = s.tables := rfl
@[simp] theorem noteBuf_seals (s : State) : (noteBuf s).seals = s.seals := rfl
@[simp] theorem noteBuf_direct (s : State) : (noteBuf s).direct = s.direct := rfl
@[simp] theorem noteBuf_dies (s : State) : (noteBuf s).dies = s.dies := rfl
@[simp] theorem noteBuf_links (s : State) : (noteBuf s).links = s.links := rfl
@[simp] theorem noteBuf_holds (s : State) : (noteBuf s).holds = s.holds := rfl
@[simp] theorem noteBuf_walkEnds (s : State) : (noteBuf s).walkEnds = s.walkEnds := rfl
@[simp] theorem noteBuf_act (s : State) : (noteBuf s).act = s.act := rfl
@[simp] theorem noteBuf_cache (s : State) : (noteBuf s).cache = s.cache := rfl
@[simp] theorem noteBuf_learnQ (s : State) : (noteBuf s).learnQ = s.learnQ := rfl
@[simp] theorem noteBuf_snaps (s : State) : (noteBuf s).snaps = s.snaps := rfl
@[simp] theorem noteBuf_csc (s : State) : (noteBuf s).csc = s.csc := rfl
@[simp] theorem noteBuf_spk (s : State) : (noteBuf s).spk = s.spk := rfl
@[simp] theorem noteBuf_waitSnap (s : State) : (noteBuf s).waitSnap = s.waitSnap := rfl
@[simp] theorem noteBuf_vault (s : State) : (noteBuf s).vault = s.vault := rfl
@[simp] theorem noteBuf_mgmt (s : State) : (noteBuf s).mgmt = s.mgmt := rfl
@[simp] theorem noteBuf_power (s : State) : (noteBuf s).power = s.power := rfl
@[simp] theorem noteBuf_stage (s : State) : (noteBuf s).stage = s.stage := rfl
@[simp] theorem noteBuf_out (s : State) : (noteBuf s).out = s.out := rfl
@[simp] theorem noteBuf_free (s : State) : (noteBuf s).free = s.free := rfl
@[simp] theorem noteBuf_pending (s : State) : (noteBuf s).pending = s.pending := rfl
@[simp] theorem noteBuf_live (s : State) (a : Nat) : (noteBuf s).live a = s.live a := rfl
@[simp] theorem noteBuf_buffer (s : State) (a : Nat) : (noteBuf s).buffer a = s.buffer a := rfl

theorem poisonedWrite_still (s : State) (p a) : (poisonedWrite s p a).still = s.still := by
  unfold poisonedWrite
  simp only [ite_still, ite_self, logAccess_still]

theorem writePlain_still (s : State) (p a) (d v) : (writePlain s p a d v).still = s.still := by
  unfold writePlain
  simp only [still_mk, still_eta, ite_still, ite_self, State.setBuf_still, State.setLive_still, metPut_still, noteBuf_still]
  repeat' split
  all_goals simp only [still_mk, still_eta, ite_still, ite_self, State.setBuf_still, State.setLive_still, metPut_still, noteBuf_still]

theorem regEffect_still (s : State) (p a) (d v) : (regEffect s p a d v).still = s.still := by
  unfold regEffect
  simp only [still_mk, still_eta, ite_still, ite_self, startFlush_still, doClaim_still, doLease_still, journalConfig_still,
      advance_still, softWrite_still, applyStrobe_still, armGroups_still, disarmGroups_still, writeEvtEn_still, writeEvtMask_still, doDoorbell_still, doCplHead_still,
      writePlain_still, ccEnWrite_still, wayEnWrite_still, writeVecCtrl_still, retrain_still, widenStart_still]

theorem foreignMb_still (s : State) (p m a) : (foreignMb s p m a).still = s.still := by
  unfold foreignMb
  simp only [still_mk, still_eta, ite_still, ite_self, logAccess_still, mbErr_still]

theorem noRight_still (s : State) (p a a0) : (noRight s p a a0).still = s.still := by
  unfold noRight
  repeat' (first | rfl | (simp only [still_mk, still_eta, ite_still, ite_self, foreignMb_still, logAccess_still]; done) | split)
  all_goals simp only [still_mk, still_eta, ite_still, ite_self, foreignMb_still, logAccess_still]

theorem regWrite4_still (s : State) (p a v) : (regWrite4 s p a v).still = s.still := by
  unfold regWrite4
  repeat' (first | rfl | (simp only [still_mk, still_eta, ite_still, ite_self, logAccess_still, noRight_still, regEffect_still,
                                          State.setBits_still]; done) | split)
  all_goals simp only [still_mk, still_eta, ite_still, ite_self, logAccess_still, noRight_still, regEffect_still, State.setBits_still]

theorem regWriteAt_still (s : State) (p a l) : (regWriteAt s p a l).still = s.still := by
  unfold regWriteAt
  simp only [still_mk, still_eta, ite_still, ite_self, logAccess_still, regWrite4_still]

theorem bankErr_still (s : State) (e) : (bankErr s e).still = s.still := by
  unfold bankErr
  repeat' (first | rfl | (simp only [still_mk, still_eta, ite_still, ite_self, State.bump_still, State.raise_still]; done) | split)
  all_goals simp only [still_mk, still_eta, ite_still, ite_self, State.bump_still, State.raise_still]

theorem bankReadAt_still (s : State) (p a) (o n e) : (bankReadAt s p a o n e).still = s.still := by
  unfold bankReadAt
  repeat' split
  all_goals grind (splits := 0) [still_mk, still_eta, rejectRead_still, bankErr_still, answerRead_still, → bankRead_still]

theorem busReadOp_still (s : State) (p a) (n e) : (busReadOp s p a n e).still = s.still := by
  unfold busReadOp
  simp only [still_mk, still_eta, ite_still, ite_self, rejectRead_still, regReadAt_still, bankReadAt_still]

theorem suspectPos_still (s : State) (p) : (suspectPos s p).still = s.still := by
  exact (foldl_still (fun s (u : Nat × Nat) => markSuspect s u.1 u.2) (fun s u => markSuspect_still s u.1 u.2) _ _)

theorem suspectUnits_still (s : State) (l) : (suspectUnits s l).still = s.still := by
  unfold suspectUnits
  repeat' (first | with_reducible rfl | with_reducible refine (foldl_still _ (fun s a => ?_) _ _).trans ?_ | (simp only [still_mk,
                                          still_eta, ite_still, ite_self, markSuspect_still]) | split)
  all_goals grind (splits := 0) [still_mk, still_eta, markSuspect_still]

theorem stickWord_still (s : State) (t k a) : (stickWord s t k a).still = s.still := by
  exact ((State.raise_still ..).trans (State.modTable_still ..))

theorem patrolErr_still (s : State) (e) : (patrolErr s e).still = s.still := by
  unfold patrolErr
  simp only [still_mk, still_eta, ite_still, ite_self, State.bump_still, cacheErr_still, rsRepair_still, suspectPos_still,
      State.raise_still, stickWord_still, storeUe_still, markPair_still, putStamp_still, suspectUnits_still, modSnap_still, learnDrop_still,
      stageUe_still, parityAt_still, readErr_still, hdrRepairs_still]
  repeat' split
  all_goals simp only [still_mk, still_eta, ite_still, ite_self, State.bump_still, cacheErr_still, rsRepair_still, suspectPos_still,
      State.raise_still, stickWord_still, storeUe_still, markPair_still, putStamp_still, suspectUnits_still, modSnap_still, learnDrop_still,
      stageUe_still, parityAt_still, readErr_still, hdrRepairs_still]

theorem meet_still (s : State) (errs) : (meet s errs).still = s.still := by
  unfold meet
  repeat' (first | with_reducible rfl | with_reducible refine (foldl_still _ (fun s a => ?_) _ _).trans ?_ | (simp only [still_mk,
                                          still_eta, ite_still, ite_self, patrolErr_still]) | split)
  all_goals grind (splits := 0) [still_mk, still_eta, patrolErr_still]

theorem scrubStart_still (s : State) (ran errs) : (scrubStart s ran errs).still = s.still := by
  exact (ite_of rfl (foldl_still _ patrolErr_still _ _))

theorem settleMeet_still (s : State) (t errs) : (settleMeet s t errs).still = s.still := by
  unfold settleMeet
  simp only [still_mk, still_eta, ite_still, ite_self, settleTable_still, meet_still]

theorem learnMeet_still (s : State) (errs) : (learnMeet s errs).still = s.still := by
  unfold learnMeet
  simp only [still_mk, still_eta, ite_still, ite_self, learnApply_still, meet_still]

theorem ageMeet_still (s : State) (t : Nat) (h : Nat) (wr : Bool) (errs : List PatrolErr) : (ageMeet s t h wr errs).still = s.still := by
  unfold ageMeet
  exact ite_of rfl ((ageCompare_still ..).trans (meet_still ..))

theorem fillMeet_still (s : State) (n errs) : (fillMeet s n errs).still = s.still := by
  unfold fillMeet
  simp only [still_mk, still_eta, ite_still, ite_self, fillReturn_still, meet_still]

theorem rebuildMeet_still (s : State) (d u) (good errs) : (rebuildMeet s d u good errs).still = s.still := by
  unfold rebuildMeet
  simp only [still_mk, still_eta, ite_still, ite_self, rebuildVerified_still, meet_still]

theorem scrubMeet_still (s : State) (d u run) (first second errs) : (scrubMeet s d u run first second errs).still = s.still := by
  unfold scrubMeet
  simp only [still_mk, still_eta, ite_still, ite_self, scrubRun_still, meet_still]

theorem snapshotMeet_still (s0 : State) (s : State) (b errs) : (snapshotMeet s0 s b errs).still = s.still := by
  unfold snapshotMeet
  exact ite_of ((meet_still ..).trans (modSnap_still ..)) rfl

theorem patrolStart_still (s : State) (before stripe) : (patrolStart s before stripe).still = s.still := by
  exact (ite_of (askCkpt_still _) rfl)

theorem testPassAt_still (s : State) : (testPassAt s).still = s.still := by
  unfold testPassAt
  simp only [still_mk, still_eta, ite_still, ite_self, heldAction_still]

theorem runDue_still (s : State) (a0) : (runDue s a0).still = s.still := by
  unfold runDue
  repeat' (first | rfl | (simp only [still_mk, still_eta, ite_still, ite_self, leaseEndAt_still, handoverAt_still, electAt_still,
                                          vacantAt_still, applyArmed_still, glazeAt_still, promoteTable_still, copySwapAt_still,
                                          copyMapAt_still, snapshotAt_still, internalSealAt_still, ageStartAt_still,
                                          mirrorWindowAt_still, scrubAt_still, testWindowAt_still, sbTestAt_still, testPassAt_still,
                                          ckptAt_still, patrolAt_still]; done) | split)
  all_goals simp only [still_mk, still_eta, ite_still, ite_self, leaseEndAt_still, handoverAt_still, electAt_still, vacantAt_still,
      applyArmed_still, glazeAt_still, promoteTable_still, copySwapAt_still, copyMapAt_still, snapshotAt_still, internalSealAt_still,
      ageStartAt_still, mirrorWindowAt_still, scrubAt_still, testWindowAt_still, sbTestAt_still, testPassAt_still, ckptAt_still,
      patrolAt_still]

theorem runAll_still (a0) (a0_ : State) : (runAll a0 a0_).still = a0_.still := by
  fun_induction runAll
  all_goals grind [still_mk, still_eta, runDue_still]

theorem openStarts_still (s : State) : (openStarts s).still = s.still := by
  unfold openStarts
  simp only [still_mk, still_eta, ite_still, ite_self, runAll_still]

theorem flushDue_still (s : State) : (flushDue s).still = s.still := by
  unfold flushDue
  simp only [still_mk, still_eta, ite_still, ite_self, runAll_still, openStarts_still]

theorem runTo_still (p l) (s : State) : (runTo p l s).still = s.still := by
  induction l generalizing s with
  | nil => rfl
  | cons d l ih =>
    simp only [runTo]; split
    · rw [ih, runDue_still]
    · rfl

theorem dueUpTo_still (p) (s : State) : (dueUpTo p s).still = s.still := by
  unfold dueUpTo
  simp only [still_mk, still_eta, ite_still, ite_self, runTo_still, openStarts_still]

theorem pre_still (s : State) : (pre s).still = s.still := by
  unfold pre
  simp only [still_mk, still_eta, ite_still, ite_self, alertUpdate_still, settleLinks_still, flushDue_still, wheelsTo_still]

theorem preAt_still (t) (s : State) : (preAt t s).still = s.still := by
  unfold preAt
  simp only [still_mk, still_eta, ite_still, ite_self, alertUpdate_still, settleLinks_still, wheelsTo_still, advance_still, flushDue_still]

theorem preRead_still (s : State) : (preRead s).still = s.still := preAt_still _ s

theorem portOrder_still (s : State) (p) : (portOrder s p).still = s.still := by
  unfold portOrder
  simp only [still_mk, still_eta, ite_still, ite_self, advance_still]

@[simp] theorem portOrder_epoch (s : State) (p : Nat) : (portOrder s p).epoch = s.epoch := by unfold portOrder; split <;> rfl
@[simp] theorem portOrder_due (s : State) (p : Nat) : (portOrder s p).due = s.due := by unfold portOrder; split <;> rfl
@[simp] theorem portOrder_own (s : State) (p : Nat) : (portOrder s p).own = s.own := by unfold portOrder; split <;> rfl
@[simp] theorem portOrder_mbox (s : State) (p : Nat) : (portOrder s p).mbox = s.mbox := by unfold portOrder; split <;> rfl
@[simp] theorem portOrder_cmds (s : State) (p : Nat) : (portOrder s p).cmds = s.cmds := by unfold portOrder; split <;> rfl
@[simp] theorem portOrder_nextCmd (s : State) (p : Nat) : (portOrder s p).nextCmd = s.nextCmd := by unfold portOrder; split <;> rfl
@[simp] theorem portOrder_rrMbox (s : State) (p : Nat) : (portOrder s p).rrMbox = s.rrMbox := by unfold portOrder; split <;> rfl
@[simp] theorem portOrder_rrStart (s : State) (p : Nat) : (portOrder s p).rrStart = s.rrStart := by unfold portOrder; split <;> rfl
@[simp] theorem portOrder_mem (s : State) (p : Nat) : (portOrder s p).mem = s.mem := by unfold portOrder; split <;> rfl
@[simp] theorem portOrder_tables (s : State) (p : Nat) : (portOrder s p).tables = s.tables := by unfold portOrder; split <;> rfl
@[simp] theorem portOrder_seals (s : State) (p : Nat) : (portOrder s p).seals = s.seals := by unfold portOrder; split <;> rfl
@[simp] theorem portOrder_direct (s : State) (p : Nat) : (portOrder s p).direct = s.direct := by unfold portOrder; split <;> rfl
@[simp] theorem portOrder_dies (s : State) (p : Nat) : (portOrder s p).dies = s.dies := by unfold portOrder; split <;> rfl
@[simp] theorem portOrder_links (s : State) (p : Nat) : (portOrder s p).links = s.links := by unfold portOrder; split <;> rfl
@[simp] theorem portOrder_holds (s : State) (p : Nat) : (portOrder s p).holds = s.holds := by unfold portOrder; split <;> rfl
@[simp] theorem portOrder_walkEnds (s : State) (p : Nat) : (portOrder s p).walkEnds = s.walkEnds := by unfold portOrder; split <;> rfl
@[simp] theorem portOrder_act (s : State) (p : Nat) : (portOrder s p).act = s.act := by unfold portOrder; split <;> rfl
@[simp] theorem portOrder_cache (s : State) (p : Nat) : (portOrder s p).cache = s.cache := by unfold portOrder; split <;> rfl
@[simp] theorem portOrder_learnQ (s : State) (p : Nat) : (portOrder s p).learnQ = s.learnQ := by unfold portOrder; split <;> rfl
@[simp] theorem portOrder_snaps (s : State) (p : Nat) : (portOrder s p).snaps = s.snaps := by unfold portOrder; split <;> rfl
@[simp] theorem portOrder_csc (s : State) (p : Nat) : (portOrder s p).csc = s.csc := by unfold portOrder; split <;> rfl
@[simp] theorem portOrder_spk (s : State) (p : Nat) : (portOrder s p).spk = s.spk := by unfold portOrder; split <;> rfl
@[simp] theorem portOrder_waitSnap (s : State) (p : Nat) : (portOrder s p).waitSnap = s.waitSnap := by unfold portOrder; split <;> rfl
@[simp] theorem portOrder_vault (s : State) (p : Nat) : (portOrder s p).vault = s.vault := by unfold portOrder; split <;> rfl
@[simp] theorem portOrder_mgmt (s : State) (p : Nat) : (portOrder s p).mgmt = s.mgmt := by unfold portOrder; split <;> rfl
@[simp] theorem portOrder_power (s : State) (p : Nat) : (portOrder s p).power = s.power := by unfold portOrder; split <;> rfl
@[simp] theorem portOrder_stage (s : State) (p : Nat) : (portOrder s p).stage = s.stage := by unfold portOrder; split <;> rfl
@[simp] theorem portOrder_out (s : State) (p : Nat) : (portOrder s p).out = s.out := by unfold portOrder; split <;> rfl
@[simp] theorem portOrder_free (s : State) (p : Nat) : (portOrder s p).free = s.free := by unfold portOrder; split <;> rfl
@[simp] theorem portOrder_pending (s : State) (p : Nat) : (portOrder s p).pending = s.pending := by unfold portOrder; split <;> rfl
@[simp] theorem portOrder_live (s : State) (p a : Nat) : (portOrder s p).live a = s.live a := by unfold portOrder; split <;> rfl
@[simp] theorem portOrder_buffer (s : State) (p a : Nat) : (portOrder s p).buffer a = s.buffer a := by unfold portOrder; split <;> rfl

theorem prePort_still (s : State) (p) : (prePort s p).still = s.still := (portOrder_still ..).trans (pre_still s)

theorem afterAccepts_still (s : State) : (afterAccepts s).still = s.still := by
  unfold afterAccepts
  simp only [still_mk, still_eta, ite_still, ite_self, advance_still]

theorem preStep_still (t) (s : State) : (preStep t s).still = s.still := by
  unfold preStep
  simp only [still_mk, still_eta, ite_still, ite_self, afterAccepts_still, preAt_still]

theorem tellNumbering_still (s : State) (a n beacon) : (tellNumbering s a n beacon).still = s.still := by
  unfold tellNumbering
  simp only [still_mk, still_eta, ite_still, ite_self, State.clrBits_still, State.bumpField_still, State.raise_still, State.bump_still,
      State.setBits_still]
  repeat' split
  all_goals simp only [still_mk, still_eta, ite_still, ite_self, State.clrBits_still, State.bumpField_still, State.raise_still,
      State.bump_still, State.setBits_still]

theorem countHold_still (s : State) : (countHold s).still = s.still := by
  unfold countHold
  simp only [still_mk, still_eta, ite_still, ite_self, State.setBits_still, State.raise_still]
  repeat' split
  all_goals simp only [still_mk, still_eta, ite_still, ite_self, State.setBits_still, State.raise_still]

theorem stepStage_still (s : State) : (stepStage s).still = s.still := by
  unfold stepStage
  simp only [still_mk, still_eta, ite_still, ite_self, stageTo_still, fullWhenDone_still]

theorem stepTables_still (s : State) : (stepTables s).still = s.still := by
  unfold stepTables
  simp only [still_mk, still_eta, ite_still, ite_self]

theorem adoptNominal_still (s : State) : (adoptNominal s).still = s.still := by
  unfold adoptNominal
  simp only [still_mk, still_eta, ite_still, ite_self]

theorem endChatter_still (s : State) : (endChatter s).still = s.still := by
  unfold endChatter
  simp only [still_mk, still_eta, ite_still, ite_self]

theorem chatterEndOp_still (s : State) : (chatterEndOp s).still = s.still := by
  unfold chatterEndOp
  simp only [still_mk, still_eta, ite_still, ite_self, endChatter_still, preAt_still]

theorem acceptFrom_still (s : State) (m) : (acceptFrom s m).still = s.still := by
  unfold acceptFrom
  repeat' split
  all_goals grind (splits := 0) [still_mk, still_eta, State.modBox_still, markRings_still, acceptOwn_still, → bankRead_still]

theorem commandAccept_still (s : State) (errs) : (commandAccept s errs).still = s.still := by
  unfold commandAccept
  repeat' (first | rfl | (simp only [still_mk, still_eta, ite_still, ite_self, acceptFrom_still, meet_still]; done) | split)
  all_goals simp only [still_mk, still_eta, ite_still, ite_self, acceptFrom_still, meet_still]

theorem commandStart_still (s : State) (m parity errs) : (commandStart s m parity errs).still = s.still := by
  unfold commandStart
  repeat' (first | rfl | (simp only [still_mk, still_eta, ite_still, ite_self, meet_still, finish_still, State.modCmds_still]; done) |
                                          split)
  all_goals simp only [still_mk, still_eta, ite_still, ite_self, meet_still, finish_still, State.modCmds_still]

theorem irqTimer_still (s : State) (m) : (irqTimer s m).still = s.still := by
  unfold irqTimer
  repeat' (first | rfl | (simp only [still_mk, still_eta, ite_still, ite_self, preAt_still, sendMsix_still, State.modBox_still]; done) |
                                          split)
  all_goals simp only [still_mk, still_eta, ite_still, ite_self, preAt_still, sendMsix_still, State.modBox_still]

theorem withCmdIf_still (s : State) (m op p) (f : State → Cmd → State) (hf : ∀ s c, (f s c).still = s.still) : (withCmdIf s m op p
    f).still = s.still := by
  unfold withCmdIf
  repeat' split
  all_goals grind (splits := 0) [still_mk, still_eta]

theorem settle__still (s : State) : (settle_ s).still = s.still := by
  unfold settle_
  simp only [still_mk, still_eta, ite_still, ite_self, alertUpdate_still, settleLinks_still]

theorem fsEntry_still (s : State) (a0) : (fsEntry s a0).still = s.still := by
  unfold fsEntry
  repeat' (first | rfl | (simp only [still_mk, still_eta, ite_still, ite_self, enterFs_still, cacheLost_still, dropCkpt_still, vltLost_still,
                                          oscFail_still]; done) | split)
  all_goals simp only [still_mk, still_eta, ite_still, ite_self, enterFs_still, cacheLost_still, dropCkpt_still, vltLost_still, oscFail_still]

end Sys2Proof.Machine
end

