-- ==== Sys2Proof/Laws/Keeps.lean ====
section
/-! SUPPORT. What the operations that write the shared banks, advance the epoch or reset the module keep:
the queue of commands, the canonical form of the banks, and, except for resets, the order of epochs. -/

namespace Sys2Proof.Machine

/-- The queue is untouched, the banks keep their canonical form, and the epoch counter has not gone back. -/
structure Moves (s t : State) : Prop where
  queue : t.pending = s.pending
  banks : memWf s.mem = true → memWf t.mem = true
  epoch : s.epoch.count ≤ t.epoch.count

/-- The queue is untouched and the banks keep their canonical form. -/
structure Keeps (s t : State) : Prop where
  queue : t.pending = s.pending
  banks : memWf s.mem = true → memWf t.mem = true

theorem Moves.of_still {s t : State} (h : t.still = s.still) : Moves s t := by
  simp only [State.still, Prod.mk.injEq] at h
  exact ⟨h.2.1, fun k => h.1 ▸ k, Nat.le_of_eq h.2.2.symm⟩

theorem Moves.of_fields {s t : State} (h1 : t.pending = s.pending) (h2 : t.mem = s.mem) (h3 : t.epoch.count = s.epoch.count) : Moves s t :=
  ⟨h1, fun k => h2 ▸ k, Nat.le_of_eq h3.symm⟩

theorem Moves.same (s : State) : Moves s s := Moves.of_fields rfl rfl rfl

theorem Moves.trans {s t u : State} (h : Moves s t) (k : Moves t u) : Moves s u :=
  ⟨k.queue.trans h.queue, fun w => k.banks (h.banks w), Nat.le_trans h.epoch k.epoch⟩

theorem Moves.keeps {s t : State} (h : Moves s t) : Keeps s t := ⟨h.queue, h.banks⟩

theorem Keeps.of_fields {s t : State} (h1 : t.pending = s.pending) (h2 : t.mem = s.mem) : Keeps s t := ⟨h1, fun k => h2 ▸ k⟩

theorem Keeps.trans {s t u : State} (h : Keeps s t) (k : Keeps t u) : Keeps s u :=
  ⟨k.queue.trans h.queue, fun w => k.banks (h.banks w)⟩

theorem ite_moves {c : Prop} [Decidable c] {a b s : State} (ha : Moves s a) (hb : Moves s b) : Moves s (if c then a else b) := by
  split <;> assumption

/-! ### Writes to the shared banks -/

theorem bankWrite_moves (s : State) (m a : Nat) (l : List Byte) : Moves s (bankWrite s m a l) := by
  have h := Moves.of_still (bankTouch_still s m a)
  exact ⟨h.queue, fun k => memWriteAll_wf _ _ _ (h.banks k), h.epoch⟩

theorem postCpl_moves (s : State) (c : Cmd) : Moves s (postCpl s c) := by
  refine (bankWrite_moves s mstSequencer (cplSlot c.mb c.num) (cplRecord c)).trans (Moves.of_still ?_)
  unfold postCpl
  dsimp only
  generalize bankWrite s mstSequencer (cplSlot c.mb c.num) (cplRecord c) = u
  split
  · rw [sendMsix_still, State.modBox_still, markRings_still, State.modBox_still]; rfl
  · rw [markRings_still, State.modBox_still]; rfl

theorem completionPost_moves (s : State) (m : Nat) : Moves s (completionPost s m) := by
  unfold completionPost
  split
  · exact Moves.same s
  · split
    · exact (postCpl_moves s _).trans (Moves.of_still (wakeFences_still _))
    · exact Moves.same s

theorem writeRecord_moves (s : State) (e : EvRec) : Moves s (writeRecord s e) := by
  unfold writeRecord
  extract_lets q r s1 s2 m bad s3
  have h1 : Moves s s1 := Moves.of_still (ringPush_still s r)
  have h2 : Moves s s2 := h1.trans (bankWrite_moves s1 _ _ _)
  have h3 : Moves s s3 := h2.trans (Moves.of_fields rfl rfl rfl)
  clear_value s3
  split
  · exact h3.trans (Moves.of_still (alertSet_still _ _))
  · exact h3

theorem logWrite_moves (s : State) : Moves s (logWrite s) := by
  unfold logWrite
  split
  · exact Moves.same s
  · rename_i e l _
    have h : Moves s { s with mgmt := { s.mgmt with evq := l, run := true } } := Moves.of_fields rfl rfl rfl
    exact h.trans (writeRecord_moves _ _)

theorem mailboxRestart_moves (s : State) (p : Nat) : Moves s (mailboxRestart s p) := by
  unfold mailboxRestart
  split
  · exact Moves.same s
  · extract_lets s1 b s2
    have h1 : Moves s s1 := bankWrite_moves ..
    have h2 : Moves s s2 := h1.trans (Moves.of_still (State.modBox_still ..))
    clear_value s2
    exact h2.trans (Moves.of_fields rfl rfl rfl)

theorem bankPut_moves (s : State) (p o view : Nat) (l : List Byte) (e : RegErr) : Moves s (bankPut s p o view l e) := by
  have he := Moves.of_still (bankErr_still s e)
  unfold bankPut
  split
  · exact bankWrite_moves ..
  · split
    · exact he.trans (bankWrite_moves ..)
    · exact he.trans ((bankWrite_moves _ _ _ _).trans (bankWrite_moves ..))

theorem bankWriteAt_moves (s : State) (p a o view : Nat) (l : List Byte) (e : RegErr) : Moves s (bankWriteAt s p a o view l e) := by
  have hl : ∀ e, Moves s (logAccess s p a e) := fun e => Moves.of_still (logAccess_still ..)
  have hf : ∀ e, Moves s (foreignMb s p e a) := fun e => Moves.of_still (foreignMb_still ..)
  have hp := bankPut_moves s p o view l e
  unfold bankWriteAt
  extract_lets n
  refine ite_moves (hl _) (ite_moves (hl _) (ite_moves (hl _) (ite_moves (ite_moves hp (hf _))
    (ite_moves (hf _) (ite_moves (hl _) hp)))))

theorem busWriteOp_moves (s : State) (p a : Nat) (l : List Byte) (e : RegErr) : Moves s (busWriteOp s p a l e) := by
  unfold busWriteOp
  repeat' split
  · exact Moves.same s
  · exact Moves.of_still (logAccess_still ..)
  · exact Moves.of_still (regWriteAt_still ..)
  · exact bankWriteAt_moves ..

theorem busWrite4_moves (s : State) (p a : Nat) (v : Word) : Moves s (busWrite4 s p a v) := busWriteOp_moves ..

/-! ### Epoch steps -/

theorem numbering_next (s : State) : s.epoch.count < (numbering s).next := by
  unfold numbering
  grind

theorem tellNumbering_moves (s : State) (a : Numbering) (n : Nat) (b : Bool) : Moves s (tellNumbering s a n b) :=
  Moves.of_still (tellNumbering_still s a n b)

/-- An epoch step advances the counter. -/
theorem stepCount_count (s : State) (held : Bool) (off : Nat) : s.epoch.count < (stepCount s held off).epoch.count := by
  unfold stepCount
  extract_lets a n beacon e s1
  have h := Moves.of_still (countHold_still (tellNumbering (stepVectors s1) a n beacon))
  have h2 := tellNumbering_moves (stepVectors s1) a n beacon
  have h3 := Moves.of_still (stepVectors_still s1)
  have h4 : s1.epoch.count = (numbering s).next := (Eq.refl _)
  have h5 := numbering_next s
  have := h.epoch; have := h2.epoch; have := h3.epoch
  omega

theorem stepCount_moves (s : State) (held : Bool) (off : Nat) : Moves s (stepCount s held off) := by
  have hc := Nat.le_of_lt (stepCount_count s held off)
  refine ⟨?_, ?_, hc⟩
  all_goals
    unfold stepCount
    extract_lets a n beacon e s1
    have h := Moves.of_still (countHold_still (tellNumbering (stepVectors s1) a n beacon))
    have h2 := tellNumbering_moves (stepVectors s1) a n beacon
    have h3 := Moves.of_still (stepVectors_still s1)
  · exact h.queue.trans (h2.queue.trans h3.queue)
  · exact fun w => h.banks (h2.banks (h3.banks w))

/-- What follows the counter at a step leaves it, the banks and the queue. -/
theorem epochStep_still (s : State) (held : Bool) (off : Nat) : (epochStep s held off).still = (stepCount s held off).still := by
  unfold epochStep
  extract_lets draining s1 s2 l
  have h1 : s1.still = (stepCount s held off).still := by
    simp only [s1, foldl_still _ markRings_still, markSettling_still, stepStage_still, chainStep_still]
  have h2 : s2.still = s1.still := by
    simp only [s2]
    split
    · exact State.raiseOnce_still ..
    · rfl
  have h3 : ({ stepTables s2 with due := l } : State).still = s2.still := by
    simp only [still_mk, still_eta, stepTables_still]
  exact h3.trans (h2.trans h1)

theorem epochStep_moves (s : State) (held : Bool) (off : Nat) : Moves s (epochStep s held off) :=
  (stepCount_moves s held off).trans (Moves.of_still (epochStep_still s held off))

/-- An epoch step advances the counter. -/
theorem epochStep_count (s : State) (held : Bool) (off : Nat) : s.epoch.count < (epochStep s held off).epoch.count :=
  Nat.lt_of_lt_of_le (stepCount_count s held off) (Moves.of_still (epochStep_still s held off)).epoch

theorem enterHoldover_moves (s : State) : Moves s (enterHoldover s) := by
  unfold enterHoldover
  extract_lets s1 e1 s2 base e2 s3
  have h1 : Moves s s1 := Moves.of_still (by simp only [s1, State.raise_still, State.setBits_still])
  have h2 : Moves s1 s2 := Moves.trans (Moves.of_fields rfl rfl rfl) (Moves.of_still (adoptNominal_still _))
  have h3 : Moves s2 s3 := Moves.of_fields rfl rfl rfl
  exact h1.trans (h2.trans (h3.trans (epochStep_moves s3 _ _)))

theorem synStep_moves (s : State) : Moves s (synStep s) := by
  unfold synStep
  extract_lets s1
  have h1 : Moves s s1 := Moves.of_still (advance_still _ _)
  have h2 : Moves s1 (adoptNominal { s1 with epoch := { s1.epoch with synK := s1.epoch.synK + 1 } }) :=
    Moves.trans (Moves.of_fields rfl rfl rfl) (Moves.of_still (adoptNominal_still _))
  exact h1.trans (h2.trans (epochStep_moves ..))

theorem ignoreEdge_moves (s : State) (t : Nat) : Moves s (ignoreEdge s t) := by
  unfold ignoreEdge
  extract_lets s1 l e1 s2 s3 e2 s4
  have h1 : Moves s s1 := Moves.of_still (State.bump_still ..)
  have h2 : Moves s s2 := h1.trans (Moves.of_fields rfl rfl rfl)
  have h3 : Moves s s3 := h2.trans (Moves.of_still (by simp only [s3, State.raise_still, State.setBits_still]))
  have h4 : Moves s s4 := h3.trans (Moves.of_fields rfl rfl rfl)
  repeat' split
  · exact h2
  · exact h4.trans (enterHoldover_moves s4)
  · exact h4

theorem acceptEdge_moves (s : State) (t : Nat) (ref : Option Nat) : Moves s (acceptEdge s t ref) := by
  unfold acceptEdge
  extract_lets e up same ivs s1 s2 e1 s3 lock was e2 s4
  have h1 : Moves s s1 := Moves.of_fields rfl rfl rfl
  have h2 : Moves s s2 := h1.trans (Moves.of_still (adoptNominal_still s1))
  have h3 : Moves s s3 := h2.trans (Moves.of_fields rfl rfl rfl)
  have h4 : Moves s s4 := by
    refine h3.trans ?_
    simp only [s4]
    split
    · exact Moves.trans (Moves.of_fields rfl rfl rfl) (Moves.of_still (State.raise_still ..))
    · exact Moves.same s3
  have h5 : Moves s (epochStep s4 false 0) := h4.trans (epochStep_moves ..)
  have h6 : Moves s { s4 with epoch := { s4.epoch with phase0 := s4.now, off := 0 } } := h4.trans (Moves.of_fields rfl rfl rfl)
  repeat' split
  · exact h5
  · exact h6
  · exact h6
  · exact h5

theorem syncEdge_moves (s : State) (t : Nat) : Moves s (syncEdge s t) := by
  unfold syncEdge
  extract_lets s1 e1 ref
  have h1 : Moves s s1 := by
    simp only [s1]
    split
    · exact Moves.of_still (endChatter_still s)
    · exact Moves.same s
  have h2 : Moves s { s1 with epoch := { s1.epoch with lastEdge := some t } } := h1.trans (Moves.of_fields rfl rfl rfl)
  have h3 := h1.trans (ignoreEdge_moves s1 t)
  have h4 := fun r => h1.trans (acceptEdge_moves s1 t r)
  clear_value ref
  refine ite_moves ?_ ?_
  · split
    · exact ite_moves h3 h2
    · exact h2
  · cases ref with
    | some r => exact ite_moves h3 (h4 _)
    | none => exact h4 _

theorem edgeOp_moves (s : State) (t : Nat) : Moves s (edgeOp s t) := by
  unfold edgeOp
  split
  · exact Moves.same s
  · exact (Moves.of_still (preStep_still t s)).trans (syncEdge_moves ..)

theorem holdoverOp_moves (s : State) : Moves s (holdoverOp s) := by
  unfold holdoverOp
  split
  · exact Moves.same s
  · exact (Moves.of_still (preStep_still _ s)).trans (enterHoldover_moves ..)

theorem synOp_moves (s : State) : Moves s (synOp s) := by
  unfold synOp
  split
  · exact Moves.same s
  · exact (Moves.of_still (preStep_still _ s)).trans (synStep_moves ..)

theorem lostOp_moves (s : State) : Moves s (lostOp s) := by
  unfold lostOp
  split
  · exact synOp_moves s
  · exact Moves.same s

/-! ### Resets -/

theorem writeEvents_moves (s : State) : Moves s (writeEvents s) := by
  unfold writeEvents
  generalize s.mgmt.evq = l
  induction l generalizing s with
  | nil => exact Moves.same s
  | cons e l ih => exact (logWrite_moves s).trans (ih _)

theorem hubReset_keeps (s : State) : Keeps s (hubReset s) := ⟨rfl, fun h => memFilter_wf _ _ h⟩

theorem powerOff_keeps (s : State) : Keeps s (powerOff s) := ⟨rfl, fun _ => rfl⟩

theorem flushWork_keeps (s : State) : Keeps s (flushWork s) := (Moves.of_still (flushWork_still s)).keeps

theorem resetFlushDone_keeps (s : State) : Keeps s (resetFlushDone s) := by
  have h1 := (writeEvents_moves s).keeps.trans ((flushWork_keeps (writeEvents s)).trans (hubReset_keeps _))
  have h2 : Keeps s (hubReset (stageTo (flushWork s) 0)) :=
    (flushWork_keeps s).trans ((Moves.of_still (stageTo_still _ _)).keeps.trans (hubReset_keeps _))
  unfold resetFlushDone
  split
  · exact (Moves.same s).keeps
  · exact (Moves.same s).keeps
  · exact h1.trans (Keeps.of_fields rfl rfl)
  · exact h2.trans (Moves.of_still ((afterReset_still _).trans (State.setBits_still ..))).keeps
  · exact h2.trans (Moves.of_still ((afterReset_still _).trans (State.setBits_still ..))).keeps

theorem powerDown_keeps (s : State) : Keeps s (powerDown s) := by
  unfold powerDown
  split
  · exact (flushWork_keeps s).trans (powerOff_keeps _)
  · exact (Moves.same s).keeps

theorem powerLoss_keeps (s : State) (n : Nat) : Keeps s (powerLoss s n) := by
  unfold powerLoss
  repeat' split
  · exact (Moves.of_still (writeTail_still ..)).keeps.trans (powerOff_keeps _)
  · exact (Moves.of_still (writeTail_still ..)).keeps.trans (powerOff_keeps _)
  · exact powerOff_keeps s
  · exact (Moves.same s).keeps

theorem vinLow_keeps (s : State) (n : Nat) : Keeps s (vinLow s n) := (powerLoss_keeps s n).trans (Keeps.of_fields rfl rfl)

theorem vinHigh_keeps (s : State) (n : Nat) : Keeps s (vinHigh s n) := (powerLoss_keeps s n).trans (Keeps.of_fields rfl rfl)

theorem pwrEnFall_keeps (s : State) : Keeps s (pwrEnFall s) := by
  unfold pwrEnFall
  split
  · exact (Moves.same s).keeps
  · extract_lets w s1
    have h1 : Keeps s s1 := (Keeps.of_fields rfl rfl)
    repeat' split
    · exact h1.trans (Moves.of_still (startFlush_still ..)).keeps
    · exact h1.trans (powerOff_keeps _)
    · exact h1

theorem pwrGoodRise_keeps (s : State) (t f : Nat) (m : BitVec 2) : Keeps s (pwrGoodRise s t f m) := by
  unfold pwrGoodRise
  split
  · exact (Moves.same s).keeps
  · extract_lets s1 w2 s2 w3 s3 s4
    have h1 : Keeps s s1 := (Moves.of_still (advance_still t s)).keeps.trans (powerOff_keeps _)
    have h3 : Keeps s s3 := h1.trans (Keeps.of_fields rfl rfl)
    have h4 : Keeps s s4 := by
      refine h3.trans ?_
      simp only [s4]
      split
      · exact (Moves.of_still (startRef_still ..)).keeps
      · exact (Moves.same s3).keeps
    split
    · exact h4.trans (Moves.of_still (State.raise_still ..)).keeps
    · exact h4

theorem thermalRestart_keeps (s : State) (t : Nat) : Keeps s (thermalRestart s t) := by
  unfold thermalRestart
  split
  · exact (Moves.same s).keeps
  · extract_lets s1
    have h1 : Keeps s s1 := (Moves.of_still (advance_still t s)).keeps
    clear_value s1
    refine Keeps.trans ?_ (Moves.of_still (afterReset_still _)).keeps
    exact ⟨h1.queue, h1.banks⟩

end Sys2Proof.Machine
end

