-- ==== Sys2Proof/Laws/Slots.lean ====
section
/-! SUPPORT. Grants change counters and requests alone, and what a change asks for is requests alone; a change that leaves
the tables and the direct table as they were asks for nothing. -/

namespace Sys2Proof.Machine

@[simp] theorem wheelsTo_now (s : State) : (wheelsTo s).now = s.now := rfl
@[simp] theorem wheelsTo_epoch (s : State) : (wheelsTo s).epoch = s.epoch := rfl
@[simp] theorem wheelsTo_due (s : State) : (wheelsTo s).due = s.due := rfl
@[simp] theorem wheelsTo_own (s : State) : (wheelsTo s).own = s.own := rfl
@[simp] theorem wheelsTo_mbox (s : State) : (wheelsTo s).mbox = s.mbox := rfl
@[simp] theorem wheelsTo_cmds (s : State) : (wheelsTo s).cmds = s.cmds := rfl
@[simp] theorem wheelsTo_nextCmd (s : State) : (wheelsTo s).nextCmd = s.nextCmd := rfl
@[simp] theorem wheelsTo_rrMbox (s : State) : (wheelsTo s).rrMbox = s.rrMbox := rfl
@[simp] theorem wheelsTo_rrStart (s : State) : (wheelsTo s).rrStart = s.rrStart := rfl
@[simp] theorem wheelsTo_mem (s : State) : (wheelsTo s).mem = s.mem := rfl
@[simp] theorem wheelsTo_tables (s : State) : (wheelsTo s).tables = s.tables := rfl
@[simp] theorem wheelsTo_seals (s : State) : (wheelsTo s).seals = s.seals := rfl
@[simp] theorem wheelsTo_direct (s : State) : (wheelsTo s).direct = s.direct := rfl
@[simp] theorem wheelsTo_links (s : State) : (wheelsTo s).links = s.links := rfl
@[simp] theorem wheelsTo_holds (s : State) : (wheelsTo s).holds = s.holds := rfl
@[simp] theorem wheelsTo_walkEnds (s : State) : (wheelsTo s).walkEnds = s.walkEnds := rfl
@[simp] theorem wheelsTo_act (s : State) : (wheelsTo s).act = s.act := rfl
@[simp] theorem wheelsTo_cache (s : State) : (wheelsTo s).cache = s.cache := rfl
@[simp] theorem wheelsTo_learnQ (s : State) : (wheelsTo s).learnQ = s.learnQ := rfl
@[simp] theorem wheelsTo_snaps (s : State) : (wheelsTo s).snaps = s.snaps := rfl
@[simp] theorem wheelsTo_csc (s : State) : (wheelsTo s).csc = s.csc := rfl
@[simp] theorem wheelsTo_spk (s : State) : (wheelsTo s).spk = s.spk := rfl
@[simp] theorem wheelsTo_waitSnap (s : State) : (wheelsTo s).waitSnap = s.waitSnap := rfl
@[simp] theorem wheelsTo_vault (s : State) : (wheelsTo s).vault = s.vault := rfl
@[simp] theorem wheelsTo_mgmt (s : State) : (wheelsTo s).mgmt = s.mgmt := rfl
@[simp] theorem wheelsTo_power (s : State) : (wheelsTo s).power = s.power := rfl
@[simp] theorem wheelsTo_stage (s : State) : (wheelsTo s).stage = s.stage := rfl
@[simp] theorem wheelsTo_out (s : State) : (wheelsTo s).out = s.out := rfl
@[simp] theorem wheelsTo_free (s : State) : (wheelsTo s).free = s.free := rfl
@[simp] theorem wheelsTo_pending (s : State) : (wheelsTo s).pending = s.pending := rfl

@[simp] theorem withSlots_now (u s : State) (req : Nat) (w : Nat → Who) : (withSlots u s req w).now = s.now := rfl
@[simp] theorem withSlots_epoch (u s : State) (req : Nat) (w : Nat → Who) : (withSlots u s req w).epoch = s.epoch := rfl
@[simp] theorem withSlots_due (u s : State) (req : Nat) (w : Nat → Who) : (withSlots u s req w).due = s.due := rfl
@[simp] theorem withSlots_own (u s : State) (req : Nat) (w : Nat → Who) : (withSlots u s req w).own = s.own := rfl
@[simp] theorem withSlots_mbox (u s : State) (req : Nat) (w : Nat → Who) : (withSlots u s req w).mbox = s.mbox := rfl
@[simp] theorem withSlots_cmds (u s : State) (req : Nat) (w : Nat → Who) : (withSlots u s req w).cmds = s.cmds := rfl
@[simp] theorem withSlots_nextCmd (u s : State) (req : Nat) (w : Nat → Who) : (withSlots u s req w).nextCmd = s.nextCmd := rfl
@[simp] theorem withSlots_rrMbox (u s : State) (req : Nat) (w : Nat → Who) : (withSlots u s req w).rrMbox = s.rrMbox := rfl
@[simp] theorem withSlots_rrStart (u s : State) (req : Nat) (w : Nat → Who) : (withSlots u s req w).rrStart = s.rrStart := rfl
@[simp] theorem withSlots_regs (u s : State) (req : Nat) (w : Nat → Who) : (withSlots u s req w).regs = s.regs := rfl
@[simp] theorem withSlots_mem (u s : State) (req : Nat) (w : Nat → Who) : (withSlots u s req w).mem = s.mem := rfl
@[simp] theorem withSlots_tables (u s : State) (req : Nat) (w : Nat → Who) : (withSlots u s req w).tables = s.tables := rfl
@[simp] theorem withSlots_seals (u s : State) (req : Nat) (w : Nat → Who) : (withSlots u s req w).seals = s.seals := rfl
@[simp] theorem withSlots_direct (u s : State) (req : Nat) (w : Nat → Who) : (withSlots u s req w).direct = s.direct := rfl
@[simp] theorem withSlots_links (u s : State) (req : Nat) (w : Nat → Who) : (withSlots u s req w).links = s.links := rfl
@[simp] theorem withSlots_holds (u s : State) (req : Nat) (w : Nat → Who) : (withSlots u s req w).holds = s.holds := rfl
@[simp] theorem withSlots_walkEnds (u s : State) (req : Nat) (w : Nat → Who) : (withSlots u s req w).walkEnds = s.walkEnds := rfl
@[simp] theorem withSlots_act (u s : State) (req : Nat) (w : Nat → Who) : (withSlots u s req w).act = s.act := rfl
@[simp] theorem withSlots_cache (u s : State) (req : Nat) (w : Nat → Who) : (withSlots u s req w).cache = s.cache := rfl
@[simp] theorem withSlots_learnQ (u s : State) (req : Nat) (w : Nat → Who) : (withSlots u s req w).learnQ = s.learnQ := rfl
@[simp] theorem withSlots_snaps (u s : State) (req : Nat) (w : Nat → Who) : (withSlots u s req w).snaps = s.snaps := rfl
@[simp] theorem withSlots_csc (u s : State) (req : Nat) (w : Nat → Who) : (withSlots u s req w).csc = s.csc := rfl
@[simp] theorem withSlots_spk (u s : State) (req : Nat) (w : Nat → Who) : (withSlots u s req w).spk = s.spk := rfl
@[simp] theorem withSlots_waitSnap (u s : State) (req : Nat) (w : Nat → Who) : (withSlots u s req w).waitSnap = s.waitSnap := rfl
@[simp] theorem withSlots_vault (u s : State) (req : Nat) (w : Nat → Who) : (withSlots u s req w).vault = s.vault := rfl
@[simp] theorem withSlots_mgmt (u s : State) (req : Nat) (w : Nat → Who) : (withSlots u s req w).mgmt = s.mgmt := rfl
@[simp] theorem withSlots_power (u s : State) (req : Nat) (w : Nat → Who) : (withSlots u s req w).power = s.power := rfl
@[simp] theorem withSlots_stage (u s : State) (req : Nat) (w : Nat → Who) : (withSlots u s req w).stage = s.stage := rfl
@[simp] theorem withSlots_out (u s : State) (req : Nat) (w : Nat → Who) : (withSlots u s req w).out = s.out := rfl
@[simp] theorem withSlots_free (u s : State) (req : Nat) (w : Nat → Who) : (withSlots u s req w).free = s.free := rfl
@[simp] theorem withSlots_pending (u s : State) (req : Nat) (w : Nat → Who) : (withSlots u s req w).pending = s.pending := rfl

theorem foldl_id {α : Type} (f : State → α → State) (s : State) (h : ∀ a, f s a = s) (l : List α) : l.foldl f s = s := by
  induction l with
  | nil => rfl
  | cons a l ih => rw [List.foldl_cons, h, ih]

/-- Nothing of a table, of the direct table or of the DRAM requests has changed: nothing is asked for. -/
theorem withSlots_same (u s : State) (req : Nat) (w : Nat → Who) (ht : s.tables = u.tables) (hd : s.direct = u.direct)
    (hq : s.dies.dram = u.dies.dram) : withSlots u s req w = s := by
  have hm : s.dies.dram.map (fun a => if a.who == {} && a.req != drHit && !u.dies.dram.contains a then { a with who := w 4 } else a) =
      s.dies.dram := by
    rw [List.map_congr_left (g := id), List.map_id]
    intro a ha
    have : u.dies.dram.contains a = true := by rw [← hq]; simpa using ha
    simp only [this, Bool.not_true, Bool.and_false, Bool.false_eq_true, if_false, id]
  unfold withSlots askChange
  dsimp only
  rw [hm, foldl_id]
  · simp only [hd, beq_self_eq_true, if_true]
    rw [← hd]
  · intro t
    simp only [State.table, ht, beq_self_eq_true, if_true]

end Sys2Proof.Machine
end

