-- ==== Sys2Proof/WellFormed.lean ====
section
/-! DEFINITION. The checks a command must pass to be one that the outside world can send: bus
accesses lie in BAR0 and carry bytes, frames have as many flits as a frame of theirs can have, and
positions name a pass, a slot, a lane or a unit that exists. -/

namespace Sys2Proof

/-- A register write carries at least one byte and lies in the 16 MiB of BAR0 (R466). -/
def busWriteOk (addr : Nat) (data : List Byte) : Bool := decide (addr < 0x1000000) && !data.isEmpty

/-- A frame has at least one flit and no more than the longest has (R102, R126, R428). -/
def frameOk (flits : List Flit) : Bool := !flits.isEmpty && decide (flits.length ≤ 11)

/-- A search fault lies in a pass (0 to 3, R104) and a slot (0 to 3, or 4 for the direct-table merge). -/
def faultOk (f : FaultAt) : Bool := decide (f.pass ≤ 3) && decide (f.slot ≤ 4)

/-- One scan reads 32 temperatures, 16 voltages and 16 currents (R405). -/
def readingsOk (r : Readings) : Bool :=
  r.temp.length == 32 && r.volt.length == 16 && r.curr.length == 16 && r.bad.all (fun i => decide (i < 65))

/-- A unit of a die: a block, or 1,024 + k for spare k. -/
def unitOk (u : Nat × Nat) : Bool := decide (u.1 < 4) && decide (u.2 < 1056)

/-- An error that a scrub pass or a command meets lies at a segment position (01_architecture), in a slot of a table, in the direct table or at an
address that exists. -/
def patrolErrOk : PatrolErr → Bool
  | .cache _ p | .result p _ | .counters p | .stamp p | .shadow p _ => decide (p < 0x1000000)
  | .tree t k _ _ => decide (t < 255) && decide (k < 4)
  | .direct i => decide (i < 0x100000)
  | .images _ l | .config _ l => l.all unitOk
  | .parity a | .reg a _ | .rewritten a => decide (a < 0x1000000)
  | _ => true

/-- Is the command one that can be sent? -/
def Instr.WellFormed : Instr → Bool
  | .keyReq _ fl => frameOk fl
  | .hdrReq _ fl => frameOk fl
  | .dtWrite _ fl => frameOk fl
  | .search fl _ _ => frameOk fl
  | .answer fl _ => frameOk fl
  | .requestAccept _ _ _ fs _ => fs.all faultOk
  | .responseEmit _ _ aw _ => aw.all (fun k => decide (k < 16))
  | .laneFailure p lane => decide (lane < if p.val < 16 then 28 else 32)
  | .bitSetWrite _ a d _ => busWriteOk a d && decide (0x800000 ≤ a) && decide (a < 0xC00000)
  | .bitClearWrite _ a d _ => busWriteOk a d && decide (0xC00000 ≤ a)
  | .registerWrite _ a d _ => busWriteOk a d
  | .pwWrite _ a _ => decide (0x1C0000 ≤ a) && decide (a < 0x1E0000)
  | .registerRead _ a n _ => decide (a < 0x1000000) && decide (1 ≤ n)
  | .rcRead _ a => decide (a < 0x1000000)
  | .rshLatchRead _ a _ => decide (a < 0x1000000)
  | .rebuildStart _ u => decide (u < 1056)
  | .rebuildVerified _ u _ errs => decide (u < 1056) && errs.all patrolErrOk
  | .commandAccept errs | .commandStart _ _ errs | .settle _ errs | .learnApply errs | .ageCompare _ _ _ errs |
    .snapshotTake _ errs | .ccFillReturn _ errs => errs.all patrolErrOk
  | .entInsert _ io | .entModify _ io | .entBatch _ io | .entRead _ io | .queryFind _ io | .tblStats _ io |
    .cntRead _ io | .cntClear _ io _ | .vaultImport _ io | .vaultExport _ io | .crumbSet _ io _ | .vaultStatus _ io |
    .waitgraphRead _ io | .logRead _ io | .sensorRead _ io | .install _ io _ | .generate _ io _ | .erase _ io _ |
    .readPub _ io => io.errs.all patrolErrOk
  | .copySwap _ u => decide (u < 1056)
  | .scrubRun _ u run l m errs => decide (u < 1056) && decide (run < 64) && (l ++ m).all (fun p => decide (p.1 < 64)) && errs.all patrolErrOk
  | .sensorConversion r => readingsOk r
  | .scrubPassStart errs => errs.all patrolErrOk
  | .crumbEntry _ _ _ _ n _ _ => decide (n ≤ 6)
  | _ => true

end Sys2Proof
end

