-- ==== Sys2Proof/Tests/Slice0.lean ====
section
/-! SUPPORT. Tests: for each statement, states and operands that meet the hypotheses of its clauses, with what
the step gives there; and an ill-formed term for each check of `WellFormed`. -/

namespace Sys2Proof.Tests

open Machine Claim

-- One test at a time: each waits for the kernel, and a thread that waits takes a stack.
set_option Elab.async false

/-! ### Helpers -/

/-- A module in FULL, owned by port 0, its vault ONLINE, 100 µs after its start, at epoch 5. -/
def base : State := { State.reset with
  now := 1000000, stage := { Stage.reset 0 with stage := 3 }
  epoch := { Epoch.reset 0 with count := 5, prev := 4, stepAt := 900000, phase0 := 900000 }
  own := { Own.reset with st := .owned, owner := 0, leaseEnd := 1000 }
  mbox := List.replicate 4 { Mbox.reset with stopped := false }, vault := { Vault.reset with st := 1 } }

/-- The next state of a command. -/
def after (i : Instr) (s : State) : State := match exec i s with
  | .next t => t
  | .fault _ => s
  | .refused _ => s

/-- `s` with live values of registers. -/
def withRegs (s : State) (l : List (Nat × Word)) : State := { s with regs := { s.regs with live := l } }

/-- A number of given fields: offset and length in bytes, and value. -/
def pack (l : List (Nat × Nat × Nat)) : Nat := l.foldl (fun a p => a + p.2.2 % 2 ^ (8 * p.2.1) * 2 ^ (8 * p.1)) 0

/-- An operand and its complement. -/
def both (j k n v : Nat) : List (Nat × Nat × Nat) := [(j, n, v), (k, n, 2 ^ (8 * n) - 1 - v)]

/-- A command that runs in mailbox 0, with these operands. -/
def cmd (op flags table : Nat) (l : List (Nat × Nat × Nat)) : Cmd :=
  { id := 5, mb := 0, ring := 1, num := 3
    desc := BitVec.ofNat 1024 (pack (both 0 4 4 (op + flags * 256 + 7 * 65536) ++ both 8 12 4 table ++ l))
    ownerRight := true, st := .running, status := 0, handle := 0, vis := 0, held := false, jneed := none, since := 0, stalled := false }

/-- `s` with one command. -/
def runs (s : State) (c : Cmd) : State := { s with cmds := [c] }

/-- How the first command stands. -/
def ended (s : State) : Option (Nat × Nat × Nat) := match s.cmds.head? with
  | some c => if c.st = .finished then some (c.status, c.handle, c.vis) else none
  | none => none

/-- What the first command waits for. -/
def waitsFor (s : State) : Option Wait := match s.cmds.head? with
  | some c => match c.st with
    | .waiting w => some w
    | _ => none
  | none => none

/-- A host bus that answers reads with `l` and takes writes. -/
def bus (l : List Byte) : HostIO := { rd := some l, wr := true }

/-- A link in RUN with four lanes in use, and credits. -/
def up : Link := { Link.reset with
  st := 2, width := 1, good := 0xF, peer := 0xF, enabled := 0xF, maxW := 1, creds := List.replicate 8 4, dcred := 4 }

/-- `s` with link `p` up. -/
def linked (s : State) (p : Nat) : State := { s with links := s.links.set p up }

/-- A flit of given fields: low bit and value. -/
def flit (l : List (Nat × Nat)) : Flit := BitVec.ofNat 256 (l.foldl (fun a p => a + p.2 * 2 ^ p.1) 0)

/-! ### The time base -/

/-- A locked time base, its last edge accepted at 900000 (period 102400). -/
def locked : State := { base with epoch := { base.epoch with qual := .locked, lastAcc := some 900000, lastEdge := some 900000 } }

theorem test_edge_ignored :
    islandOn locked = true ∧ tooEarly (preStep 940000 { locked with now := 900000 }) = true ∧
    (after (.syncInEdge 940000) { locked with now := 900000 }).live 0x30028 = 1 ∧
    (after (.syncInEdge 940000) { locked with now := 900000 }).epoch.count = 5 := by decide +kernel

theorem test_edge_steps :
    tooEarly (preStep 1002400 locked) = false ∧ (after (.syncInEdge 1002400) locked).epoch.count = 6 ∧
    (after (.syncInEdge 1002400) locked).epoch.qual = .locked ∧
    tooEarly (preStep 951200 { locked with now := 950000 }) = false := by decide +kernel

theorem test_edge_in_holdover :
    let s := { locked with epoch := { locked.epoch with qual := .holdover, phase0 := 1000000 } }
    tooEarly (preStep 1002400 s) = false ∧ (preStep 1002400 s).epoch.phase (preStep 1002400 s).now < 512 ∧
    (after (.syncInEdge 1002400) s).epoch.count = 5 ∧ (after (.syncInEdge 1002400) s).epoch.phase0 = 1002400 := by decide +kernel

theorem test_edge_in_acquire :
    tooEarly (preStep 1002400 base) = false ∧ (preStep 1002400 base).epoch.qual = .acquire ∧ (preStep 1002400 base).epoch.held = false ∧
    (after (.syncInEdge 1002400) base).epoch.count = 6 := by decide +kernel

/-- Four edges have been ignored. -/
def noisy : State := { locked with now := 900000, epoch := { locked.epoch with ignored := [903000, 902000, 901000, 900500] } }

theorem test_chatter :
    (preStep 904000 noisy).epoch.chatter = false ∧ tooEarly (preStep 904000 noisy) = true ∧ 4 < ignoredNow (preStep 904000 noisy) ∧
    (after (.syncInEdge 904000) noisy).epoch.chatter = true ∧ (after (.syncInEdge 904000) noisy).epoch.qual = .holdover ∧
    (let s := { noisy with epoch := { noisy.epoch with qual := .acquire } }
     tooEarly (preStep 904000 s) = true ∧ (after (.syncInEdge 904000) s).epoch.count = 5 ∧ (after (.syncInEdge 904000) s).epoch.qual = .acquire) ∧
    ignoredNow (preStep 904000 { noisy with epoch := { noisy.epoch with ignored := [903000, 902000, 901000] } }) = 4 := by decide +kernel

/-- The input is chattering. -/
def chattering : State := { noisy with epoch := { noisy.epoch with chatter := true, lastEdge := some 903000 } }

theorem test_chatter_ends :
    (preStep 904000 chattering).now < chatterUntil (preStep 904000 chattering) ∧
    (after (.syncInEdge 904000) chattering).epoch.count = 5 ∧ chattering.epoch.chatter = true ∧
    (after .chatterEnd chattering).epoch.chatter = false ∧ (after .chatterEnd chattering).now = 903000 + 102400 := by decide +kernel

theorem test_numbering :
    base.epoch.qual ≠ .locked ∧ (after .synthesizedStep base).epoch.count = 6 ∧
    (let s := { base with epoch := { base.epoch with beacon := some 90 } }
     nextNumber (preStep (synDue s) s) = 90 ∧ (after .synthesizedStep s).epoch.count = 90 ∧ (after .synthesizedStep s).epoch.numbered = true) ∧
    (let s := withRegs base [(0x30020, 70), (0x30024, 0x80000000)]
     setArmed (preStep (synDue s) s) = true ∧ (after .synthesizedStep s).epoch.count = 70) := by decide +kernel

theorem test_holdover_and_lost :
    locked.epoch.qual = .locked ∧ (after .epoHoldover locked).epoch.qual = .holdover ∧ (after .epoHoldover locked).epoch.off = 512 ∧
    (after .epoHoldover locked).now = 900000 + 153600 ∧
    (let s := withRegs base [(0x30014, 1)]
     holdLimit s ≤ s.epoch.holdCount ∧ holdLimit (preStep (synDue s) s) ≤ (preStep (synDue s) s).epoch.holdCount ∧
     (preStep (synDue s) s).epoch.qual = .acquire ∧ (after .epoLost s).epoch.qual = .lost) := by decide +kernel

/-- A good beacon of epoch 90. -/
def beacon90 : Flit := flit [(252, 4), (204, 90), (144, 2 ^ 48 - 1 - 90)]

theorem test_beacon :
    (let s := withRegs (linked base 3) [(0x30010, 0x103)]
     linkUp ((pre s).link 3) = true ∧ fld beacon90 255 252 = 4 ∧ bit ((pre s).live 0x30010) 8 = true ∧ (pre s).cfg 0x30010 3 0 = 3 ∧
     fld beacon90 251 204 + fld beacon90 191 144 = 2 ^ 48 - 1 ∧ (after (.beacon 3 beacon90) s).epoch.beacon = some 90) ∧
    (let s := withRegs (linked base 3) [(0x30010, 0x102)]
     (pre s).cfg 0x30010 3 0 ≠ 3 ∧ (after (.beacon 3 beacon90) s).epoch.beacon = none) := by decide +kernel

theorem test_arm :
    portUp (prePort base 0) 0 = true ∧ isOwner (prePort base 0) 0 = true ∧ (after (.arm 0 0x80000007) base).live 0x30024 = 0x80000007 ∧
    portUp (prePort base 1) 1 = true ∧ isOwner (prePort base 1) 1 = false ∧ (after (.arm 1 0x80000007) base).live 0x30024 = 0 ∧
    bit ((after (.arm 1 0x80000007) base).live 0x210) 5 = true := by decide +kernel

theorem test_oscillators :
    base.power.pwrGood = true ∧ (pre base).power.oscLost = false ∧ (after .clkOscSwitch base).power.osc = 1 ∧
    (pre base).stage.stage ≠ 0 ∧ (after .clkOscLost base).stage.stage = 4 ∧
    (let s := { base with stage := Stage.reset 0 }
     (pre s).stage.stage = 0 ∧ (after .clkOscLost s).stage.fsPending = true) := by decide +kernel

/-! ### Requests and links -/

/-- A key-form and a header-form request on context 0, with tag 9 and profile 3. -/
def keyFrame : List Flit := [flit [(252, 1), (233, 9), (225, 3)], 0, 0]
def hdrFrame : List Flit := [flit [(252, 2), (233, 9), (225, 3)], 0, 0]

theorem test_request_frames :
    frameTaken (pre (linked base 2)) 2 false keyFrame = true ∧ frameTaken (pre (linked base 2)) 2 true hdrFrame = true ∧
    (((after (.keyReq 2 keyFrame) (linked base 2)).link 2).rx.map (fun r => (r.hform, r.tag, r.profile))) = [(false, 9, 3)] ∧
    natAt ((after (.hdrReq 2 hdrFrame) (linked base 2)).link 2).creds 0 = 3 ∧
    (let s := { base with links := base.links.set 2 { up with creds := List.replicate 8 0 } }
     linkUp ((pre s).link 2) = true ∧ payload keyFrame 0 4 = 1 ∧ natAt ((pre s).link 2).creds (received false keyFrame).ctx = 0 ∧
     (after (.keyReq 2 keyFrame) s).live (hpAddr 2 0x48) = 1 ∧ ((after (.keyReq 2 keyFrame) s).link 2).rx = []) := by decide +kernel

/-- A module with a DIRECT table 7 of 16 words from word 32 on, and port 2 that may write it. -/
def direct7 : State := withRegs { linked base 2 with tables := [(7, Table.fresh .direct 0)] }
  [(taAddr 7 0, 3), (taAddr 7 0x20, 32), (taAddr 7 0x24, 16), (hpAddr 2 8, 0xC0)]

/-- An inline write of 0x55 to word `i` of table 7. -/
def inlineFrame (i : Nat) : List Flit := [flit [(252, 3), (242, 7), (222, i)], flit [(0, 0x55)]]

theorem test_inline_write :
    inlineTaken (pre direct7) 2 (inlineFrame 15) = true ∧ mapGetD (after (.dtWrite 2 (inlineFrame 15)) direct7).direct 47 0 = 0x55 ∧
    inlineTaken (pre direct7) 2 (inlineFrame 16) = false ∧ linkUp ((pre direct7).link 2) = true ∧ payload (inlineFrame 16) 0 4 = 3 ∧
    ((pre direct7).link 2).dcred ≠ 0 ∧ (after (.dtWrite 2 (inlineFrame 16)) direct7).direct = [] ∧
    (after (.dtWrite 2 (inlineFrame 16)) direct7).live (hpAddr 2 0x5C) = 1 := by decide +kernel

/-- A request of context 0 waits on port 2. -/
def waiting2 : State := after (.keyReq 2 keyFrame) (linked base 2)

theorem test_acceptance :
    (∀ r, (waiting2.link 2).rx.head? = some r → acceptable (pre waiting2) 2 0 1000007 r = true ∧ r.hform = false ∧ r.tok = none ∧
      noRegFault [] = true ∧ bit ((pre waiting2).live (pfAddr r.profile 0)) 31 = false) ∧
    (after (.requestAccept 2 0 1000007 [] none) waiting2).holds.map (fun h => (h.tag, h.t0, h.lat, h.view)) = [(9, 1000008, 450, 5)] := by
  decide +kernel

/-- The request has been accepted. -/
def held2 : State := after (.requestAccept 2 0 1000007 [] none) waiting2

theorem test_response :
    (∀ h, held2.holds.head? = some h → oldestHold (pre held2) 2 0 = some h ∧ quiet h = true) ∧
    (after (.responseEmit 2 0 [] none) held2).now = 1000008 + 8 * 450 ∧ (after (.responseEmit 2 0 [] none) held2).holds = [] ∧
    emitsLater (pre held2) 2 0 (1000008 + 8 * 450) = false ∧
    (let s := { held2 with holds := held2.holds.map (fun h => { h with port := 1 }) ++ held2.holds }
     (∀ h, held2.holds.head? = some h → oldestHold (pre s) 2 0 = some h) ∧ emitsLater (pre s) 2 0 (1000008 + 8 * 450) = true ∧
     (after (.responseEmit 2 0 [] none) s).holds.length = 2) ∧
    linkUp ((pre held2).link 2) = true ∧ linkUp ((pre { held2 with links := base.links }).link 2) = false := by decide +kernel

/-- Port 0 has begun to train. -/
def training : State := { base with links := base.links.set 0 { Link.reset with st := 1 } }

theorem test_training :
    trains (pre training) 0 = true ∧
    pickWidth 0 (trained (pre training) 0 0xFFFFFFF 0xFFFFFFF) ((trained (pre training) 0 0xFFFFFFF 0xFFFFFFF).maxW + 1) = some 28 ∧
    ((after (.lnkUp 0 0xFFFFFFF 0xFFFFFFF) training).link 0).width = 28 ∧ ((after (.trainRetry 0 0xFF 0x7) training).link 0).st = 0 ∧
    pickWidth 0 (trained (pre training) 0 0xFF 0x7) ((trained (pre training) 0 0xFF 0x7).maxW + 1) = none := by decide +kernel

theorem test_lane_lock :
    laneOf 29 = (1, 1) ∧ laneOf 447 = (15, 27) ∧ laneOf 448 = (16, 0) ∧ laneOf 511 = (17, 31) ∧
    ((after (.codewordLockGained 29) base).link 1).good = 2 := by decide +kernel

/-- Port 2 uses lanes 0 to 7, and lane 8 is a spare one. -/
def wide : State := { base with links := base.links.set 2 { up with width := 8, good := 0x1FF, peer := 0x1FF, enabled := 0xFFF, maxW := 8 } }

theorem test_lane_failure :
    linkUp ((pre wide).link 2) = true ∧ bit ((pre wide).link 2).good 8 = true ∧ (8 : Nat) < groupLanes 2 ∧
    (lanesInUse 2 ((pre wide).link 2)).contains 8 = false ∧ (lanesInUse 2 ((pre wide).link 2)).contains 7 = true ∧
    ((after (.laneFailure 2 8) wide).link 2).good = 0xFF ∧ ((after (.laneFailure 2 7) wide).link 2).change.map (fun c => c.1) = some 4 ∧
    ((after (.laneFailure 2 0) (linked base 2)).link 2).st = 0 := by decide +kernel

/-- A LINK flit with the given message code, all lanes locked. -/
def linkMsg (code : Nat) : Flit := flit [(252, 0xF), (248, code), (216, 0xFFFFFFFF)]

theorem test_widen_and_link :
    fld (linkMsg 3) 255 252 = 0xF ∧ fld (linkMsg 3) 251 248 = 3 ∧ (after (.widenReq 2 (linkMsg 3)) (linked base 2)).out.length = 1 ∧
    plainLink (pre (linked base 2)) 2 (linkMsg 0) = true ∧ plainLink (pre (linked base 16)) 16 (linkMsg 0) = true ∧
    (after (.linkFlit 2 (linkMsg 0)) (linked base 2)).out.length = 1 ∧ (after (.linkFlit 16 (linkMsg 0)) (linked base 16)).out = [] := by
  decide +kernel

theorem test_replay :
    ((pre (linked base 2)).link 2).nak = false ∧ ((after (.flitCheckFail 2 0) (linked base 2)).link 2).ackRound = 63 ∧
    (let s := after (.flitCheckFail 2 0) (linked base 2)
     ((pre s).link 2).nak = true ∧ ((pre s).link 2).ackRound = (0 + 63) % 64 ∧ ((after (.flitCheckFail 2 0) s).link 2).resends = 1) ∧
    (let s := { base with links := base.links.set 2 { up with resends := 8 } }
     8 ≤ ((pre s).link 2).resends ∧ ((after (.lnkReplayLimit 2) s).link 2).st = 1) := by decide +kernel

theorem test_frame_error :
    discardReason 2 (flit [(252, 5)]) false = some 0 ∧ discardReason 2 (flit [(252, 0xC)]) false = some 1 ∧
    discardReason 16 (flit [(252, 0xC)]) true = some 2 ∧ discardReason 16 (flit [(252, 0xC)]) false = none ∧
    (after (.lnkFrameErr 2 (flit [(252, 5)]) false) (linked base 2)).live (hpAddr 2 0x44) = 1 := by decide +kernel

/-! ### The cascade -/

/-- The middle of a chain of three, both cascade ports up, numbered. -/
def middle : State := withRegs { linked (linked base 16) 17 with
  csc := { Csc.reset 1 with chain := 1 }, epoch := { base.epoch with numbered := true } } [(0x140000, 0x103)]

/-- A hello that agrees with `middle`, from position `p` and with reach `r`. -/
def helloFrom (p r : Nat) : Flit :=
  let id := (middle.live 4).toNat
  flit [(252, 0xE), (250, p), (247, 3), (244, r), (243, 1), (192, 5), (160, id), (128, 2 ^ 32 - 1 - id)]

theorem test_hellos :
    (cpRuns (pre middle) 0 || cpRuns (pre middle) 1) = true ∧ (pre middle).csc.helloAt ≠ some (pre middle).epoch.count ∧
    (after .helloSend middle).out.length = 2 ∧ helloAgrees (pre middle) 0 (helloFrom 0 3) = true ∧
    (after (.hello 0 (helloFrom 0 3)) middle).csc.upRun = 1 ∧ helloAgrees (pre middle) 1 (helloFrom 2 1) = true ∧
    (let s := after (.hello 1 (helloFrom 2 1)) middle
     s.csc.dnVer = false ∧ (after (.hello 1 (helloFrom 2 1)) s).csc.dnVer = true ∧ (after (.hello 1 (helloFrom 2 1)) s).csc.below = 1) := by
  decide +kernel

theorem test_chain_loss :
    (let s := { middle with csc := { middle.csc with chain := 2, dnVer := true, below := 1, upVer := true }, links := (linked base 16).links }
     cpUsed (pre s) 1 = true ∧ linkUp ((pre s).link 17) = false ∧ (after (.cscChainLost (.linkLost 1)) s).csc.chain = 3 ∧
     cpUsed (pre s) 0 = true ∧ (pre s).csc.upVer = true ∧ (after (.cscChainLost (.hellosMissing 0)) s).csc.upVer = false) := by decide +kernel

/-- A search frame for table 4 with tag 6 and a budget of 400 hub cycles, and an answer with that tag. -/
def searchFrame : List Flit := [flit [(252, 0xC), (244, 4), (224, 400), (208, 6)], 0, 0, 0]
def answerTo6 : List Flit := [flit [(252, 0xD), (248, 1), (208, 6)], 0]

theorem test_search :
    cpRuns (pre middle) 0 = true ∧ payload searchFrame 0 4 = 0xC ∧ searchBudget searchFrame = 400 ∧
    (let s := after (.search searchFrame 1000000 []) middle
     s.csc.serves.map (fun e => (e.ctag, e.table, e.sendAt, e.due)) = [(6, 4, 1003200, 1003000)] ∧
     (∀ e, s.csc.serves.head? = some e → (pre s).csc.serves.find? (fun (d : CscServe) => d.ctag == 6) = some e ∧ cpRuns (pre s) 0 = true) ∧
     (after (.answerSend 6) s).now = 1003200 ∧ (after (.answerSend 6) s).csc.serves = []) := by decide +kernel

/-- A lookup of table 4 waits for the answer with tag 6. -/
def asking : State := { middle with holds := (held2.holds.map (fun h => { h with csc := [{
  ctag := 6, slot := 0, table := 4, pstat := 5
  part := { table := 4, status := 1, prio := 0, handle := 0, action := 0, data := 0, bits := 0, upd := none, learn := none, safe := false
            trig := false, awBad := false }
  pos := 0, due := 1001000, ans := none, tok := false, advanced := false, fate := 0, gone := false }] })) }

theorem test_answer :
    cpRuns (pre middle) 1 = true ∧ payload answerTo6 0 4 = 0xD ∧
    (pre middle).holds.any (fun h => h.csc.any (fun c => c.ctag == payload answerTo6 32 16)) = false ∧
    (pre middle).csc.serves.any (fun e => e.down == some (payload answerTo6 32 16)) = false ∧
    (after (.answer answerTo6 1000000) middle).live 0x140048 = 1 ∧
    (∀ h ∈ (pre asking).holds, ∀ c ∈ h.csc, c.ctag = payload answerTo6 32 16 ∧ c.ans = none ∧ max (pre asking).now 1001000 ≤ c.due) ∧
    (after (.answer answerTo6 1001000) asking).holds.map (fun h => h.csc.map (fun c => c.ans.isSome)) = [[true]] ∧
    (after (.answer answerTo6 1001000) asking).live 0x140044 = 1 := by decide +kernel

/-- A win notice for position 2. -/
def winFor2 : Flit := flit [(252, 0xB), (250, 2)]

theorem test_win :
    cpRuns (pre middle) 0 = true ∧ fld winFor2 255 252 = 0xB ∧ nfld (fld winFor2 127 0) 127 124 = 0 ∧
    (pre middle).csc.pos.toNat < nfld (fld winFor2 255 128) 123 122 ∧ cpRuns (pre middle) 1 = true ∧ (pre middle).csc.chain ≠ 3 ∧
    (after (.win winFor2) middle).out.length = 1 ∧
    (let s := { middle with csc := { middle.csc with chain := 3 } }
     (pre s).csc.chain = 3 ∧ (after (.win winFor2) s).live 0x140058 = 1) := by decide +kernel

/-! ### Mailboxes -/

theorem test_rings :
    portUp (prePort base 0) 0 = true ∧ (prePort base 0).stage.stage ≠ 0 ∧ natAt ((after (.doorbell 0 0 1 64) base).box 0).tail 1 = 64 ∧
    natAt ((after (.doorbell 0 0 1 65) base).box 0).tail 1 = 0 ∧ bit ((after (.doorbell 0 0 1 65) base).live (mbAddr 0 0x20)) 1 = true ∧
    ((after (.mbCplHeadWrite 0 0 0) base).box 0).cplHead = 0 ∧
    bit ((after (.mbCplHeadWrite 0 0 1) base).live (mbAddr 0 0x20)) 2 = true ∧ (0 : Fin 4) ≠ 1 ∧
    bit ((after (.doorbell 0 1 1 1) base).live (mbAddr 1 0x20)) 3 = true ∧
    bit ((after (.mbCplHeadWrite 0 1 1) base).live 0x200) 6 = true := by decide +kernel

/-- Mailbox 0 holds a descriptor in its normal ring. -/
def rung : State := after (.doorbell 0 0 1 1) base

theorem test_accept_and_start :
    (pre rung).power.flush = none ∧ (pre rung).power.pwrGood = true ∧ pickMbox (pre rung) = some 0 ∧
    (after (.commandAccept []) rung).cmds.map (fun c => (c.ring, c.ownerRight, c.st)) = [(1, true, .accepted)] ∧
    (let c := { cmd 0x42 0 255 [] with st := .accepted }
     nextStart (pre (runs base c)) 0 = some c ∧ unitTakes (pre (runs base c)) (opUnit c.op) = some c ∧ headCheck c = none ∧
     (after (.commandStart 0 false []) (runs base c)).cmds.map (fun c => c.st) = [.running] ∧
     (after (.commandStart 0 false []) (runs base c)).rrStart.head? = some 1 ∧
     ended (after (.commandStart 0 true []) (runs base c)) = some (stInvalid, 0xFFFFFFFF, 0)) ∧
    (let c := { cmd 0x42 0 255 [] with st := .accepted }
     let h := { c with id := 6, mb := 2, ring := 0 }
     let s := { base with cmds := [c, h] }
     nextStart (pre s) 0 = some c ∧ nextStart (pre s) 2 = some h ∧ unitTakes (pre s) (opUnit c.op) = some h ∧ opUnit h.op = 0 ∧
     startable (pre s) h = true ∧ (after (.commandStart 0 false []) s).cmds.map (fun c => c.st) = [.accepted, .accepted]) ∧
    (let c := { cmd 0x42 0 255 [] with st := .accepted, desc := 0x42 }
     c.compl 0 4 4 = false ∧ headCheck c = some stBadComplement ∧ ended (after (.commandStart 0 false []) (runs base c)) = some (stBadComplement, 0xFFFFFFFF, 0)) ∧
    (let c := { cmd 0x05 0 255 [] with st := .accepted }
     c.compl 0 4 4 = true ∧ c.compl 8 12 4 = true ∧ opDefined c.op = false ∧ headCheck c = some stInvalid) ∧
    (let c := { cmd 0x42 0 255 [] with st := .accepted, ownerRight := false }
     opDefined c.op = true ∧ c.flags / 32 = 0 ∧ c.flags / 4 % 4 = 0 ∧ c.le 9 3 = 0 ∧ opAnyone c.op = false ∧ headCheck c = some stNotOwner) := by
  decide +kernel

/-- Port 0's normal ring holds a descriptor of this command. -/
def offering (c : Cmd) : State := { rung with mem := memWriteAll rung.mem (cmdSlot 0 1 0) (bytesLE 128 c.desc.toNat) }

theorem test_acceptance_begins_the_drain :
    (let c := cmd 0x84 0 255 []
     pickMbox (pre (offering c)) = some 0 ∧ headCheck c = none ∧ (pre (offering c)).own.st = .owned ∧ c.op = 0x84 ∧ bareForm c 16 = true ∧
     (after (.commandAccept []) (offering c)).cmds.map (fun d => (d.op, d.ownerRight)) = [(0x84, true)] ∧
     (after (.commandAccept []) (offering c)).own.st = .draining) ∧
    (let c := cmd 0x82 0 255 (both 16 32 16 (1 + 16 * 2 ^ 32 + 8 * 2 ^ 64))
     pickMbox (pre (offering c)) = some 0 ∧ headCheck c = none ∧ c.op = 0x82 ∧ (handoverForm c).2 = some (1, 8, 16) ∧
     (after (.commandAccept []) (offering c)).own.st = .handing ∧ (after (.commandAccept []) (offering c)).own.target = 1) := by
  decide +kernel

/-- A finished command. -/
def done : Cmd := { cmd 0x42 0 255 [] with st := .finished, status := 6 }

theorem test_completion :
    oldest (pre (runs base done)) 0 = some done ∧ cmdDurable (pre (runs base done)) done = true ∧
    memReadAll (after (.completionPost 0) (runs base done)).mem (cplSlot 0 3) 4 = [7, 0, 6, 0x42] ∧
    (after (.completionPost 0) (runs base done)).cmds = [] ∧
    (let s := withRegs { base with mbox := base.mbox.set 0 { base.box 0 with firstAt := some 990000, sinceRaise := 1 } } [(mbAddr 0 0x1C, 0x20004)]
     ((pre s).box 0).firstAt = some 990000 ∧ (pre s).cfg (mbAddr 0 0x1C) 31 16 = 2 ∧
     (preAt (990000 + 20000) (pre s)).mbox.length = 4 ∧ ((after (.irqCoalesceTimer 0) s).box 0).firstAt = none) := by decide +kernel

/-! ### Tables -/

/-- A handle, a priority, a value and a mask as a row of table 4. -/
def row11 : Row :=
  { handle := 11, prio := 100, value := 0x30, mask := 0xF0, ad := 0, die := 0, block := 0, row := 0, pos := 64, vis := 1 }

/-- A TERNARY table with one entry, in block 0 of die 0. -/
def tern : Table := { Table.fresh .ternary 1 with
  slots := [{ Slot.empty with st := .live, epoch := 1 }, Slot.empty, Slot.empty, Slot.empty], rows := [row11]
  covers := [{ value := 0, mask := 0, die := 0, block := 0, group := 0, vis := 1, idx := 0 }]
  blocks := [{ die := 0, block := 0, group := 0, replica := 0 }] }

/-- The attribute words of `tern` as table 4. -/
def attr4 : List (Nat × Word) :=
  [(taAddr 4 0, 0x10001), (taAddr 4 8, 450), (taAddr 4 0x14, 8), (taAddr 4 0x18, 0x1F), (taAddr 4 0x1C, 1), (taAddr 4 0x20, 0x20001)]

/-- A module with table 4. -/
def tabled : State := withRegs { base with
  tables := [(4, tern)], dies := { Dies.reset with blocks := [(0, { table := 4, group := 0, st := 1, actNow := 3, act := 0, refused := false, low := 0, held := true })] } }
  attr4

/-- The same with other slots, and with rows seen by those in `m`. -/
def slotted (l : List Slot) (m : BitVec 4) : State := { tabled with
  tables := [(4, { tern with slots := l, rows := [{ row11 with vis := m }] })] }

/-- Slot 0 LIVE and slot 1 OPEN with a command's change. -/
def opened1 : List Slot := [{ Slot.empty with st := .live, epoch := 1 }, { Slot.empty with st := .opened, hasCmd := true }, Slot.empty, Slot.empty]

/-- The operands of a TBL_CREATE or a TBL_ALTER: structure word, latency and the two resource words. -/
def attrOps (n st lat r0 r1 : Nat) : List (Nat × Nat × Nat) :=
  let l := [(0, st), (4, lat), (8, 0), (12, 8), (16, 0), (20, 1), (24, r0), (28, r1)]
  (l.take n).flatMap (fun p => both (16 + p.1) (48 + p.1) 4 p.2)

/-- TBL_CREATE of a DIRECT table 9, and of table 4. -/
def create9 : Cmd := cmd 0x01 0 9 (attrOps 8 0x08000003 0 1024 1024)
def create4 : Cmd := cmd 0x01 0 4 (attrOps 8 0x08000003 0 1024 1024)

theorem test_create :
    runningCmd (pre (runs tabled create9)) 0 1 = some create9 ∧ createForm create9 = true ∧
    lockWait (pre (runs tabled create9)) create9 = false ∧ mayChange (pre (runs tabled create9)) create9 = true ∧
    (match createTable (pre (runs tabled create9)) create9.table (cmdAttrs create9) with
     | .ok _ => true
     | .error _ => false) = true ∧
    (after (.tblCreate 0) (runs tabled create9)).table 9 = some (Table.fresh .direct 5) ∧
    ended (after (.tblCreate 0) (runs tabled create9)) = some (stOk, 0xFFFFFFFF, 6) ∧ kindOf (word (create9.le 16 4)) = some .direct ∧
    (after (.tblCreate 0) { runs tabled create9 with direct := [(7, 9), (1024, 9), (2047, 9), (2048, 9)] }).direct = [(7, 9), (2048, 9)] ∧
    lockWait (pre (runs tabled create4)) create4 = false ∧
    runningCmd (pre (runs tabled create4)) 0 1 = some create4 ∧ createForm create4 = true ∧
    ((pre (runs tabled create4)).table create4.table).isSome = true ∧
    ended (after (.tblCreate 0) (runs tabled create4)) = some (stDuplicate, 0xFFFFFFFF, 0) := by decide +kernel

/-- TBL_DESTROY of table `t` at epoch 9. -/
def destroy (t : Nat) : Cmd := cmd 0x02 0 t (both 16 24 8 9)

theorem test_destroy :
    runningCmd (pre (runs tabled (destroy 4))) 0 2 = some (destroy 4) ∧ epochForm (destroy 4) = stOk ∧
    mayChange (pre (runs tabled (destroy 4))) (destroy 4) = true ∧ (destroy 4).got = 0 ∧
    lockWait (pre (runs tabled (destroy 4))) (destroy 4) = false ∧
    (let c := { destroy 4 with got := 2 }
     let s := runs { tabled with tables := [(4, { tern with st := .destroying })] } c
     lockWait (pre s) c = false ∧ mayChange (pre s) c = true ∧ waitsFor (after (.tblDestroy 0) s) = some (.glaze 4 1)) ∧
    waitsFor (after (.tblDestroy 0) (runs tabled (destroy 4))) = some (.glaze 4 1) ∧
    (pre (runs tabled (destroy 5))).table 5 = none ∧
    ended (after (.tblDestroy 0) (runs tabled (destroy 5))) = some (stNotFound, 0xFFFFFFFF, 0) ∧
    (let s := runs { tabled with tables := [(4, { tern with st := .destroying })] } (destroy 4)
     ended (after (.tblDestroy 0) s) = some (stNotFound, 0xFFFFFFFF, 0)) := by decide +kernel

/-- A TREE table 6 with RULE_MAX 100, and a TBL_ALTER that makes it `n`. -/
def treed : State := withRegs { base with tables := [(6, Table.fresh .tree 1)] } [(taAddr 6 0, 0x02), (taAddr 6 8, 800), (taAddr 6 0x20, 100)]
def alter (st n : Nat) : Cmd :=
  cmd 0x03 0 6 (both 16 48 4 st ++ both 40 72 4 n ++ both 44 76 4 0)

theorem test_alter :
    runningCmd (pre (runs treed (alter 0x08000002 7))) 0 3 = some (alter 0x08000002 7) ∧ alterForm (alter 0x08000002 7) .tree = true ∧
    alterTree (pre (runs treed (alter 0x08000002 7))) (alter 0x08000002 7) = true ∧
    mayChange (pre (runs treed (alter 0x08000002 7))) (alter 0x08000002 7) = true ∧
    (after (.tblAlter 0) (runs treed (alter 0x08000002 7))).live (taAddr 6 0x20) = 7 ∧
    (let c := cmd 0x03 0 6 (both 16 48 4 0x08000003 ++ both 40 72 4 1024 ++ both 44 76 4 1024)
     alterForm c .direct = true ∧ tableLive (pre (runs treed c)) 6 = true ∧ lockWait (pre (runs treed c)) c = false ∧
     tableKind (pre (runs treed c)) 6 ≠ some .direct ∧ ended (after (.tblAlter 0) (runs treed c)) = some (stInvalid, 0xFFFFFFFF, 0)) := by
  decide +kernel

/-- TBL_MIRROR of block 0 of die 0, to `n` mirrors. -/
def mirror (n : Nat) : Cmd := cmd 0x04 0 4 (both 16 24 8 (n * 2 ^ 32))

/-- `tabled` with every spare of die 0 in use. -/
def spareless : State := { tabled with dies := { tabled.dies with
  spares := (List.range 32).map (fun k => (k, { Spare.free with use := 3 })) } }

theorem test_mirror :
    runningCmd (pre (runs tabled (mirror 2))) 0 4 = some (mirror 2) ∧ mirrorForm (mirror 2) = true ∧
    mirrorBlock (pre (runs tabled (mirror 2))) (mirror 2) tern { die := 0, block := 0, group := 0, replica := 0 } = true ∧
    (mirror 2).le 20 4 = 2 ∧ 2 ≤ (freeSpares (pre (runs tabled (mirror 2))) 0).length ∧ mayChange (pre (runs tabled (mirror 2))) (mirror 2) = true ∧
    waitsFor (after (.tblMirror 0) (runs tabled (mirror 2))) = some (.copyMap 0) ∧
    freeSpares (pre (runs spareless (mirror 2))) 0 = [] ∧ mirrors (pre (runs spareless (mirror 2))) 0 0 false = [] ∧
    ended (after (.tblMirror 0) (runs spareless (mirror 2))) = some (stTableFull, 0xFFFFFFFF, 0) := by decide +kernel

/-! ### Entries -/

/-- Does the change apply to the open generation of table 4? -/
def applies (u : State) (g : Change) : Bool := match openGen u 4 with
  | none => false
  | some (o, s1) => match applyChange s1 4 o g with
    | .ok _ => true
    | .error _ => false

/-- The conditions of `entryRuns` but for the placement, for table 4 as it stands in `s`. -/
def entryMay (s : State) (c : Cmd) (g : Change) : Bool :=
  let u := pre (runs s c)
  (match u.table 4 with
   | some x => x.st == .live && x.kind == .ternary && !noSlot x
   | none => false) && !lockWait u c && changeCheck u 4 g == stOk && applies u g && mayChange u c && !c.auto

/-- Table 4 with two entries that leave two rows between them (their positions are on another die: none is compared with the
free value that the next allocation picks, assumption 6), and with one that only the OPEN generation sees. -/
def pair : State := { tabled with tables := [(4, { tern with rows := [{ row11 with pos := posPerDie },
  { row11 with handle := 10, prio := 50, row := 3, pos := posPerDie + 1 }] })] }
def fresh : State := slotted opened1 2

/-- A descriptor of an entry like row 11, with another handle, priority and value. -/
def entry (h p v : Nat) : List Byte := entBytes { row11 with handle := h, prio := p, value := BitVec.ofNat 640 v } 0

/-- ENT_INSERT or ENT_MODIFY of a descriptor in the command itself. -/
def entCmd (op h p v : Nat) : Cmd := cmd op 0 4 [(16, 112, natLE (entry h p v))]

/-- ENT_INSERT of entry 12, and ENT_MODIFY of entry 11. -/
def insert12 : Cmd := entCmd 0x20 12 75 0x30
def modify11 : Cmd := entCmd 0x22 11 90 0x30

theorem test_insert :
    runningCmd (pre (runs pair insert12)) 0 0x20 = some insert12 ∧
    entryOperand (pre (runs pair insert12)) insert12 (bus []) = some (insert12.bytes 16 112, 64) ∧
    entryForm (pre (runs pair insert12)) insert12 (bus []) (insert12.bytes 16 112) 64 = true ∧
    leAt (insert12.bytes 16 112) 0 4 ≠ 0xFFFFFFFF ∧ entryMay pair insert12 (.ins (parseEntry (insert12.bytes 16 112))) = true ∧
    ended (after (.entInsert 0 (bus [])) (runs pair insert12)) = some (stOk, 12, 0) := by decide +kernel

/-- An ENT_INSERT by address whose bus-master read ends in a Completion Timeout. -/
theorem test_timeout :
    (let c := cmd 0x20 2 4 ([(16, 8, 0x1000)] ++ both 24 28 4 64)
     let io : HostIO := { rd := none, wr := true, timeout := true }
     runningCmd (pre (runs pair c)) 0 0x20 = some c ∧ c.addr = true ∧ c.compl 24 28 4 = true ∧ entryOperand (pre (runs pair c)) c io = none ∧
     busUp (pre (runs pair c)) 0 = true ∧ ended (after (.entInsert 0 io) (runs pair c)) = some (stAborted, 0xFFFFFFFF, 0) ∧
     (after (.entInsert 0 io) (runs pair c)).out.contains (.errNonFatal 0) = true ∧
     bit ((after (.entInsert 0 io) (runs pair c)).live (mbAddr 0 0x20)) 0 = true) := by decide +kernel

theorem test_modify :
    runningCmd (pre (runs fresh modify11)) 0 0x22 = some modify11 ∧
    entryForm (pre (runs fresh modify11)) modify11 (bus []) (modify11.bytes 16 112) 64 = true ∧
    entryMay fresh modify11 (.mod (parseEntry (modify11.bytes 16 112))) = true := by decide +kernel

/-- ENT_DELETE and ENT_REPRIO of entry 11. -/
def delete11 (flags : Nat) : Cmd := cmd 0x21 flags 4 (both 16 20 4 11)
def reprio11 : Cmd := cmd 0x23 0 4 (both 16 24 8 (11 + 77 * 2 ^ 32))

theorem test_delete_and_reprio :
    runningCmd (pre (runs tabled (delete11 0))) 0 0x21 = some (delete11 0) ∧ (delete11 0).compl 16 20 4 = true ∧
    (delete11 0).addr = false ∧ (delete11 0).zeroFrom 24 = true ∧ entryMay tabled (delete11 0) (.del 11) = true ∧
    ended (after (.entDelete 0) (runs tabled (delete11 0))) = some (stOk, 11, 0) ∧
    runningCmd (pre (runs fresh reprio11)) 0 0x23 = some reprio11 ∧ reprio11.compl 16 24 8 = true ∧ reprio11.addr = false ∧
    reprio11.zeroFrom 32 = true ∧ reprio11.le 20 4 < 2 ^ 24 ∧ entryMay fresh reprio11 (.rep 11 77) = true ∧
    ended (after (.entReprio 0) (runs fresh reprio11)) = some (stOk, 11, 0) := by decide +kernel

theorem test_auto_seals :
    (delete11 1).auto = true ∧ (pre (runs tabled (delete11 1))).epoch.qual ≠ .lost ∧
    runningCmd (pre (runs tabled (delete11 1))) 0 0x21 = some (delete11 1) ∧ (delete11 1).compl 16 20 4 = true ∧ (delete11 1).addr = false ∧
    (delete11 1).zeroFrom 24 = true ∧ lockWait (pre (runs tabled (delete11 1))) (delete11 1) = false ∧ noSlot tern = false ∧
    changeCheck (pre (runs tabled (delete11 1))) 4 (.del 11) = stOk ∧ applies (pre (runs tabled (delete11 1))) (.del 11) = true ∧
    mayChange (pre (runs tabled (delete11 1))) (delete11 1) = true ∧ tern.slots.length = 4 ∧
    waitsFor (after (.entDelete 0) (runs tabled (delete11 1))) = some (.glaze 4 1) := by decide +kernel

/-- A DIRECT ENT_MODIFY of word `i` of table 7. -/
def word7 (i : Nat) : Cmd := cmd 0x22 0 7 (both 16 20 4 i ++ [(24, 32, 0x99)])

theorem test_direct_modify :
    runningCmd (pre (runs direct7 (word7 15))) 0 0x22 = some (word7 15) ∧ tableKind (pre (runs direct7 (word7 15))) 7 = some .direct ∧
    tableLive (pre (runs direct7 (word7 15))) 7 = true ∧ lockWait (pre (runs direct7 (word7 15))) (word7 15) = false ∧
    (word7 15).compl 16 20 4 = true ∧ (word7 15).addr = false ∧ (word7 15).auto = false ∧ (word7 15).zeroFrom 56 = true ∧
    mayChange (pre (runs direct7 (word7 15))) (word7 15) = true ∧ taDirSize (pre (runs direct7 (word7 15))) 7 = 16 ∧
    mapGetD (after (.entModify 0 (bus [])) (runs direct7 (word7 15))).direct 47 0 = 0x99 ∧
    ended (after (.entModify 0 (bus [])) (runs direct7 (word7 16))) = some (stInvalid, 16, 0) := by decide +kernel

/-- A batch list of the given records, and an ENT_BATCH that names it. -/
def batchList (l : List (Nat × List Byte)) : List Byte :=
  let h := bytesLE 4 2 ++ bytesLE 4 l.length
  h ++ h.map (fun b => ~~~ b) ++ l.flatMap (fun r => bytesLE 4 r.1 ++ bytesLE 4 (2 ^ 32 - 1 - r.1) ++ r.2)
def batch (t : Nat) (l : List Byte) : Cmd := cmd 0x24 2 t ([(16, 8, 0x1000)] ++ both 24 28 4 l.length)

/-- What `batchRuns` asks of the list that the command reads. -/
def batchMay (s : State) (c : Cmd) (l : List Byte) : Bool :=
  let u := pre (runs s c)
  let r := batchRecs (tableKind u c.table == some .direct) (leAt l 4 4) 0 (l.drop 16)
  runningCmd u 0 0x24 == some c && c.compl 24 28 4 && c.addr && c.host 16 % 16 == 0 && c.zeroFrom 32 && tableKind u c.table != some .tree &&
    !lockWait u c && busRead u c (bus l) (c.le 24 4) == some l && decide (16 ≤ l.length) && isCompl (slice l 0 8) (slice l 8 8) &&
    leAt l 0 4 == 2 && decide (1 ≤ leAt l 4 4) && decide (leAt l 4 4 ≤ 65536) && r.compl.isNone && r.form.isNone && tableLive u c.table

/-- A record that writes 0x42 to word `i`, and one that deletes entry `h`. -/
def recWord (i : Nat) : Nat × List Byte := (0x22, bytesLE 4 i ++ bytesLE 4 (2 ^ 32 - 1 - i) ++ bytesLE 32 0x42)
def recDel (h : Nat) : Nat × List Byte := (0x21, bytesLE 4 h ++ bytesLE 4 0 ++ bytesLE 4 (2 ^ 32 - 1 - h) ++ bytesLE 4 0)

theorem test_batch :
    (let l := batchList [recWord 3]
     batchMay direct7 (batch 7 l) l = true ∧ (batch 7 l).auto = false ∧ mayChange (pre (runs direct7 (batch 7 l))) (batch 7 l) = true ∧
     mapGetD (after (.entBatch 0 (bus l)) (runs direct7 (batch 7 l))).direct 35 0 = 0x42) ∧
    (let l := batchList [recWord 3, recWord 16]
     batchMay direct7 (batch 7 l) l = true ∧ ended (after (.entBatch 0 (bus l)) (runs direct7 (batch 7 l))) = some (stInvalid, 1, 0) ∧
     (after (.entBatch 0 (bus l)) (runs direct7 (batch 7 l))).direct = []) ∧
    (let l := batchList [recDel 11]
     batchMay tabled (batch 4 l) l = true ∧ noSlot tern = false ∧ (openGen (pre (runs tabled (batch 4 l))) 4).isSome = true ∧
     ended (after (.entBatch 0 (bus l)) (runs tabled (batch 4 l))) = some (stOk, 0xFFFFFFFF, 0)) ∧
    (let l := batchList [recDel 11, recDel 12]
     batchMay tabled (batch 4 l) l = true ∧ ended (after (.entBatch 0 (bus l)) (runs tabled (batch 4 l))) = some (stNotFound, 1, 0)) := by
  decide +kernel

/-! ### Glazes and queries -/

/-- GLAZE_SCHEDULE of table 4 for epoch `e`. -/
def glaze (e : Nat) : Cmd := cmd 0x40 0 4 (both 16 24 8 e)

theorem test_glaze :
    (let s := runs (slotted opened1 3) (glaze 9)
     runningCmd (pre s) 0 0x40 = some (glaze 9) ∧ epochForm (glaze 9) = stOk ∧ lockWait (pre s) (glaze 9) = false ∧ (pre s).epoch.qual ≠ .lost ∧
     (∀ x, (pre s).table 4 = some x → openSlot x = some 1 ∧ x.st = .live ∧ x.kind ≠ .direct ∧ x.slots.length = 4 ∧ sealedMax x ≤ 9) ∧
     mayChange (pre s) (glaze 9) = true ∧ waitsFor (after (.glazeSchedule 0) s) = some (.glaze 4 1)) ∧
    (let s := runs tabled (glaze 9)
     openSlot tern = none ∧ ended (after (.glazeSchedule 0) s) = some (stOk, 0xFFFFFFFF, 0)) ∧
    (let s := { runs tabled (glaze 9) with epoch := { base.epoch with qual := .lost } }
     (pre s).epoch.qual = .lost ∧ ended (after (.glazeSchedule 0) s) = some (stExpired, 0xFFFFFFFF, 0)) ∧
    (let s := runs (slotted (opened1.set 2 { Slot.empty with st := .sealed, epoch := 20 }) 3) (glaze 19)
     (∀ x, (pre s).table 4 = some x → openSlot x = some 1 ∧ 19 < sealedMax x) ∧
     ended (after (.glazeSchedule 0) s) = some (stInvalid, 0xFFFFFFFF, 0)) := by decide +kernel

/-- GLAZE_ABORT of table 4, and FENCE. -/
def abort4 : Cmd := cmd 0x41 0 4 []
def fenceCmd : Cmd := { cmd 0x42 0 255 [] with id := 6 }

theorem test_abort_and_fence :
    runningCmd (pre (runs tabled abort4)) 0 0x41 = some abort4 ∧ abort4.auto = false ∧ abort4.addr = false ∧ abort4.zeroFrom 16 = true ∧
    slotsIn tern (fun q => q == .opened || q == .sealed) = [] ∧ ended (after (.glazeAbort 0) (runs tabled abort4)) = some (stNotFound, 0xFFFFFFFF, 0) ∧
    (let s := runs (slotted opened1 3) abort4
     (∀ x, (pre s).table 4 = some x → slotsIn x (fun q => q == .opened || q == .sealed) ≠ []) ∧ mayChange (pre s) abort4 = true ∧
     ended (after (.glazeAbort 0) s) = some (stOk, 0xFFFFFFFF, 0)) ∧
    runningCmd (pre (runs base fenceCmd)) 0 0x42 = some fenceCmd ∧ fenceCmd.zeroFrom 16 = true ∧ fenceCmd.table = 255 ∧
    fenceOpen (pre (runs base fenceCmd)) fenceCmd = true ∧ ended (after (.fence 0) (runs base fenceCmd)) = some (stOk, 0xFFFFFFFF, 0) ∧
    (let s := { base with cmds := [fenceCmd, { glaze 9 with st := .waiting (.glaze 4 1) }] }
     runningCmd (pre s) 0 0x42 = some fenceCmd ∧ fenceOpen (pre s) fenceCmd = false ∧ waitsFor (after (.fence 0) s) = some .fence) := by
  decide +kernel

/-- ENT_READ of entry `h`, with room for 64 bytes. -/
def read (h : Nat) : Cmd := cmd 0x50 0 4 (both 16 20 4 h ++ [(24, 8, 0x1000)] ++ both 32 36 4 64)

/-- What `readRuns` asks. -/
def readMay (c : Cmd) : Bool :=
  let u := pre (runs tabled c)
  runningCmd u 0 0x50 == some c && c.compl 16 20 4 && c.compl 32 36 4 && !c.auto && !c.addr && c.zeroFrom 40 && c.host 24 % 16 == 0 &&
    u.table 4 == some tern && decide (entLen (taW u 4) ≤ c.le 32 4) && liveSlot tern == some 0

theorem test_read :
    readMay (read 11) = true ∧ rowIn tern 0 11 = some row11 ∧ reaches_ (pre (runs tabled (read 11))) (read 11) (bus []) = true ∧
    (after (.entRead 0 (bus [])) (runs tabled (read 11))).out = [.dma 0 0x1000 (entBytes row11 0)] ∧
    readMay (read 12) = true ∧ rowIn tern 0 12 = none ∧ ended (after (.entRead 0 (bus [])) (runs tabled (read 12))) = some (stNotFound, 0xFFFFFFFF, 0) := by
  decide +kernel

/-- QUERY_SEARCH of a key in table 4, in the LIVE or the OPEN generation. -/
def searchFor (key open_ : Nat) : Cmd := cmd 0x51 0 4 [(16, 80, key), (96, 4, open_)]

/-- What `searchRuns` asks. -/
def searchMay (c : Cmd) : Bool :=
  let u := pre (runs tabled c)
  runningCmd u 0 0x51 == some c && !c.auto && !c.addr && c.zeroFrom 100 && decide (c.le 96 4 < 2) && u.table 4 == some tern && !lockHeld u 4

theorem test_query_search :
    searchMay (searchFor 0x3F 0) = true ∧ ended (after (.querySearch 0) (runs tabled (searchFor 0x3F 0))) = some (stOk, 11, 5) ∧
    searchMay (searchFor 0x3F 1) = true ∧ ended (after (.querySearch 0) (runs tabled (searchFor 0x3F 1))) = some (stOk, 11, 0) ∧
    searchMay (searchFor 0x4F 0) = true ∧ ended (after (.querySearch 0) (runs tabled (searchFor 0x4F 0))) = some (stNotFound, 0xFFFFFFFF, 0) := by
  decide +kernel

/-- QUERY_FIND, and TBL_STATS of table 4. -/
def find4 : Cmd := cmd 0x52 2 4 ([(16, 8, 0x1000)] ++ both 24 28 4 64)
def stats4 : Cmd := cmd 0x53 0 4 ([(16, 8, 0x1000)] ++ both 24 28 4 128)

theorem test_find_and_stats :
    (let u := pre (runs tabled find4)
     runningCmd u 0 0x52 = some find4 ∧ find4.compl 24 28 4 = true ∧ find4.addr = true ∧ find4.auto = false ∧ u.table 4 = some tern ∧
     (parseEntry (entry 0 0 0x30)).w = taW u 4 ∧ busRead u find4 (bus (entry 0 0 0x30)) (find4.le 24 4) = some (entry 0 0 0x30) ∧
     entCompl (entry 0 0 0x30) = true ∧ entryOperandForm find4 (entry 0 0 0x30) (find4.le 24 4) = true ∧ (entry 0 0 0x30).length = 64) ∧
    ended (after (.queryFind 0 (bus (entry 0 0 0x40))) (runs tabled find4)) = some (stNotFound, 0xFFFFFFFF, 0) ∧
    (let u := pre (runs tabled stats4)
     runningCmd u 0 0x53 = some stats4 ∧ stats4.compl 24 28 4 = true ∧ stats4.auto = false ∧ stats4.addr = false ∧ stats4.zeroFrom 32 = true ∧
     stats4.host 16 % 32 = 0 ∧ stats4.le 24 4 = 128 ∧ reaches_ u stats4 (bus []) = true ∧ reaches_ u stats4 { rd := none, wr := false } = false) ∧
    (after (.tblStats 0 (bus [])) (runs tabled stats4)).out.length = 1 ∧
    ended (after (.tblStats 0 { rd := none, wr := false }) (runs tabled stats4)) = some (stAborted, 0xFFFFFFFF, 0) := by decide +kernel

/-! ### Activity -/

/-- LEARN_CFG of table 4 through slot 1 of profile 3, for handles 256 to 259; and the profile that names the table there. -/
def learn4 (slot : Nat) : Cmd := cmd 0x60 0 4
  ([(16, 4, 3), (20, 1, 3), (21, 1, slot), (24, 3, 50)] ++ both 28 32 4 7 ++ both 36 72 8 (256 + 4 * 2 ^ 32) ++ [(44, 10, 0x3FF)])
def profiled : State := { tabled with regs := { tabled.regs with
  live := tabled.regs.live ++ [(pfAddr 3 0, 0x81000000), (pfAddr 3 0x40, 0x04000000), (0x111000, 1)] } }

theorem test_learn_cfg :
    runningCmd (pre (runs profiled (learn4 1))) 0 0x60 = some (learn4 1) ∧ (learn4 1).compl 28 32 4 = true ∧
    (learn4 1).compl 36 72 8 = true ∧ learnForm (learn4 1) = true ∧ mayChange (pre (runs profiled (learn4 1))) (learn4 1) = true ∧
    (pre (runs profiled (learn4 1))).table 4 = some tern ∧
    learnFits (pre (runs profiled (learn4 1))) 4 (learnOperands (learn4 1)) = true ∧
    ended (after (.learnCfg 0) (runs profiled (learn4 1))) = some (stOk, 0xFFFFFFFF, 0) ∧
    learnFits (pre (runs profiled (learn4 0))) 4 (learnOperands (learn4 0)) = false ∧
    ended (after (.learnCfg 0) (runs profiled (learn4 0))) = some (stInvalid, 0xFFFFFFFF, 0) := by decide +kernel

/-- AGE_SWEEP of table 4: first at epoch 7, threshold 3, every 100 epochs; operation 0 DELETE, 1 REPORT, 2 cancel. -/
def age4 (op : Nat) : Cmd := cmd 0x61 0 4 (both 16 24 8 7 ++ [(32, 3, 3), (36, 4, 100), (40, 4, op)] ++ both 56 60 4 0)

theorem test_age_sweep :
    runningCmd (pre (runs tabled (age4 0))) 0 0x61 = some (age4 0) ∧ ageForm (age4 0) = true ∧ ageForm (age4 2) = true ∧
    asLost (pre (runs tabled (age4 0))) = false ∧ mayChange (pre (runs tabled (age4 0))) (age4 0) = true ∧
    ((after (.ageSweep 0) (runs tabled (age4 0))).table 4).map (fun x => x.age.map (fun g => (g.next, g.th, g.period))) = some (some (7, 3, 100)) ∧
    ((after (.ageSweep 0) (runs tabled (age4 2))).table 4).map (fun x => x.age.isNone) = some true := by decide +kernel

/-- CNT_READ of handle 11; and of snapshot buffer 0, which is being copied. -/
def cntRead (mode : Nat) : Cmd := cmd 0x62 0 4 ([(16, 8, 0x1000)] ++ both 24 28 4 32 ++ [(32, 4, mode), (36, 8, 0x2000), (44, 4, 1)])
/-- CNT_CLEAR of handle 11, and of the whole table. -/
def cntClear (mode : Nat) : Cmd :=
  cmd 0x63 0 4 ([(32, 4, mode)] ++ (if mode = 0 then [(36, 8, 0x2000), (44, 4, 1)] else both 48 52 4 0))
/-- `tabled` with counts at the position of entry 11, snapshot buffer 0 in state `st`, and the counter cache off. -/
def counted (st : Nat) : State := { tabled with
  regs := { tabled.regs with live := tabled.regs.live ++ [(0x100000, 0)] }
  act := { counters := [(64, { pkt := 9, byte := 900 })], stamps := [], suspect := [64] }, snaps := [{ Snap.reset with st := st, epoch := 3, cmd := none }, Snap.reset] }

theorem test_cnt_read :
    (let u := pre (runs (counted 0) (cntRead 0))
     runningCmd u 0 0x62 = some (cntRead 0) ∧ cntCompl (cntRead 0) true = true ∧ cntForm (cntRead 0) true 7 = true ∧ (cntRead 0).all = false ∧
     (cntRead 0).mode.testBit 1 = false ∧ readList u (cntRead 0) (bus [11, 0, 0, 0]) (32 / 32) = some [11] ∧ (cntRead 0).le 24 4 = 32 ∧
     reaches_ u (cntRead 0) (bus [11, 0, 0, 0]) = true ∧ u.table 4 = some tern ∧ asLost u = false) ∧
    ended (after (.cntRead 0 (bus [11, 0, 0, 0])) (runs (counted 0) (cntRead 0))) = some (stOk, 1, 0) ∧
    (let u := pre (runs (counted 2) (cntRead 2))
     runningCmd u 0 0x62 = some (cntRead 2) ∧ cntForm (cntRead 2) true 7 = true ∧ (cntRead 2).mode.testBit 1 = true ∧
     (u.snaps.getD 0 Snap.reset).st = 2 ∧ waitsFor (after (.cntRead 0 (bus [11, 0, 0, 0])) (runs (counted 2) (cntRead 2))) = some (.snapRead 0)) := by
  decide +kernel

theorem test_cnt_clear :
    (let u := pre (runs (counted 0) (cntClear 0))
     runningCmd u 0 0x63 = some (cntClear 0) ∧ cntCompl (cntClear 0) false = true ∧ cntForm (cntClear 0) false 25 = true ∧
     (cntClear 0).mode.testBit 4 = false ∧ (cntClear 0).mode.testBit 3 = false ∧ (cntClear 0).all = false ∧
     readList u (cntClear 0) (bus [11, 0, 0, 0]) (2 ^ 32) = some [11] ∧ u.cache.lines = [] ∧ u.cache.victim = [] ∧ u.cache.fills = [] ∧ cacheOn u = false) ∧
    (after (.cntClear 0 (bus [11, 0, 0, 0]) 0) (runs (counted 0) (cntClear 0))).act.counters = [] ∧
    (after (.cntClear 0 (bus [11, 0, 0, 0]) 0) (runs (counted 0) (cntClear 0))).act.suspect = [] ∧
    (let u := pre (runs (counted 0) (cntClear 9))
     runningCmd u 0 0x63 = some (cntClear 9) ∧ cntCompl (cntClear 9) false = true ∧ cntForm (cntClear 9) false 25 = true ∧
     (cntClear 9).mode.testBit 4 = false ∧ (cntClear 9).mode.testBit 3 = true ∧ (cntClear 9).all = true) ∧
    ended (after (.cntClear 0 (bus []) 0) (runs (counted 0) (cntClear 9))) = some (stOk, 0xFFFFFFFF, 0) := by decide +kernel

/-- CNT_SNAPSHOT of table 4 at epoch 9, or the release of buffer 0. -/
def snap4 (mode : Nat) : Cmd := cmd 0x64 0 4 (both 16 24 8 9 ++ [(32, 4, mode)])

theorem test_snapshot :
    runningCmd (pre (runs (counted 0) (snap4 0))) 0 0x64 = some (snap4 0) ∧ snapForm (snap4 0) = true ∧ snapForm (snap4 4) = true ∧
    ((pre (runs (counted 0) (snap4 0))).snaps.getD 0 Snap.reset).st = 0 ∧
    waitsFor (after (.cntSnapshot 0) (runs (counted 0) (snap4 0))) = some (.snapStep 0) ∧
    ended (after (.cntSnapshot 0) (runs (counted 3) (snap4 4))) = some (stOk, 0xFFFFFFFF, 0) ∧
    ended (after (.cntSnapshot 0) (runs (counted 2) (snap4 4))) = some (stInvalid, 0xFFFFFFFF, 0) ∧
    (let s := { counted 1 with due := [.snapshot 0, .internalSeal] }
     s.due.any (fun d => d == .snapshot 0) = true ∧ (s.snaps.getD 0 Snap.reset).epoch ≤ s.epoch.count ∧ asLost s = false ∧
     ((after (.snapshotTake 0 []) s).snaps.getD 0 Snap.reset).st = 2 ∧ (after (.snapshotTake 0 []) s).due = [.internalSeal]) ∧
    ((pre (counted 2)).snaps.getD 0 Snap.reset).st = 2 ∧ ((after (.cntSnapDone 0) (counted 2)).snaps.getD 0 Snap.reset).st = 3 := by
  decide +kernel

/-! ### The vault -/

/-- VAULT_CHECKPOINT, VAULT_STATUS, and CRUMB_SET of `n` handles of table 4. -/
def ckptCmd : Cmd := cmd 0x70 0 255 []
def vstatCmd : Cmd := cmd 0x74 2 255 [(16, 8, 0x1000)]
def crumbCmd (n : Nat) : Cmd := cmd 0x73 0 4 ([(16, 8, 0x1000)] ++ both 24 28 4 n)

theorem test_vault_commands :
    runningCmd (pre (runs base ckptCmd)) 0 0x70 = some ckptCmd ∧ ckptCmd.table = 255 ∧ ckptCmd.auto = false ∧ ckptCmd.addr = false ∧
    ckptCmd.zeroFrom 16 = true ∧ ckptAllowed (pre (runs base ckptCmd)) = true ∧
    waitsFor (after (.vaultCheckpoint 0) (runs base ckptCmd)) = some .checkpoint ∧
    (let s := { runs base ckptCmd with vault := { base.vault with st := 3 } }
     ckptAllowed (pre s) = false ∧ ended (after (.vaultCheckpoint 0) s) = some (stAborted, 0xFFFFFFFF, 0)) ∧
    runningCmd (pre (runs base vstatCmd)) 0 0x74 = some vstatCmd ∧ vstatCmd.addr = true ∧ vstatCmd.host 16 % 16 = 0 ∧
    vstatCmd.zeroFrom 24 = true ∧ reaches_ (pre (runs base vstatCmd)) vstatCmd (bus []) = true ∧
    (after (.vaultStatus 0 (bus [])) (runs base vstatCmd)).out.length = 1 := by decide +kernel

theorem test_crumb_set :
    (let u := pre (runs tabled (crumbCmd 1))
     runningCmd u 0 0x73 = some (crumbCmd 1) ∧ crumbForm (crumbCmd 1) = true ∧ u.table 4 = some tern ∧ taCasc u 4 = false ∧
     (crumbCmd 1).le 24 4 = 1 ∧ (busRead u (crumbCmd 1) (bus [11, 0, 0, 0]) 4).map (fun l => listHandles l 1) = some [11] ∧
     (match crumbHandles tern 0 0 [] [11] with
      | .ok rs => rs == [row11] && crumbsFit u (rs.map (fun r => (4, r)))
      | .error _ => false) = true ∧ vaultTakes u = true ∧
     (match crumbHandles tern 0 0 [] [12] with
      | .ok _ => false
      | .error e => e == (stNotFound, 0)) = true) ∧
    (after (.crumbSet 0 (bus [11, 0, 0, 0]) true) (runs tabled (crumbCmd 1))).vault.crumb = [(4, row11)] ∧
    ended (after (.crumbSet 0 (bus [11, 0, 0, 0]) false) (runs tabled (crumbCmd 1))) = some (stVaultFault, 0xFFFFFFFF, 0) ∧
    ended (after (.crumbSet 0 (bus [12, 0, 0, 0]) true) (runs tabled (crumbCmd 1))) = some (stNotFound, 0, 0) := by decide +kernel

/-- VAULT_EXPORT of `what` (1 a table, 2 the crumb table), with room for `n` bytes. -/
def exportCmd (t what n : Nat) : Cmd := cmd 0x72 2 t ([(16, 8, 0x1000)] ++ both 24 28 4 n ++ [(32, 4, what)])

theorem test_export :
    (let u := pre (runs tabled (exportCmd 4 1 4096))
     runningCmd u 0 0x72 = some (exportCmd 4 1 4096) ∧ exportForm (exportCmd 4 1 4096) = true ∧ exportKey u = some (0xFFFFFFFF, none) ∧
     u.table 4 = some tern ∧ reaches_ u (exportCmd 4 1 4096) (bus []) = true ∧
     ((perdarImage (perdarBody u 1 4 0xFFFFFFFF (tableSections u 4 tern false).1) none).length ≤ 4096)) ∧
    (let u := pre (runs tabled (exportCmd 255 2 16))
     runningCmd u 0 0x72 = some (exportCmd 255 2 16) ∧ exportForm (exportCmd 255 2 16) = true ∧ vaultTakes u = true ∧
     16 < (perdarImage (perdarBody u 2 255 0xFFFFFFFF (crumbSections u)) none).length) := by decide +kernel

/-- A configuration image with one field, EPOCH_NOMINAL, and a VAULT_IMPORT that names it. -/
def cfgSecs : List (Nat × List Byte) := [(7, bytesLE 4 0x3000C ++ bytesLE 4 0x500)]
def cfgImage : List Byte := perdarBody base 3 255 0 cfgSecs ++ List.replicate 160 0
def importCmd : Cmd := cmd 0x71 2 255 ([(16, 8, 0x1000)] ++ both 24 28 4 cfgImage.length ++ both 32 40 8 0)

/-- Whether a signature holds no test can say: `ecdsaVerify` is uninterpreted. An image whose KEY_SLOT is EMPTY is not signed. -/
theorem test_import :
    (let u := pre (runs base importCmd)
     runningCmd u 0 0x71 = some importCmd ∧ importCmd.compl 24 28 4 = true ∧ importCmd.compl 32 40 8 = true ∧ importCmd.auto = false ∧
     importCmd.addr = true ∧ importCmd.host 16 % 16 = 0 ∧ importCmd.le 38 2 = 0 ∧ importCmd.zeroFrom 48 = true ∧ 320 ≤ importCmd.le 24 4 ∧
     busRead u importCmd (bus cfgImage) (importCmd.le 24 4) = some cfgImage ∧ isCompl (slice cfgImage 0 64) (slice cfgImage 64 64) = true ∧
     headerOk u cfgImage = true ∧ leAt cfgImage 16 4 = importCmd.table ∧ leAt cfgImage 6 2 = 3 ∧
     readSections cfgImage (leAt cfgImage 20 4) 0 = some cfgSecs ∧ (configPairs ((section_ cfgSecs 7).getD [])).all (fun p => persists p.1) = true ∧
     vaultTakes u = true ∧ imageSigned u cfgImage = false) ∧
    ended (after (.vaultImport 0 (bus cfgImage)) (runs base importCmd)) = some (stInvalid, 0xFFFFFFFF, 0) := by decide +kernel

/-- The same image under key slot 5, a VERIFY key, with a digest and a signature of zeros. -/
def signedBody : List Byte := perdarBody base 3 255 5 cfgSecs
def signedImage : List Byte := signedBody ++ List.replicate 160 0
def verifying : State := { base with vault := { base.vault with keys := base.vault.keys.set 5 { type := 2, pub := 9, gen := 0 } } }

/-- Where `sha384` and `ecdsaVerify` make this digest and this signature the right ones, the image is signed, and meets every other check. -/
theorem test_import_signed (hd : Config.sha384 signedBody = 0) (hv : Config.ecdsaVerify 9 0 0 = true) :
    imageSigned (pre (runs verifying importCmd)) signedImage = true ∧
    (let u := pre (runs verifying importCmd)
     runningCmd u 0 0x71 = some importCmd ∧ busRead u importCmd (bus signedImage) (importCmd.le 24 4) = some signedImage ∧
     isCompl (slice signedImage 0 64) (slice signedImage 64 64) = true ∧ headerOk u signedImage = true ∧
     leAt signedImage 16 4 = importCmd.table ∧ leAt signedImage 6 2 = 3 ∧ readSections signedImage (leAt signedImage 20 4) 0 = some cfgSecs ∧ vaultTakes u = true) := by
  refine ⟨?_, by decide +kernel⟩
  have hk : leAt signedImage 40 4 = 5 := by decide +kernel
  have hn : signedImage.take (signedImage.length - 160) = signedBody := by decide +kernel
  have hz : natBE (slice signedImage (signedImage.length - 160) 48) = 0 := by decide +kernel
  have hs : natBE (slice signedImage (signedImage.length - 160 + 48) 96) = 0 := by decide +kernel
  have hp : keySlot (pre (runs verifying importCmd)) 5 = { type := 2, pub := 9, gen := 0 } := by decide +kernel
  simpa [imageSigned, hk, hn, hz, hs, hp, hd] using hv

/-! ### Ownership -/

/-- OWN_CLAIM of rank 9 with token 7, OWN_RENEW of `n` epochs, OWN_HANDOVER to port 1 at epoch 8, OWN_ACCEPT and OWN_RELEASE. -/
def claim : Cmd := cmd 0x80 0 255 (both 16 20 4 (7 + 9 * 65536))
def renew (n : Nat) : Cmd := cmd 0x81 0 255 (both 16 20 4 n)
def handover : Cmd := cmd 0x82 0 255 (both 16 32 16 (1 + 16 * 2 ^ 32 + 8 * 2 ^ 64))
def accept : Cmd := cmd 0x83 0 255 []
def release : Cmd := cmd 0x84 0 255 []
/-- The ownership of port 0 in another state, or another owner. -/
def owned (st : OwnSt) (p : Nat) : State := { base with own := { base.own with st := st, owner := p } }

theorem test_claim_and_renew :
    runningCmd (pre (runs base claim)) 0 0x80 = some claim ∧ claim.compl 16 20 4 = true ∧ bareForm claim 24 = true ∧ claim.le 19 1 = 0 ∧
    claim.le 18 1 = 9 ∧ isOwner (pre (runs (owned .vacant 0) claim)) 0 = false ∧
    (let c := cmd 0x80 0 255 (both 16 20 4 7)
     runningCmd (pre (runs (owned .vacant 0) c)) 0 0x80 = some c ∧ c.le 18 1 = 0 ∧ waitsFor (after (.ownClaim 0) (runs (owned .vacant 0) c)) = some .election ∧
     ((after (.ownClaim 0) (runs (owned .vacant 0) c)).own.ballots.head?).map (fun b => (b.pending, b.result)) = some (false, 0)) ∧
    waitsFor (after (.ownClaim 0) (runs (owned .vacant 0) claim)) = some .election ∧
    ended (after (.ownClaim 0) (runs base claim)) = some (stOk, 0xFFFFFFFF, 0) ∧
    ended (after (.ownClaim 0) (runs (owned .owned 1) claim)) = some (stNotOwner, 0xFFFFFFFF, 0) ∧
    runningCmd (pre (runs base (renew 16))) 0 0x81 = some (renew 16) ∧ (renew 16).compl 16 20 4 = true ∧ bareForm (renew 16) 24 = true ∧
    (renew 16).le 19 1 = 0 ∧ isOwner (pre (runs base (renew 16))) 0 = true ∧ (renew 15).le 16 4 = 15 ∧ (renew 0).le 16 4 = 0 ∧
    (after (.ownRenew 0) (runs base (renew 16))).own.leaseEnd = 21 ∧ lateRenewal (pre (runs base (renew 16))) = none ∧
    isOwner (pre (runs (owned .owned 1) (renew 16))) 0 = false ∧
    ended (after (.ownRenew 0) (runs (owned .owned 1) (renew 16))) = some (stOk, 0xFFFFFFFF, 0) ∧
    (after (.ownRenew 0) (runs (owned .owned 1) (renew 16))).own.leaseEnd = 1000 ∧
    ended (after (.ownRenew 0) (runs (owned .draining 0) (renew 16))) = some (stOk, 0xFFFFFFFF, 0) ∧
    ended (after (.ownRenew 0) (runs base (renew 15))) = some (stInvalid, 0xFFFFFFFF, 0) := by decide +kernel

theorem test_handover_accept_release :
    runningCmd (pre (runs base handover)) 0 0x82 = some handover ∧ (handoverForm handover).2 = some (1, 8, 16) ∧
    (let s := runs { base with own := { base.own with hand := some { target := 1, epoch := 8, window := 16, cmd := 5 } } } handover
     waitsFor (after (.ownHandover 0) s) = some .handover) ∧
    (pre (runs base handover)).own.hand = none ∧ ended (after (.ownHandover 0) (runs base handover)) = some (stExpired, 0xFFFFFFFF, 0) ∧
    (let c := cmd 0x82 0 255 (both 16 32 16 (1 + 15 * 2 ^ 32 + 8 * 2 ^ 64))
     runningCmd (pre (runs base c)) 0 0x82 = some c ∧ (handoverForm c).1 = stInvalid ∧ (handoverForm c).2 = none ∧
     ended (after (.ownHandover 0) (runs base c)) = some (stInvalid, 0xFFFFFFFF, 0)) ∧
    runningCmd (pre (runs base accept)) 0 0x83 = some accept ∧ bareForm accept 16 = true ∧
    ended (after (.ownAccept 0) (runs base accept)) = some (stInvalid, 0xFFFFFFFF, 0) ∧
    (let s := runs { base with own := { base.own with probation := true } } accept
     isOwner (pre s) 0 = true ∧ (pre s).own.st = .owned ∧ (after (.ownAccept 0) s).own.probation = false) ∧
    (let s := runs { owned .draining 0 with own := { (owned .draining 0).own with probation := true } } accept
     isOwner (pre s) 0 = true ∧ (after (.ownAccept 0) s).own.probation = false ∧ bit ((after (.ownAccept 0) s).live 0x10018) 1 = true) ∧
    runningCmd (pre (runs base release)) 0 0x84 = some release ∧ bareForm release 16 = true ∧
    waitsFor (after (.ownRelease 0) (runs (owned .draining 0) release)) = some .vacancy ∧
    ended (after (.ownRelease 0) (runs base release)) = some (stOk, 0xFFFFFFFF, 0) := by decide +kernel

/-- OWN_CLAIM of rank 9, one of rank 0, and an OWN_RENEW value. -/
theorem test_own_registers :
    portUp (prePort base 1) 1 = true ∧ bit (0x20090007 : Word) 29 = true ∧ fld (0x20090007 : Word) 23 16 = 9 ∧
    ((after (.ownClaimCast 1 0x20090007) base).own.ballots.map (fun b => b.rank)) = [0, 9, 0, 0] ∧
    bit (0x20000000 : Word) 29 = true ∧ fld (0x20000000 : Word) 23 16 = 0 ∧
    ((after (.ownClaimWithdraw 1 0x20000000) (after (.ownClaimCast 1 0x20090007) base)).own.ballots.map (fun b => b.pending)) =
      [false, false, false, false] ∧
    isOwner (prePort base 0) 0 = true ∧ bit (0x80000010 : Word) 31 = true ∧ fld (0x80000010 : Word) 23 0 = 16 ∧
    (after (.renew 0 0x80000010) base).own.leaseEnd = 21 ∧ lateRenewal (prePort base 0) = none ∧ leaseLen (prePort base 0) = 16384 ∧
    (after (.renew 0 0x8000000F) base).own.leaseEnd = 16389 ∧ leaseLen (after (.renew 0 0x8000000F) base) = 16384 ∧
    bit ((after (.renew 0 0x80000010) (owned .draining 0)).live 0x10018) 1 = true := by decide +kernel

theorem test_own_steps :
    (let s := { base with due := [.leaseEnd, .handover], own := { base.own with leaseEnd := 5 } }
     s.due = [.leaseEnd, .handover] ∧ s.own.linkLoss = none ∧ lateRenewal s = none ∧ leaseNow s ≤ s.epoch.count ∧
     (after .leaseEnd s).own.st = .draining ∧ (after .leaseEnd s).due = [.handover]) ∧
    (let s := { base with due := [.leaseEnd], own := { base.own with renewed := some (1000001, 5, true) }, now := 1000002 }
     lateRenewal s = some (5, true) ∧ leaseNow s = 5 ∧ (after .leaseEnd s).own.leaseEnd = 5 ∧
     bit ((after .leaseEnd s).live (0x20000 + evRegCollide.src / 16 * 4)) (evRegCollide.src % 16) = true) ∧
    (let s := runs { base with due := [.leaseEnd], own := { base.own with
       st := .handing, linkLoss := some 2, hand := some { target := 1, epoch := 8, window := 16, cmd := 5 } } } { handover with st := .waiting .handover }
     (after .leaseEnd s).own.st = .draining ∧ ended (after .leaseEnd s) = some (stExpired, 0xFFFFFFFF, 0)) ∧
    (let s := { owned .draining 0 with due := [.vacant true] }
     ownDrained s = true ∧ bestBallot s = none ∧ (after .ownershipVacant s).own.st = .vacant) ∧
    (let s := runs { owned .draining 0 with due := [.vacant true] } { release with st := .waiting .vacancy }
     ownDrained s = true ∧ bestBallot s = none ∧ releases release = true ∧ ended (after .ownershipVacant s) = some (stOk, 0xFFFFFFFF, 5)) ∧
    (let s := { owned .draining 0 with due := [.vacant true], own := { base.own with
       st := .draining, ballots := [{ pending := false, rank := 0, token := 0, result := 0, castAt := 0 }, { pending := true, rank := 9, token := 7, result := 1, castAt := 0 }] } }
     bestBallot s = some 1 ∧ (after .ownershipVacant s).own.owner = 1 ∧ (after .ownershipVacant s).own.st = .owned) ∧
    (let s := { owned .handing 0 with due := [.handover], own := { base.own with
       st := .handing, hand := some { target := 1, epoch := 5, window := 16, cmd := 5 } } }
     ownDrained s = true ∧ s.power.mpUp.getD 1 false = true ∧ (after .handoverPass s).own.owner = 1 ∧ (after .handoverPass s).own.leaseEnd = 21 ∧
     (after .handoverPass { s with power := { s.power with mpUp := [true, false, true, true] } }).own.st = .vacant) := by decide +kernel

/-! ### The counter cache -/

/-- A cache that holds line 16 in way 2, its sector 0 dirty. -/
def line16 : Line := { line := 16, way := 2, sectors := [{ valid := true, dirty := true, data := { pkt := 9, byte := 900 } },
  { valid := true, dirty := false, data := Pair.zero }, { valid := true, dirty := false, data := Pair.zero }, { valid := true, dirty := false, data := Pair.zero }] }
def cached : State := { tabled with cache := { Cache.reset with lines := [line16] } }
/-- CACHE_MAINT of operation `op` over every line. -/
def maint (op : Nat) : Cmd := cmd 0x92 0 255 (both 16 24 8 (op + 8))
/-- DISCARD of the line of entry 11 of table 4. -/
def discard4 : Cmd := cmd 0x92 0 4 (both 16 24 8 (2 + 11 * 2 ^ 32))

/-- What `maintRuns` asks of the form. -/
def maintMay (c : Cmd) (op : Nat) : Bool :=
  c.compl 16 24 8 && !c.auto && !c.addr && c.le 16 4 / 256 == 0 && maintOp c == op && c.zeroFrom 32 && (op != 2 || decide (maintScope c < 2))

/-- The lines that the command names. -/
def targets (c : Cmd) : List Nat := match maintTarget (pre (runs cached c)) c with
  | .ok l => l
  | .error _ => []

theorem test_cache_maint :
    (pre (runs cached (maint 0))).cmds.find? (fun d => d.mb == 0 && d.st == .running && d.op == 0x92) = some (maint 0) ∧
    maintMay (maint 0) 0 = true ∧ maintMay (maint 1) 1 = true ∧ maintMay discard4 2 = true ∧ targets (maint 0) = [16] ∧ targets discard4 = [16] ∧
    mapGet (pre cached).cache.fills 16 = none ∧ (setLine (pre cached) 16).or (vicLine (pre cached) 16) = some line16 ∧
    ended (after (.flush 0) (runs cached (maint 0))) = some (stOk, 1, 0) ∧
    (after (.flush 0) (runs cached (maint 0))).act.counters = [(64, { pkt := 9, byte := 900 })] ∧
    (after (.invalidate 0) (runs cached (maint 1))).cache.lines = [] ∧ (after (.discard 0) (runs cached discard4)).cache.lines = [] ∧
    (after (.discard 0) (runs cached discard4)).act.counters = [] := by decide +kernel

theorem test_cache_control :
    (let s := withRegs cached [(0x100000, 1)]
     portUp (prePort s 0) 0 = true ∧ isOwner (prePort s 0) 0 = true ∧ (prePort s 0).stage.stage ≠ 0 ∧ hardMask (prePort s 0) 0x100000 = 0 ∧
     bit ((prePort s 0).live 0x100000) 1 = false ∧ bit ((after (.ccDrainStart 0 0) s).live 0x100000) 1 = true) ∧
    (let s := withRegs cached [(0x100000, 0)]
     bit ((prePort s 0).live 0x100000) 0 = false ∧ (after (.ccEnable 0 1) s).live 0x100000 = 1 ∧ (after (.ccEnable 0 1) s).cache.lines = []) ∧
    (let s := withRegs cached [(0x100004, 0xFFFF)]
     hardMask (prePort s 0) 0x100004 = 0 ∧ waySweep (after (.wayDisableWrite 0 0xFFFB) s) 2 = true ∧
     waySweep (pre (after (.wayDisableWrite 0 0xFFFB) s)) 2 = true ∧
     (after (.ccWayOff 2) (after (.wayDisableWrite 0 0xFFFB) s)).cache.lines = [] ∧
     bit ((after (.ccWayOff 2) (after (.wayDisableWrite 0 0xFFFB) s)).live 0x2001C) 3 = true) ∧
    (let s := withRegs cached [(0x100004, 0xFFFB), (0x100108, 0xC0000000)]
     waySweep (prePort s 0) 2 = false ∧ bit ((prePort s 0).live 0x100004) 2 = false ∧ (after (.wayEnableWrite 0 0xFFFF) s).live 0x100004 = 0xFFFF) ∧
    (let s := withRegs { cached with cache := { cached.cache with fills := [(16, 3)] } } [(0x100000, 1)]
     mapGet (pre s).cache.fills 16 = some 3 ∧ (setLine (pre s) 16).or (vicLine (pre s) 16) = some line16 ∧ line16.sectors.length = 4 ∧
     (∀ w : Nat, w < 16 → waySweep (pre s) w = false) ∧ (after (.ccFillReturn 16 []) s).cache.fills = []) ∧
    (let s := withRegs cached [(0x100000, 3)]
     bit ((pre s).live 0x100000) 1 = true ∧ (after .ccDrained s).live 0x100000 = 0) := by decide +kernel

/-! ### Sprinkle and management -/

/-- SPRINKLE_CFG of operation `op` for die 0 and position `p`; BLOCK_RETIRE of position `p` of die 0. -/
def spk (op p : Nat) : Cmd := cmd 0x90 0 255 (both 16 32 8 (op + p * 2 ^ 32))
def retire (p : Nat) : Cmd := cmd 0x91 0 255 (both 16 24 8 (p * 2 ^ 32))

theorem test_sprinkle :
    sprinkleForm (spk 0 0) = true ∧ sprinkleForm (spk 1 1055) = true ∧ spkOp (spk 0 0) = 0 ∧ spkOp (spk 3 0) = 3 ∧ sprinkleForm (spk 3 0) = true ∧
    waitsFor (after (.scrubNow 0) (runs tabled (spk 0 0))) = some .scrub ∧
    ended (after (.scrubNow 0) (runs { tabled with spk := { tabled.spk with scrub := true } } (spk 0 0))) = some (stOk, 0xFFFFFFFF, 0) ∧
    ended (after (.scrubNow 0) (runs tabled (spk 3 0))) = some (stInvalid, 0xFFFFFFFF, 0) ∧
    (spk 1 1055).le 20 4 = 1055 ∧ waitsFor (after (.testBlock 0) (runs tabled (spk 1 1055))) = some (.test 0) ∧
    ended (after (.testBlock 0) (runs tabled (spk 1 1056))) = some (stInvalid, 0xFFFFFFFF, 0) ∧
    ended (after (.hold 0) (runs tabled (spk 2 0))) = some (stOk, 0xFFFFFFFF, 0) := by decide +kernel

theorem test_retire :
    runningCmd (pre (runs tabled (retire 7))) 0 0x91 = some (retire 7) ∧ retireForm (retire 7) 0 7 = true ∧ retireForm (retire 0) 0 0 = true ∧
    (let s := runs { tabled with spk := { tabled.spk with retired := [7] } } (retire 7)
     ended (after (.blockRetire 0) s) = some (stDuplicate, 0xFFFFFFFF, 0)) ∧
    (let s := runs { tabled with vault := { tabled.vault with st := 3 } } (retire 7)
     vaultTakes (pre s) = false ∧ ended (after (.blockRetire 0) s) = some (stVaultFault, 0xFFFFFFFF, 0)) ∧
    testedInPlace (pre (runs tabled (retire 7))) 0 7 = false ∧ ((pre (runs tabled (retire 7))).blk 0 7).st = 0 ∧
    (after (.blockRetire 0) (runs tabled (retire 7))).spk.retired = [7] ∧
    testedInPlace (pre (runs tabled (retire 0))) 0 0 = false ∧ ((pre (runs tabled (retire 0))).blk 0 0).st = 1 ∧
    buildOf (pre (runs tabled (retire 0))) 0 0 = none ∧ (claimSpare (pre (runs tabled (retire 0))) 0 0).isSome = true ∧
    waitsFor (after (.blockRetire 0) (runs tabled (retire 0))) = some (.retire 0 0) := by decide +kernel

/-- WAITGRAPH_READ of the present graph or of the held one, LOG_READ and SENSOR_READ. -/
def graphCmd (now : Nat) : Cmd := cmd 0x93 0 255 ([(16, 8, 0x1000)] ++ both 24 28 4 48 ++ [(32, 4, now)])
def logCmd : Cmd := cmd 0xA0 2 255 ([(16, 8, 0x1000)] ++ both 24 28 4 128 ++ [(44, 4, 0x03FF0000)])
def sensorCmd (clr : Nat) : Cmd := cmd 0xA1 2 255 ([(16, 8, 0x1000)] ++ both 24 28 4 528 ++ [(32, 4, clr)])
/-- A held wait graph without records. -/
def graph0 : WaitSnap := { epoch := 3, phase := 9, trig := 0, recs := [] }

theorem test_management_reads :
    reaches_ (pre (runs base (graphCmd 1))) (graphCmd 1) (bus []) = true ∧ runningCmd (pre (runs base (graphCmd 1))) 0 0x93 = some (graphCmd 1) ∧
    graphForm (graphCmd 1) = true ∧ (graphCmd 1).le 32 4 % 2 = 1 ∧ (after (.waitgraphRead 0 (bus [])) (runs base (graphCmd 1))).out.length = 1 ∧
    (let s := runs { base with waitSnap := some graph0 } (graphCmd 2)
     graphForm (graphCmd 2) = true ∧ (pre s).waitSnap = some graph0 ∧ (after (.waitgraphRead 0 (bus [])) s).waitSnap = none) ∧
    runningCmd (pre (runs base logCmd)) 0 0xA0 = some logCmd ∧ logForm logCmd = true ∧
    ended (after (.logRead 0 (bus [])) (runs base logCmd)) = some (stOk, 0, 0) ∧
    runningCmd (pre (runs base (sensorCmd 1))) 0 0xA1 = some (sensorCmd 1) ∧ sensorForm (sensorCmd 0) = true ∧ sensorForm (sensorCmd 1) = true ∧
    ended (after (.sensorRead 0 (bus [])) (runs base (sensorCmd 1))) = some (stOk, 0xFFFFFFFF, 0) := by decide +kernel

/-- KEY_PROVISION of operation `op` and slot `k` with `i` bytes of input and `o` of output. -/
def keyCmd (op k i o : Nat) : Cmd := cmd 0xA2 2 255 (both 16 20 4 (op + k * 256) ++
  [(24, 8, if i = 0 then 0 else 0x1000), (32, 4, i), (36, 8, if o = 0 then 0 else 0x2000), (44, 4, o)])
/-- A root key. -/
def rootKey : List Byte := 4 :: List.replicate 96 1
/-- A module whose slot 5 holds a VERIFY key and whose root slot is empty. -/
def keyed : State := { base with vault := { base.vault with keys := base.vault.keys.set 5 { type := 2, pub := 9, gen := 0 } } }

/-- Without a root key no authorisation is asked for; with one, whether it is good no test can say. -/
theorem test_keys :
    (pre (runs keyed (keyCmd 0 1 97 0))).cmds.find? (fun d => d.mb == 0 && d.st == .running && d.op == 0xA2) = some (keyCmd 0 1 97 0) ∧
    keyOp (keyCmd 0 1 97 0) = 0 ∧ keySlotOf (keyCmd 0 1 97 0) = 1 ∧ rooted (pre (runs keyed (keyCmd 0 1 97 0))) = false ∧
    keyForm (keyCmd 0 1 97 0) 97 0 = stOk ∧ busRead (pre (runs keyed (keyCmd 0 1 97 0))) (keyCmd 0 1 97 0) (bus rootKey) 97 = some rootKey ∧
    ended (after (.install 0 (bus rootKey) true) (runs keyed (keyCmd 0 1 97 0))) = some (stOk, 1, 0) ∧
    ended (after (.install 0 (bus rootKey) false) (runs keyed (keyCmd 0 1 97 0))) = some (stVaultFault, 0xFFFFFFFF, 0) ∧
    ended (after (.install 0 (bus (rootKey ++ rootKey)) true) (runs keyed (keyCmd 0 5 193 0))) = some (stDuplicate, 0xFFFFFFFF, 0) ∧
    keyForm (keyCmd 1 6 0 97) 0 97 = stOk ∧ keyOp (keyCmd 1 6 0 97) = 1 ∧ keyInput (pre keyed) (keyCmd 1 6 0 97) (bus []) 0 = some [] ∧
    ended (after (.generate 0 (bus []) true) (runs keyed (keyCmd 1 6 0 97))) = some (stOk, 6, 0) ∧
    ended (after (.generate 0 (bus []) true) (runs keyed (keyCmd 1 1 0 97))) = some (stInvalid, 0xFFFFFFFF, 0) ∧
    keyForm (keyCmd 2 5 0 0) 0 0 = stOk ∧ ended (after (.erase 0 (bus []) true) (runs keyed (keyCmd 2 5 0 0))) = some (stOk, 5, 0) ∧
    ended (after (.erase 0 (bus []) true) (runs keyed (keyCmd 2 6 0 0))) = some (stNotFound, 0xFFFFFFFF, 0) ∧
    keyForm (keyCmd 3 5 0 97) 0 97 = stOk ∧ ended (after (.readPub 0 (bus [])) (runs keyed (keyCmd 3 5 0 97))) = some (stOk, 0xFFFFFFFF, 0) ∧
    ended (after (.readPub 0 (bus [])) (runs keyed (keyCmd 3 6 0 97))) = some (stNotFound, 0xFFFFFFFF, 0) := by decide +kernel

/-! ### Registers and update groups -/

/-- EPOCH_NOMINAL is the only register of group 0 that was written. -/
def nominal (v : Word) : State := { base with regs := { base.regs with buf := [(0x3000C, v)] } }

theorem test_apply :
    (let u := prePort (nominal 0x500) 0
     portUp u 0 = true ∧ isOwner u 0 = true ∧ u.stage.stage ≠ 0 ∧ regGroup (startBuffers (nextCycle u)) 0x3000C = some 0 ∧ groupAddrs (discardAbsent (startBuffers (nextCycle u))) 0 = [0x3000C] ∧
     attrTable 0x3000C = none ∧ (let z := startBuffers (nextCycle u)
      match applyVal z 0x3000C (z.buffer 0x3000C) with
       | .ok w => w == 0x500
       | .error _ => false) = true) ∧
    (after (.updStrobe 0 1) (nominal 0x500)).live 0x3000C = 0x500 ∧
    (let z := startBuffers (nextCycle (prePort (nominal 100) 0))
     (match applyVal z 0x3000C (z.buffer 0x3000C) with
      | .ok _ => false
      | .error e => e.1 == evEpoCfgInvalid) = true) ∧
    (after (.updStrobe 0 1) (nominal 100)).live 0x3000C = 0x400 ∧ bit ((after (.updStrobe 0 1) (nominal 100)).live 0x20000) 8 = true := by
  decide +kernel

/-- The group of EPOCH_NOMINAL is armed for set number 5, and due at the step that just took place. -/
def armedNow : State := { nominal 0x500 with regs := { (nominal 0x500).regs with armed := [(0, 5)] }, due := [.apply 0, .internalSeal] }

/-- A wheel of pipeline 3 goes live 100 µs from now. -/
def wheeled : State := { base with regs := { base.regs with wheelPend := [(3, [(0, 200000, List.replicate 32 7)])] } }

theorem test_schedule :
    (after (.updSchedSet 0 5) (withRegs base [(0x10104, 5)])).regs.armed = [(0, 5), (2, 5)] ∧
    (after (.updSchedDisarm 0 1) (after (.updSchedSet 0 5) (withRegs base [(0x10104, 5)]))).regs.armed = [(2, 5)] ∧
    mapGet armedNow.regs.armed 0 = some 5 ∧ regGroup (startBuffers armedNow) 0x3000C = some 0 ∧ groupAddrs (discardAbsent (startBuffers armedNow)) 0 = [0x3000C] ∧
    (after (.scheduledApply 0) armedNow).live 0x3000C = 0x500 ∧ (after (.scheduledApply 0) armedNow).due = [.internalSeal] ∧
    (let s := { armedNow with regs := { armedNow.regs with buf := [(0x3000C, 0x600)], bufStart := some (125000, [(0x3000C, 0x500)]) } }
     (after (.scheduledApply 0) s).live 0x3000C = 0x500 ∧ (after (.scheduledApply 0) s).buffer 0x3000C = 0x600) := by
  decide +kernel

theorem test_wheel :
    mapGetD (pre wheeled).regs.wheelPend 3 [] = [(0, 200000, List.replicate 32 7)] ∧
    (after (.wheelGoesLive 3) wheeled).live (wheelAddr 3 31) = 7 ∧ (after (.wheelGoesLive 3) wheeled).now = 2000000 := by decide +kernel

theorem test_view :
    (let s := { nominal 0x500 with regs := { (nominal 0x500).regs with view := [true, false, false, false] } }
     (∀ d, regDesc 0x3000C = some d → d.lane = none ∧ d.group.isSome = true) ∧ portUp (preRead s) 0 = true ∧ portUp (preRead s) 1 = true ∧ portUp (prePort s 1) 1 = true ∧
     (after (.registerRead 0 0x3000C 4 .none) s).out = [.regData 0 (some [0, 4, 0, 0])] ∧
     (after (.registerRead 1 0x3000C 4 .none) s).out = [.regData 1 (some [0, 5, 0, 0])] ∧
     (after (.registerWrite 1 0x10114 [1, 0, 0, 0]) s).regs.view = [true, true, false, false] ∧
     (after (.perstAssert 0 .perst) s).regs.view = [false, false, false, false] ∧
     (let r := { s with power := { s.power with flush := some .soft } }
      (pre r).power.flush = some .soft ∧ (after .resetFlushDone r).regs.view = [false, false, false, false])) := by decide +kernel

theorem test_reads :
    (∀ d, regDesc 0x4 = some d → d.lane = none ∧ d.rsh = false ∧ d.rc = 0) ∧ freeBits 0x4 = 0 ∧ (preRead base).cache.press = none ∧
    (after (.registerRead 1 0x4 4 .none) base).out = [.regData 1 (some [0xA2, 0, 0, 0])] ∧
    (after (.registerRead 1 0x6 2 .none) base).out = [.regData 1 (some [0, 0])] ∧
    (∀ d, regDesc 0x30020 = some d → d.cx = 0 ∧ d.rw ≠ 0 ∧ d.rc = 0 ∧ d.rsh = false) ∧ (preRead base).regs.parityErr = [] ∧
    (after (.registerRead 1 0x30020 4 .parity) base).regs.parityErr = [0x30020] ∧
    (∀ d, regDesc 0x30028 = some d → d.rc ≠ 0 ∧ d.rsh = false) ∧ metNow (preRead (withRegs base [(0x30028, 9)])) 0x30028 = none ∧
    isOwner (preRead base) 0 = true ∧ (after (.rcRead 0 0x30028) (withRegs base [(0x30028, 9)])).live 0x30028 = 0 ∧
    isOwner (preRead base) 1 = false ∧ (after (.rcRead 1 0x30028) (withRegs base [(0x30028, 9)])).live 0x30028 = 9 ∧
    (∀ d, regDesc 0x30000 = some d → d.rsh = true ∧ d.lane = none) ∧ (after (.rshLatchRead 1 0x30000 false) base).regs.shadow.length = 2 ∧
    regDesc 0x7FFC = none ∧ (after (.registerRead 1 0x7FFC 4 .none) base).out = [.errCor 1, .regData 1 none] := by decide +kernel

theorem test_writes :
    (∀ d, regDesc 0x3000C = some d → d.group.isSome = true ∧ d.w1s = 0 ∧ d.right = .owner ∧ d.rw ||| d.w1c ||| d.w1s ≠ 0) ∧
    (after (.registerWrite 0 0x3000C [0, 5, 0, 0]) base).buffer 0x3000C = 0x500 ∧
    (after (.registerWrite 0 0x3000C [0, 5, 0, 0] true) base).regs.buf = [] ∧
    bit ((after (.registerWrite 0 0x3000C [0, 5, 0, 0] true) base).live 0x200) 3 = true ∧
    (after (.registerWrite 1 0x6 [0, 5]) (after (.registerWrite 0 0x6 [0, 5]) base)).now = base.now ∧
    (after (.registerWrite 0 0x6 [0, 5]) (after (.registerWrite 1 0x6 [0, 5]) base)).now = base.now + 8 ∧
    bit ((after (.registerWrite 1 0x3000C [0, 5, 0, 0]) base).live 0x210) 5 = true ∧
    (∀ d, regDesc 0x4 = some d → d.right = .owner ∧ d.rw ||| d.w1c ||| d.w1s = 0) ∧
    bit ((after (.registerWrite 1 0x4 [0, 5, 0, 0]) base).live 0x210) 4 = true ∧
    bit ((after (.registerWrite 1 0x6 [0, 5]) base).live 0x210) 0 = true ∧ metNow (prePort (withRegs base [(0x20000, 3)]) 0) 0x20000 = none ∧
    (after (.registerWrite 0 0x20000 [1, 0, 0, 0]) (withRegs base [(0x20000, 3)])).live 0x20000 = 2 ∧
    memWf (prePort base 1).mem = true ∧ wholeWords 0x3FFFFC 4 = true ∧
    memReadAll (after (.registerWrite 1 0x7FFFFC [1, 2, 3, 4]) base).mem 0x3FFFFC 4 = [1, 2, 3, 4] ∧
    (let s := after (.registerWrite 1 0x460000 [1, 2, 3, 4]) base
     memReadAll (after (.bitSetWrite 1 0x860000 [8, 8, 8, 8] .none) s).mem 0x60000 4 = [9, 10, 11, 12] ∧
     memReadAll (after (.bitClearWrite 1 0xC60000 [1, 1, 1, 1] .none) s).mem 0x60000 4 = [0, 2, 2, 4]) := by decide +kernel

theorem test_control_writes :
    portUp (prePort base 0) 0 = true ∧ isOwner (prePort base 0) 0 = true ∧ (prePort base 0).power.pwrGood = true ∧ (prePort base 0).power.flush = none ∧
    (after (.stgCtrlReset 0 1) base).power.flush = some .soft ∧ (after (.stgCtrlReset 0 0) base).power.flush = none ∧
    ((after (.retrain 0 2 1) (linked base 2)).link 2).width = 0 ∧ linkUp ((prePort (linked base 2) 0).link 2) = true ∧
    ((after (.widen 0 2 2) (linked base 2)).link 2).widen = true ∧
    (∀ d, regDesc 0x1C0000 = some d → d.lane = some 0 ∧ d.rw ≠ 0) ∧ mapGet (prePort base 0).regs.pw 0 = none ∧
    (after (.pwWrite 0 0x1C0000 7) base).regs.pw = [(0, 0x1C0000, 7)] ∧
    (let s := after (.pwWrite 0 0x1C0000 7) base
     mapGet (pre s).regs.pw 0 = some (0x1C0000, 7) ∧ bit ((after (.pwWrite 0 0x1C0000 9) s).live 0x200) 7 = true ∧
     (after (.pwBusyClear 0) s).live 0x1C0000 = 7 ∧ (after (.pwBusyClear 0) s).regs.pw = []) := by decide +kernel

/-! ### Effects at a step -/

/-- Slot 0 LIVE and slot 1 SEALED with number 1. -/
def sealed1 : List Slot := [{ Slot.empty with st := .live, epoch := 1 }, { Slot.empty with st := .sealed, epoch := 5, sealNo := 1 }, Slot.empty, Slot.empty]

theorem test_glaze_effect :
    (let s := { slotted sealed1 2 with due := [.glaze 4 1, .internalSeal] }
     [Due.internalSeal].any (glazeOf 4) = false ∧ glazeOf 4 (.glaze 4 1) = true ∧ s.dies.changes = [] ∧
     (∀ x, s.table 4 = some x → x.slots.findIdx? (fun y => y.st == .sealed && y.sealNo == 1) = some 1) ∧
     ((after (.glazeEffect 4) s).table 4).map (fun y => (y.slots.map (fun z => z.st), y.glazed)) = some ([.retired, .live, .free, .free], 5) ∧
     (after (.glazeEffect 4) s).due = [.internalSeal]) ∧
    (let s := { slotted (opened1.set 1 { Slot.empty with st := .opened, hasInt := true }) 3 with due := [.internalSeal] }
     (∀ x, s.table 4 = some x → openSlot x = some 1 ∧ (x.slot 1).hasInt = true ∧ (x.slot 1).hasCmd = false ∧ x.st = .live) ∧
     lockHeld s 4 = false ∧ journalRoom s = true ∧ s.tables.map (fun p => p.1) = [4] ∧
     ((after .internalGlazeSeal s).table 4).map (fun y => ((y.slot 1).st, (y.slot 1).epoch)) = some (.sealed, 8)) := by decide +kernel

/-- A copy-map change of table 4 that adds spare 3 as a mirror of block 0. -/
def mirrorChange : CopyChange :=
  { id := 0, table := 4, cmd := some 5, die := 0, block := 0, add := [3], drop := [] }

/-- That change is due. -/
def mirroring : State := { runs tabled (mirror 1) with due := [.copyMap 0], dies := { tabled.dies with
  spares := [(3, { Spare.free with use := 1, primary := 0 })], changes := [mirrorChange] } }

theorem test_copy_map :
    copyMapOf mirroring 4 (.copyMap 0) = true ∧
    mirroring.dies.changes.find? (fun k => k.id == 0 && k.glaze.isNone) = mirroring.dies.changes.head? ∧
    ended (after (.copyMapChange 4) mirroring) = some (stOk, 0xFFFFFFFF, 5) ∧ (after (.copyMapChange 4) mirroring).dies.changes = [] ∧
    ((after (.copyMapChange 4) mirroring).spare 0 3).built = true := by decide +kernel

/-- Slot 0 SETTLING behind slot 1, which is LIVE; and slot 0 SETTLING alone. -/
def settling (l : SlotSt) : List Slot := [{ Slot.empty with st := .settling, epoch := 1, sealNo := 1 }, { Slot.empty with st := l, epoch := 3, sealNo := 2 }, Slot.empty, Slot.empty]

theorem test_settle :
    (∀ x, (pre (slotted (settling .live) 3)).table 4 = some x → settlingSlot x = some 0 ∧ x.removed = none ∧ liveSlot x = some 1) ∧
    ((after (.settle 4 []) (slotted (settling .live) 3)).table 4).map (fun y => (y.slots.map (fun z => z.st), y.rows.map (fun r => r.handle))) =
      some ([.free, .live, .free, .free], [11]) ∧
    (let s := { slotted (settling .free) 1 with tables := [(4, { tern with
       slots := settling .free, rows := [{ row11 with vis := 1 }], st := .destroying, removed := some 4 })] }
     (∀ x, (pre s).table 4 = some x → settlingSlot x = some 0 ∧ x.removed.isSome = true ∧ slotsIn x (fun q => q != .free) = [0] ∧ x.slots.length = 4) ∧
     (after (.settle 4 []) s).table 4 = none) := by decide +kernel

/-! ### Learning and aging -/

/-- The status bit of an event. -/
def flagged (t : State) (e : Ev) : Bool := bit (t.live (0x20000 + e.src / 16 * 4)) (e.src % 16)

/-- A learn configuration of table 4 that gives the handles from `h` on, `n` of them. -/
def learnCfg (h n : Nat) : LearnCfg :=
  { en := true, evt := true, profile := 3, slot := 1, prio := 75, action := 7, hbase := h, hcount := n, byteMask := 1, data := 7 }

/-- A learn record of table 4. -/
def learnRec : LearnRec := { target := 4, key := 0x35, source := 3, handle := 11, epoch := 5, phase := 0, port := 0, ctx := 0 }

/-- The table of `pair` with a learn configuration, a record that waits, and internal changes on. -/
def pairRows : List Row := [{ row11 with pos := posPerDie }, { row11 with handle := 10, prio := 50, row := 3, pos := posPerDie + 1 }]
def learnTable (l : LearnCfg) : Table := { tern with rows := pairRows, learn := some l }
def learning (l : LearnCfg) : State := { tabled with
  tables := [(4, learnTable l)], learnQ := [learnRec], regs := { tabled.regs with live := tabled.regs.live ++ [(0x111000, 1)] } }

/-- What `learnRuns` asks. -/
def learnMay (l : LearnCfg) : Bool :=
  let u := pre (learning l)
  u.learnQ == [learnRec] && u.table 4 == some (learnTable l) && internalOn u && taFeat u 4 3 && !lockHeld u 4 &&
    !((learnTable l).rows.any (fun q => visIn q.vis (headSlot (learnTable l)) && q.value == learnRec.key &&& learnMask l.byteMask && q.mask == learnMask l.byteMask))

theorem test_learn :
    learnMay (learnCfg 256 4) = true ∧ learnHandle (learnTable (learnCfg 256 4)) (learnCfg 256 4) = some 256 ∧
    journalRoom (pre (learning (learnCfg 256 4))) = true ∧
    (match openGen { pre (learning (learnCfg 256 4)) with learnQ := [] } 4 with
     | none => false
     | some (o, s1) => match place s1 4 o (learned (pre (learning (learnCfg 256 4))) (learnCfg 256 4) learnRec 256) (mkStamp 5 0 false) with
       | .ok _ => true
       | .error _ => false) = true ∧
    (after (.learnApply []) (learning (learnCfg 256 4))).live 0x111044 = 1 ∧ flagged (after (.learnApply []) (learning (learnCfg 256 4))) evLrnEntry = true ∧
    learnMay (learnCfg 11 1) = true ∧ learnHandle (learnTable (learnCfg 11 1)) (learnCfg 11 1) = none ∧
    (after (.learnApply []) (learning (learnCfg 11 1))).live 0x111050 = 1 := by decide +kernel

/-- A sweep of table 4, operation 0 DELETE or 1 REPORT; and what has begun of it. -/
def ageCfg (op : Nat) : AgeCfg := { next := 3, th := 3, period := 100, op := op, delMax := 0, addr := 0x1000, len := 64, port := 0 }
def sweep (op : Nat) (l : List (Nat × BitVec 64)) : Sweep := { cfg := ageCfg op, handled := 0, written := 0, deleted := 0, rescued := 0, cands := l }

/-- Table 4 with a sweep configured or running, and internal changes on. -/
def aging (a : Option AgeCfg) (w : Option Sweep) (due : List Due) : State := { tabled with
  tables := [(4, { tern with age := a, sweep := w })], due := due
  regs := { tabled.regs with live := tabled.regs.live ++ [(0x111000, 1)] } }

theorem test_sweep_starts :
    (let s := aging (some (ageCfg 0)) none [.ageStart 4, .scrub]
     [Due.scrub].any (fun d => d == .ageStart 4) = false ∧ (ageCfg 0).next ≤ s.epoch.count ∧ taFeat s 4 2 = true ∧ internalOn s = true ∧
     ((after (.ageSweepStart 4) s).table 4).map (fun y => (y.sweep.map (fun w => w.cands), y.age.map (fun h => h.next))) =
       some (some [(11, 0)], some 103) ∧ (after (.ageSweepStart 4) s).due = [.scrub]) ∧
    (let s := aging (some (ageCfg 0)) (some (sweep 0 [])) [.ageStart 4]
     taFeat s 4 2 = true ∧ internalOn s = true ∧ flagged (after (.ageSweepStart 4) s) evAgeOverrun = true) := by decide +kernel

/-- What `sweepRuns` asks of entry 11 as a candidate with stamp `st`. -/
def sweepMay (op : Nat) (st : BitVec 64) : Bool :=
  let u := pre (aging none (some (sweep op [(11, st)])) [])
  (u.table 4).map (fun x => x.sweep == some (sweep op [(11, st)]) && x.st == .live && rowIn x (headSlot x) 11 == some row11) == some true &&
    internalOn u && busUp u 0

theorem test_compare :
    sweepMay 1 0 = true ∧ 16 * (0 + 1) ≤ (ageCfg 1).len ∧
    (after (.ageCompare 4 11 true []) (aging none (some (sweep 1 [(11, 0)])) [])).out = [.dma 0 0x1000 [11, 0, 0, 0, 0, 0, 0, 0, 0, 0, 0, 0, 0, 0, 0, 0]] ∧
    sweepMay 0 5 = true ∧ lockHeld (pre (aging none (some (sweep 0 [(11, 5)])) [])) 4 = false ∧
    entryStamp (pre (aging none (some (sweep 0 [(11, 5)])) [])) (entryPositions tern (headSlot tern) row11) = 0 ∧
    (after (.ageCompare 4 11 true []) (aging none (some (sweep 0 [(11, 5)])) [])).live 0x111058 = 1 := by decide +kernel

theorem test_aged_out :
    (let s := { aging none (some (sweep 0 [(11, 0)])) [] with tables := [(4, { tern with
       slots := opened1, rows := [{ row11 with vis := 2 }], sweep := some (sweep 0 [(11, 0)]) })] }
     lockHeld (pre s) 4 = false ∧ journalRoom (pre s) = true ∧ internalOn (pre s) = true ∧
     (∀ x, (pre s).table 4 = some x → openSlot x = some 1 ∧ rowIn x (headSlot x) 11 = some { row11 with vis := 2 } ∧ x.st = .live ∧
       entryStamp (pre s) (entryPositions x (headSlot x) { row11 with vis := 2 }) = 0) ∧
     (after (.ageCompare 4 11 true []) s).live 0x111054 = 1 ∧ ((after (.ageCompare 4 11 true []) s).table 4).map (fun y => y.rows.length) = some 0) ∧
    (let s := aging none (some (sweep 0 [])) []
     flagged (after (.ageSweepDone 4) s) evAgeSweepDone = true ∧ ((after (.ageSweepDone 4) s).table 4).map (fun y => y.sweep.isNone) = some true) := by
  decide +kernel

/-! ### Rebuild, waits, scrub and tests -/

/-- The copy of block 0 of die 0 into spare 0. -/
def build0 (why : BuildFor) (tries : Nat) (ok : Bool) : Build :=
  { die := 0, unit := 0, block := 0, spare := 0, why := why, tries := tries, verified := ok }

/-- Table 4 with its block suspect, rebuild on, and what is under way. -/
def suspect (spares : NMap Spare) (builds : List Build) (due : List Due) : State := { tabled with
  due := due, regs := { tabled.regs with live := tabled.regs.live ++ [(0x13F000, 4)] }
  dies := { tabled.dies with
    blocks := [(0, { table := 4, group := 0, st := 2, actNow := 3, act := 0, refused := false, low := 0, held := true })]
    spares := spares, builds := builds } }

/-- Spare 0 being built as a rebuild; and all spares in use. -/
def rebuildSpare : NMap Spare := [(0, { Spare.free with use := 2 })]
def noSpares : NMap Spare := (List.range 32).map (fun k => (k, { Spare.free with use := 3 }))

theorem test_rebuild :
    (let u := pre (suspect [] [] [])
     bit (u.live 0x13F000) 2 = true ∧ (u.blk 0 0).st = 2 ∧ buildOf u 0 0 = none ∧ claimSpare u 0 0 = some 0 ∧
     (after (.rebuildStart 0 0) (suspect [] [] [])).dies.builds = [build0 .rebuild 0 false]) ∧
    (let u := pre (suspect noSpares [] [])
     buildOf u 0 0 = none ∧ (claimR12 u 0 0).isNone = true ∧ u.dies.waiting.contains (0, 0) = false ∧
     (after (.rebuildStart 0 0) (suspect noSpares [] [])).dies.waiting = [(0, 0)]) ∧
    (let s := suspect (noSpares.set 9 (9, { Spare.free with use := 1, auto := true, built := true, primary := 5 })) [] []
     (claimR12 (pre s) 0 0).map (fun q => (q.1, q.2.1)) = some (9, some 0) ∧
     (after (.rebuildStart 0 0) s).dies.builds = [{ build0 .rebuild 0 false with spare := 9, hold := some 0 }] ∧
     (after (.rebuildStart 0 0) s).dies.changes.map (fun q => (q.id, q.die, q.drop, q.add)) = [(0, 0, [9], [])]) := by decide +kernel

theorem test_verified_and_swap :
    buildOf (pre (suspect rebuildSpare [build0 .rebuild 1 false] [])) 0 0 = some (build0 .rebuild 1 false) ∧
    buildOf (after (.rebuildVerified 0 0 true []) (suspect rebuildSpare [build0 .rebuild 1 false] [])) 0 0 = some (build0 .rebuild 1 true) ∧
    flagged (after (.rebuildVerified 0 0 false []) (suspect rebuildSpare [build0 .rebuild 1 false] [])) evRcvRebuildFail = true ∧
    (let s := suspect rebuildSpare [build0 .rebuild 0 true] [.swap 0 0, .mirrorWindow 0]
     [Due.mirrorWindow 0].any (fun d => d == .swap 0 0) = false ∧ buildOf s 0 0 = some (build0 .rebuild 0 true) ∧ (s.spare 0 0).use = 2 ∧
     ((after (.copySwap 0 0) s).blk 0 0).st = 3 ∧ ((after (.copySwap 0 0) s).spare 0 0).built = true) ∧
    (let s := suspect [] [] [.mirrorWindow 0]
     ((after (.autoMirrorWindowEnd 0) s).blk 0 0).act = 3 ∧ ((after (.autoMirrorWindowEnd 0) s).blk 0 0).actNow = 0) := by decide +kernel

/-- A FENCE that has waited since epoch 0 behind another command, with a limit of 2 epochs and an abort limit of 4. -/
def waitingFence : State := withRegs { base with
  cmds := [{ glaze 9 with st := .waiting (.glaze 4 1) }, { fenceCmd with st := .waiting .fence, since := 0 }] } [(0x13F028, 0x20002)]

theorem test_waits :
    ((waiters (pre waitingFence))[0]?).map (fun w => (w.told, w.cls, w.since)) = some (false, 7, 0) ∧ wdLimit (pre waitingFence) 7 = 2 ∧
    (pre waitingFence).epoch.count = 5 ∧ (pre waitingFence).waitSnap = none ∧
    (after (.wdgStall 0) waitingFence).live 0x13F008 = word (7 * 2 ^ 29 + 7 * 2 ^ 26 + 2 ^ 19 + 2 ^ 16 + 2 ^ 9) ∧
    (after (.wdgStall 0) waitingFence).waitSnap.isSome = true ∧
    (let s := { waitingFence with waitSnap := some { epoch := 1, phase := 2, trig := 3, recs := [] } }
     (after (.wdgStall 0) s).waitSnap = some { epoch := 1, phase := 2, trig := 3, recs := [] }) ∧
    ((pre waitingFence).cmds.find? (fun c => c.mb == 0 && (abortDue (pre waitingFence) c || slotsDue (pre waitingFence) c))).map
      (fun c => (c.id, c.got, abortDue (pre waitingFence) c)) = some (6, 0, true) ∧
    (after (.stallAbort 0) waitingFence).cmds.map (fun c => (c.id, c.status)) = [(5, 0), (6, stStalled)] := by decide +kernel

/-- A module whose sprinkle stands as given, with automatic scrub and region tests on. -/
def scrubbing (k : Spk) (due : List Due) : State := { tabled with
  spk := k, due := due, regs := { tabled.regs with live := tabled.regs.live ++ [(0x130000, 0xF), (0x130004, 5), (0x13000C, 5)] } }

/-- A pass that meets errors: R275's patrol, and R277 item 3. -/
theorem test_scrub_errors :
    (let s := scrubbing { Spk.reset [] with scrubDue := true } [.scrub]
     let v := after (.scrubPassStart [.corrected, .direct 3, .shadow 64 true]) s
     v.live 0x130120 = 1 ∧ flagged v evIntDtUe = true ∧ posUnits s 64 = [(0, 0)] ∧ (v.blk 0 0).st = 2) := by decide +kernel

theorem test_scrub :
    (let s := scrubbing { Spk.reset [] with scrubDue := true } [.scrub, .sbTest]
     [Due.sbTest].any (fun d => d == .scrub) = false ∧
     (after (.scrubPassStart []) s).spk.runs = [(0, 0)] ∧ (after (.scrubPassStart []) s).spk.scrub = true) ∧
    (let s := scrubbing { Spk.reset [] with scrub := true } [.scrub]
     bit (s.live 0x130000) 0 = true ∧ s.epoch.crossed (max 1 (s.cfg 0x130004 23 0)) = true ∧
     flagged (after (.scrubPassStart []) s) evSpkPassLate = true) ∧
    (let s := { scrubbing { Spk.reset [] with scrub := true, runs := [(0, 2 ^ 64 - 1), (9, 5)], scrubCmds := [5] } [] with cmds := [{ fenceCmd with id := 5, st := .waiting .scrub }] }
     (∀ p ∈ (pre s).spk.runs, p.2 = 2 ^ 64 - 1 ∨ stillScrubbed (pre s) p.1 = false) ∧ ended (after .scrubPassDone s) = some (stOk, 0xFFFFFFFF, 0) ∧
     (after .scrubPassDone s).live 0x130100 = 1) := by decide +kernel

/-- A pass whose unit 0 of die 0 has its run 1 behind it. -/
def scrubbed1 : State := pre (scrubbing { Spk.reset [] with scrub := true, runs := [(0, 2)] } [])

/-- Run 3 reads as its shadow rows, then with one bit of its row 192 turned, which another signature answers. -/
theorem test_scrub_run :
    mapGet scrubbed1.spk.runs (0 * 1056 + 0) = some 2 ∧ (2 : Nat).testBit 3 = false ∧ scrubbed1.spk.scrub = true ∧
    stillScrubbed scrubbed1 0 = true ∧ runCrc (readRun (shadowRun scrubbed1 0 0 3) []) = runSig scrubbed1 0 0 3 ∧
    runCrc (readRun (shadowRun scrubbed1 0 0 3) [(0, 1)]) ≠ runSig scrubbed1 0 0 3 := by
  have h : shadowRun scrubbed1 0 0 3 = List.replicate 64 0 := by decide +kernel
  have e : readRun (List.replicate 64 0) [] = List.replicate 64 0 := by decide +kernel
  have d : readRun (List.replicate 64 0) [(0, 1)] = 1 :: List.replicate 63 0 := by decide +kernel
  refine ⟨by decide +kernel, by decide +kernel, by decide +kernel, by decide +kernel, by rw [runSig, h, e], ?_⟩
  rw [runSig, h, d]
  exact runCrc_first 1 0 (List.replicate 63 0) (by decide) (by decide)

/-- A TEST_BLOCK of position `p` of die 0 waits. -/
def testing (p : Nat) (due : List Due) : State := scrubbing { Spk.reset [] with testDue := [(0, p, 5)] } due

/-- A test of position 9 of die 0 in phase 2, for command 5. -/
def tested : State := { scrubbing { Spk.reset [] with
  tests := (Spk.reset []).tests.set 0 { phase := 2, pos := 9, spare := none, cmd := some 5 } } [] with cmds := [{ fenceCmd with id := 5, st := .waiting (.test 0) }] }

theorem test_block_tests :
    [Due.sbTest].any (fun d => d == .testWindow 0) = false ∧ testMayStart (testing 9 [.testWindow 0, .sbTest]) 0 = true ∧
    (testing 9 []).spk.retired.contains (0 * 1056 + 9) = false ∧ ((testing 9 []).blk 0 9).st = 0 ∧
    (after (.testWindow 0) (testing 9 [.testWindow 0, .sbTest])).spk.tests.head? = some { phase := 2, pos := 9, spare := none, cmd := some 5 } ∧
    ((testing 0 []).blk 0 0).st = 1 ∧ buildOf (testing 0 []) 0 0 = none ∧ claimSpare (testing 0 []) 0 0 = some 0 ∧
    (after (.testWindow 0) (testing 0 [.testWindow 0])).dies.builds = [build0 .takeover 0 false] ∧
    (pre tested).spk.tests.head? = some { phase := 2, pos := 9, spare := none, cmd := some 5 } ∧ (pre tested).spk.retired.contains (0 * 1056 + 9) = false ∧
    ended (after (.arrayTestDone 0 true) tested) = some (stOk, 0, 0) ∧ (after (.arrayTestDone 0 true) tested).live 0x130108 = 1 ∧
    (after (.arrayTestDone 0 false) tested).spk.retired = [9] ∧ flagged (after (.arrayTestDone 0 false) tested) evSpkTestFail = true := by
  decide +kernel

/-- A test of region 2 of bank 1. -/
def regionTest (aborted : Bool) : State :=
  scrubbing { Spk.reset [] with sb := some { bank := 1, region := 2, start := 1000000, aborted := aborted, restore := 1010000 }, sbNext := 18 } []

theorem test_region_tests :
    (let s := scrubbing (Spk.reset []) [.sbTest, .checkpoint]
     [Due.checkpoint].any (fun d => d == .sbTest) = false ∧ bit (s.live 0x130000) 3 = true ∧ s.epoch.crossed (max 1 (s.cfg 0x13000C 15 0)) = true ∧
     atLimit s = false ∧ s.spk.holdUntil ≤ s.epoch.count ∧
     (after .sbRegionTestStart s).spk.sb.map (fun t => (t.bank, t.region, t.start, t.aborted)) = some (0, 0, 1000000, false)) ∧
    sbEnd (flushDue (regionTest false)) = 1018192 ∧
    (preAt 1018192 (regionTest false)).spk.sb.map (fun t => (t.bank, t.aborted)) = some (1, false) ∧
    (after (.sbRegionTestDone []) (regionTest false)).spk.sbNext = 19 ∧ mapGetD (preAt 1018192 (regionTest false)).spk.sbRows 1 0 < 4 ∧
    (after (.sbRegionTestDone [31]) (regionTest false)).spk.sbRows = [(1, 1)] ∧ (preAt 1018192 (regionTest true)).spk.sbAborts < 7 ∧
    (after (.sbRegionTestDone [31]) (regionTest true)).spk.sbAborts = 1 ∧ (after (.sbRegionTestDone [31]) (regionTest true)).spk.sbRows = [(1, 1)] := by decide +kernel

/-! ### The vault -/

/-- A record of sequence `q` that carries nothing. -/
def mark (q : Nat) : JRec := { seq := q, type := 0x30, table := 255, cmd := none, len := 32, body := .mark }

/-- A module with records 1 and 2 staged. -/
def staged : State := { base with vault := { base.vault with seq := 2, staged := [mark 1, mark 2] } }

theorem test_journal :
    vaultTakes (pre staged) = true ∧ (pre staged).vault.staged.any (fun r => decide (r.seq ≤ 1)) = true ∧
    (programRecs (pre staged) 1).vault.staged = [mark 2] ∧ (programRecs (pre staged) 1).vault.journal = [mark 1] ∧
    (programRecs (pre staged) 1).vault.nand = 1 ∧ (programRecs (pre staged) 1).vault.cfg = none := by decide +kernel

/-- A checkpoint that a command waits for. -/
def ckptWanted (stage : Nat) (due : List Due) : State := { base with
  due := due, stage := { base.stage with stage := stage }, vault := { base.vault with ckptDue := true, ckptJoin := [5] }
  cmds := [{ ckptCmd with st := .waiting .checkpoint }] }

/-- Checkpoint A runs for that command. -/
def ckptRunning : State := { base with
  vault := { base.vault with seq := 1, ckpt := some { target := 1, s0 := 1, epoch := 5, held := false, cmds := [5] } }
  cmds := [{ ckptCmd with st := .waiting .checkpoint }] }

theorem test_checkpoints :
    [Due.patrol].any (fun d => d == .checkpoint) = false ∧ (ckptWanted 3 []).vault.ckptDue = true ∧ ckptAllowed (ckptWanted 3 []) = true ∧
    (after .checkpointStart (ckptWanted 3 [.checkpoint, .patrol])).vault.ckpt = some { target := 1, s0 := 1, epoch := 5, held := false, cmds := [5] } ∧
    ckptAllowed (ckptWanted 1 []) = false ∧ ended (after .checkpointStart (ckptWanted 1 [.checkpoint])) = some (stAborted, 0xFFFFFFFF, 0) ∧
    (pre ckptRunning).vault.ckpt.map (fun c => (c.target, c.cmds)) = some (1, [5]) := by decide +kernel

theorem test_patrol_and_blocks :
    (let s := { withRegs base [(0x150000, 0x10), (0x150004, 1)] with
       epoch := { base.epoch with count := 65536, prev := 65535 }, due := [.patrol] }
     bit (s.live 0x150000) 4 = true ∧ s.epoch.crossed (max 1 (s.cfg 0x150004 23 0) * 65536) = true ∧ vaultTakes s = true ∧
     atLimit s = false ∧ (after (.patrolPeriodStart false) s).vault.patrolStart = 65536 ∧ s.vault.patrolStart ≠ 65536 ∧
     (after (.patrolPeriodStart true) s).vault.ckptDue = true) ∧
    vaultTakes (pre base) = true ∧ (after (.vltRetire 7) base).vault.good = 32767 ∧ (after (.vltRetire 7) base).vault.st = 1 ∧
    (let s := { base with vault := { base.vault with free := 2048 } }
     512 < (pre s).vault.free ∧ (after (.vltRetire 7) s).vault.st = 2 ∧ flagged (after (.vltRetire 7) s) evVltSpareLow = true) ∧
    base.power.pwrGood = true ∧ (after .vltLost base).vault.st = 3 ∧ (after .vltLost base).stage.stage = 4 ∧
    (let s := { base with vault := { base.vault with st := 3 } }
     (pre s).vault.st = 3 ∧ flagged (after .vltLost s) evVltLost = false) := by decide +kernel

/-! ### Power and resets -/

/-- A module without power, its contacts as given. -/
def dark (p : Power) : State := { base with power := { p with pwrGood := false } }

theorem test_power_goes :
    (pre staged).power.pwrGood = true ∧ (pre staged).power.holdupBad = false ∧ fitRecs (8 * 2 ^ 20) (pre staged).vault.staged = (pre staged).vault.staged ∧
    ((after (.powerLoss 0) staged).vault.journal.take 2 = [mark 1, mark 2] ∧ (after (.powerLoss 0) staged).stage.stage = 0) ∧
    (after (.vinOvervoltage 0) base).power.overV = true ∧ islandOn (pre base) = true ∧ flagged (after .pwrInLow base) evPwrInLow = true ∧
    (after .pwrEnFall base).power.flush = some .off ∧
    (let s := { base with power := { base.power with flush := some .off } }
     (pre s).power.flush = some .off ∧ (after .powerDown s).power.pwrGood = false ∧ (after .powerDown s).tables = []) ∧
    (let s := { dark base.power with mgmt := { base.mgmt with tripped := true } }
     (pre s).power.pwrEn = true ∧ (pre s).power.pwrGood = false ∧ (pre s).mgmt.tripped = true ∧ islandOn (after .pwrEnFall s) = false) := by
  decide +kernel

theorem test_power_comes :
    (let s := dark { base.power with pwrEn := false, fallAt := 900000 }
     (pre s).power.pwrEn = false ∧ (after .pwrEnRise s).power.risePend = true) ∧
    (let s := dark { base.power with pwrEn := false }
     (pre s).power.fallAt = 0 ∧ (after .pwrEnRise s).power.risePend = false) ∧
    (let s := dark { base.power with risePend := true, fallAt := 900000 }
     (pre s).power.risePend = true ∧ (after .pwrenLowElapsed s).now = 1000900000) ∧
    (let s := dark { base.power with overV := true }
     (pre s).power.overV = true ∧ (pre s).power.pwrEn = true ∧ (after .vinRestart s).power.vinOk = true) ∧
    (let s := dark base.power
     (pre s).power.risePend = false ∧ (pre s).power.overV = false ∧ (pre s).mgmt.tripped = false ∧
     (after (.pwrGoodRise 2000000 1700 2) s).power.smbAddr = 0x3E ∧ faultN (after (.pwrGoodRise 2000000 1700 2) s) = true ∧
     (after (.pwrGoodRise 2000000 1700 2) s).csc.pos = 2 ∧ faultN (after .pwrGoodLate s) = true) := by decide +kernel

theorem test_resets :
    (pre base).power.mrstN = true ∧ (after .mrstNLow base).power.flush = some .mrst ∧
    (let s := { base with power := { base.power with mrstN := false, jtag := 5 } }
     (pre s).power.mrstN = false ∧ (pre s).power.flush = none ∧ ((pre s).link 0).st = 0 ∧
     ((after (.mrstNRelease 2000000 3) s).link 0).st = (if bit ((pre s).live (hpAddr 0 8)) 7 then 1 else 0) ∧ (after (.mrstNRelease 2000000 3) s).csc.pos = 3 ∧ (after (.mrstNRelease 2000000 3) s).power.jtag = 0) ∧
    (let s := { staged with power := { base.power with flush := some .trip } }
     (pre s).power.flush = some .trip ∧ FlushFor.trip ≠ FlushFor.off ∧ (after .resetFlushDone s).mgmt.tripped = true ∧
     (after .resetFlushDone s).vault.journal.take 2 = [mark 1, mark 2]) ∧
    isOwner (pre base) 0 = true ∧ (pre base).own.st = .owned ∧ 0 < (pre base).mbox.length ∧
    (after (.perstAssert 0 .linkDown) base).own.linkLoss = some 2 ∧ isOwner (pre base) 1 = false ∧
    (after (.perstAssert 1 .perst) base).own.linkLoss = none ∧
    (after (.perstAssert 0 .perst) (owned .handing 0)).own.linkLoss = some 1 ∧ (after (.perstAssert 0 .perst) (owned .draining 0)).own.linkLoss = none ∧
    (let s := { base with mbox := base.mbox.set 1 { base.box 1 with stopped := true, resetHeld := true, cplTail := 3 } }
     ((pre s).box 1).resetHeld = true ∧ inflight (pre s) 1 = 0 ∧ memWf (pre s).mem = true ∧ 1 < (pre s).power.mpUp.length ∧
     ((after (.mailboxRestart 1) s).box 1).cplTail = 0 ∧ portUp (after (.mailboxRestart 1) s) 1 = true) := by decide +kernel

/-! ### Staged start -/

/-- A module in DORMANT with a trained host port, its vault with configuration `c`. -/
def dormant (c : Option CfgImg) : State := linked { base with
  stage := Stage.reset 0, vault := { Vault.reset with cfg := c }, mbox := List.replicate 4 Mbox.reset } 0

/-- A configuration image with table 4. -/
def config4 : CfgImg :=
  { live := attr4, retired := [], tables := [(4, { tab := { tern with rows := [], covers := [], slots := [] }, attrs := [], mirrors := [] })] }

theorem test_crumb_entry :
    (let u := preAt 2000000 (dormant none)
     u.stage.stage = 0 ∧ u.power.mrstN = true ∧ u.power.flush = none ∧ u.power.pwrGood = true ∧ hostUp u = true ∧ u.vault.st = 0 ∧
     512 ≤ u.vault.free ∧ u.vault.cfg = none) ∧
    (after (.crumbEntry 2000000 true true true 0) (dormant none)).stage.stage = 1 ∧
    (after (.crumbEntry 2000000 true true true 0) (dormant none)).stage.vaultEmpty = true ∧
    (preAt 2000000 (dormant (some config4))).vault.cfg = some config4 ∧
    ((after (.crumbEntry 2000000 true true true 0) (dormant (some config4))).table 4).map (fun y => (y.st, y.restored)) = some (.proofing, false) ∧
    flagged (after (.crumbEntry 2000000 true true false 1) (dormant (some config4))) evVltHdrRepair = true ∧
    (after (.crumbEntry 2000000 true true false 1) (dormant (some config4))).tables = [] ∧
    flagged (after (.crumbEntry 2000000 false false true 0) (dormant none)) evStgCrumbFail = true := by
  decide +kernel

/-- Table 4 in PROOFING: its restore in progress, or, when `r`, verified. -/
def proofing4 (r : Bool) : Table := { tern with st := .proofing, rows := [], covers := [], restored := r
                                                slots := { Slot.empty with st := .sealed, sealNo := 1, by_ := .promotion } :: List.replicate 3 Slot.empty }
def restoring (r : Bool) (due : List Due) : State := { tabled with
  tables := [(4, proofing4 r)], due := due, stage := { base.stage with stage := 2, image := 1 }
  vault := { base.vault with imgA := some { s0 := 1, epoch := 3, tables := [(4, { tab := tern, attrs := attr4, mirrors := [] })], counters := [], stamps := [], direct := [] } } }

theorem test_restore :
    curTable (pre (restoring false [])) = 4 ∧ (pre (restoring false [])).table 4 = some (proofing4 false) ∧
    restoreSource (pre (restoring false [])) 4 false false = none ∧ restoreSource (pre (restoring false [])) 4 true false = some 1 ∧
    flagged (after (.tableRestoreDone false false none) (restoring false [])) evStgRestoreFail = true ∧
    (lastImg 4 (baseImg (pre (restoring false [])) 1 4) (replayed (pre (restoring false [])) 1 4)).map (fun i => i.tab) = some tern ∧
    ((after (.tableRestoreDone true false none) (restoring false [])).table 4).map (fun y => y.rows) = some [row11] := by decide +kernel

theorem test_promote :
    [Due.scrub].any (fun d => d == .promote 4) = false ∧ promoteDue (restoring true [.promote 4]) (proofing4 true) = true ∧
    effectSlot (proofing4 true) = some 0 ∧
    ((after (.stgPromote 4) (restoring true [.promote 4, .scrub])).table 4).map (fun y => (y.st, (y.slot 0).st, y.floor)) = some (.live, .live, 5) := by
  decide +kernel

theorem test_release_and_faultsafe :
    (let s := { base with stage := { base.stage with release := [(4, 900000)] }, dies := { base.dies with spares := [(28, { Spare.free with use := 2, crumb := some 4 })] } }
     mapGet (pre s).stage.release 4 = some 900000 ∧ (∀ h ∈ (pre s).holds, 900000 ≤ h.t0) ∧
     ((after (.crumbSpareRelease 4) s).spare 0 28).crumb = none) ∧
    (pre base).stage.stage ≠ 0 ∧ (pre base).stage.stage ≠ 4 ∧ (after (.faultsafeEntry (.die 2)) base).stage.fsDie = 4 ∧
    (after (.faultsafeEntry .activityStore) base).stage.fsCause = 2 ∧ (after (.faultsafeEntry .activityStore) ckptRunning).vault.ckpt = none ∧
    ended (after (.faultsafeEntry .activityStore) ckptRunning) = some (stAborted, 0xFFFFFFFF, 0) ∧ flagged (after (.faultsafeEntry .config) base) evStgChange = true := by
  decide +kernel

/-! ### Management, contacts, and the whole module -/

/-- Readings with sensor 0 at `c` sixteenths of a degree. -/
def readings (c : Int) : Readings := { temp := c :: List.replicate 31 400, volt := List.replicate 16 0, curr := List.replicate 16 0, power := 30000, bad := [] }

/-- A module that is as hot. -/
def hot (c : Int) : State := { base with mgmt := { base.mgmt with temp := (readings c).temp } }

/-- An event that waits, and log records from 1 to `n`. -/
def event : EvRec := { src := 0x120, sev := 2, op0 := 1, op1 := 2, op2 := 3, epoch := 5, phase := 6, held := false }
def logged (n : Nat) : State := { base with mgmt := { base.mgmt with ring := (List.range n).map (fun i =>
  ({ epoch := 5, phase := 6, held := false, dropped := false, src := 1, sev := 1, op0 := 0, op1 := 0, op2 := 0, seq := i + 1, wrote := 5 } : LogRec)) } }

theorem test_sensors :
    islandOn base = true ∧ natAt (pre base).mgmt.warn 0 = 0 ∧ 0 < (pre base).mgmt.warn.length ∧
    tempLimit 0 ≤ (readings (tempLimit 0)).temp.getD 0 0 ∧ flagged (after (.sensorConversion (readings (tempLimit 0))) base) evMgtTempLimit = true ∧
    natAt (after (.sensorConversion (readings (tempLimit 0))) base).mgmt.limit 0 = 1 ∧
    tempTrip 0 ≤ (pre (hot (tempTrip 0))).mgmt.temp.getD 0 0 ∧ (after (.mgtThermTrip 0) (hot (tempTrip 0))).power.flush = some .trip ∧
    (let s := { hot 400 with mgmt := { (hot 400).mgmt with tripped := true } }
     (pre s).mgmt.tripped = true ∧ (∀ n : Nat, n < 32 → (pre s).mgmt.temp.getD n 0 ≤ tempLimit n - 160) ∧
     (after (.thermalRestart 2000000) s).mgmt.tripped = false) := by decide +kernel

theorem test_rails_and_log :
    railOut 0 788 = true ∧ railOut 0 787 = false ∧ (after (.mgtRailFault 0 788) base).mgmt.rails = [0] ∧ (after (.mgtRailFault 0 787) base).mgmt.rails = [] ∧
    (after .mgtRestart base).mgmt.run = false ∧
    (let s := { base with mgmt := { base.mgmt with evq := [event], logSeq := 8 } }
     (pre s).mgmt.evq = [event] ∧ memWf (pre s).mem = true ∧ (after .logRecordWrite s).mgmt.logSeq = 9 ∧
     memReadAll (after .logRecordWrite s).mem (0x20000 + 9 * 0x40) 12 = [5, 0, 0, 0, 0, 0, 6, 0, 0x20, 1, 2, 0]) ∧
    (pre base).mgmt.evq = [] ∧ ((logWaiting (pre (logged 300)))[255]?).map (fun r => r.seq) = some 256 ∧
    (after .logFlush (logged 300)).vault.log.length = 256 ∧ (after .logFlush (logged 300)).mgmt.copied = 256 ∧
    (let s := { logged 300 with vault := { base.vault with st := 0 } }
     vaultTakes (pre s) = false ∧ (after .logFlush s).vault.log = []) := by decide +kernel

/-- What the sideband sends. -/
def sent (s : State) : List (Option (List Byte)) := s.out.map (fun o => match o with
  | .smb l _ => l
  | _ => none)

/-- The check value of CRC-8 over the digits 1 to 9. -/
theorem test_pec : pec [0x31, 0x32, 0x33, 0x34, 0x35, 0x36, 0x37, 0x38, 0x39] = 0xF4 := by decide +kernel

theorem test_sideband :
    islandOn (pre base) = true ∧ (after .extest base).power.jtag = 0 ∧ (after .samplePreload base).power.jtag = 2 ∧
    sent (after .smbReadId base) = [some [0x16, 0x24, 0, 0, 0xA2, 0, 0, 0]] ∧ sent (after .smbReadStage base) = [some [3, 0]] ∧
    (pre base).mgmt.alertN = false ∧ sent (after .alertResponse base) = [none] ∧
    (let s := { base with mgmt := { base.mgmt with alertN := true, alert := 2 } }
     (pre s).mgmt.alertN = true ∧ sent (after .alertResponse s) = [some [0x78]] ∧ (after .alertStatus s).mgmt.alert = 0 ∧
     sent (after .alertStatus s) = [some [2, 0]]) ∧
    (after (.smbWriteReject true) base).live 0x160010 = 1 ∧
    (let s := { logged 1 with mgmt := { base.mgmt with lastBad := (logged 1).mgmt.ring.head? } }
     (pre s).mgmt.lastBad.isSome = true) ∧
    islandOn (pre (dark base.power)) = false ∧ (after .smbReadId (dark base.power)).out = [] := by decide +kernel

/-- A hold entry whose records have these statuses. -/
def holding (l : List Nat) : Hold :=
  { port := 0, ctx := 0, tag := 0, profile := 3, length := 64, hform := false, vec := 0, t0 := 0, lat := 450, view := 5, phase := 0, tok := none
    tokUsed := false, dm := none, dmHit := false, upds := [], learns := [], safes := [], advs := [], bads := [], spent := 0, pass := 1, prof := 3, csc := []
    faults := [], live0 := []
    recs := l.map (fun st => { table := 4, status := st, prio := 0, handle := 0, action := 0, data := 0, bits := 0, upd := none, learn := none
                               safe := false, trig := false, awBad := false }) }

theorem test_overall_status :
    (holding [0, 1, 5]).recs.all (fun r => decide (r.status ≤ 9)) = true ∧
    payload (responseFrame (holding [luHit, luMiss, luSafe])) 23 8 = luSafe ∧ payload (responseFrame (holding [luHit, luHit])) 23 8 = luHit ∧
    payload (responseFrame (holding [])) 23 8 = luTableAbsent := by decide +kernel

theorem test_queue :
    (match step { base with pending := [.stgCtrlReset 0 1, .vltLost] } with
     | .next t => t.power.flush == some .soft && t.pending == [.vltLost]
     | .fault _ => false
     | .refused _ => false) = true := by decide +kernel

theorem test_idle : step base = .next base := rfl

/-- An edge of SYNC_IN is a step of a module that is LOCKED: the epoch does not go back, and the banks stay canonical. -/
def edging : State := { base with epoch := { base.epoch with qual := .locked }, pending := [.syncInEdge 2000000] }

theorem test_invariants :
    memWf edging.mem = true ∧ resetsEpoch (.syncInEdge 2000000) = false ∧
    (match step edging with
     | .next t => decide (edging.epoch.count ≤ t.epoch.count) && memWf t.mem
     | .fault _ => false
     | .refused _ => false) = true := by decide +kernel

/-- An undetected array fault (R258): a MISS in place of the entry, or a wrong entry of the searched rows. -/
theorem test_undetected : cellAnswer 0 [row11] [.cell none] (some (rowFound 0 row11)) = none ∧
    cellAnswer 0 [row11] [.cell (some 11)] none = some (rowFound 0 row11) ∧ cellAnswer 0 [row11] [.cell (some 12)] none = none := by decide +kernel

/-! ### WellFormed: one ill-formed term for each check -/

theorem test_ill_formed :
    ([.keyReq 0 [], .hdrReq 0 (List.replicate 12 0), .dtWrite 0 [], .search [] 0 [], .answer [] 0,
      .requestAccept 0 0 0 [{ pass := 4, slot := 0, fault := .actionWord }] none,
      .requestAccept 0 0 0 [{ pass := 0, slot := 5, fault := .actionWord }] none, .responseEmit 0 0 [16] none, .laneFailure 0 28, .laneFailure 16 32,
      
      .bitSetWrite 0 0x7FFFFF [1] .none, .bitSetWrite 0 0xC00000 [1] .none, .bitClearWrite 0 0xBFFFFF [1] .none,
      .bitClearWrite 0 0x1000000 [1] .none, .registerWrite 0 0 [],
      .registerWrite 0 0x1000000 [1], .pwWrite 0 0x1BFFFC 0, .pwWrite 0 0x1E0000 0, .registerRead 0 0x1000000 4 .none, .registerRead 0 0 0 .none,
      .rcRead 0 0x1000000, .rshLatchRead 0 0x1000000 false, .rebuildStart 0 1056, .rebuildVerified 0 1056 true [], .rebuildVerified 0 0 true [.direct 0x100000], .settle 4 [.direct 0x100000],
      .entRead 0 { bus [] with errs := [.reg 0x1000000 .parity] }, .copySwap 0 1056,
      .scrubRun 0 1056 0 [] [] [], .scrubRun 0 0 64 [] [] [], .scrubRun 0 0 0 [(64, 0)] [] [], .scrubRun 0 0 0 [] [(64, 0)] [],
      .sensorConversion { readings 400 with temp := [] }, .sensorConversion { readings 400 with volt := [] },
      .sensorConversion { readings 400 with curr := [] }, .sensorConversion { readings 400 with bad := [65] },
      .scrubPassStart [.result 0x1000000 false], .scrubPassStart [.tree 255 0 0 false], .scrubPassStart [.tree 0 4 0 false],
      .scrubPassStart [.direct 0x100000], .scrubPassStart [.parity 0x1000000], .crumbEntry 0 true true true 7] : List Instr).all (fun i => !i.WellFormed) = true := by
  decide +kernel

theorem test_well_formed :
    ([.keyReq 0 [0], .hdrReq 0 (List.replicate 11 0), .requestAccept 0 0 0 [{ pass := 3, slot := 4, fault := .actionWord }] none, .laneFailure 16 28,
      .bitSetWrite 0 0x800000 [1] .none, .bitClearWrite 0 0xFFFFFF [1] .none, .registerWrite 0 0 [1], .pwWrite 0 0x1C0000 0, .registerRead 0 0 1 .none,
      .rebuildStart 0 1055, .scrubRun 0 1055 63 [(63, 5)] [(0, 5)] [], .sensorConversion { readings 400 with bad := [64] },
      .scrubPassStart [.result 0xFFFFFF true, .tree 254 3 0 true, .bank], .crumbEntry 0 true true true 6] : List Instr).all Instr.WellFormed = true := by
  decide +kernel

end Sys2Proof.Tests
end

section
/-! PROOFS. Lookup requests and results: the bits of a frame read back from its flits, the status in the
header of a response frame (R116, R117), and the precedence of the statuses (R123). -/

namespace Sys2Proof.Machine

/-! ### The bits of a frame -/

@[simp] theorem frameFlits_length (n v : Nat) : (frameFlits n v).length = (n + 255) / 256 := by simp [frameFlits]

/-- The flits that hold the low `m * 256` bits of `x`, the highest first, give these bits back. -/
theorem flitsNat_range (m x : Nat) :
    flitsNat ((List.range m).map (fun i => BitVec.ofNat 256 (x >>> (256 * (m - (i + 1)))))) = x % 2 ^ (256 * m) := by
  induction m with
  | zero => simp [flitsNat, Nat.mod_one]
  | succ m ih =>
    have split : x % 2 ^ (256 * m + 256) = x % 2 ^ (256 * m) + 2 ^ (256 * m) * (x / 2 ^ (256 * m) % 2 ^ 256) := by
      rw [Nat.pow_add, Nat.mod_mul]
    simp only [List.range_succ_eq_map, List.map_cons, List.map_map, Function.comp_def, flitsNat, List.length_map,
      List.length_range, Nat.succ_eq_add_one, Nat.add_sub_add_right, Nat.sub_zero, ih, BitVec.toNat_ofNat]
    rw [Nat.mul_succ, split, Nat.shiftRight_eq_div_pow, Nat.mul_comm, Nat.add_comm]

theorem flitsNat_frameFlits (n v : Nat) :
    flitsNat (frameFlits n v) = v * 2 ^ (256 * ((n + 255) / 256) - n) % 2 ^ (256 * ((n + 255) / 256)) := by
  simp only [frameFlits, Nat.sub_sub _ 1, Nat.add_comm 1]
  exact flitsNat_range _ _

/-- A field of a frame of `n` bits is the same field of the number it was built from: the padding follows it (R8, R429). -/
theorem payload_frameFlits {n first k : Nat} (v : Nat) (h : first + k ≤ n) :
    payload (frameFlits n v) first k = v >>> (n - first - k) % 2 ^ k := by
  have room : n ≤ 256 * ((n + 255) / 256) := by omega
  rw [payload, if_pos (by rw [frameFlits_length]; omega), flitsNat_frameFlits, frameFlits_length]
  generalize 256 * ((n + 255) / 256) = m at room ⊢
  apply Nat.eq_of_testBit_eq
  intro i
  by_cases hi : i < k
  · have kept : m - first - k + i < m := by omega
    have unpadded : m - n ≤ m - first - k + i := by omega
    have place : m - first - k + i - (m - n) = n - first - k + i := by omega
    simp [Nat.testBit_mod_two_pow, Nat.testBit_shiftRight, Nat.testBit_mul_two_pow, hi, kept, unpadded, place]
  · simp [Nat.testBit_mod_two_pow, hi]

/-! ### The header of a response frame -/

theorem recordBits_lt (st : Nat) (r : Rec) : recordBits st r < 2 ^ 128 := by
  have action := r.action.isLt
  unfold recordBits
  omega

/-- What stands in front of the records keeps its bits when they are packed after it (R117). -/
theorem packRecs_shiftRight (acc : Nat) (l : List Rec) :
    packRecs acc l >>> sumNat ((l.map (fun r => r.bits)).map (fun b => 128 + b)) = acc := by
  induction l generalizing acc with
  | nil => rfl
  | cons r l ih =>
    have data : r.data.toNat % 2 ^ r.bits < 2 ^ r.bits := Nat.mod_lt _ (Nat.two_pow_pos _)
    have record := recordBits_lt r.status r
    simp only [packRecs, List.map_cons, sumNat]
    rw [Nat.add_comm (128 + r.bits), Nat.shiftRight_add, ih, Nat.add_comm 128, Nat.shiftRight_add,
      Nat.shiftRight_eq_div_pow _ r.bits, Nat.shiftRight_eq_div_pow _ 128, Nat.mul_comm _ (2 ^ r.bits),
      Nat.mul_add_div (Nat.two_pow_pos _), Nat.div_eq_of_lt data]
    omega

/-- Bits 23 to 30 of a response frame are the overall status of its records (R116). -/
theorem payload_responseFrame_status (h : Hold) :
    payload (responseFrame h) 23 8 = luOverall (h.recs.map (fun r => r.status)) % 256 := by
  have flag : b2n h.dmHit ≤ 1 := by cases h.dmHit <;> decide
  have token : ∀ v, tokenWord v < 2 ^ 32 := by intro v; unfold tokenWord; omega
  unfold responseFrame
  extract_lets st tv hd n body
  have status : hd >>> 33 % 2 ^ 8 = st % 256 := by
    have := token tv
    simp only [hd, Nat.shiftRight_eq_div_pow]
    omega
  have room : 23 + 8 ≤ n := by simp only [n, responseLen]; omega
  have records : body >>> sumNat ((h.recs.map (fun r => r.bits)).map (fun b => 128 + b)) = hd := packRecs_shiftRight _ _
  rw [payload_frameFlits _ room]
  cases hdm : h.dm with
  | none =>
    have place : n - 23 - 8 = sumNat ((h.recs.map (fun r => r.bits)).map (fun b => 128 + b)) + 33 := by
      simp only [n, responseLen, hdm, Option.isSome_none, Bool.false_eq_true, if_false]; omega
    simp only [place, Nat.shiftRight_add, records, status, st]
  | some w =>
    have place : n - 23 - 8 = 256 + sumNat ((h.recs.map (fun r => r.bits)).map (fun b => 128 + b)) + 33 := by
      simp only [n, responseLen, hdm, Option.isSome_some, if_true]; omega
    have merge : (body * 2 ^ 256 + w.toNat) >>> 256 = body := by
      have := w.isLt
      rw [Nat.shiftRight_eq_div_pow]
      omega
    simp only [place, Nat.shiftRight_add, merge, records, status, st]

/-! ### The precedence of R123 -/

theorem luRank_luFirst (a b : Nat) : luRank (luFirst a b) = min (luRank a) (luRank b) := by
  unfold luFirst
  split <;> omega

theorem luOverall_cons {l : List Nat} (a : Nat) (h : l ≠ []) : luOverall (a :: l) = luFirst a (luOverall l) := by
  cases l with
  | nil => exact absurd rfl h
  | cons b l => rfl

theorem luOverall_mem {l : List Nat} (h : l ≠ []) : luOverall l ∈ l := by
  induction l with
  | nil => exact absurd rfl h
  | cons a l ih =>
    rcases Decidable.em (l = []) with rfl | hl
    · exact List.mem_singleton_self a
    · rw [luOverall_cons a hl, luFirst]
      split
      · exact List.mem_cons_self
      · exact List.mem_cons_of_mem a (ih hl)

/-- No status of the list comes before the overall one. -/
theorem luRank_luOverall_le {l : List Nat} {a : Nat} (ha : a ∈ l) : luRank (luOverall l) ≤ luRank a := by
  induction l with
  | nil => exact absurd ha List.not_mem_nil
  | cons b l ih =>
    rcases Decidable.em (l = []) with rfl | hl
    · rw [List.mem_singleton.mp ha]; exact Nat.le_refl _
    · rw [luOverall_cons b hl, luRank_luFirst]
      rcases List.mem_cons.mp ha with rfl | ha
      · exact Nat.min_le_left _ _
      · exact Nat.le_trans (Nat.min_le_right _ _) (ih ha)

end Sys2Proof.Machine

namespace Sys2Proof.Claim

open Machine

/-- The rank of a status is its place in the order of R123. -/
theorem luRank_precedence : ∀ i, (hi : i < precedence.length) → luRank precedence[i] = i := by decide

theorem precedence_luRank : ∀ st ≤ 9, ∃ hi : luRank st < precedence.length, precedence[luRank st] = st := by decide

/-- The first status of the order that a list holds is its overall status. -/
theorem find_precedence_luOverall {l : List Nat} (h : l ≠ []) (known : ∀ st ∈ l, st ≤ 9) :
    precedence.find? (fun st => l.any (fun r => r == st)) = some (luOverall l) := by
  have mem := luOverall_mem h
  obtain ⟨hi, place⟩ := precedence_luRank _ (known _ mem)
  refine List.find?_eq_some_iff_getElem.mpr ⟨by simpa using mem, luRank (luOverall l), hi, place, fun j hj => ?_⟩
  have earlier : ∀ st ∈ l, st ≠ precedence[j] := fun st held same => by
    have order := luRank_luOverall_le held
    rw [same, luRank_precedence] at order
    omega
  simpa using earlier

/-- HIT is the last of the order: it is the overall status only of lookups that all hit. -/
theorem luOverall_eq_hit_iff {l : List Nat} (known : ∀ st ∈ l, st ≤ 9) :
    luOverall l = luHit ↔ l ≠ [] ∧ ∀ st ∈ l, st = luHit := by
  have last : ∀ st ≤ 9, luRank luHit ≤ luRank st → st = luHit := by decide
  constructor
  · intro hit
    refine ⟨fun hl => ?_, fun st held => last st (known st held) (hit ▸ luRank_luOverall_le held)⟩
    rw [hl] at hit
    exact absurd hit (by decide)
  · rintro ⟨h, all⟩
    exact all _ (luOverall_mem h)

theorem luOverall_le {l : List Nat} (known : ∀ st ∈ l, st ≤ 9) : luOverall l ≤ 9 := by
  rcases Decidable.em (l = []) with rfl | h
  · decide
  · exact known _ (luOverall_mem h)

/-- Settles O55: the header carries the status of lowest rank, and the rank of a status is its place in the order of R123. -/
theorem overallStatusTakesTheFirst : Obligations.OverallStatusTakesTheFirst := by
  unfold Obligations.OverallStatusTakesTheFirst
  intro h statuses
  have known : ∀ st ∈ h.recs.map (fun r => r.status), st ≤ 9 := by simpa using statuses
  have overall : payload (responseFrame h) 23 8 = luOverall (h.recs.map (fun r => r.status)) := by
    rw [payload_responseFrame_status, Nat.mod_eq_of_lt (by have := luOverall_le known; omega)]
  have held : ∀ st, h.recs.any (fun r => r.status == st) = (h.recs.map (fun r => r.status)).any (fun r => r == st) := by
    intro st
    rw [List.any_map]
    rfl
  simp only [overall, held]
  refine ⟨fun empty => by rw [empty]; rfl, fun nonempty => ?_, ?_⟩
  · exact find_precedence_luOverall (by simpa using nonempty) known
  · rw [luOverall_eq_hit_iff known]
    simp

end Sys2Proof.Claim
end

section
/-! PROOFS. What every command and every step keeps: a next state, the queue, the canonical form of the shared banks
(R14) and, but for the resets of the module, the order of the epoch counter (R38). -/

namespace Sys2Proof.Machine

/-- A place past the end of a list reads as the default. -/
theorem getD_past {α : Type} (l : List α) {n : Nat} (d : α) (past : l.length ≤ n) : l.getD n d = d := by
  rw [List.getD_eq_getElem?_getD, List.getElem?_eq_none past, Option.getD_none]

/-- A list of copies of the default reads as the default everywhere. -/
theorem getD_replicate_default {α : Type} (d : α) (n p : Nat) : (List.replicate n d).getD p d = d := by
  rw [List.getD_eq_getElem?_getD, List.getElem?_replicate]
  split
  · exact Option.getD_some
  · exact Option.getD_none

end Sys2Proof.Machine

namespace Sys2Proof.Claim

open Machine

/-- What a register write of a port does after the port's order is settled moves on from the state before it. -/
theorem moves_prePort {s t : State} {p : Nat} (h : Moves (prePort s p) t) : Moves s t := (Moves.of_still (prePort_still s p)).trans h

theorem moves_pre {s t : State} (h : Moves (pre s) t) : Moves s t := (Moves.of_still (pre_still s)).trans h

theorem keeps_pre {s t : State} (h : Keeps (pre s) t) : Keeps s t := (Moves.of_still (pre_still s)).keeps.trans h

/-- Every command but the resets of the module answers a next state that the present one moves to: those of the time base,
the writes of the management ports, of completions and of the log by their own laws, every other because it is still. -/
theorem exec_moves (i : Instr) (s : State) (h : resetsEpoch i = false) : Gives i s (Moves s) := by
  cases i with
  | resetFlushDone | powerDown | pwrEnFall | powerLoss | vinOvervoltage | pwrGoodRise | thermalRestart => cases h
  | syncInEdge t => exact ⟨_, rfl, edgeOp_moves s t⟩
  | synthesizedStep => exact ⟨_, rfl, synOp_moves s⟩
  | epoHoldover => exact ⟨_, rfl, holdoverOp_moves s⟩
  | epoLost => exact ⟨_, rfl, lostOp_moves s⟩
  | arm | doorbell | mbCplHeadWrite | ownClaimCast | ownClaimWithdraw | renew | updStrobe | updSchedSet | updSchedDisarm | stgCtrlReset |
    ccDrainStart | ccEnable | wayDisableWrite | wayEnableWrite | retrain | widen | pwWrite =>
    exact ⟨_, rfl, moves_prePort (busWrite4_moves ..)⟩
  | bitSetWrite | bitClearWrite => exact ⟨_, rfl, moves_prePort (busWriteOp_moves ..)⟩
  | registerWrite =>
    exact ⟨_, rfl, moves_prePort (ite_moves (.of_still (poisonedWrite_still ..)) (busWriteOp_moves ..))⟩
  | completionPost mb => exact ⟨_, rfl, moves_pre (completionPost_moves _ mb)⟩
  | mailboxRestart p => exact ⟨_, rfl, moves_pre (mailboxRestart_moves _ p)⟩
  | journalProgramDone n ue =>
    refine ⟨_, rfl, moves_pre (.of_still ?_)⟩
    cases ue with
    | none => exact journalProgramDone_still ..
    | some q => exact (journalProgramDone_still ..).trans (stageUe_still ..)
  | logRecordWrite => exact ⟨_, rfl, moves_pre (logWrite_moves _)⟩
  | chatterEnd | beacon | clkOscSwitch | clkOscLost =>
    exact ⟨_, rfl, .of_still (by simp only [ite_still, ite_self, beaconIn_still, chatterEndOp_still, oscFail_still, oscSwitch_still,
      pre_still])⟩
  | keyReq | hdrReq | requestAccept | responseEmit | dtWrite | linkFlit | laneFailure | widenReq | flitCheckFail | lnkReplayLimit | lnkUp
    | trainRetry | helloSend | hello | cscChainLost | search | answerSend | answer | win =>
    exact ⟨_, rfl, .of_still (by simp only [acceptRequest_still, answerIn__still, answerSend_still, chainLost_still, checkFail_still,
      dtWriteIn_still, emitResponse_still, helloIn_still, helloSend_still, laneFails_still, linkFlitIn_still, pre_still,
      replayLimit_still, requestIn_still, searchIn_still, trainEnd_still, widenFlit_still, winIn_still])⟩
  | commandAccept | commandStart | irqCoalesceTimer =>
    exact ⟨_, rfl, .of_still (by simp only [commandAccept_still, commandStart_still, irqTimer_still, pre_still])⟩
  | tblCreate | tblDestroy | tblAlter | tblMirror | entInsert | entDelete | entModify | entReprio | entBatch | glazeSchedule | glazeAbort
    | learnCfg | ageSweep | cntRead | cntClear | cntSnapshot | vaultImport =>
    refine ⟨_, rfl, moves_pre (.of_still (withCmdSlots_still _ _ _ _ fun _ _ => ?_))⟩
    simp only [cmdAgeSweep_still, cmdCntClear_still, cmdCntRead_still, cmdCntSnapshot_still, cmdEntBatch_still, cmdEntDelete_still,
      cmdEntInsert_still, cmdEntModify_still, cmdEntReprio_still, cmdGlazeAbort_still, cmdGlazeSchedule_still, cmdLearnCfg_still,
      cmdTblAlter_still, cmdTblCreate_still, cmdTblDestroy_still, cmdTblMirror_still, cmdVaultImport_still, meet_still]
  | fence | entRead | querySearch | queryFind | tblStats | vaultCheckpoint | vaultExport | crumbSet | vaultStatus | ownClaim | ownRenew |
    ownHandover | ownAccept | ownRelease | blockRetire | waitgraphRead | logRead | sensorRead =>
    refine ⟨_, rfl, moves_pre (.of_still (withCmd_still _ _ _ _ fun _ _ => ?_))⟩
    simp only [askQuery_still, cmdBlockRetire_still, cmdCrumbSet_still, cmdEntRead_still, cmdFence_still, cmdLogRead_still,
      cmdOwnAccept_still, cmdOwnClaim_still, cmdOwnHandover_still, cmdOwnRelease_still, cmdOwnRenew_still, cmdQueryFind_still,
      cmdQuerySearch_still, cmdSensorRead_still, cmdTblStats_still, cmdVaultCheckpoint_still, cmdVaultExport_still, cmdVaultStatus_still,
      cmdWaitgraph_still, meet_still]
  | scrubNow | testBlock | hold | flush | invalidate | discard | install | generate | erase | readPub =>
    refine ⟨_, rfl, moves_pre (.of_still (withCmdIf_still _ _ _ _ _ fun _ _ => ?_))⟩
    simp only [cmdCacheMaint_still, cmdErase_still, cmdGenerate_still, cmdInstall_still, cmdReadPub_still, cmdSprinkle_still, meet_still]
  | leaseEnd | ownershipVacant | handoverPass | scheduledApply | wheelGoesLive | rcRead | rshLatchRead | pwBusyClear | registerRead =>
    exact ⟨_, rfl, .of_still (by simp only [busReadOp_still, dueUpTo_still, pre_still, preRead_still, pwTake_still, settle__still,
      wheelLiveAt_still])⟩
  | glazeEffect | internalGlazeSeal | copyMapChange | settle | learnApply | ageSweepStart | ageCompare | snapshotTake | cntSnapDone |
    ccFillReturn | ccWayOff | ccDrained | ageSweepDone =>
    exact ⟨_, rfl, .of_still (by simp only [ageDone_still, ageMeet_still, ccDrained_still, dueUpTo_still, fillMeet_still, learnMeet_still,
      pre_still, settleMeet_still, settle__still, snapDone_still, snapshotMeet_still, wayOff_still, withSlots_still])⟩
  | autoMirrorWindowEnd | rebuildStart | rebuildVerified | copySwap | scrubPassStart | scrubRun | testWindow | arrayTestDone |
    sbRegionTestStart | sbRegionTestDone | wdgStall | stallAbort | checkpointStart | vltCkptDone | patrolPeriodStart |
    vltRetire | vltLost | scrubPassDone =>
    exact ⟨_, rfl, .of_still (by simp only [ite_still, ite_self, arrayTestDone_still, ckptDone_still, dueUpTo_still, patrolStart_still, pre_still, preAt_still, rebuildMeet_still, rebuildStart_still, sbTestDone_still,
      scrubDone_still, scrubMeet_still, scrubStart_still, settle__still, stallAbort_still, vltLost_still, vltRetire_still,
      wdgStall_still])⟩
  | pwrInLow | pwrEnRise | mrstNLow | mrstNRelease | perstAssert | trstN | bypass | idcode | samplePreload | extest | clamp | highz |
    extestPulse | extestTrain | crumbEntry | tableRestoreDone | stgPromote | crumbSpareRelease | faultsafeEntry | sensorConversion |
    mgtThermTrip | mgtRailFault | mgtRestart | logFlush | smbReadId | smbReadStage | smbReadStageStatus | smbReadTemp | smbReadVolt |
    smbReadCurr | smbReadPower | alertStatus | smbLogSummary | alertResponse | smbWriteReject | lnkFrameErr | codewordLockGained |
    pwrGoodLate | vinRestart | pwrenLowElapsed =>
    exact ⟨_, rfl, .of_still (by simp only [ite_still, ite_self, crumbEntry_still, crumbRelease_still, dueUpTo_still, frameErrIn_still,
      fsEntry_still, laneLock_still, logFlush_still, mgtRestart_still, mrstLow_still, mrstRelease_still, perstAssert_still, pre_still,
      preAt_still, pwrEnRise_still, pwrGoodLate_still, pwrInLow_still, pwrenElapsed_still, railFault_still, sensorScan_still,
      settle__still, smbAlertStatus_still, smbAnswer_still, smbAra_still, smbReject_still, smbSummary_still, tableRestored_still,
      tapIdcode_still, tapLoad_still, thermTrip_still, vinRestart_still])⟩

/-- Every command answers a next state with the queue as it was and the banks in their form, resets too. -/
theorem exec_keeps (i : Instr) (s : State) : Gives i s (Keeps s) := by
  by_cases h : resetsEpoch i = false
  · obtain ⟨t, next, moves⟩ := exec_moves i s h
    exact ⟨t, next, moves.keeps⟩
  · cases i with
    | resetFlushDone => exact ⟨_, rfl, keeps_pre (resetFlushDone_keeps _)⟩
    | powerDown => exact ⟨_, rfl, keeps_pre (powerDown_keeps _)⟩
    | pwrEnFall => exact ⟨_, rfl, keeps_pre (pwrEnFall_keeps _)⟩
    | powerLoss n => exact ⟨_, rfl, keeps_pre (vinLow_keeps _ n)⟩
    | vinOvervoltage n => exact ⟨_, rfl, keeps_pre (vinHigh_keeps _ n)⟩
    | pwrGoodRise t f m => exact ⟨_, rfl, keeps_pre (pwrGoodRise_keeps _ t f m)⟩
    | thermalRestart t => exact ⟨_, rfl, keeps_pre (thermalRestart_keeps _ t)⟩
    | _ => exact absurd rfl h

theorem step_of_queue {s : State} {c : Instr} {rest : List Instr} (h : s.pending = c :: rest) :
    step s = exec c { s with pending := rest } := by simp only [step, h]

/-- Settles O57: both halves are the two cases of the queue. -/
theorem stepRunsTheFrontCommand : Obligations.StepRunsTheFrontCommand := by
  unfold Obligations.StepRunsTheFrontCommand
  exact fun c rest s => ⟨rfl, rfl⟩

/-- Settles O56: the units of the reset state, evaluated; a port or a mailbox that does not exist reads as a reset one. -/
theorem resetLeavesDormant : Obligations.ResetLeavesDormant := by
  unfold Obligations.ResetLeavesDormant
  have link (p : Nat) : State.reset.link p = Link.reset := getD_replicate_default _ 18 p
  have box (m : Nat) : State.reset.box m = Mbox.reset := getD_replicate_default _ 4 m
  exact ⟨rfl, rfl, rfl, rfl, rfl, rfl, rfl, rfl, rfl, rfl, rfl, fun p => by rw [link]; rfl, box, rfl, rfl, rfl⟩

/-- Settles O58: every command keeps the queue. -/
theorem everyCommandGoesOn : Obligations.EveryCommandGoesOn := by
  unfold Obligations.EveryCommandGoesOn
  intro i s
  obtain ⟨t, next, keeps⟩ := exec_keeps i s
  exact ⟨t, next, keeps.queue⟩

/-- Settles O59: an idle step answers the same state, and every command keeps the form. -/
theorem banksStayCanonical : Obligations.BanksStayCanonical := by
  unfold Obligations.BanksStayCanonical
  intro s t wf run
  cases queue : s.pending with
  | nil =>
    simp only [step, queue, Host.Outcome.next.injEq] at run
    exact run ▸ wf
  | cons c rest =>
    rw [step_of_queue queue] at run
    obtain ⟨v, next, keeps⟩ := exec_keeps c { s with pending := rest }
    obtain rfl : v = t := by simpa [next] using run
    exact keeps.banks wf

/-- Settles O60: every command but those resets moves on. -/
theorem epochNeverGoesBack : Obligations.EpochNeverGoesBack := by
  unfold Obligations.EpochNeverGoesBack
  intro s t c rest queue plain run
  rw [step_of_queue queue] at run
  obtain ⟨v, next, moves⟩ := exec_moves c { s with pending := rest } plain
  obtain rfl : v = t := by simpa [next] using run
  exact moves.epoch

end Sys2Proof.Claim
end

section
/-! PROOFS. The time base: the epoch an epoch step leaves, the edges of SYNC_IN and the loss of the input (R30 to R38), and
the oscillators (R17, R374). -/

namespace Sys2Proof.Machine

/-! ### What an epoch step does to the time base -/

@[simp] theorem stepVectors_now (s : State) : (stepVectors s).now = s.now :=
  foldl_keep (fun t : State => t.now = s.now) _ (fun _ _ h => by simpa using h) _ _ rfl

@[simp] theorem stepVectors_epoch (s : State) : (stepVectors s).epoch = s.epoch :=
  foldl_keep (fun t : State => t.epoch = s.epoch) _ (fun _ _ h => by simpa using h) _ _ rfl

theorem stepVectors_live (s : State) (a : Nat) (h : evReg a = false) : (stepVectors s).live a = s.live a :=
  foldl_keep (fun t : State => t.live a = s.live a) _
    (fun t k ht => (live_raiseVec t (k / 64) (k % 64) a h (Nat.mod_lt k (by decide))).trans ht) _ _ rfl

@[simp] theorem tellNumbering_now (s : State) (a : Numbering) (n : Nat) (b : Bool) : (tellNumbering s a n b).now = s.now := by
  unfold tellNumbering
  cases softNow s 0x30024 <;> cases b <;> cases a.raised <;> cases a.reject <;> cases a.slip <;> simp

@[simp] theorem tellNumbering_epoch (s : State) (a : Numbering) (n : Nat) (b : Bool) : (tellNumbering s a n b).epoch = s.epoch := by
  unfold tellNumbering
  cases softNow s 0x30024 <;> cases b <;> cases a.raised <;> cases a.reject <;> cases a.slip <;> simp

/-- Numbering writes no register but those that tell of it and those of its events. -/
theorem tellNumbering_live (s : State) (a : Numbering) (n : Nat) (b : Bool) (r : Nat) (h : evReg r = false)
    (hr : r ∉ [0x30024, 0x30018, 0x3002C, 0x3001C]) : (tellNumbering s a n b).live r = s.live r := by
  have raised : ∀ (t : State) (e : Ev) (o0 o1 o2 : Nat), e.src < 704 → (t.raise e o0 o1 o2).live r = t.live r :=
    fun t e o0 o1 o2 he => live_raise t e o0 o1 o2 r h he
  simp only [List.mem_cons, List.not_mem_nil, or_false, not_or] at hr
  obtain ⟨h24, h18, h2C, h1C⟩ := hr
  unfold tellNumbering
  cases softNow s 0x30024 <;> cases b <;> cases a.raised <;> cases a.reject <;> cases a.slip <;>
    simp [raised, evEpoNumbered, evEpoSetReject, evEpoSlip, live_clrBits_ne _ _ _ _ h24, live_bumpField_ne _ _ _ _ _ _ h18,
      live_bump_ne _ _ _ _ h2C, live_setBits_ne _ _ _ _ h1C]

/-- The epoch that the counter's advance leaves, before the epochs in ACQUIRE or HOLDOVER are counted. -/
def steppedEpoch (s : State) (held : Bool) (off : Nat) : Epoch :=
  { s.epoch with count := (numbering s).next, prev := s.epoch.count, stepAt := s.now, phase0 := s.now, off := off, held := held,
                 numbered := (numbering s).numbered, beacon := none }

/-- Counting the hold changes the qualification, the count and the grid of synthesized steps alone: it leaves LOCKED as it
is, counts an epoch below the limit, and enters LOST at the limit (R37). -/
theorem countHold_epoch (s : State) : ∃ q h b k, (countHold s).epoch = { s.epoch with qual := q, holdCount := h, synBase := b, synK := k } ∧
    (s.epoch.qual = .locked → q = .locked) ∧
    (s.epoch.qual = .holdover → s.epoch.holdCount < holdLimit s → q = .holdover ∧ h = s.epoch.holdCount + 1) ∧
    (s.epoch.qual = .acquire ∨ s.epoch.qual = .holdover → holdLimit s ≤ s.epoch.holdCount → q = .lost) := by
  unfold countHold
  split
  next counts =>
    have held : s.epoch.qual ≠ .locked := by rcases counts with h | h <;> simp [h]
    split
    next below => exact ⟨_, _, _, _, rfl, by simp [held], fun h _ => ⟨h, rfl⟩, fun _ h => by omega⟩
    next above =>
      simp only [State.raise_epoch, State.setBits_epoch]
      split
      · exact ⟨_, _, _, _, rfl, by simp [held], fun _ h => by omega, fun _ _ => rfl⟩
      · exact ⟨_, _, _, _, rfl, by simp [held], fun _ h => by omega, fun _ _ => rfl⟩
  next free =>
    simp only [not_or] at free
    exact ⟨_, _, _, _, rfl, id, fun h => absurd h free.2, fun h => by simp_all⟩

/-- The epoch after the counter's advance (R38), with what the count of the hold makes of it. -/
theorem stepCount_epoch (s : State) (held : Bool) (off : Nat) :
    ∃ q h b k, (stepCount s held off).epoch = { steppedEpoch s held off with qual := q, holdCount := h, synBase := b, synK := k } ∧
      (s.epoch.qual = .locked → q = .locked) ∧
      (s.epoch.qual = .holdover → s.epoch.holdCount < holdLimit s → q = .holdover ∧ h = s.epoch.holdCount + 1) ∧
      (s.epoch.qual = .acquire ∨ s.epoch.qual = .holdover → holdLimit s ≤ s.epoch.holdCount → q = .lost) := by
  unfold stepCount
  extract_lets a n beacon e s1
  have epoch : (tellNumbering (stepVectors s1) a n beacon).epoch = steppedEpoch s held off := by simp only [tellNumbering_epoch, stepVectors_epoch]; rfl
  have limit : holdLimit (tellNumbering (stepVectors s1) a n beacon) = holdLimit s := by
    unfold holdLimit State.cfg
    rw [tellNumbering_live _ _ _ _ _ (by decide) (by decide), stepVectors_live _ _ (by decide)]
    rfl
  have facts := countHold_epoch (tellNumbering (stepVectors s1) a n beacon)
  rwa [epoch, limit] at facts

@[simp] theorem chainStep_epoch (s : State) : (chainStep s).epoch = s.epoch := by
  simp only [chainStep, apply_ite State.epoch, State.raise_epoch, ite_self]

@[simp] theorem stageTo_epoch (s : State) (n : Nat) : (stageTo s n).epoch = s.epoch := by
  simp only [stageTo, apply_ite State.epoch, State.raise_epoch, ite_self]

@[simp] theorem stepStage_epoch (s : State) : (stepStage s).epoch = s.epoch := by
  simp only [stepStage, fullWhenDone, apply_ite State.epoch, stageTo_epoch, ite_self]

theorem still_mem (s : State) : s.still.1 = s.mem := rfl

/-- What follows the counter at a step leaves the epoch (R42). -/
@[simp] theorem epochStep_epoch (s : State) (held : Bool) (off : Nat) : (epochStep s held off).epoch = (stepCount s held off).epoch := by
  unfold epochStep
  extract_lets draining s1 s2 l
  have rings : s1.epoch = (stepCount s held off).epoch :=
    foldl_keep (fun t : State => t.epoch = (stepCount s held off).epoch) _ (fun _ _ h => by simpa [markRings] using h) _ _
      (by simp [markSettling])
  have warned : s2.epoch = s1.epoch := by simp only [s2]; split <;> simp
  clear_value l s2 s1
  exact warned.trans rings

/-- An epoch step leaves the shared banks. -/
@[simp] theorem epochStep_mem (s : State) (held : Bool) (off : Nat) : (epochStep s held off).mem = s.mem := by
  have still : (stepCount s held off).still.1 = s.mem := by
    unfold stepCount
    simp only [countHold_still, tellNumbering_still, stepVectors_still]
    rfl
  rw [← still_mem, epochStep_still, still]

/-! ### HOLDOVER, synthesized steps and edges -/

/-- HOLDOVER begins with a step at phase 512 (R34). -/
theorem enterHoldover_epoch (s : State) : ∃ v, enterHoldover s = v ∧ v.epoch.qual = .holdover ∧ v.epoch.off = 512 ∧
    v.epoch.phase0 = s.now ∧ v.epoch.held = true ∧ s.epoch.count < v.epoch.count ∧ v.epoch.holdCount = 1 ∧ v.epoch.consec = 0 ∧
    v.epoch.chatter = s.epoch.chatter ∧ v.mem = s.mem := by
  refine ⟨_, rfl, ?_⟩
  unfold enterHoldover
  extract_lets s1 e s2 base e2 s3
  have adopted : s2.epoch.qual = .holdover ∧ s2.epoch.consec = 0 ∧ s2.epoch.holdCount = 0 ∧ s2.epoch.chatter = s.epoch.chatter ∧
      s2.epoch.count = s.epoch.count ∧ s2.now = s.now ∧ s2.mem = s.mem := by
    simp only [s2, adoptNominal]
    split <;> simp [e, s1]
  obtain ⟨qual, consec, hold, chatter, count, now, mem⟩ := adopted
  obtain ⟨q, h, b, k, epoch, -, counted, -⟩ := stepCount_epoch s3 true 512
  obtain ⟨rfl, rfl⟩ := counted qual (by simp only [holdLimit, s3, e2, hold]; omega)
  have later := stepCount_count s3 true 512
  rw [epoch] at later
  rw [epochStep_mem, epochStep_epoch, epoch]
  exact ⟨rfl, rfl, now, rfl, count ▸ later, congrArg (· + 1) hold, consec, chatter, mem⟩

/-! ### FAULTSAFE (R374) -/

theorem enterFs_cause (s : State) (b d : Nat) : (enterFs s b d).stage.fsCause = s.stage.fsCause ||| BitVec.ofNat 5 (2 ^ b) := by
  unfold enterFs
  dsimp only
  split
  · rfl
  · split <;> simp

theorem enterFs_up (s : State) (b d : Nat) (h : s.stage.stage ≠ 0) : (enterFs s b d).stage.stage = 4 := by
  unfold enterFs
  dsimp only
  split
  · assumption
  · simp

/-- In DORMANT a cause of FAULTSAFE is kept for its end (R365). -/
theorem enterFs_dormant (s : State) (b d : Nat) (h : s.stage.stage = 0) :
    (enterFs s b d).stage.stage = 0 ∧ (enterFs s b d).stage.fsPending = true := by
  unfold enterFs
  dsimp only
  rw [if_neg (by omega), if_pos h]
  exact ⟨h, rfl⟩

theorem enterFs_frame (s : State) (b d : Nat) : enterFs s b d =
    { s with stage := (enterFs s b d).stage, regs := (enterFs s b d).regs, mgmt := (enterFs s b d).mgmt, out := (enterFs s b d).out } := by
  unfold enterFs
  dsimp only
  split
  · rfl
  · split
    · rfl
    · apply State.same_fields <;> simp

end Sys2Proof.Machine
namespace Sys2Proof.Claim

open Machine

theorem gives_of {i : Instr} {s t : State} {P : State → Prop} (run : exec i s = .next t) (h : P t) : Gives i s P := ⟨t, run, h⟩

/-! ### Edges of SYNC_IN -/

/-- Without chatter an edge is ignored when it is early, and accepted with its reference edge else (R30). -/
theorem syncEdge_calm (u : State) (calm : u.epoch.chatter = false) :
    syncEdge u u.now = if tooEarly u then ignoreEdge u u.now else acceptEdge u u.now (reference u) := by
  unfold syncEdge tooEarly
  simp only [calm, Bool.false_and, Bool.false_eq_true, if_false]
  rw [show (if u.epoch.fresh then none else u.epoch.lastAcc.filter fun a => decide (2 * (u.now - a) < 3 * tEpoch u)) = reference u from rfl]
  cases reference u <;> simp

/-- The edges ignored within one tEPOCH, newest first, once one is ignored now. -/
def ignoredList (u : State) : List Nat := u.now :: u.epoch.ignored.filter (fun x => decide (u.now ≤ x + tEpoch u))

theorem length_ignoredList (u : State) : (ignoredList u).length = ignoredNow u := rfl

/-- The state once an edge is ignored now. -/
def ignored (u : State) : State :=
  { u.bump 0x30028 with epoch := { u.epoch with ignored := ignoredList u, lastEdge := some u.now } }

/-- The state once chatter has begun with it. -/
def chattering (u : State) : State :=
  { ((ignored u).setBits 0x3001C 8).raise evEpoChatter with epoch := { (ignored u).epoch with chatter := true, consec := 0 } }

/-- An ignored edge is counted; four in one tEPOCH, or any while the input chatters, change nothing else, and a fifth starts
chatter (R31). -/
theorem ignoreEdge_eq (u : State) : ignoreEdge u u.now =
    if u.epoch.chatter = true ∨ ignoredNow u ≤ 4 then ignored u
    else if u.epoch.qual = .locked then enterHoldover (chattering u) else chattering u := by
  simp only [ignoreEdge, tEpoch, State.bump_epoch, State.raise_epoch, State.setBits_epoch, Bool.or_eq_true, decide_eq_true_eq,
    ← length_ignoredList, ignoredList, chattering, ignored]
  rfl

theorem ignored_frame (u : State) :
    ignored u = { u with regs := (ignored u).regs, epoch := { u.epoch with ignored := (ignored u).epoch.ignored, lastEdge := some u.now } } := by
  apply State.same_fields <;> simp [ignored]

theorem chattering_due (u : State) : (chattering u).due = u.due := by simp [chattering, ignored]

/-- The fifth ignored edge in one tEPOCH starts chatter, and ends LOCKED. -/
theorem ignoreEdge_chatters (u : State) (calm : u.epoch.chatter = false) (many : 4 < ignoredNow u) :
    ∃ v, ignoreEdge u u.now = v ∧ v.epoch.chatter = true ∧ v.epoch.consec = 0 ∧
      (u.epoch.qual = .locked → v.epoch.qual = .holdover ∧ u.epoch.count < v.epoch.count ∧ v.epoch.off = 512) ∧
      (u.epoch.qual ≠ .locked → v.epoch.qual = u.epoch.qual ∧ v.epoch.count = u.epoch.count ∧ v.due = u.due) := by
  have begins : ¬ (u.epoch.chatter = true ∨ ignoredNow u ≤ 4) := by simp [calm, many]
  rw [ignoreEdge_eq, if_neg begins]
  by_cases locked : u.epoch.qual = .locked
  · rw [if_pos locked]
    obtain ⟨v, run, qual, off, -, -, count, -, consec, chatter, -⟩ := enterHoldover_epoch (chattering u)
    exact ⟨v, run, chatter, consec, fun _ => ⟨qual, count, off⟩, fun other => absurd locked other⟩
  · rw [if_neg locked]
    exact ⟨_, rfl, rfl, rfl, fun h => absurd h locked, fun _ => ⟨rfl, rfl, chattering_due u⟩⟩

/-- An accepted edge is recorded: it is the last one, it adds its interval, and the synthesized grid starts at it (R32 to R34). -/
def edgeTaken (s : State) (t : Nat) (ref : Option Nat) : State :=
  let w := adoptNominal { s with epoch := { s.epoch with
    intervals := match ref with
      | some r => ((t - r) :: s.epoch.intervals).take 16
      | none => s.epoch.intervals
    lastAcc := some t, lastEdge := some t, fresh := false, consec := if ref.isSome then s.epoch.consec + 1 else 1 } }
  { w with epoch := { w.epoch with synBase := t, synK := 1 } }

/-- LOCKED is entered with the second accepted edge in a row (R32). -/
def lockedBy (s : State) : State :=
  if s.epoch.qual != .locked && decide (2 ≤ s.epoch.consec) then { s with epoch := { s.epoch with qual := .locked } }.raise evEpoLocked
  else s

/-- The phase starts again now, without a step. -/
def phaseMoved (s : State) : State := { s with epoch := { s.epoch with phase0 := s.now, off := 0 } }

theorem acceptEdge_eq (s : State) (t : Nat) (ref : Option Nat) : acceptEdge s t ref =
    (let v := edgeTaken s t ref
     let w := lockedBy v
     if v.epoch.qual = .holdover ∨ v.epoch.qual = .lost then
      (if decide (512 ≤ s.epoch.phase s.now) then epochStep w false 0 else phaseMoved w)
     else if (s.epoch.held && decide (s.epoch.stepAt / 8 = s.now / 8)) && v.epoch.qual == .acquire then phaseMoved w
     else epochStep w false 0) := rfl

theorem edgeTaken_fields (s : State) (t : Nat) (ref : Option Nat) : (edgeTaken s t ref).epoch.qual = s.epoch.qual ∧
    (edgeTaken s t ref).epoch.count = s.epoch.count ∧ (edgeTaken s t ref).epoch.stepAt = s.epoch.stepAt ∧
    (edgeTaken s t ref).epoch.lastAcc = some t ∧
    edgeTaken s t ref = { s with epoch := (edgeTaken s t ref).epoch, regs := (edgeTaken s t ref).regs } := by
  simp only [edgeTaken, adoptNominal]
  split <;> exact ⟨rfl, rfl, rfl, rfl, rfl⟩

theorem lockedBy_fields (s : State) : (lockedBy s).epoch.count = s.epoch.count ∧ (lockedBy s).epoch.stepAt = s.epoch.stepAt ∧
    (lockedBy s).epoch.lastAcc = s.epoch.lastAcc ∧ (s.epoch.qual = .locked → (lockedBy s).epoch.qual = .locked) ∧
    lockedBy s = { s with epoch := (lockedBy s).epoch, regs := (lockedBy s).regs, mgmt := (lockedBy s).mgmt, out := (lockedBy s).out } := by
  unfold lockedBy
  split
  · exact ⟨by simp, by simp, by simp, by simp, by apply State.same_fields <;> simp⟩
  · exact ⟨rfl, rfl, rfl, id, rfl⟩

/-- The state in which an accepted edge steps the epoch or moves the phase. -/
def accepted (u : State) : State := lockedBy (edgeTaken u u.now (reference u))

theorem accepted_fields (u : State) : (accepted u).epoch.count = u.epoch.count ∧ (accepted u).epoch.stepAt = u.epoch.stepAt ∧
    (accepted u).epoch.lastAcc = some u.now ∧ (u.epoch.qual = .locked → (accepted u).epoch.qual = .locked) ∧
    accepted u = { u with epoch := (accepted u).epoch, regs := (accepted u).regs, mgmt := (accepted u).mgmt, out := (accepted u).out } := by
  obtain ⟨qual, count, stepAt, acc, frame⟩ := edgeTaken_fields u u.now (reference u)
  obtain ⟨count', stepAt', acc', qual', frame'⟩ := lockedBy_fields (edgeTaken u u.now (reference u))
  refine ⟨count'.trans count, stepAt'.trans stepAt, acc'.trans acc, fun h => qual' (qual.trans h), ?_⟩
  unfold accepted
  rw [frame', frame]

theorem accepted_now (u : State) : (accepted u).now = u.now := by rw [(accepted_fields u).2.2.2.2]

theorem accepted_mem (u : State) : (accepted u).mem = u.mem := by rw [(accepted_fields u).2.2.2.2]

/-- The first edge in HOLDOVER or LOST before phase 512 moves the phase; one in ACQUIRE or LOCKED of an epoch that was not
synthesized steps the epoch (R35). -/
theorem acceptEdge_accepted (u : State) : acceptEdge u u.now (reference u) =
    if u.epoch.qual = .holdover ∨ u.epoch.qual = .lost then
      (if 512 ≤ u.epoch.phase u.now then epochStep (accepted u) false 0 else phaseMoved (accepted u))
    else if u.epoch.held = true ∧ u.epoch.stepAt / 8 = u.now / 8 ∧ u.epoch.qual = .acquire then phaseMoved (accepted u)
    else epochStep (accepted u) false 0 := by
  rw [acceptEdge_eq]
  simp only [(edgeTaken_fields u u.now (reference u)).1, Bool.and_eq_true, decide_eq_true_eq, beq_iff_eq, and_assoc]
  rfl

/-! ### The statements -/

/-- Settles O1: the cases of `acceptEdge`, by the qualification of the state. -/
theorem syncEdgeIsIgnoredOrTaken : Obligations.SyncEdgeIsIgnoredOrTaken := by
  unfold Obligations.SyncEdgeIsIgnoredOrTaken
  intro t s island u calm
  have run : exec (.syncInEdge t) s = .next (syncEdge u u.now) := by simp [exec, execSyncInEdge, edgeOp, island, u]
  clear_value u
  rw [syncEdge_calm u calm] at run
  refine ⟨fun early few => ?_, ?_, ?_, ?_⟩
  · rw [if_pos early, ignoreEdge_eq] at run
    simp only [few, or_true, if_true] at run
    exact ⟨_, run, live_bump_same .., ignored_frame u⟩
  all_goals
    obtain ⟨count, stepAt, acc, qual, frame⟩ := accepted_fields u
    have later := count ▸ stepCount_count (accepted u) false 0
    obtain ⟨q, h, b, k, epoch, lock, -⟩ := stepCount_epoch (accepted u) false 0
    intro inTime
    rw [inTime, acceptEdge_accepted] at run
  · intro locked
    simp only [locked, reduceCtorEq, or_self, and_false, if_false, Bool.false_eq_true] at run
    refine gives_of run ?_
    rw [epochStep_mem, epochStep_epoch, epoch, lock (qual locked)]
    rw [epoch] at later
    exact ⟨later, rfl, rfl, accepted_now u, accepted_now u, rfl, acc, accepted_mem u⟩
  · intro hold early
    simp only [hold, if_true, if_neg (Nat.not_le.mpr early), Bool.false_eq_true, if_false] at run
    exact ⟨_, run, count, stepAt, accepted_now u, rfl, acc, by unfold phaseMoved; rw [frame]⟩
  · intro acquire fresh
    simp only [acquire, fresh, reduceCtorEq, or_self, false_and, if_false, Bool.false_eq_true] at run
    refine gives_of run ?_
    rw [epochStep_epoch, epoch]
    rw [epoch] at later
    exact ⟨later, accepted_now u, rfl⟩

/-- Settles O2: the fifth ignored edge starts chatter and, in LOCKED, enters HOLDOVER. -/
theorem chatterStopsTheInput : Obligations.ChatterStopsTheInput := by
  unfold Obligations.ChatterStopsTheInput
  intro t s island u
  have run : exec (.syncInEdge t) s = .next (syncEdge u u.now) := by simp [exec, execSyncInEdge, edgeOp, island, u]
  refine ⟨fun calm early many => ?_, fun chatters before => ?_, fun chatters => ?_⟩
  · rw [syncEdge_calm u calm, if_pos early] at run
    obtain ⟨v, edge, facts⟩ := ignoreEdge_chatters u calm many
    exact ⟨v, edge ▸ run, facts⟩
  · clear_value u
    have late : decide (chatterUntil u ≤ u.now) = false := decide_eq_false (Nat.not_le.mpr before)
    have edge : syncEdge u u.now = ignoreEdge u u.now ∨
        syncEdge u u.now = { u with epoch := { u.epoch with lastEdge := some u.now } } := by
      simp only [syncEdge, late, chatters, Bool.and_false, Bool.false_eq_true, if_false, if_true]
      cases u.epoch.lastEdge with
      | none => exact .inr rfl
      | some p =>
        simp only
        split
        · exact .inl rfl
        · exact .inr rfl
    rcases edge with edge | edge <;> rw [edge] at run
    · rw [ignoreEdge_eq] at run
      simp only [chatters, true_or, if_true] at run
      exact ⟨_, run, ignored_frame u⟩
    · exact ⟨_, run, rfl⟩
  · simp [exec, execChatterEnd, chatterEndOp, island, chatters, endChatter]

/-- Settles O4: HOLDOVER begins with its step, and the count of the hold ends in LOST. -/
theorem inputLossLeadsToHoldoverAndLost : Obligations.InputLossLeadsToHoldoverAndLost := by
  unfold Obligations.InputLossLeadsToHoldoverAndLost
  intro s island
  refine ⟨fun locked => ?_, fun qual limit => ?_⟩
  · obtain ⟨v, run, qual, off, phase, held, count, holds, consec, -, mem⟩ :=
      enterHoldover_epoch (preStep (s.epoch.lastAcc.getD s.epoch.stepAt + s.epoch.p16 * 3 / 32) s)
    refine ⟨v, ?_, qual, off, phase, held, count, holds, consec, mem⟩
    simp [← run, exec, execEpoHoldover, holdoverOp, island, locked]
  · intro u qualU limitU
    have run : exec .epoLost s = .next (synStep u) := by
      have free : (s.epoch.qual == .locked) = false := by rcases qual with h | h <;> simp [h]
      have counts : (s.epoch.qual == .acquire || s.epoch.qual == .holdover) = true := by simpa using qual
      simp [exec, execEpoLost, lostOp, synOp, island, counts, limit, free, u]
    clear_value u
    refine gives_of run ?_
    unfold synStep
    extract_lets w e
    have adopted : ∀ x : State, (adoptNominal x).epoch.qual = x.epoch.qual ∧ (adoptNominal x).epoch.holdCount = x.epoch.holdCount ∧
        (adoptNominal x).epoch.count = x.epoch.count ∧ holdLimit (adoptNominal x) = holdLimit x ∧ (adoptNominal x).mem = x.mem := by
      intro x
      unfold adoptNominal
      split <;> exact ⟨rfl, rfl, rfl, rfl, rfl⟩
    obtain ⟨qual', hold', count', limit', mem'⟩ := adopted { w with epoch := { w.epoch with synK := w.epoch.synK + 1 } }
    generalize adoptNominal _ = v at *
    obtain ⟨q, h, b, k, epoch, -, -, lost⟩ := stepCount_epoch v true 0
    have later := stepCount_count v true 0
    rw [epochStep_mem, epochStep_epoch, epoch]
    rw [epoch] at later
    exact ⟨lost (qual' ▸ qualU) (by rw [limit', hold']; exact limitU), rfl, count' ▸ later, mem'⟩

/-- Settles O6: by whether the module is in DORMANT. -/
theorem oscillatorsFailOver : Obligations.OscillatorsFailOver := by
  unfold Obligations.OscillatorsFailOver
  intro s power u works
  have lost : exec .clkOscLost s = .next (enterFs ({ u with power := { u.power with oscLost := true } }.raise evClkOscLost) 3 0) := by
    simp [exec, execClkOscLost, power, oscFail, u, works]
  have switch : exec .clkOscSwitch s = .next ({ u with power := { u.power with osc := 1 - u.power.osc } }.raise evClkOscSwitch) := by
    simp [exec, execClkOscSwitch, power, oscSwitch, u, works]
  clear_value u
  refine ⟨⟨_, switch, by simp, raise_flags _ _ _ _ _ (by decide), by apply State.same_fields <;> simp⟩, fun up => ⟨_, lost, ?_⟩,
    fun dormant => ⟨_, lost, ?_⟩⟩
  · refine ⟨by rw [enterFs_frame]; simp, enterFs_up _ _ _ (by simpa using up), ?_, by rw [enterFs_frame]; apply State.same_fields <;> simp⟩
    rw [enterFs_cause]
    simp only [bit, BitVec.toNat_or, Nat.testBit_or]
    exact Bool.or_eq_true_iff.mpr (.inr rfl)
  · obtain ⟨stage, kept⟩ := enterFs_dormant ({ u with power := { u.power with oscLost := true } }.raise evClkOscLost) 3 0 (by simpa using dormant)
    exact ⟨by rw [enterFs_frame]; simp, stage, kept, by rw [enterFs_frame]; apply State.same_fields <;> simp⟩

end Sys2Proof.Claim
end

section
/-! PROOFS. Links: request frames and inline writes, training, widths, replay and LINK flits (R425 to R439). -/

namespace Sys2Proof.Machine

/-! ### Links by number, counters and flags -/

theorem link_modLink_same {s : State} {p : Nat} (f : Link → Link) (h : p < s.links.length) : (s.modLink p f).link p = f (s.link p) := by
  rw [link_modLink s p p f h, if_pos rfl]

theorem getD_listMod_ne {α : Type} (l : List α) (k j : Nat) (f : α → α) (d : α) (h : j ≠ k) : (listMod l k f).getD j d = l.getD j d := by
  induction l generalizing k j with
  | nil => rfl
  | cons a l ih =>
    cases k with
    | zero => cases j with
      | zero => exact absurd rfl h
      | succ j => rfl
    | succ k => cases j with
      | zero => rfl
      | succ j => exact ih k j (by omega)

theorem listMod_id {α : Type} (l : List α) (k : Nat) : listMod l k id = l := by
  induction l generalizing k with
  | nil => rfl
  | cons a l ih => cases k with
    | zero => rfl
    | succ k => exact congrArg (a :: ·) (ih k)

theorem modLink_id (s : State) (p : Nat) : s.modLink p id = s := by simp only [State.modLink, listMod_id]

theorem link_modLink_ne (s : State) {p q : Nat} (f : Link → Link) (h : q ≠ p) : (s.modLink p f).link q = s.link q :=
  getD_listMod_ne _ _ _ _ _ h

theorem link_of_links {s t : State} (h : t.links = s.links) (p : Nat) : t.link p = s.link p := by simp [State.link, h]

theorem live_modLink (s : State) (p a : Nat) (f : Link → Link) : (s.modLink p f).live a = s.live a := rfl

@[simp] theorem link_bump (s : State) (a n q : Nat) : (s.bump a n).link q = s.link q := link_of_links (by simp) q

@[simp] theorem link_raise (s : State) (e : Ev) (o0 o1 o2 q : Nat) : (s.raise e o0 o1 o2).link q = s.link q := link_of_links (by simp) q

@[simp] theorem link_emit (s : State) (o : Out) (q : Nat) : (emit o s).link q = s.link q := rfl

/-- The status bit of an event raised once is set, whether or not its record is one too many (R409). -/
theorem raiseOnce_flags (s : State) (e : Ev) (k o0 o1 o2 : Nat) (h : e.src < 704) :
    bit ((s.raiseOnce e k o0 o1 o2).live (0x20000 + e.src / 16 * 4)) (e.src % 16) = true := by
  unfold State.raiseOnce
  split
  · have small : 2 ^ (e.src % 16) < 2 ^ 32 := Nat.pow_lt_pow_right (by decide) (by omega)
    rw [live_setBits_same]
    simp only [bit, word, BitVec.toNat_or, BitVec.toNat_ofNat, Nat.mod_eq_of_lt small, Nat.testBit_or, Nat.testBit_two_pow_self, Bool.or_true]
  · exact raise_flags _ _ _ _ _ h

/-- The registers of a port are none that raising an event changes. -/
theorem evReg_hpAddr (p o : Nat) (hp : p < 18) (ho : o < 0x2000) : evReg (hpAddr p o) = false := by
  unfold evReg hpAddr
  simp only [Bool.or_eq_false_iff, Bool.and_eq_false_iff, decide_eq_false_iff_not]
  omega

theorem hpAddr_ne (p o a : Nat) (h : a < 0x180000) : hpAddr p o ≠ a := by unfold hpAddr; omega

theorem hpAddr_inj (p : Nat) {o q : Nat} (h : o ≠ q) : hpAddr p o ≠ hpAddr p q := by unfold hpAddr; omega

/-! ### Links that go down and train -/

theorem chainBreak_frame (s : State) : chainBreak s =
    { s with csc := (chainBreak s).csc, regs := (chainBreak s).regs, mgmt := (chainBreak s).mgmt, out := (chainBreak s).out } := by
  unfold chainBreak
  split
  · apply State.same_fields <;> simp
  · rfl

theorem chainBreak_live (s : State) (a : Nat) (h : evReg a = false) (hb : a ≠ 0x140008) : (chainBreak s).live a = s.live a := by
  unfold chainBreak
  split
  · rw [live_raise _ _ _ _ _ _ h (by decide), live_setBits_ne _ _ _ _ hb]; rfl
  · rfl

theorem unverify_frame (s : State) (c : Nat) : unverify s c =
    { s with csc := (unverify s c).csc, regs := (unverify s c).regs, mgmt := (unverify s c).mgmt, out := (unverify s c).out } := by
  unfold unverify
  split
  · rfl
  · rw [chainBreak_frame]

theorem unverify_live (s : State) (c a : Nat) (h : evReg a = false) (hb : a ≠ 0x140008) : (unverify s c).live a = s.live a := by
  unfold unverify
  split
  · rfl
  · exact chainBreak_live _ _ h hb

/-- A break of the chain clears no status bit of an event. -/
theorem unverify_keeps_flag (s : State) (c n i : Nat) (hn : n < 44) (h : bit (s.live (0x20000 + n * 4)) i = true) :
    bit ((unverify s c).live (0x20000 + n * 4)) i = true := by
  unfold unverify chainBreak
  split
  · exact h
  · split
    · exact raise_keeps_flag _ _ _ _ _ _ _ (by decide) hn (by rw [live_setBits_ne _ _ _ _ (by omega)]; exact h)
    · exact h

/-- A port that is DOWN: no width, nothing granted, no change and no replay (R437). -/
def downLink (l : Link) : Link :=
  { l with st := 0, width := 0, change := none, widen := false, creds := List.replicate 8 0, dcred := 0, back := List.replicate 8 0
           dback := 0, nak := false, resends := 0 }

theorem linkDown_eq (s : State) (p : Nat) : linkDown s p =
    if 16 ≤ p ∧ cpUsed (s.modLink p downLink) (p - 16) then unverify (s.modLink p downLink) (p - 16) else s.modLink p downLink := rfl

theorem linkDown_links (s : State) (p : Nat) : (linkDown s p).links = listMod s.links p downLink := by
  rw [linkDown_eq]
  split
  · rw [unverify_frame]; rfl
  · rfl

theorem linkDown_frame (s : State) (p : Nat) : linkDown s p = { s with
    links := (linkDown s p).links, csc := (linkDown s p).csc, regs := (linkDown s p).regs, mgmt := (linkDown s p).mgmt
    out := (linkDown s p).out } := by
  rw [linkDown_eq]
  split
  · rw [unverify_frame]; rfl
  · rfl

theorem linkDown_live (s : State) (p a : Nat) (h : evReg a = false) (hb : a ≠ 0x140008) : (linkDown s p).live a = s.live a := by
  rw [linkDown_eq]
  split
  · exact unverify_live _ _ _ h hb
  · rfl

theorem linkDown_keeps_flag (s : State) (p n i : Nat) (hn : n < 44) (h : bit (s.live (0x20000 + n * 4)) i = true) :
    bit ((linkDown s p).live (0x20000 + n * 4)) i = true := by
  rw [linkDown_eq]
  split
  · exact unverify_keeps_flag _ _ _ _ hn h
  · exact h

theorem linkDown_link (s : State) (p q : Nat) (h : p < s.links.length) :
    (linkDown s p).link q = if q = p then downLink (s.link p) else s.link q := by
  rw [← link_modLink s p q downLink h]
  exact link_of_links (linkDown_links s p) q

/-! ### Credits -/

/-- Granting changes the credits of its port alone. -/
theorem grantAll_keeps (s : State) (p : Nat) : (grantAll s p).2 = { s with links := (grantAll s p).2.links } ∧
    (∀ q, q ≠ p → (grantAll s p).2.link q = s.link q) ∧ (grantAll s p).2.links.length = s.links.length ∧
    (p < s.links.length → ∃ c b, (grantAll s p).2.link p = { s.link p with creds := c, back := b }) := by
  refine foldl_keep (fun a : List Nat × State => a.2 = { s with links := a.2.links } ∧ (∀ q, q ≠ p → a.2.link q = s.link q) ∧
    a.2.links.length = s.links.length ∧ (p < s.links.length → ∃ c b, a.2.link p = { s.link p with creds := c, back := b })) _ ?_ _ _
    ⟨rfl, fun _ _ => rfl, rfl, fun _ => ⟨_, _, rfl⟩⟩
  intro a k ⟨frame, others, length, own⟩
  refine ⟨by dsimp only; rw [frame]; rfl, fun q hq => (link_modLink_ne _ _ hq).trans (others q hq), by simp [length], fun h => ?_⟩
  obtain ⟨c, b, link⟩ := own h
  rw [link_modLink_same _ (length ▸ h), link]
  exact ⟨_, _, rfl⟩

/-- What a port is granted after training changes its credits alone; a cascade port, or one in DORMANT, gets none (R367). -/
theorem startCredits_keeps (s : State) (p : Nat) : startCredits s p = { s with links := (startCredits s p).links } ∧
    (∀ q, q ≠ p → (startCredits s p).link q = s.link q) ∧
    (p < s.links.length → ∃ c b d e, (startCredits s p).link p = { s.link p with creds := c, back := b, dcred := d, dback := e } ∧
      (s.stage.stage = 0 ∨ 16 ≤ p → c = List.replicate 8 0 ∧ d = 0)) := by
  unfold startCredits
  split
  next none =>
    exact ⟨rfl, fun q hq => link_modLink_ne _ _ hq, fun h => ⟨_, _, _, _, link_modLink_same _ h, fun _ => ⟨rfl, rfl⟩⟩⟩
  next granted =>
    generalize hm : s.modLink p _ = m
    obtain ⟨frame, others, -, own⟩ := grantAll_keeps m p
    have mlen : m.links.length = s.links.length := by rw [← hm]; simp
    refine ⟨by rw [frame, ← hm]; rfl, fun q hq => by rw [others q hq, ← hm, link_modLink_ne _ _ hq], fun h => ?_⟩
    obtain ⟨c, b, link⟩ := own (mlen ▸ h)
    refine ⟨c, b, 64, 0, ?_, fun none => absurd none.symm granted⟩
    rw [link, ← hm, link_modLink_same _ h]

end Sys2Proof.Machine

namespace Sys2Proof.Claim

open Machine

theorem flagged_raise (s : State) (e : Ev) (o0 o1 o2 : Nat) (h : e.src < 704) : Flagged (s.raise e o0 o1 o2) e := raise_flags _ _ _ _ _ h

theorem flagged_raiseOnce (s : State) (e : Ev) (k o0 o1 o2 : Nat) (h : e.src < 704) : Flagged (s.raiseOnce e k o0 o1 o2) e :=
  raiseOnce_flags _ _ _ _ _ _ h

/-- A later change that keeps the status words of sources keeps a flag. -/
theorem Flagged.of_live {s t : State} {e : Ev} (h : Flagged s e) (live : t.live (0x20000 + e.src / 16 * 4) = s.live (0x20000 + e.src / 16 * 4)) :
    Flagged t e := by rwa [Flagged, live]

theorem counts_bump (s : State) (a : Nat) : Counts s (s.bump a) a := live_bump_same s a 1

theorem Counts.of_live {u s t v : State} {a : Nat} (h : Counts s t a) (before : s.live a = u.live a) (after : v.live a = t.live a) :
    Counts u v a := by rw [Counts, after, h, before]

/-- Settles O12: the lane of its port, and the two ranges of lane numbers. -/
theorem codewordLockMakesALaneGood : Obligations.CodewordLockMakesALaneGood := by
  unfold Obligations.CodewordLockMakesALaneGood
  intro s lane
  refine ⟨rfl, fun n _ => ⟨fun low => if_pos low, fun high => if_neg (by omega)⟩, ?_⟩
  have := lane.isLt
  unfold laneOf
  split
  · have host : lane.val / 28 < 16 := by omega
    simp only [groupLanes, host, if_true]
    omega
  · have cascade : ¬ 16 + (lane.val - 448) / 32 < 16 := by omega
    simp only [groupLanes, cascade, if_false]
    omega

/-- Settles O7: by whether the context has credit. -/
theorem requestFrameTakesOneCredit : Obligations.RequestFrameTakesOneCredit := by
  unfold Obligations.RequestFrameTakesOneCredit
  intro s port fl hform u i r
  have run : exec i s = .next (requestIn u port hform fl) := by cases hform <;> rfl
  clear_value u
  refine ⟨fun taken => ?_, fun up type none => ?_⟩
  · simp only [frameTaken, Bool.and_eq_true, beq_iff_eq, bne_iff_ne, ne_eq] at taken
    obtain ⟨⟨up, type⟩, credit⟩ := taken
    have room := linkUp_lt u port up
    have step : requestIn u port hform fl =
        (useCredit (u.modLink port (fun l => { l with rx := l.rx ++ [r] })) port r.ctx).bump (hpAddr port 0x40) := by
      simp [requestIn, up, type, show natAt (u.link port).creds (parseReq hform (fl.take (reqFlits hform fl))).ctx ≠ 0 from credit, r, received]
    rw [step] at run
    refine gives_of run ⟨?_, fun q hq => ?_, counts_bump _ _, by apply State.same_fields <;> simp [useCredit]⟩
    · rw [link_bump, useCredit, link_modLink_same _ (by simpa using room), link_modLink_same _ room]
    · rw [link_bump, useCredit, link_modLink_ne _ _ hq, link_modLink_ne _ _ hq]
  · have step : requestIn u port hform fl = u.bump (hpAddr port 0x48) := by
      simp [requestIn, up, type, show natAt (u.link port).creds (parseReq hform (fl.take (reqFlits hform fl))).ctx = 0 from none]
    rw [step] at run
    exact ⟨_, run, counts_bump _ _, by apply State.same_fields <;> simp⟩

/-! ### Inline writes -/

theorem dtOrder_frame (s : State) (p : Nat) : dtOrder s p = { s with now := (dtOrder s p).now, spk := (dtOrder s p).spk } := by
  unfold dtOrder
  dsimp only
  split <;> rfl

/-- A direct-table access touches the time, the accesses of the cycle and two counters (R292). -/
theorem dtMeet_keeps (s : State) (k : Nat) (b : Bool) :
    dtMeet s k b = { s with now := (dtMeet s k b).now, spk := (dtMeet s k b).spk, regs := (dtMeet s k b).regs } ∧
    ∀ a, a ≠ 0x13012C → a ≠ 0x130130 → (dtMeet s k b).live a = s.live a := by
  unfold dtMeet
  extract_lets first w now portA portB spk v
  have frame : v = { s with now := v.now, spk := v.spk } := by simp only [v, w]; split <;> rfl
  clear_value v
  split
  · refine ⟨?_, fun a h h' => ?_⟩
    · apply State.same_fields <;> simp <;> rw [frame]
    · rw [live_bump_ne _ _ _ _ h', live_bump_ne _ _ _ _ h, frame]; rfl
  · exact ⟨by rw [frame], fun a _ _ => by rw [frame]; rfl⟩

theorem mapGetD_put (m : NMap (BitVec 256)) (k j : Nat) (v : BitVec 256) :
    mapGetD (if v = 0 then mapErase m k else mapSet m k v) j 0 = if j = k then v else mapGetD m j 0 := by
  unfold mapGetD
  split
  next zero =>
    split
    next same => rw [same, mapGet_mapErase_same, zero]; rfl
    next other => rw [mapGet_mapErase_ne _ _ _ other]
  next => rw [mapGet_mapSet]; split <;> rfl

/-- A DT_WRITE with a credit is decided by the conditions of `inlineTaken` (R439). -/
theorem dtWriteIn_eq (u : State) (p : Nat) (fl : List Flit) (up : linkUp (u.link p) = true) (type : payload fl 0 4 = 3)
    (credit : (u.link p).dcred ≠ 0) : dtWriteIn u p fl =
      (let w := u.modLink p (fun l => { l with dcred := l.dcred - 1, dback := l.dback + 1 })
       if inlineTaken u p fl then
         let v := dtMeet (dtOrder w p) (inlineWord u fl) false
         let x := dtWord (payload fl 4 2) (mapGetD v.direct (inlineWord u fl) 0) (BitVec.ofNat 256 (payload fl 256 256))
         (({ v with direct := if x = 0 then mapErase v.direct (inlineWord u fl) else mapSet v.direct (inlineWord u fl) x } : State).bump
           (hpAddr p 0x58)).bump (hpAddr p 0x40)
       else (w.bump (hpAddr p 0x5C)).raiseOnce (evLnkDwReject p) p p (payload fl 6 8) (payload fl 14 20)) := by
  unfold dtWriteIn
  rw [if_neg (by simp [up, type]), if_neg credit]
  extract_lets w op t i live k v x v'
  have taken : inlineTaken u p fl = (bit (w.live (hpAddr p 8)) 6 && op != 3 && payload fl 34 222 == 0 && live) := by
    simp only [inlineTaken, up, type, bne_iff_ne.mpr credit, beq_self_eq_true, Bool.true_and]
    rfl
  have test : (!bit (w.live (hpAddr p 8)) 6 || !live || op == 3 || payload fl 34 222 != 0) = !inlineTaken u p fl := by
    rw [taken]
    simp only [bne, Bool.not_and, Bool.not_not]
    cases bit (w.live (hpAddr p 8)) 6 <;> cases live <;> simp
  rw [test]
  cases inlineTaken u p fl <;> rfl

/-- Settles O8: by whether the write is taken. -/
theorem inlineWriteChangesOneWord : Obligations.InlineWriteChangesOneWord := by
  unfold Obligations.InlineWriteChangesOneWord
  intro s port fl u
  have run : exec (.dtWrite port fl) s = .next (dtWriteIn u port fl) := rfl
  clear_value u
  refine ⟨fun taken => ?_, fun refused up type credit => ?_⟩
  · obtain ⟨up, type, credit⟩ : linkUp (u.link port) = true ∧ payload fl 0 4 = 3 ∧ (u.link port).dcred ≠ 0 := by
      simp only [inlineTaken, Bool.and_eq_true, beq_iff_eq, bne_iff_ne] at taken
      obtain ⟨⟨⟨⟨⟨⟨up, type⟩, credit⟩, -⟩, -⟩, -⟩, -⟩ := taken
      exact ⟨up, type, credit⟩
    rw [dtWriteIn_eq u port fl up type credit] at run
    simp only [taken, if_true] at run
    generalize hw : u.modLink port _ = w at run
    have room := linkUp_lt u port up
    obtain ⟨frame, live⟩ := dtMeet_keeps (dtOrder w port) (inlineWord u fl) false
    generalize dtMeet (dtOrder w port) (inlineWord u fl) false = v at run frame live
    have whole : v = { u with now := v.now, links := w.links, spk := v.spk, regs := v.regs } := by rw [frame, dtOrder_frame, ← hw]; rfl
    have direct : v.direct = u.direct := by rw [whole]
    have live' : v.live (hpAddr port 0x58) = u.live (hpAddr port 0x58) := by
      rw [live (hpAddr port 0x58) (hpAddr_ne _ _ _ (by decide)) (hpAddr_ne _ _ _ (by decide)), dtOrder_frame, ← hw]; rfl
    rw [direct] at run
    refine gives_of run ⟨?_, fun k hk => ?_, ?_, ?_, ?_⟩
    · simp only [State.bump_direct, mapGetD_put, if_true]
    · simp only [State.bump_direct, mapGetD_put, if_neg hk]
    · rw [Counts, live_bump_ne _ _ _ _ (hpAddr_inj port (o := 0x58) (q := 0x40) (by decide)), live_bump_same, ← live']
      rfl
    · rw [link_bump, link_bump]
      have : v.link port = w.link port := link_of_links (by rw [whole]) port
      show (v.link port).dcred + 1 = _
      rw [this, ← hw, link_modLink_same _ room]
      show (u.link port).dcred - 1 + 1 = _
      omega
    · apply State.same_fields <;> simp <;> rw [whole]
  · rw [dtWriteIn_eq u port fl up type credit] at run
    simp only [refused, Bool.false_eq_true, if_false] at run
    have src : (evLnkDwReject port.val).src < 704 := by simp only [evLnkDwReject]; omega
    refine gives_of run ⟨?_, flagged_raiseOnce _ _ _ _ _ _ src, by apply State.same_fields <;> simp⟩
    rw [Counts, live_raiseOnce _ _ _ _ _ _ _ (evReg_hpAddr port 0x5C (by omega) (by decide)) src, live_bump_same]
    rfl

/-! ### Training, widths and replay -/

/-- Settles O11: by the width that the good lanes allow. -/
theorem trainingFixesTheWidth : Obligations.TrainingFixesTheWidth := by
  unfold Obligations.TrainingFixesTheWidth
  intro s port good peer again u i training
  have run : exec i s = .next (trainEnd u port good peer) := by cases again <;> rfl
  clear_value u
  simp only [trains, Bool.and_eq_true, decide_eq_true_eq] at training
  obtain ⟨⟨⟨⟨power, mrst⟩, enabled⟩, down⟩, room⟩ := training
  have step : trainEnd u port good peer = match pickWidth port (trained u port good peer) ((trained u port good peer).maxW + 1) with
      | none => u.modLink port (fun _ => { trained u port good peer with st := 0, width := 0 })
      | some w => (startCredits (u.modLink port (fun _ => { trained u port good peer with
          st := 2, width := w, grid := u.now, change := none, widen := false, ackRound := 0, nak := false, resends := 0, booked := []
          lastSlot := List.replicate 8 0 })) port).raise (evLnkUp port) port w (b2n (bit (u.live (hpAddr port 8)) 5)) := by
    unfold trainEnd
    rw [if_neg (by simp [power, mrst, enabled]; omega)]
    rfl
  rw [step] at run
  refine ⟨fun w width => ?_, fun narrow => ?_⟩
  · simp only [width] at run
    generalize hm : u.modLink port _ = m at run
    obtain ⟨frame, others, own⟩ := startCredits_keeps m port
    obtain ⟨c, b, d, e, link, none⟩ := own (by rw [← hm]; simpa using room)
    rw [← hm, link_modLink_same _ room] at link
    refine gives_of run ?_
    simp only [link_raise, hm] at link ⊢
    rw [link]
    refine ⟨rfl, rfl, rfl, rfl, fun h => ?_, fun q hq => ?_, flagged_raise _ _ _ _ _ (by simp only [evLnkUp]; omega), ?_⟩
    · exact none (by rw [← hm]; exact h)
    · rw [others q hq, ← hm, link_modLink_ne _ _ hq]
    · apply State.same_fields <;> simp <;> rw [frame, ← hm] <;> rfl
  · simp only [narrow] at run
    refine gives_of run ?_
    rw [link_modLink_same _ room]
    exact ⟨rfl, rfl, rfl⟩

/-- A port that loses a lane in use asks for the next width four rounds ahead, or goes DOWN (R435). -/
theorem degrade_keeps (s : State) (p : Nat) (room : p < s.links.length) : (∀ q, q ≠ p → (degrade s p).link q = s.link q) ∧
    OnlyLinks s (degrade s p) ∧
    (∀ w, pickWidth p (s.link p) (s.link p).width = some w → (degrade s p).link p = { s.link p with
      st := 3, change := some (w, (s.link p).grid + (roundNow (s.link p) s.now + 4) * roundLen (s.link p)) }) ∧
    (pickWidth p (s.link p) (s.link p).width = none → (degrade s p).link p = downLink (s.link p)) := by
  unfold degrade narrowAt
  extract_lets l sw l'
  have same : l' = s.link p := rfl
  have room' : p < (sendLink s p 1 sw).links.length := room
  rw [same]
  cases pickWidth p (s.link p) (s.link p).width with
  | none =>
    refine ⟨fun q hq => ?_, ?_, fun _ h => by simp at h, fun _ => ?_⟩
    · rw [linkDown_link _ _ _ room', if_neg hq]; rfl
    · rw [OnlyLinks, linkDown_frame]; rfl
    · rw [linkDown_link _ _ _ room', if_pos rfl]; rfl
  | some w =>
    refine ⟨fun q hq => link_modLink_ne _ _ hq, rfl, fun w' h => ?_, fun h => by simp at h⟩
    obtain rfl : w = w' := by simpa using h
    exact link_modLink_same _ room'

/-- A lane that is good and fails is marked; in use, its port degrades (R435). -/
theorem laneFails_eq (u : State) (p lane : Nat) (up : linkUp (u.link p) = true) (good : bit (u.link p).good lane = true)
    (inPort : lane < groupLanes p) : laneFails u p lane =
      (let m := u.modLink p (fun l => { l with good := l.good &&& ~~~ word (2 ^ lane) })
       if (lanesInUse p (u.link p)).contains lane then degrade m p else m) := by
  unfold laneFails
  rw [if_neg (by simp [good]; omega)]
  simp only [up, Bool.true_and]

/-- A widen request or its acknowledgement ends in RUN or in a width change of its port (R436). -/
theorem widenFlit_request (u : State) (p : Nat) (f : Flit) (up : linkUp (u.link p) = true) (type : fld f 255 252 = 0xF)
    (state : fld f 251 248 = 3) : ∃ g : Link → Link, (∀ l, (g l).peer = l.peer ∧ (g l).widen = l.widen) ∧ widenFlit u p f =
      (sendLink (u.modLink p (fun l => { l with peer := word (fld f 247 216) &&& word (2 ^ groupLanes p - 1), widen := false })) p 4
        (fld f 136 131)).modLink p g := by
  unfold widenFlit
  rw [if_neg (by simp [up, type, state])]
  simp only [state, if_true]
  generalize sendLink _ p 4 (fld f 136 131) = w
  split
  next x _ =>
    split
    · exact ⟨fun l => { l with st := 3, change := some (x, switchTime l w.now (fld f 136 131)) }, fun l => ⟨rfl, rfl⟩, rfl⟩
    · exact ⟨id, fun _ => ⟨rfl, rfl⟩, (modLink_id w p).symm⟩
  next => exact ⟨id, fun _ => ⟨rfl, rfl⟩, (modLink_id w p).symm⟩

/-- Settles O13: a lane out of use is marked alone; one in use narrows its port, and a request to widen is answered. -/
theorem laneFailureNarrowsAndWidenIsAnswered : Obligations.LaneFailureNarrowsAndWidenIsAnswered := by
  unfold Obligations.LaneFailureNarrowsAndWidenIsAnswered
  intro s port u
  have failure (lane : Nat) : exec (.laneFailure port lane) s = .next (laneFails u port lane) := rfl
  have widen (f : Flit) : exec (.widenReq port f) s = .next (widenFlit u port f) := rfl
  clear_value u
  refine ⟨fun lane up good inPort => ?_, fun f up type state => ?_⟩
  · intro l
    have room := linkUp_lt u port up
    have run := failure lane
    rw [laneFails_eq u port lane up good inPort] at run
    generalize hm : u.modLink port (fun l => { l with good := l.good &&& ~~~ word (2 ^ lane) }) = m at run
    have link : m.link port = l := by rw [← hm, link_modLink_same _ room]
    have now : m.now = u.now := by rw [← hm]; rfl
    refine ⟨fun spare => ?_, fun used => ?_⟩
    · simp only [spare, Bool.false_eq_true, if_false] at run
      exact ⟨_, run, link, by rw [← hm]; rfl⟩
    · simp only [used, if_true] at run
      obtain ⟨others, frame, narrower, down⟩ := degrade_keeps m port (by rw [← hm]; simpa using room)
      rw [link, now] at narrower
      rw [link] at down
      refine gives_of run ⟨fun w width => ?_, fun none => ?_, fun q hq => ?_, ?_⟩
      · rw [narrower w width]; exact ⟨rfl, rfl⟩
      · rw [down none]; exact ⟨rfl, rfl⟩
      · rw [others q hq, ← hm, link_modLink_ne _ _ hq]
      · rw [OnlyLinks, frame, ← hm]; rfl
  · have room := linkUp_lt u port up
    obtain ⟨g, keeps, step⟩ := widenFlit_request u port f up type state
    have run := widen f
    rw [step] at run
    refine gives_of run ⟨?_, ?_, ⟨_, rfl⟩, fun q hq => ?_, rfl⟩
    · rw [link_modLink_same _ (by simpa [sendLink] using room), (keeps _).1, sendLink, link_emit, link_modLink_same _ room]
    · rw [link_modLink_same _ (by simpa [sendLink] using room), (keeps _).2, sendLink, link_emit, link_modLink_same _ room]
    · rw [link_modLink_ne _ _ hq, sendLink, link_emit, link_modLink_ne _ _ hq]

/-- A port that trains anew is DOWN, or in training while HP_CTRL.EN is 1. -/
theorem retrain_keeps (s : State) (p : Nat) (hp : p < 18) (room : p < s.links.length) : (∀ q, q ≠ p → (retrain s p).link q = s.link q) ∧
    OnlyLinks s (retrain s p) ∧ (∀ n i, n < 44 → bit (s.live (0x20000 + n * 4)) i = true → bit ((retrain s p).live (0x20000 + n * 4)) i = true) ∧
    (retrain s p).link p = { downLink (s.link p) with st := if bit (s.live (hpAddr p 8)) 7 then 1 else 0 } := by
  have enabled : (linkDown s p).live (hpAddr p 8) = s.live (hpAddr p 8) :=
    linkDown_live s p _ (evReg_hpAddr p 8 hp (by decide)) (hpAddr_ne _ _ _ (by decide))
  have room' : p < (linkDown s p).links.length := by rw [linkDown_links]; simpa using room
  unfold retrain startTraining
  rw [enabled]
  split
  · refine ⟨fun q hq => ?_, ?_, fun n i hn h => linkDown_keeps_flag s p n i hn h, ?_⟩
    · rw [link_modLink_ne _ _ hq, linkDown_link _ _ _ room, if_neg hq]
    · rw [OnlyLinks, linkDown_frame]; rfl
    · rw [link_modLink_same _ room', linkDown_link _ _ _ room, if_pos rfl]
  · refine ⟨fun q hq => ?_, ?_, fun n i hn h => linkDown_keeps_flag s p n i hn h, ?_⟩
    · rw [linkDown_link _ _ _ room, if_neg hq]
    · rw [OnlyLinks, linkDown_frame]
    · rw [linkDown_link _ _ _ room, if_pos rfl]; rfl

/-- Settles O14: by whether the round is refused already; eight resends make the port train anew. -/
theorem replayRefusesAndLimits : Obligations.ReplayRefusesAndLimits := by
  unfold Obligations.ReplayRefusesAndLimits
  intro s port u
  have fail (round : Nat) : exec (.flitCheckFail port round) s = .next (checkFail u port round) := rfl
  have limit : exec (.lnkReplayLimit port) s = .next (replayLimit u port) := rfl
  clear_value u
  refine ⟨fun round up => ⟨fun fresh => ?_, fun refused same => ?_⟩, fun resent room => ?_⟩
  · have room := linkUp_lt u port up
    refine gives_of (fail round) ?_
    simp only [checkFail, up, fresh, Bool.not_true, Bool.false_and, Bool.false_eq_true, if_false]
    exact ⟨by rw [link_bump, link_modLink_same _ room], counts_bump (u.modLink port _) _, by apply State.same_fields <;> simp⟩
  · have room := linkUp_lt u port up
    refine gives_of (fail round) ?_
    simp only [checkFail, up, refused, same, Bool.not_true, Bool.true_and, beq_self_eq_true, Bool.false_eq_true, if_false, if_true]
    exact ⟨by rw [link_modLink_same _ room, refused, same], rfl⟩
  · have src : (evLnkReplayLimit port.val).src < 704 := by simp only [evLnkReplayLimit]; omega
    refine gives_of limit ?_
    simp only [replayLimit, Nat.not_lt.mpr resent, if_false]
    obtain ⟨others, frame, flags, link⟩ := retrain_keeps (u.raise (evLnkReplayLimit port)) port port.isLt (by simpa using room)
    refine ⟨?_, ?_, ?_, ?_, ?_, ?_⟩
    · exact flags _ _ (by omega) (flagged_raise u _ _ _ _ src)
    · rw [link]; rfl
    · rw [link]; rfl
    · rw [link, live_raise _ _ _ _ _ _ (evReg_hpAddr port 8 port.isLt (by decide)) src]
    · intro q hq; rw [others q hq, link_raise]
    · rw [OnlyLinks, frame]; apply State.same_fields <;> simp

/-! ### Frames and LINK flits -/

/-- A discarded request returns its credit to its own port alone (R430, R432). -/
theorem creditBack_keeps (s : State) (p c : Nat) : creditBack s p c = { s with links := (creditBack s p c).links } ∧
    ∀ q, q ≠ p → (creditBack s p c).link q = s.link q := by
  unfold creditBack
  split
  · exact ⟨rfl, fun _ _ => rfl⟩
  · refine ⟨rfl, fun q hq => ?_⟩
    rw [returnCredit, link_modLink_ne _ _ hq, useCredit, link_modLink_ne _ _ hq]

/-- A flit with a reason to be discarded is discarded for it, a request among them with its credit back (R430). -/
theorem frameErrIn_reason (u : State) (p : Nat) (f : Flit) (slot0 : Bool) (r : Nat) (up : linkUp (u.link p) = true)
    (reason : discardReason p f slot0 = some r) : frameErrIn u p f slot0 =
      frameErr (if p < 16 && (fld f 255 252 == 1 || fld f 255 252 == 2) then creditBack u p (fld f 251 249) else u) p (fld f 255 252) r := by
  unfold frameErrIn discardReason at *
  dsimp only at *
  rw [if_neg (by simp [up])]
  split at reason
  next undefined => rw [if_pos undefined]; cases reason; rfl
  next typed =>
    rw [if_neg typed]
    split at reason
    next foreign => rw [if_pos foreign]; cases reason; rfl
    next allowed =>
      rw [if_neg allowed]
      split at reason
      next slot => rw [if_pos slot]; cases reason; rfl
      next => cases reason

/-- Settles O15: whatever the reason, one count, one flag, and the credit of a request. -/
theorem frameErrorsAreCounted : Obligations.FrameErrorsAreCounted := by
  unfold Obligations.FrameErrorsAreCounted
  intro s port f slot0 r u up reason
  have run : exec (.lnkFrameErr port f slot0) s = .next (frameErrIn u port f slot0) := rfl
  clear_value u
  rw [frameErrIn_reason u port f slot0 r up reason] at run
  generalize hw : (if port.val < 16 && (fld f 255 252 == 1 || fld f 255 252 == 2) then creditBack u port (fld f 251 249) else u) = w at run
  obtain ⟨frame, others⟩ : w = { u with links := w.links } ∧ ∀ q, q ≠ port.val → w.link q = u.link q := by
    rw [← hw]
    split
    · exact creditBack_keeps u port _
    · exact ⟨rfl, fun _ _ => rfl⟩
  have src : (evLnkFrameErr port.val).src < 704 := by simp only [evLnkFrameErr]; omega
  refine gives_of run ⟨?_, flagged_raiseOnce _ _ _ _ _ _ src, fun q hq => ?_, ?_⟩
  · rw [Counts, frameErr, live_raiseOnce _ _ _ _ _ _ _ (evReg_hpAddr port 0x44 port.isLt (by decide)) src, live_bump_same, frame]
    rfl
  · rw [frameErr, link_of_links (by simp : (State.raiseOnce (w.bump (hpAddr port 0x44)) _ _ _ _ _).links = w.links), others q hq]
  · apply State.same_fields <;> simp [frameErr] <;> rw [frame]

/-- The LINK flit of the module has its TYPE in its first four bits (R431). -/
theorem linkFlitOf_type (l : Link) (state : Nat) (creds : List Nat) (d sw : Nat) : fld (linkFlitOf l state creds d sw) 255 252 = 0xF := by
  have lanes : l.good.toNat < 2 ^ 32 := l.good.isLt
  have credit : ∀ c, natAt creds c % 512 < 512 := fun c => Nat.mod_lt _ (by decide)
  have c0 := credit 0; have c1 := credit 1; have c2 := credit 2; have c3 := credit 3
  have c4 := credit 4; have c5 := credit 5; have c6 := credit 6; have c7 := credit 7
  have hs : state % 16 < 16 := Nat.mod_lt _ (by decide)
  have hd : d % 128 < 128 := Nat.mod_lt _ (by decide)
  have hw : sw % 64 < 64 := Nat.mod_lt _ (by decide)
  simp only [fld, linkFlitOf, BitVec.toNat_ofNat, Nat.shiftRight_eq_div_pow, List.range, List.range.loop, List.map_cons, List.map_nil, sumNat]
  omega

/-- A LINK flit without news ends a replay, and a host port answers it with the credits that it may grant (R431, R432). -/
theorem linkFlitIn_plain (u : State) (p : Nat) (f : Flit) (plain : plainLink u p f = true) : linkFlitIn u p f =
    (let m := u.modLink p (fun l => { l with peer := word (fld f 247 216) &&& word (2 ^ groupLanes p - 1), nak := false, resends := 0 })
     if 16 ≤ p then m
     else
       let g := if m.stage.stage = 0 then ([], m) else grantAll m p
       let d := (g.2.link p).dback
       let v := g.2.modLink p (fun l => { l with dcred := l.dcred + d, dback := 0 })
       emit (.frame p v.now [linkFlitOf (v.link p) 0 g.1 d 0]) v) := by
  simp only [plainLink, Bool.and_eq_true, beq_iff_eq, bne_iff_ne, ne_eq, Bool.not_eq_true'] at plain
  obtain ⟨⟨⟨⟨⟨up, type⟩, not1⟩, not3⟩, not4⟩, locked⟩ := plain
  have up' : linkUp ((u.modLink p (fun l => { l with
      peer := word (fld f 247 216) &&& word (2 ^ groupLanes p - 1), nak := false, resends := 0 })).link p) = true := by
    rw [link_modLink_same _ (linkUp_lt u p up)]; exact up
  unfold linkFlitIn
  rw [if_neg (by simp [up, type]), if_neg (by simp [not3, not4])]
  simp only [locked, not1, up', if_false, Bool.false_and, Bool.false_eq_true, Bool.not_true, Bool.or_false, decide_eq_true_eq]

/-- Settles O16: a LINK flit without news leaves the width, and a host port answers it. -/
theorem linkFlitReturnsCredits : Obligations.LinkFlitReturnsCredits := by
  unfold Obligations.LinkFlitReturnsCredits
  intro s port f u plain
  have run : exec (.linkFlit port f) s = .next (linkFlitIn u port f) := rfl
  clear_value u
  have room : port.val < u.links.length := linkUp_lt u port (by
    simp only [plainLink, Bool.and_eq_true] at plain
    exact plain.1.1.1.1.1)
  rw [linkFlitIn_plain u port f plain] at run
  generalize hm : u.modLink port _ = m at run
  have link : m.link port = { u.link port with peer := word (fld f 247 216) &&& word (2 ^ groupLanes port - 1), nak := false, resends := 0 } := by
    rw [← hm, link_modLink_same _ room]
  have others : ∀ q, q ≠ port.val → m.link q = u.link q := fun q hq => by rw [← hm, link_modLink_ne _ _ hq]
  by_cases cascade : 16 ≤ port.val
  · simp only [cascade, if_true] at run
    refine gives_of run ?_
    rw [link]
    exact ⟨rfl, rfl, rfl, rfl, others, fun host => by omega, fun _ => by rw [← hm]; rfl, by rw [← hm]; rfl⟩
  · simp only [cascade, if_false] at run
    generalize hg : (if m.stage.stage = 0 then ([], m) else grantAll m port) = g at run
    obtain ⟨frame, others', own⟩ : g.2 = { m with links := g.2.links } ∧ (∀ q, q ≠ port.val → g.2.link q = m.link q) ∧
        ∃ c b, g.2.link port = { m.link port with creds := c, back := b } := by
      rw [← hg]
      split
      · exact ⟨rfl, fun _ _ => rfl, _, _, rfl⟩
      · obtain ⟨frame, others', -, own⟩ := grantAll_keeps m port
        exact ⟨frame, others', own (by rw [← hm]; simpa using room)⟩
    obtain ⟨c, b, own⟩ := own
    have room' : port.val < g.2.links.length := by
      rw [← hg]
      split
      · rw [← hm]; simpa using room
      · rw [(grantAll_keeps m port).2.2.1, ← hm]; simpa using room
    have start : g.2 = { u with links := g.2.links } := by rw [frame, ← hm]; rfl
    refine gives_of run ?_
    rw [link_emit, link_modLink_same _ room', own, link]
    refine ⟨rfl, rfl, rfl, rfl, fun q hq => ?_, fun _ => ⟨rfl, rfl, ?_⟩, fun h => absurd h cascade, ?_⟩
    · rw [link_emit, link_modLink_ne _ _ hq, others' q hq, others q hq]
    · rw [emit_out, State.modLink_out, State.modLink_now, show g.2.out = u.out by rw [start], show g.2.now = u.now by rw [start]]
      exact ⟨_, linkFlitOf_type _ _ _ _ _, rfl⟩
    · rw [start]; rfl

end Sys2Proof.Claim
end

section
/-! PROOFS. The cascade: hellos, search frames and their answers, and win notices (R310 to R320). -/

namespace Sys2Proof.Claim

open Machine

theorem findIdx_some {α : Type} (p : α → Bool) (l : List α) (n : Nat) (a : α) (h : l.find? p = some a) :
    ∃ i, findIdx p l n = some (n + i) ∧ l[i]? = some a := by
  induction l generalizing n with
  | nil => simp at h
  | cons b l ih =>
    rw [List.find?_cons] at h
    unfold findIdx
    cases hb : p b with
    | true =>
      simp only [hb] at h
      exact ⟨0, rfl, by simpa using h⟩
    | false =>
      simp only [hb] at h
      obtain ⟨i, find, get⟩ := ih (n + 1) h
      exact ⟨i + 1, by simp [find]; omega, by simpa using get⟩

/-- Whether a cascade port is used follows from CSC_CFG and the position; whether it runs, from its link too (R309). -/
theorem cpUsed_of {s t : State} {c : Nat} (live : t.live 0x140000 = s.live 0x140000) (pos : t.csc.pos = s.csc.pos) : cpUsed t c = cpUsed s c := by
  unfold cpUsed cscEn cscLen
  rw [live, pos]

theorem cpRuns_of {s t : State} {c : Nat} (live : t.live 0x140000 = s.live 0x140000) (pos : t.csc.pos = s.csc.pos)
    (links : t.links = s.links) : cpRuns t c = cpRuns s c := by
  simp only [cpRuns, cpUsed_of live pos, link_of_links links]

/-- Settles O19: neither notice of the flit is for this module, and the first goes on. -/
theorem winNoticesAreRelayed : Obligations.WinNoticesAreRelayed := by
  unfold Obligations.WinNoticesAreRelayed
  intro s f u above type void below
  have run : exec (.win f) s = .next (winIn u f) := rfl
  clear_value u
  have first : nfld (fld f 255 128) 127 124 = 0xB := by
    rw [← type]
    simp only [nfld, fld, Nat.shiftRight_eq_div_pow]
    omega
  have notMine : ∀ w : State, w.csc.pos = u.csc.pos → winNotice w (fld f 255 128) = w := fun w pos =>
    if_pos (.inr (by rw [pos]; omega))
  have noNotice : ∀ w : State, winNotice w (fld f 127 0) = w := fun w => if_pos (.inl (by rw [void]; decide))
  have step : winIn u f = sendWins [fld f 255 128] (u.bump (hpAddr 16 0x40)) := by
    unfold winIn
    rw [if_neg (by simp [above, type])]
    generalize fld f 255 128 = n at first below notMine
    generalize fld f 127 0 = m at void noNotice
    simp only [List.foldl_cons, List.foldl_nil, noNotice, notMine _ (show (u.bump (hpAddr 16 0x40)).csc.pos = u.csc.pos by rw [State.bump_csc])]
    simp [List.filter_cons, first, void, below]
  have runs : cpRuns (u.bump (hpAddr 16 0x40)) 1 = cpRuns u 1 := cpRuns_of (live_bump_ne _ _ _ _ (hpAddr_ne _ _ _ (by decide)).symm) (by simp) (by simp)
  rw [step] at run
  refine ⟨fun up active => ?_, fun broken => ?_⟩
  · rw [sendWins, if_neg (by simp [runs, up, active])] at run
    exact ⟨_, run, by simp, counts_bump u _, by apply State.same_fields <;> simp⟩
  · rw [sendWins, if_pos (by simpa [runs, or_comm] using broken)] at run
    refine gives_of run ⟨?_, by apply State.same_fields <;> simp⟩
    simp only [Counts, List.length_nil, Nat.zero_add, live_bump_same, live_bump_ne _ _ _ _ (hpAddr_ne 16 0x40 0x140058 (by decide)).symm]

/-! ### Search frames and answers -/

/-- Settles O18: the search frame is served last, its answer leaves when it is due, and an answer finds who waits for it. -/
theorem cascadeAnswersAtItsBudget : Obligations.CascadeAnswersAtItsBudget := by
  unfold Obligations.CascadeAnswersAtItsBudget
  intro s u
  have search (fl : List Flit) (t : Nat) (faults : List FaultAt) : exec (.search fl t faults) s = .next (searchIn u fl t faults) := rfl
  have send (ctag : Nat) : exec (.answerSend ctag) s = .next (answerSend u ctag) := rfl
  have answer (fl : List Flit) (t : Nat) : exec (.answer fl t) s = .next (answerIn_ u fl t) := rfl
  clear_value u
  refine ⟨fun fl t faults above type => ?_, fun ctag e found above => ?_, fun fl t below type => ⟨fun noHold noServe => ?_, ?_⟩⟩
  · refine gives_of (search fl t faults) ?_
    unfold searchIn
    rw [if_neg (by simp [above, type])]
    refine ⟨_, List.getLast?_concat, rfl, rfl, ?_, ?_, rfl⟩
    · simp [searchBudget]
    · simp only; omega
  · obtain ⟨i, place, get⟩ := findIdx_some _ _ 0 _ found
    have step : answerSend u ctag = emit (.frame 16 e.sendAt (answerFrame (servedPart u e).1 (if (servedPart u e).1 = 0 then (servedPart u e).2.2 else 0)
        e.ctag (servedPart u e).2.1)) { advance e.sendAt u with csc := { u.csc with serves := u.csc.serves.eraseIdx i } } := by
      have used : ∀ t : State, t = { advance e.sendAt u with csc := { u.csc with serves := u.csc.serves.eraseIdx i } } →
          cpUsed t 1 = cpUsed u 1 ∧ cpRuns t 0 = true := fun t ht => by
        subst ht
        exact ⟨cpUsed_of rfl rfl, (cpRuns_of rfl rfl rfl).trans above⟩
      unfold answerSend
      rw [place, Nat.zero_add]
      simp only [get, (used _ rfl).1, (used _ rfl).2, if_true, servedPart, advance_csc]
      cases cpUsed u 1 <;> rfl
    have run := send ctag
    rw [step] at run
    refine gives_of run ⟨rfl, ?_, rfl, rfl⟩
    have inside : i < u.csc.serves.length := (List.getElem?_eq_some_iff.mp get).1
    simp [List.length_eraseIdx, inside]
    omega
  · have run := answer fl t
    have step : answerIn_ u fl t = ((advance t u).bump (hpAddr 17 0x40)).bump 0x140048 := by
      unfold answerIn_
      rw [if_neg (by simp [below, type])]
      extract_lets w tag pst home now isW isS
      have holds : w.holds = u.holds := by simp only [w, State.bump_holds, advance_holds]
      have serves : w.csc.serves = u.csc.serves := by simp only [w, State.bump_csc, advance_csc]
      have noW : w.holds.any (fun h => h.csc.any isW) = false := by
        rw [holds]
        refine List.any_eq_false.mpr fun h hh => ?_
        have none := List.any_eq_false.mp noHold h hh
        rw [Bool.not_eq_true] at none ⊢
        refine List.any_eq_false.mpr fun c hc waits => List.any_eq_false.mp none c hc ?_
        simp only [isW, Bool.and_eq_true] at waits
        exact waits.1.1
      have noS : w.csc.serves.any isS = false := by
        rw [serves]
        refine List.any_eq_false.mpr fun e he waits => List.any_eq_false.mp noServe e he ?_
        simp only [isS, Bool.and_eq_true] at waits
        exact waits.1.1
      rw [if_neg (by rw [noW]; decide), if_neg (by rw [noS]; decide)]
    rw [step] at run
    refine gives_of run ⟨?_, by apply State.same_fields <;> simp⟩
    rw [Counts, live_bump_same, live_bump_ne _ _ _ _ (hpAddr_ne 17 0x40 0x140048 (by decide)).symm]
    rfl
  · intro h held c waits tag unanswered inTime
    refine gives_of (answer fl t) ?_
    unfold answerIn_
    rw [if_neg (by simp [below, type])]
    dsimp only
    have frame : (advance t u).bump (hpAddr 17 0x40) = { u with now := max u.now t, regs := ((advance t u).bump (hpAddr 17 0x40)).regs } := by
      apply State.same_fields <;> simp
    have count : ((advance t u).bump (hpAddr 17 0x40)).live 0x140044 = u.live 0x140044 :=
      live_bump_ne _ _ _ _ (hpAddr_ne 17 0x40 0x140044 (by decide)).symm
    generalize (advance t u).bump (hpAddr 17 0x40) = w at frame count ⊢
    have held' : h ∈ w.holds := by rw [frame]; exact held
    have mine : (c.ctag == payload fl 32 16 && c.ans.isNone && decide (w.now ≤ c.due)) = true := by
      simp only [Bool.and_eq_true, beq_iff_eq, decide_eq_true_eq]
      exact ⟨⟨tag, by rw [unanswered]; rfl⟩, by rw [frame]; exact inTime⟩
    rw [if_pos (List.any_eq_true.mpr ⟨h, held', List.any_eq_true.mpr ⟨c, waits, mine⟩⟩)]
    refine ⟨?_, by rw [State.bump_now, frame], ⟨_, List.mem_map.mpr ⟨h, held', rfl⟩, rfl, rfl, _,
      List.mem_map.mpr ⟨c, waits, if_pos mine⟩, rfl⟩, ?_⟩
    · exact (counts_bump w 0x140044).of_live count rfl
    · apply State.same_fields <;> simp <;> rw [frame]

/-! ### Hellos -/

/-- What a hello says follows from ID_STEP, CSC_CFG, the epoch and what is known of the chain (R440). -/
theorem helloFlit_of {s t : State} (live : ∀ a, t.live a = s.live a) (epoch : t.epoch = s.epoch) (pos : t.csc.pos = s.csc.pos)
    (ver : t.csc.dnVer = s.csc.dnVer) (below : t.csc.below = s.csc.below) : helloFlit t = helloFlit s := by
  unfold helloFlit reach
  rw [cpUsed_of (live _) pos]
  unfold cscEn cscLen
  rw [live, live, epoch, pos, ver, below]

/-- What a hello from below leaves before the chain is judged: one more in a row, and its reach once the port is verified. -/
def heardBelow (u : State) (f : Flit) : State :=
  { u.bump (hpAddr 17 0x40) with csc := { u.csc with dnRun := min 2 (u.csc.dnRun + 1), dnVer := decide (1 ≤ u.csc.dnRun)
                                                     below := if decide (1 ≤ u.csc.dnRun) then fld f 246 244 else 0 } }

theorem heardBelow_frame (u : State) (f : Flit) :
    heardBelow u f = { u with csc := (heardBelow u f).csc, regs := (heardBelow u f).regs } := by
  unfold heardBelow; apply State.same_fields <;> simp

/-- A hello that agrees counts in its port and changes what is known of its neighbour alone (R310). -/
theorem helloIn_agrees (u : State) (c : Nat) (two : c < 2) (f : Flit) (agrees : helloAgrees u c f = true) : helloIn u c f =
    (let w := u.bump (hpAddr (16 + c) 0x40)
     if c = 0 then { w with csc := { u.csc with upRun := min 2 (u.csc.upRun + 1), upVer := decide (1 ≤ u.csc.upRun) } }
     else if (heardBelow u f).csc.chain = 2 ∧ reach (heardBelow u f) ≠ reachNeed (heardBelow u f) then chainBreak (heardBelow u f)
     else heardBelow u f) := by
  simp only [helloAgrees, Bool.and_eq_true, beq_iff_eq] at agrees
  obtain ⟨⟨runs, type⟩, good⟩ := agrees
  have err : helloErr (u.bump (hpAddr (16 + c) 0x40)) c f = 0 := by
    rw [← good]
    have live : ∀ a, a < 0x180000 → (u.bump (hpAddr (16 + c) 0x40)).live a = u.live a := fun a ha => live_bump_ne _ _ _ _ (hpAddr_ne _ _ a ha).symm
    unfold helloErr cscLen
    simp only [live 4 (by decide), live 0x140000 (by decide), State.bump_csc, State.bump_epoch]
  unfold helloIn
  rw [if_neg (by simp [runs, type])]
  simp only [err, ne_eq, not_true_eq_false, if_false, State.bump_csc]
  by_cases cp0 : c = 0
  · rw [if_pos cp0, if_pos cp0]
  · obtain rfl : c = 1 := by omega
    rfl

/-- Breaking the chain leaves what is known of the neighbours. -/
theorem chainBreak_csc (s : State) : (chainBreak s).csc = { s.csc with chain := if s.csc.chain = 2 then 3 else s.csc.chain } := by
  unfold chainBreak
  split <;> simp

/-- The state in which the hello of the epoch is sent, with what has left by then. -/
def helloing (u : State) (o : List Out) : State :=
  { advance (midEpoch u.epoch) u with csc := { u.csc with helloAt := some u.epoch.count }, out := o }

/-- Hellos go out on the cascade ports that run, CP0 first (R310). -/
theorem helloSend_runs (u : State) (runs : (cpRuns u 0 || cpRuns u 1) = true) (once : u.csc.helloAt ≠ some u.epoch.count) :
    helloSend u = helloing u (u.out ++ (if cpRuns u 0 then [.frame 16 (max u.now (midEpoch u.epoch)) [helloFlit u]] else []) ++
      (if cpRuns u 1 then [.frame 17 (max u.now (midEpoch u.epoch)) [helloFlit u]] else [])) := by
  have port : ∀ o c, cpRuns (helloing u o) c = cpRuns u c := fun _ _ => cpRuns_of rfl rfl rfl
  have flit : ∀ o, helloFlit (helloing u o) = helloFlit u := fun _ => helloFlit_of (fun _ => rfl) rfl rfl rfl rfl
  have send : ∀ p o, emit (.frame p (helloing u o).now [helloFlit u]) (helloing u o) =
      helloing u (o ++ [.frame p (max u.now (midEpoch u.epoch)) [helloFlit u]]) := fun _ _ => rfl
  have start : advance (midEpoch u.epoch) { u with csc := { u.csc with helloAt := some u.epoch.count } } = helloing u u.out := rfl
  unfold helloSend
  rw [if_neg (by simpa [runs] using once)]
  simp only [start, port, flit]
  cases cpRuns u 0
  · simp only [Bool.false_eq_true, if_false, port, flit, send, List.append_nil]
    cases cpRuns u 1 <;> simp
  · simp only [if_true, send, port, flit]
    cases cpRuns u 1
    · simp
    · rw [if_pos rfl, if_pos rfl]; rfl

/-- A port whose hellos are missing, or whose link is lost, is no longer verified; below this module it knows nothing more. -/
theorem unverify_below (u : State) : (unverify u 1).csc =
    { u.csc with dnVer := false, dnRun := 0, below := 0, chain := if u.csc.chain = 2 then 3 else u.csc.chain } := by
  unfold unverify
  rw [if_neg (by decide), chainBreak_csc]

/-- Settles O17: one hello per port that runs; a good one counts, and a broken link or missing hellos unverify the port. -/
theorem hellosVerifyTheChain : Obligations.HellosVerifyTheChain := by
  unfold Obligations.HellosVerifyTheChain
  intro s u
  have send : exec .helloSend s = .next (helloSend u) := rfl
  have hello0 (f : Flit) : exec (.hello 0 f) s = .next (helloIn u 0 f) := rfl
  have hello1 (f : Flit) : exec (.hello 1 f) s = .next (helloIn u 1 f) := rfl
  have lost (w : ChainLoss) : exec (.cscChainLost w) s = .next (chainLost u w) := rfl
  clear_value u
  refine ⟨fun runs once => ?_, fun f agrees => ?_, fun f agrees => ?_, fun used down => ?_, fun used verified => ?_⟩
  · rw [helloSend_runs u runs once] at send
    exact ⟨_, send, rfl, rfl, rfl, rfl⟩
  · have run := hello0 f
    rw [helloIn_agrees u 0 (by decide) f agrees] at run
    exact ⟨_, run, rfl, (counts_bump u (hpAddr 16 0x40)).of_live rfl rfl, by apply State.same_fields <;> simp⟩
  · have run := hello1 f
    rw [helloIn_agrees u 1 (by decide) f agrees, if_neg (by decide)] at run
    refine gives_of run ?_
    have verified : (heardBelow u f).csc.dnVer = decide (1 ≤ u.csc.dnRun) := rfl
    have below : (heardBelow u f).csc.below = if 1 ≤ u.csc.dnRun then fld f 246 244 else 0 := by simp [heardBelow]
    have chain : (heardBelow u f).csc.chain = u.csc.chain := rfl
    have frame := heardBelow_frame u f
    generalize heardBelow u f = v at verified below chain frame ⊢
    by_cases breaks : v.csc.chain = 2 ∧ reach v ≠ reachNeed v
    · rw [if_pos breaks]
      refine ⟨?_, ?_, fun other => absurd (chain ▸ breaks.1) other, ?_⟩
      · rw [chainBreak_csc]; exact verified
      · rw [chainBreak_csc]; exact below
      · rw [chainBreak_frame, frame]
    · rw [if_neg breaks]
      exact ⟨verified, below, fun _ => chain, by rw [frame]⟩
  · have step : chainLost u (.linkLost 1) = unverify u 1 := if_pos (by simp [used, down])
    have run := lost (.linkLost 1)
    rw [step] at run
    refine gives_of run ⟨by rw [unverify_below], by rw [unverify_below], by rw [unverify_below], fun active => ⟨?_, ?_⟩, by rw [unverify_frame]⟩
    · rw [unverify_below]; exact if_pos active
    · unfold unverify chainBreak
      rw [if_neg (by decide), if_pos active]
      exact flagged_raise _ _ _ _ _ (by decide)
  · refine gives_of (lost _) ?_
    simp [chainLost, used, verified, unverify]

end Sys2Proof.Claim
end

section
/-! PROOFS. Bits and fields of register words, and the test port and the sideband (O54). -/

namespace Sys2Proof.Machine

/-! ### Bits and fields of words -/

/-- Bit `i` of a field is bit `lo + i` of its word. -/
theorem testBit_fld {n : Nat} (w : BitVec n) (hi lo i : Nat) : (fld w hi lo).testBit i = (decide (i < hi + 1 - lo) && bit w (lo + i)) := by
  simp [fld, bit, Nat.testBit_mod_two_pow, Nat.testBit_shiftRight]

/-- Two words agree in a field when they agree in its bits. -/
theorem fld_eq_of_bits {n m : Nat} {w : BitVec n} {v : BitVec m} {hi lo : Nat} (h : ∀ i, lo ≤ i → i ≤ hi → bit w i = bit v i) :
    fld w hi lo = fld v hi lo := by
  apply Nat.eq_of_testBit_eq
  intro i
  rw [testBit_fld, testBit_fld]
  by_cases inside : i < hi + 1 - lo
  · rw [h (lo + i) (by omega) (by omega)]
  · simp [inside]

@[simp] theorem bit_or {n : Nat} (w v : BitVec n) (i : Nat) : bit (w ||| v) i = (bit w i || bit v i) := by
  simp [bit, BitVec.toNat_or, Nat.testBit_or]

@[simp] theorem bit_and {n : Nat} (w v : BitVec n) (i : Nat) : bit (w &&& v) i = (bit w i && bit v i) := by
  simp [bit, BitVec.toNat_and, Nat.testBit_and]

theorem bit_not (w : Word) (i : Nat) : bit (~~~ w) i = (decide (i < 32) && !bit w i) := by
  exact BitVec.getLsbD_not

theorem bit_word (v i : Nat) : bit (word v) i = (decide (i < 32) && v.testBit i) := by
  exact BitVec.getLsbD_ofNat ..

theorem bit_maskOf (hi lo i : Nat) : bit (maskOf hi lo) i = (decide (i < 32) && (decide (lo ≤ i) && decide (i < hi + 1))) := by
  simp only [bit, maskOf, BitVec.toNat_ofNat, Nat.testBit_mod_two_pow, Nat.testBit_mul_two_pow, Nat.testBit_two_pow_sub_one]
  grind

theorem bit_at_ (v n lo i : Nat) : bit (at_ v n lo) i = (decide (i < 32) && (decide (lo ≤ i) && (decide (i < lo + n) && v.testBit (i - lo)))) := by
  simp only [bit, at_, BitVec.toNat_ofNat, Nat.testBit_mod_two_pow, Nat.testBit_mul_two_pow]
  grind

/-- A word with the field [hi:lo] set to a value. -/
def putFld (w : Word) (hi lo v : Nat) : Word := (w &&& ~~~ maskOf hi lo) ||| at_ v (hi + 1 - lo) lo

/-- A bit of a word outside the field that is set is as it was. -/
theorem bit_putFld_ne (w : Word) (hi lo v i : Nat) (h : i < lo ∨ hi < i) : bit (putFld w hi lo v) i = bit w i := by
  have high : 32 ≤ i → bit w i = false := fun big => Nat.testBit_lt_two_pow (Nat.lt_of_lt_of_le w.isLt (Nat.pow_le_pow_right (by decide) big))
  unfold putFld
  rw [bit_or, bit_and, bit_not, bit_maskOf, bit_at_]
  grind

/-- The field that is set holds the value, cut to its width. -/
theorem fld_putFld_same (w : Word) (hi lo v : Nat) (h : lo ≤ hi) (top : hi < 32) : fld (putFld w hi lo v) hi lo = v % 2 ^ (hi + 1 - lo) := by
  apply Nat.eq_of_testBit_eq
  intro i
  rw [testBit_fld, Nat.testBit_mod_two_pow]
  unfold putFld
  rw [bit_or, bit_and, bit_not, bit_maskOf, bit_at_, Nat.add_sub_cancel_left]
  grind

/-- Another field of the word is as it was. -/
theorem fld_putFld_ne (w : Word) (hi lo v hi' lo' : Nat) (h : hi' < lo ∨ hi < lo') : fld (putFld w hi lo v) hi' lo' = fld w hi' lo' :=
  fld_eq_of_bits fun i _ _ => bit_putFld_ne w hi lo v i (by omega)

theorem live_bumpField_same (s : State) (a hi lo n : Nat) : (s.bumpField a hi lo n).live a =
    putFld (s.live a) hi lo (min (2 ^ (hi + 1 - lo) - 1) (fld (s.live a) hi lo + n)) := by
  simp only [State.bumpField, live_setLive_same, putFld]

theorem live_setField_same (s : State) (a hi lo v : Nat) : (s.setField a hi lo v).live a = putFld (s.live a) hi lo v :=
  live_setLive_same _ _ _

/-- A counter field that increments holds one more, saturating. -/
theorem fld_bumpField_same (s : State) (a hi lo n : Nat) (h : lo ≤ hi) (top : hi < 32) :
    fld ((s.bumpField a hi lo n).live a) hi lo = min (2 ^ (hi + 1 - lo) - 1) (fld (s.live a) hi lo + n) := by
  rw [live_bumpField_same, fld_putFld_same _ _ _ _ h top, Nat.mod_eq_of_lt]
  have := Nat.two_pow_pos (hi + 1 - lo)
  omega

/-! ### Little-endian numbers in byte strings -/

theorem slice_append (l m : List Byte) (k n : Nat) (h : k + n ≤ l.length) : slice (l ++ m) k n = slice l k n := by
  unfold slice
  rw [List.drop_append_of_le_length (by omega), List.take_append_of_le_length (by simp; omega)]

theorem slice_skip (l m : List Byte) (k n : Nat) (h : l.length ≤ k) : slice (l ++ m) k n = slice m (k - l.length) n := by
  unfold slice
  rw [List.drop_append, List.drop_eq_nil_of_le h, List.nil_append]

theorem leAt_whole (l : List Byte) : leAt l 0 l.length = natLE l := by simp [leAt, slice]

/-- The number that stands first in a byte string. -/
theorem leAt_head (n v : Nat) (m : List Byte) : leAt (bytesLE n v ++ m) 0 n = v % 256 ^ n := by
  unfold leAt
  rw [slice_append _ _ _ _ (by simp [bytesLE_length])]
  have whole := leAt_whole (bytesLE n v)
  rw [bytesLE_length] at whole
  rw [← natLE_bytesLE, ← whole]
  rfl

/-- A number behind another field of a byte string. -/
theorem leAt_skip (l m : List Byte) (k n : Nat) (h : l.length ≤ k) : leAt (l ++ m) k n = leAt m (k - l.length) n := by
  unfold leAt; rw [slice_skip _ _ _ _ h]

end Sys2Proof.Machine

namespace Sys2Proof.Claim

open Machine

/-- The identification code of R444: stepping, part number and manufacturer are in their fields. -/
theorem idcode_fields (j : Nat) (h : j < 2 ^ 11) (w : BitVec 32) (hw : w = BitVec.ofNat 32 (0x2 * 2 ^ 28 + 0x2416 * 2 ^ 12 + j * 2 + 1)) :
    fld w 31 28 = 2 ∧ fld w 27 12 = 0x2416 ∧ fld w 11 1 = j ∧ fld w 0 0 = 1 := by
  have value : w.toNat = 0x2 * 2 ^ 28 + 0x2416 * 2 ^ 12 + j * 2 + 1 := by rw [hw, BitVec.toNat_ofNat]; omega
  simp only [fld, value, Nat.shiftRight_eq_div_pow]
  omega

/-- The island answers a read with its bytes and the packet error code. -/
theorem smbAnswer_on (u : State) (code : Nat) (block : Bool) (l : List Byte) (on : islandOn u = true) :
    smbAnswer u code block l = { u with out := u.out ++ [.smb (some l) (readPec u code block l)] } := if_pos on

theorem tapLoad_on (u : State) (k : Nat) (on : islandOn u = true) :
    tapLoad u k = { u with power := { u.power with jtag := if 3 ≤ k ∧ u.power.mrstN = true then 0 else k } } := if_neg (by simp [on])

theorem tapLoad_off (u : State) (k : Nat) (off : islandOn u = false) : tapLoad u k = u := if_pos (by simp [off])

/-- The record of the log summary that names the last error. -/
def lastError (r : LogRec) : List Byte := bytesLE 2 r.src ++ bytesLE 1 r.sev ++ bytesLE 1 0 ++ bytesLE 6 r.epoch ++ bytesLE 2 0

theorem lastError_fields (r : LogRec) : leAt (lastError r) 0 2 = r.src % 65536 ∧ leAt (lastError r) 2 1 = r.sev % 256 ∧
    leAt (lastError r) 4 6 = r.epoch % 2 ^ 48 := by
  unfold lastError
  simp only [List.append_assoc]
  refine ⟨leAt_head 2 r.src _, ?_, ?_⟩
  · rw [leAt_skip _ _ _ _ (by simp [bytesLE_length])]
    simp only [bytesLE_length]
    exact leAt_head 1 r.sev _
  · rw [leAt_skip _ _ _ _ (by simp [bytesLE_length]), leAt_skip _ _ _ _ (by simp [bytesLE_length]),
      leAt_skip _ _ _ _ (by simp [bytesLE_length])]
    simp only [bytesLE_length]
    exact leAt_head 6 r.epoch _

/-- Settles O54: each read answers with its bytes while the island is on, and nothing happens while it is off. -/
theorem testPortAndSidebandAnswer : Obligations.TestPortAndSidebandAnswer := by
  unfold Obligations.TestPortAndSidebandAnswer
  intro s u
  have is : pre s = u := rfl
  clear_value u
  have load (k : Nat) (i : Instr) (hi : (k, i) ∈ tapInstrs) : exec i s = .next (tapLoad u k) := by
    subst is
    simp only [tapInstrs, List.mem_cons, Prod.mk.injEq, List.not_mem_nil, or_false] at hi
    rcases hi with ⟨rfl, rfl⟩ | ⟨rfl, rfl⟩ | ⟨rfl, rfl⟩ | ⟨rfl, rfl⟩ | ⟨rfl, rfl⟩ | ⟨rfl, rfl⟩ | ⟨rfl, rfl⟩ | ⟨rfl, rfl⟩ <;> rfl
  have id : exec .idcode s = .next (tapIdcode u) := by subst is; rfl
  have readId : exec .smbReadId s = .next (smbAnswer u 0 true (bytesLE 4 (u.live 0).toNat ++ bytesLE 4 (u.live 4).toNat)) := by subst is; rfl
  have readStage : exec .smbReadStage s = .next (smbAnswer u 1 false (bytesLE 1 u.stage.stage ++ bytesLE 1 u.stage.fsCause.toNat)) := by subst is; rfl
  have readStatus : exec .smbReadStageStatus s = .next (smbAnswer u 2 true (bytesLE 4 (stageStatus u))) := by subst is; rfl
  have readTemp (c : Fin 32) : exec (.smbReadTemp c) s =
    .next (smbAnswer u (0x10 + c) false (bytesLE 2 (intBits 16 (u.mgmt.temp.getD c 0)))) := by subst is; rfl
  have readVolt (c : Fin 16) : exec (.smbReadVolt c) s = .next (smbAnswer u (0x30 + c) false (bytesLE 2 (natAt u.mgmt.volt c))) := by subst is; rfl
  have readCurr (c : Fin 16) : exec (.smbReadCurr c) s = .next (smbAnswer u (0x40 + c) false (bytesLE 2 (natAt u.mgmt.curr c))) := by subst is; rfl
  have readPower : exec .smbReadPower s = .next (smbAnswer u 0x50 false (bytesLE 2 u.mgmt.power)) := by subst is; rfl
  have summary : exec .smbLogSummary s = .next (smbSummary u) := by subst is; rfl
  have status : exec .alertStatus s = .next (smbAlertStatus u) := by subst is; rfl
  have response : exec .alertResponse s = .next (smbAra u) := by subst is; rfl
  have reject (w : Bool) : exec (.smbWriteReject w) s = .next (smbReject u) := by subst is; rfl
  refine ⟨fun on => ⟨fun p hp => ?_, ?_, ?_, ?_, ?_, fun c => ?_, fun c => ?_, fun c => ?_, ?_, ?_, ?_, fun asserted => ?_, fun idle => ?_,
    fun w => ?_⟩, fun off => ?_⟩
  · rw [load p.1 p.2 hp, tapLoad_on u _ on]
  · refine gives_of id ?_
    unfold tapIdcode
    rw [if_neg (by simp [on]), tapLoad_on u 1 on]
    exact ⟨⟨_, rfl, idcode_fields _ Config.jedecCode.isLt _ rfl⟩, by simp [emit]⟩
  · exact readId.trans (congrArg _ (smbAnswer_on u _ _ _ on))
  · exact readStage.trans (congrArg _ (smbAnswer_on u _ _ _ on))
  · exact readStatus.trans (congrArg _ (smbAnswer_on u _ _ _ on))
  · exact (readTemp c).trans (congrArg _ (smbAnswer_on u _ _ _ on))
  · exact (readVolt c).trans (congrArg _ (smbAnswer_on u _ _ _ on))
  · exact (readCurr c).trans (congrArg _ (smbAnswer_on u _ _ _ on))
  · exact readPower.trans (congrArg _ (smbAnswer_on u _ _ _ on))
  · cases last : u.mgmt.lastBad with
    | none =>
      refine ⟨bytesLE 12 0, ?_, bytesLE_length _ _, fun r absent => nomatch absent⟩
      exact summary.trans (congrArg _ (by unfold smbSummary; simp only [last]; exact smbAnswer_on u _ _ _ on))
    | some r =>
      refine ⟨lastError r, ?_, by simp [lastError, bytesLE_length], fun q same => ?_⟩
      · exact summary.trans (congrArg _ (by unfold smbSummary; simp only [last]; exact smbAnswer_on u _ _ _ on))
      · obtain rfl : r = q := Option.some.inj same
        exact lastError_fields r
  · exact status.trans (congrArg _ (if_neg (by simp [on])))
  · refine ⟨pec (bytesLE 1 0x19 ++ bytesLE 1 (u.power.smbAddr * 2)), response.trans (congrArg _ ?_)⟩
    unfold smbAra
    rw [if_neg (by simp [on]), if_pos asserted]
    rfl
  · refine response.trans (congrArg _ ?_)
    unfold smbAra
    rw [if_neg (by simp [on]), if_neg (by simp [idle])]
    rfl
  · refine gives_of (reject w) ?_
    have step : smbReject u = emit (.smb none 0) (u.bumpField 0x160010 7 0) := if_pos on
    rw [step]
    refine ⟨by simp, fld_bumpField_same u 0x160010 7 0 1 (by decide) (by decide), by apply State.same_fields <;> simp⟩
  · have answer (code : Nat) (block : Bool) (l : List Byte) : smbAnswer u code block l = u := if_neg (by simp [off])
    intro i hi
    simp only [List.mem_cons, List.not_mem_nil, or_false] at hi
    rcases hi with rfl | rfl | rfl | rfl | rfl | rfl | rfl | rfl | rfl | rfl
    · rw [readId, answer]
    · rw [readStage, answer]
    · rw [readStatus, answer]
    · rw [readPower, answer]
    · rw [summary, smbSummary, answer]
    · rw [status, smbAlertStatus, if_pos (by simp [off])]
    · rw [response, smbAra, if_pos (by simp [off])]
    · rw [load 0 .bypass (by simp [tapInstrs]), tapLoad_off u _ off]
    · rw [load 1 .trstN (by simp [tapInstrs]), tapLoad_off u _ off]
    · rw [id, tapIdcode, if_pos (by simp [off])]

end Sys2Proof.Claim
end

section
/-! PROOFS. What the rows of Fresin commands share: the command that runs, its end, its wait; and the ownership commands
(O33). -/

namespace Sys2Proof.Machine

/-! ### The end and the wait of a command -/

/-- A status that a table's error register and the glaze counter do not record (R71, R199). -/
def plainStatus (st : Nat) : Bool := st != stTableFull && st != stNoPlacement && st != stBusyGlaze

/-- A command that is finished with a result. -/
def Cmd.ended (c : Cmd) (status handle vis : Nat) (held : Bool) : Cmd :=
  { c with st := .finished, status := status, handle := handle, vis := vis, held := held }

/-- Commands with one more of them ended. -/
def endCmd (l : List Cmd) (id status handle vis : Nat) (held : Bool) : List Cmd :=
  l.map (fun d => if d.id == id then d.ended status handle vis held else d)

/-- With a plain status nothing but the command changes. -/
theorem finishAs_plain (s : State) (id status handle vis : Nat) (held : Bool) (plain : plainStatus status = true) :
    finishAs s id status handle vis held = { s with cmds := endCmd s.cmds id status handle vis held } := by
  simp only [plainStatus, Bool.and_eq_true, bne_iff_ne] at plain
  obtain ⟨⟨full, none⟩, busy⟩ := plain
  unfold finishAs
  cases found : s.cmds.find? (fun c => c.id == id) with
  | none =>
    have same : endCmd s.cmds id status handle vis held = s.cmds := by
      refine (List.map_congr_left fun d hd => if_neg ?_).trans (List.map_id _)
      exact List.find?_eq_none.mp found d hd
    rw [same]
  | some c =>
    dsimp only
    rw [if_neg full, if_neg none, ite_self, if_neg (by simp [busy])]
    rfl

theorem finish_plain (s : State) (id status handle vis : Nat) (plain : plainStatus status = true) :
    finish s id status handle vis = { s with cmds := endCmd s.cmds id status handle vis false } := finishAs_plain _ _ _ _ _ _ plain

/-- With any status nothing but the commands, the registers and the events change. -/
theorem finishAs_cmds (s : State) (id status handle vis : Nat) (held : Bool) :
    (finishAs s id status handle vis held).cmds = endCmd s.cmds id status handle vis held := by
  unfold finishAs
  cases found : s.cmds.find? (fun c => c.id == id) with
  | none =>
    refine ((List.map_congr_left fun d hd => if_neg ?_).trans (List.map_id _)).symm
    exact List.find?_eq_none.mp found d hd
  | some c =>
    have ended : (s.modCmds (fun c => c.id == id) (fun c => c.ended status handle vis held)).cmds = endCmd s.cmds id status handle vis held := rfl
    unfold Cmd.ended at ended
    dsimp only
    generalize s.modCmds _ _ = w at ended ⊢
    rw [apply_ite State.cmds, State.raise_cmds, State.bump_cmds, ite_self, apply_ite State.cmds, apply_ite State.cmds, apply_ite State.cmds,
      State.setBits_cmds, State.setBits_cmds, ite_self, ite_self, ite_self]
    exact ended

/-- A command that begins a wait. -/
def Cmd.waits (c : Cmd) (w : Wait) (now : Nat) : Cmd := { c with st := .waiting w, since := now, stalled := false }

theorem cmdWait_eq (s : State) (id : Nat) (w : Wait) :
    cmdWait s id w = { s with cmds := s.cmds.map (fun d => if d.id == id then d.waits w s.epoch.count else d) } := rfl

@[simp] theorem meet_nil (s : State) : meet s [] = s := rfl

/-! ### The command that runs -/

/-- What is known of a running command: it is listed, in its mailbox, running, with its opcode. -/
theorem runningCmd_spec {s : State} {m op : Nat} {c : Cmd} (h : runningCmd s m op = some c) :
    c ∈ s.cmds ∧ c.mb = m ∧ c.st = .running ∧ c.op = op := by
  unfold runningCmd at h
  cases found : s.cmds.find? (fun c => c.mb == m && c.st == .running && c.op == op) with
  | none => rw [found] at h; exact nomatch h
  | some d =>
    rw [found] at h
    dsimp only at h
    split at h
    · exact nomatch h
    · obtain rfl : d = c := Option.some.inj h
      have here := List.find?_some found
      simp only [Bool.and_eq_true, beq_iff_eq] at here
      exact ⟨List.mem_of_find?_eq_some found, here.1.1, here.1.2, here.2⟩

end Sys2Proof.Machine

namespace Sys2Proof.Claim

open Machine

theorem withCmd_runs {u : State} {m op : Nat} {c : Cmd} (h : Runs u m op c) (f : State → Cmd → State) : withCmd u m op f = f u c := by
  unfold withCmd; rw [h]

theorem withCmdIf_runs {u : State} {m op : Nat} {p : Cmd → Bool} {c : Cmd} (h : RunsOp u m op p c) (f : State → Cmd → State) :
    withCmdIf u m op p f = f u c := by
  unfold withCmdIf; rw [h.1]; exact if_pos h.2

theorem withCmdSlots_runs {u : State} {m op : Nat} {c : Cmd} (h : Runs u m op c) (f : State → Cmd → State) :
    withCmdSlots u m op f = withSlots u (f u c) 2 (fun _ => sequencerOf c.id) := withCmd_runs h _

theorem Runs.mem {u : State} {m op : Nat} {c : Cmd} (h : Runs u m op c) : c ∈ u.cmds := (runningCmd_spec h).1

theorem Runs.mb {u : State} {m op : Nat} {c : Cmd} (h : Runs u m op c) : c.mb = m := (runningCmd_spec h).2.1

theorem Runs.op {u : State} {m op : Nat} {c : Cmd} (h : Runs u m op c) : c.op = op := (runningCmd_spec h).2.2.2

theorem RunsOp.mem {u : State} {m op : Nat} {p : Cmd → Bool} {c : Cmd} (h : RunsOp u m op p c) : c ∈ u.cmds :=
  List.mem_of_find?_eq_some h.1

theorem RunsOp.mb {u : State} {m op : Nat} {p : Cmd → Bool} {c : Cmd} (h : RunsOp u m op p c) : c.mb = m := by
  have here := List.find?_some h.1
  simp only [Bool.and_eq_true, beq_iff_eq] at here
  exact here.1.1

/-- A command ends when it alone is ended in the list. -/
theorem ends_of {u t : State} {c : Cmd} {status handle vis : Nat} {held : Bool} (h : t.cmds = endCmd u.cmds c.id status handle vis held) :
    Ends u t c status handle vis held := ⟨none, h⟩

theorem Ends.of_cmds {u s t : State} {c : Cmd} {status handle vis : Nat} {held : Bool} (h : Ends s t c status handle vis held)
    (same : s.cmds = u.cmds) : Ends u t c status handle vis held := by
  obtain ⟨q, hq⟩ := h
  exact ⟨q, by rw [hq, same]⟩

/-- A command that is refused with a plain status ends, and nothing else changes. -/
theorem refused_of {i : Instr} {s u : State} {c : Cmd} {status handle : Nat} (run : exec i s = .next (finish u c.id status handle))
    (plain : plainStatus status = true) : Refused i s u c status handle := by
  rw [finish_plain _ _ _ _ _ plain] at run
  exact ⟨_, run, ends_of rfl, rfl⟩

/-- A listed command waits once it begins to. -/
theorem waits_of {u t : State} {c : Cmd} {w : Wait} {n : Nat} (mem : c ∈ u.cmds)
    (h : t.cmds = u.cmds.map (fun d => if d.id == c.id then d.waits w n else d)) : Waits t c w :=
  ⟨c.waits w n, by rw [h]; exact List.mem_map.mpr ⟨c, mem, if_pos (beq_self_eq_true _)⟩, rfl, rfl⟩

/-! ### The ownership commands -/

/-- The form of OWN_CLAIM and OWN_RENEW. -/
theorem claim_form {c : Cmd} (bare : bareForm c 24 = true) (high : c.le 19 1 = 0) : (!bareForm c 24 || c.le 19 1 != 0) = false := by
  simp [bare, high]

theorem cmdOwnClaim_good {s : State} {c : Cmd} (compl : c.compl 16 20 4 = true) (bare : bareForm c 24 = true) (high : c.le 19 1 = 0) :
    cmdOwnClaim s c = (if isOwner s c.mb then finishAs (castBallot s c.mb (c.le 18 1) (c.le 16 2)) c.id stOk 0xFFFFFFFF s.own.began s.own.beganHeld
      else if s.own.st != .vacant then finish (castBallot s c.mb (c.le 18 1) (c.le 16 2)) c.id stNotOwner
      else cmdWait (castBallot s c.mb (c.le 18 1) (c.le 16 2)) c.id .election) := by
  unfold cmdOwnClaim
  rw [if_neg (by simp [compl]), claim_form bare high]
  rfl

theorem cmdOwnRenew_good {s : State} {c : Cmd} (compl : c.compl 16 20 4 = true) (bare : bareForm c 24 = true) (high : c.le 19 1 = 0)
    (len : c.le 16 4 = 0 ∨ 16 ≤ c.le 16 4) : cmdOwnRenew s c =
    (if isOwner s c.mb && s.own.st != .draining then
      finish (renewLease s (if c.le 16 4 = 0 then leaseLen s else c.le 16 4) false) c.id stOk 0xFFFFFFFF
        (s.epoch.count + (if c.le 16 4 = 0 then leaseLen s else c.le 16 4))
    else finish (if isOwner s c.mb then s.setBits 0x10018 2 else s) c.id stOk) := by
  have fits : (decide (0 < c.le 16 4) && decide (c.le 16 4 < 16)) = false := by
    simp only [Bool.and_eq_false_iff, decide_eq_false_iff_not]; omega
  unfold cmdOwnRenew
  rw [if_neg (by simp [compl]), claim_form bare high, fits]
  rfl

/-- A renewal moves the lease end and notes what it was, if it is the first of its hub cycle. -/
theorem renewLease_eq (s : State) (len : Nat) (byReg : Bool) : renewLease s len byReg = { s with
    own := { s.own with leaseEnd := s.epoch.count + len, renewed := (renewLease s len byReg).own.renewed } } := rfl

theorem renewLease_first (s : State) (len : Nat) (byReg : Bool) (first : lateRenewal s = none) :
    (renewLease s len byReg).own.renewed = some (s.now, s.own.leaseEnd, byReg) := by
  unfold renewLease; rw [first]

theorem pair_of_snd {α β : Type} {p : α × β} {b : β} (h : p.2 = b) : p = (p.1, b) := by rw [← h]

theorem cmdOwnAccept_good {s : State} {c : Cmd} (bare : bareForm c 16 = true) (owner : isOwner s c.mb = true) (probation : s.own.probation = true) :
    cmdOwnAccept s c = finish (if s.own.st = .draining then { s with own := { s.own with probation := false } }.setBits 0x10018 2
      else renewLease { s with own := { s.own with probation := false } } (leaseLen s) false) c.id stOk := by
  unfold cmdOwnAccept
  rw [if_neg (by simp [bare, owner, probation])]
  rfl

/-- RENEW_LATE is set. -/
theorem renewLate_set (s : State) : bit ((s.setBits 0x10018 2).live 0x10018) 1 = true := by
  rw [live_setBits_same, bit_or, bit_word]
  simp [Nat.testBit]

/-- Settles O33: each command by the state of the ownership logic, its port being the owner or not. -/
theorem ownershipCommands : Obligations.OwnershipCommands := by
  unfold Obligations.OwnershipCommands
  intro s mb c u
  have is : pre s = u := rfl
  clear_value u
  have claim : exec (.ownClaim mb) s = .next (withCmd u mb 0x80 cmdOwnClaim) := by subst is; rfl
  have renew : exec (.ownRenew mb) s = .next (withCmd u mb 0x81 cmdOwnRenew) := by subst is; rfl
  have handover : exec (.ownHandover mb) s = .next (withCmd u mb 0x82 cmdOwnHandover) := by subst is; rfl
  have accept : exec (.ownAccept mb) s = .next (withCmd u mb 0x83 cmdOwnAccept) := by subst is; rfl
  have release : exec (.ownRelease mb) s = .next (withCmd u mb 0x84 cmdOwnRelease) := by subst is; rfl
  refine ⟨fun runs compl bare high => ⟨fun other vacant => ?_, fun owner => ?_, fun other owned => ?_⟩,
    fun runs compl bare high => ⟨fun owner drain len => ?_, fun other len => ?_, fun owner drain len => ?_, fun low high' => ?_⟩,
    fun runs => ⟨fun q good => ⟨fun h hand cmd => ?_, fun none => ?_⟩, fun st bad => ?_⟩,
    fun runs bare => ⟨fun owner drain probation => ?_, fun owner drain probation => ?_, fun bad => ?_⟩,
    fun runs bare owner => ⟨fun drain => ?_, fun drain => ?_⟩⟩
  · rw [withCmd_runs runs, cmdOwnClaim_good compl bare high, runs.mb, if_neg (by simp [other]), if_neg (by simp [vacant])] at claim
    exact ⟨_, claim, waits_of runs.mem rfl, rfl⟩
  · rw [withCmd_runs runs, cmdOwnClaim_good compl bare high, runs.mb, if_pos owner, finishAs_plain _ _ _ _ _ _ (by decide)] at claim
    exact ⟨_, claim, ends_of rfl, rfl⟩
  · rw [withCmd_runs runs, cmdOwnClaim_good compl bare high, runs.mb, if_neg (by simp [other]), if_pos (by simp [owned]),
      finish_plain _ _ _ _ _ (by decide)] at claim
    exact ⟨_, claim, ends_of rfl, rfl⟩
  · rw [withCmd_runs runs, cmdOwnRenew_good compl bare high len, runs.mb, if_pos (by simp [owner, drain]),
      finish_plain _ _ _ _ _ (by decide)] at renew
    exact ⟨_, renew, ends_of rfl, renewLease_first _ _ _, rfl⟩
  · rw [withCmd_runs runs, cmdOwnRenew_good compl bare high len, runs.mb, if_neg (by simp [other]), if_neg (by simp [other]),
      finish_plain _ _ _ _ _ (by decide)] at renew
    exact ⟨_, renew, ends_of rfl, rfl⟩
  · rw [withCmd_runs runs, cmdOwnRenew_good compl bare high len, runs.mb, if_neg (by simp [drain]), if_pos owner,
      finish_plain _ _ _ _ _ (by decide)] at renew
    exact ⟨_, renew, ends_of (by simp), renewLate_set u, by apply State.same_fields <;> simp⟩
  · rw [withCmd_runs runs] at renew
    unfold cmdOwnRenew at renew
    rw [if_neg (by simp [compl]), if_pos (by simp [low, high'])] at renew
    exact refused_of renew (by decide)
  · rw [withCmd_runs runs] at handover
    unfold cmdOwnHandover at handover
    rw [pair_of_snd good, hand] at handover
    dsimp only at handover
    rw [if_pos cmd] at handover
    exact ⟨_, handover, waits_of runs.mem rfl, rfl⟩
  · rw [withCmd_runs runs] at handover
    unfold cmdOwnHandover at handover
    rw [pair_of_snd good, none] at handover
    exact refused_of handover (by decide)
  · rw [withCmd_runs runs] at handover
    have status : plainStatus st = true := by
      unfold handoverForm at bad
      split at bad
      · obtain rfl : stBadComplement = st := congrArg Prod.fst bad; decide
      · split at bad
        · obtain rfl : stInvalid = st := congrArg Prod.fst bad; decide
        · exact nomatch congrArg Prod.snd bad
    unfold cmdOwnHandover at handover
    rw [bad] at handover
    exact refused_of handover status
  · rw [withCmd_runs runs, cmdOwnAccept_good bare (by rw [runs.mb]; exact owner) probation, if_neg drain,
      finish_plain _ _ _ _ _ (by decide)] at accept
    exact ⟨_, accept, ends_of rfl, renewLease_first { u with own := { u.own with probation := false } } (leaseLen u) false, rfl⟩
  · rw [withCmd_runs runs, cmdOwnAccept_good bare (by rw [runs.mb]; exact owner) probation, if_pos drain,
      finish_plain _ _ _ _ _ (by decide)] at accept
    exact ⟨_, accept, ends_of (by simp), renewLate_set _, by apply State.same_fields <;> simp⟩
  · rw [withCmd_runs runs] at accept
    unfold cmdOwnAccept at accept
    rw [runs.mb, if_pos (by simpa [bare] using bad)] at accept
    exact refused_of accept (by decide)
  · rw [withCmd_runs runs] at release
    unfold cmdOwnRelease at release
    rw [runs.mb, if_neg (by simp [bare]), if_pos (by simp [owner, drain])] at release
    exact ⟨_, release, waits_of runs.mem rfl, rfl⟩
  · rw [withCmd_runs runs] at release
    unfold cmdOwnRelease at release
    rw [runs.mb, if_neg (by simp [bare]), if_neg (by simp [drain])] at release
    exact refused_of release (by decide)

end Sys2Proof.Claim
end

section
/-! PROOFS. Requests for slots, journal records, and the commands for sprinkle and the key store (O37, O39). -/

namespace Sys2Proof.Machine

/-! ### Requests for slots -/

/-- `t` is `s` but for the requests for UPDATE and DRAM slots. -/
def AsksOnly (s t : State) : Prop :=
  t = { s with dies := { s.dies with asks := t.dies.asks, askAt := t.dies.askAt, dram := t.dies.dram, dramAt := t.dies.dramAt } }

theorem AsksOnly.refl (s : State) : AsksOnly s s := rfl

theorem AsksOnly.trans {s t u : State} (h : AsksOnly s t) (k : AsksOnly t u) : AsksOnly s u := by
  unfold AsksOnly at h k ⊢
  rw [k, h]

theorem AsksOnly.foldl {α : Type} {f : State → α → State} (each : ∀ s a, AsksOnly s (f s a)) (l : List α) (s : State) :
    AsksOnly s (l.foldl f s) :=
  foldl_keep (P := fun t : State => AsksOnly s t) f (fun t a h => h.trans (each t a)) l s (AsksOnly.refl s)

theorem AsksOnly.ite {c : Prop} [Decidable c] {s a b : State} (ha : AsksOnly s a) (hb : AsksOnly s b) : AsksOnly s (if c then a else b) := by
  split <;> assumption

theorem askSlots_asks (s : State) (d g u req n : Nat) (w : Who) : AsksOnly s (askSlots s d g u req n w) := rfl

theorem askDram_asks (s : State) (req a len order : Nat) (w : Who) : AsksOnly s (askDram s req a len order w) := rfl

theorem askRows_asks (s : State) (d u w : Nat) (ps : List Nat) (who : Who) : AsksOnly s (askRows s d u w ps who) :=
  (askSlots_asks s _ _ _ _ _ _).trans (AsksOnly.foldl (fun _ _ => askDram_asks _ _ _ _ _ _) _ _)

theorem askCopy_asks (s : State) (d b k : Nat) (who : Who) : AsksOnly s (askCopy s d b k who) := by
  unfold askCopy
  dsimp only
  split
  · exact AsksOnly.refl s
  · exact askRows_asks ..

theorem askWrites_asks (s : State) (t req : Nat) (x y : Table) (who : Nat → Who) : AsksOnly s (askWrites s t req x y who) :=
  (AsksOnly.foldl (fun _ _ => AsksOnly.foldl (fun _ _ => askSlots_asks ..) _ _) _ _).trans
    (AsksOnly.foldl (fun _ _ => askDram_asks ..) _ _)

theorem askDirect_asks (u s : State) (who : Who) : AsksOnly s (askDirect u s who) := AsksOnly.foldl (fun _ _ => askDram_asks ..) _ _

theorem askChange_asks (u s : State) (req : Nat) (who : Nat → Who) : AsksOnly s (askChange u s req who) := by
  have each : ∀ (v : State) (t : Nat), AsksOnly v (if u.table t == v.table t then v else match u.table t, v.table t with
      | some x, some y => askWrites v t req x y who
      | none, some y => askWrites v t req { y with rows := [], covers := [] } y who
      | _, none => v) := by
    intro v t
    split
    · exact AsksOnly.refl v
    · split
      · exact askWrites_asks ..
      · exact askWrites_asks ..
      · exact AsksOnly.refl v
  unfold askChange
  dsimp only
  have first : AsksOnly s { s with dies := { s.dies with
      dram := s.dies.dram.map (fun a => if a.who == {} && a.req != drHit && !u.dies.dram.contains a then { a with who := who 4 } else a) } } := rfl
  generalize ({ s with dies := _ } : State) = v at first ⊢
  have folded := first.trans (AsksOnly.foldl each (dedup (s.tables.map (fun p => p.1) ++ u.tables.map (fun p => p.1))) v)
  generalize List.foldl _ v _ = w at folded ⊢
  exact AsksOnly.ite folded (folded.trans (askDirect_asks u w _))

/-- What a command asks for changes the requests alone. -/
theorem withSlots_asks (u s : State) (req : Nat) (who : Nat → Who) : AsksOnly s (withSlots u s req who) := by
  have h := askChange_asks u s req who
  unfold AsksOnly at h ⊢
  unfold withSlots
  rw [h]

/-! ### Journal records -/

/-- Staging a record asks for slots, and the units of the dies are as they were. -/
theorem stageRec_dies (s : State) (y t : Nat) (c : Option Nat) (b : JBody) : (stageRec s y t c b).dies = { s.dies with
    dram := (stageRec s y t c b).dies.dram, dramAt := (stageRec s y t c b).dies.dramAt } := by
  unfold stageRec
  split
  · rfl
  · dsimp only
    cases c <;> (split <;> simp [State.modCmds] <;> rfl)

/-- A record that no command waits for leaves the commands. -/
theorem stageRec_none_cmds (s : State) (y t : Nat) (b : JBody) : (stageRec s y t none b).cmds = s.cmds := by
  unfold stageRec
  split
  · rfl
  · dsimp only
    split <;> simp [draw]

@[simp] theorem stageRec_vaultTakes (s : State) (y t : Nat) (c : Option Nat) (b : JBody) : vaultTakes (stageRec s y t c b) = vaultTakes s := by
  unfold stageRec
  split
  · rfl
  · dsimp only
    unfold vaultTakes
    cases c <;> (split <;> simp [State.modCmds, draw])

/-! ### Blocks and spares -/

theorem blk_setBlk_same (s : State) (d b : Nat) (x : Blk) : (s.setBlk d b x).blk d b = x := by simp [State.blk, State.setBlk, mapGetD]

theorem spare_setSpare_same (s : State) (d k : Nat) (x : Spare) : (s.setSpare d k x).spare d k = x := by
  simp [State.spare, State.setSpare, mapGetD]

/-- Building a copy into a free spare claims it and asks for the slots that the copy takes. -/
theorem beginBuild_claims (s : State) (d u b k use : Nat) (why : BuildFor) :
    ∃ t, AsksOnly (s.setSpare d k { Spare.free with use := use, primary := b }) t ∧ beginBuild s d u b k use why none = { t with
      dies := { t.dies with
        builds := t.dies.builds ++ [{ die := d, unit := u, block := b, spare := k, why := why, tries := 0, verified := false, hold := none }]
        waiting := t.dies.waiting.filter (fun w => !(w.1 == d && w.2 == u)) } } :=
  ⟨_, askCopy_asks _ d b k _, rfl⟩

/-! ### Retirement -/

/-- A block position is retired: it is listed, and its block is out of service. -/
theorem retirePos_block (s : State) (d p : Nat) (block : p < 1024) (new : s.spk.retired.contains (d * 1056 + p) = false) :
    retirePos s d p = { s with
      spk := { s.spk with retired := s.spk.retired ++ [d * 1056 + p] }
      dies := { s.dies with blocks := mapSet s.dies.blocks (blkKey d p) { s.blk d p with st := 3 } } } := by
  unfold retirePos
  dsimp only
  rw [if_pos block, if_neg (by rw [new]; decide)]
  rfl

/-- Retirement of a block with a vault: the record of the command is noted. -/
theorem retireDone_block (s : State) (d p : Nat) (ids : Cmd → Bool) (vault : vaultTakes s = true) (block : p < 1024)
    (new : s.spk.retired.contains (d * 1056 + p) = false) :
    ∃ q, (retireDone s d p ids).cmds = s.cmds.map (fun c => if ids c then { c with jneed := some q } else c) ∧
      (retireDone s d p ids).spk = { s.spk with retired := s.spk.retired ++ [d * 1056 + p] } ∧
      ((retireDone s d p ids).blk d p).st = 3 ∧ (retireDone s d p ids).tables = s.tables := by
  have pos := retirePos_block s d p block new
  have cmds := (stageRec_none_cmds (retirePos s d p) 0x30 255 (configBody (retirePos s d p) [])).trans (congrArg State.cmds pos)
  have spk := (stageRec_spk (retirePos s d p) 0x30 255 none (configBody (retirePos s d p) [])).trans (congrArg State.spk pos)
  have tables := (stageRec_tables (retirePos s d p) 0x30 255 none (configBody (retirePos s d p) [])).trans (congrArg State.tables pos)
  have dies := stageRec_dies (retirePos s d p) 0x30 255 none (configBody (retirePos s d p) [])
  have takes : vaultTakes (stageRec (retirePos s d p) 0x30 255 none (configBody (retirePos s d p) [])) = true := by
    rw [stageRec_vaultTakes, pos]; exact vault
  unfold retireDone
  dsimp only
  generalize stageRec (retirePos s d p) 0x30 255 none (configBody (retirePos s d p) []) = w at cmds spk tables dies takes ⊢
  rw [if_pos takes]
  refine ⟨_, by rw [← cmds]; rfl, spk, ?_, tables⟩
  have blocks : (w.modCmds ids (fun c => { c with jneed := some w.vault.seq })).blk d p = (retirePos s d p).blk d p := by
    show mapGetD w.dies.blocks _ _ = _
    rw [dies]; rfl
  rw [blocks, pos]
  show (mapGetD (mapSet s.dies.blocks (blkKey d p) _) (blkKey d p) Blk.free).st = 3
  simp [mapGetD]

end Sys2Proof.Machine

namespace Sys2Proof.Claim

open Machine

/-! ### Sprinkle -/

theorem sprinkleForm_good {c : Cmd} (form : sprinkleForm c = true) : c.compl 16 32 8 = true ∧
    (c.table != 255 || c.auto || c.addr || c.le 16 4 / 16 != 0 || spkOp c == 3 || c.le 30 2 != 0 || !c.zeroFrom 40 ||
      (spkOp c == 1 && decide (1055 < c.le 20 4))) = (spkOp c == 3 || (spkOp c == 1 && decide (1055 < c.le 20 4))) ∧
    c.le 16 4 / 4 % 4 = c.le 16 4 / 4 := by
  simp only [sprinkleForm, Bool.and_eq_true, beq_iff_eq, Bool.not_eq_eq_eq_not, Bool.not_true] at form
  obtain ⟨⟨⟨⟨⟨⟨compl, table⟩, auto⟩, addr⟩, high⟩, zero⟩, rest⟩ := form
  refine ⟨compl, by simp [table, auto, addr, high, zero, rest], by omega⟩

theorem cmdSprinkle_good {s : State} {c : Cmd} (form : sprinkleForm c = true) : cmdSprinkle s c =
    (if (spkOp c == 3 || (spkOp c == 1 && decide (1055 < c.le 20 4))) = true then finish s c.id stInvalid
    else if spkOp c = 0 then
      (if s.spk.scrub then finish s c.id stOk
       else cmdWait { s with spk := { s.spk with scrubDue := true, scrubCmds := s.spk.scrubCmds ++ [c.id] } } c.id .scrub)
    else if spkOp c = 1 then
      cmdWait { s with spk := { s.spk with testDue := s.spk.testDue ++ [(c.le 16 4 / 4, c.le 20 4, c.id)] } } c.id (.test (c.le 16 4 / 4))
    else finish { s with spk := { s.spk with holdUntil := c.le 24 6 } } c.id stOk) := by
  obtain ⟨compl, fields, die⟩ := sprinkleForm_good form
  unfold cmdSprinkle
  dsimp only
  rw [if_neg (by simp [compl]), fields, die]

theorem retireForm_good {c : Cmd} {d : Fin 4} {p : Nat} (form : retireForm c d p = true) : c.compl 16 24 8 = true ∧
    (c.table != 255 || c.auto || c.addr || c.le 16 4 / 4 != 0 || decide (1055 < c.le 20 4) || !c.zeroFrom 32) = false ∧
    c.le 16 4 % 4 = d ∧ c.le 20 4 = p := by
  simp only [retireForm, Bool.and_eq_true, beq_iff_eq, Bool.not_eq_eq_eq_not, Bool.not_true, decide_eq_true_eq] at form
  obtain ⟨⟨⟨⟨⟨⟨⟨compl, table⟩, auto⟩, addr⟩, die⟩, pos⟩, low⟩, rest⟩ := form
  have := d.isLt
  refine ⟨compl, ?_, by omega, pos⟩
  rw [die, pos]
  simp [table, auto, addr, rest, low]

/-- BLOCK_RETIRE of a free block that is not yet retired and not under test in place, with a vault: it is retired at once. -/
theorem cmdBlockRetire_free {s : State} {c : Cmd} {d : Fin 4} {p : Nat} (form : retireForm c d p = true)
    (new : s.spk.retired.contains (d * 1056 + p) = false) (vault : vaultTakes s = true) (idle : testedInPlace s d p = false) (block : p < 1024)
    (free : (s.blk d p).st = 0) : cmdBlockRetire s c = retireNow (retireTested s d p) d p c := by
  obtain ⟨compl, fields, die, pos⟩ := retireForm_good form
  have same : (if testedInPlace s d p then abortTest s d else s) = s := if_neg (by simp [idle])
  unfold cmdBlockRetire
  dsimp only
  rw [if_neg (by simp [compl]), fields, die, pos, if_neg (by decide), if_neg (by rw [new]; decide), if_neg (by simp [vault]), same,
    if_pos block, if_pos (Or.inl free)]

/-- BLOCK_RETIRE of a block in use that nothing is built for: it is copied to a spare. -/
theorem cmdBlockRetire_used {s : State} {c : Cmd} {d : Fin 4} {p k : Nat} (form : retireForm c d p = true)
    (new : s.spk.retired.contains (d * 1056 + p) = false) (vault : vaultTakes s = true) (idle : testedInPlace s d p = false) (block : p < 1024)
    (used : (s.blk d p).st = 1) (plain : buildOf s d p = none) (claim : claimSpare s d p = some k) :
    cmdBlockRetire s c = cmdWait (beginBuild s d p p k 2 .retire none) c.id (.retire d p) := by
  obtain ⟨compl, fields, die, pos⟩ := retireForm_good form
  have same : (if testedInPlace s d p then abortTest s d else s) = s := if_neg (by simp [idle])
  have r12 : claimR12 s d p = some (k, none, s) := by unfold claimR12; rw [claim]
  unfold cmdBlockRetire
  dsimp only
  rw [if_neg (by simp [compl]), fields, die, pos, if_neg (by decide), if_neg (by rw [new]; decide), if_neg (by simp [vault]), same,
    if_pos block, if_neg (by omega), plain]
  dsimp only
  rw [r12]

/-- A block that no test has taken over is not under a test that its retirement ends. -/
theorem retireTested_same {s : State} {d : Fin 4} {p : Nat} (free : ∀ q : TestRun, testOn s d q → q.pos = p → q.spare = none) :
    retireTested s d p = s := by
  unfold retireTested
  cases test : s.spk.tests[d.val]? with
  | none => rfl
  | some t =>
    dsimp only
    cases spare : t.spare with
    | none => rfl
    | some k => exact if_neg fun ⟨here, _⟩ => nomatch (free t test here).symm.trans spare

/-- Settles O37: by OP of SPRINKLE_CFG, and by the state of the position that BLOCK_RETIRE names. -/
theorem sprinkleCommands : Obligations.SprinkleCommands := by
  unfold Obligations.SprinkleCommands
  intro s mb c u
  have is : pre s = u := rfl
  clear_value u
  have scrub : exec (.scrubNow mb) s = .next (withCmdIf u mb 0x90 (fun c => spkOp c == 0 || spkOp c == 3) cmdSprinkle) := by subst is; rfl
  have test : exec (.testBlock mb) s = .next (withCmdIf u mb 0x90 (fun c => spkOp c == 1) cmdSprinkle) := by subst is; rfl
  have hold : exec (.hold mb) s = .next (withCmdIf u mb 0x90 (fun c => spkOp c == 2) cmdSprinkle) := by subst is; rfl
  have retire : exec (.blockRetire mb) s = .next (withCmd u mb 0x91 cmdBlockRetire) := by subst is; rfl
  refine ⟨fun form => ⟨fun runs op => ⟨fun on => ?_, fun off => ?_⟩, fun runs op => ?_, fun runs => ⟨fun low => ?_, fun high => ?_⟩, fun runs => ?_⟩,
    fun d p runs form => ⟨fun old => ?_, fun new vault => ?_, fun new vault idle block => ⟨fun free tests => ?_, fun k used plain claim => ?_⟩⟩⟩
  · rw [withCmdIf_runs runs, cmdSprinkle_good form, if_neg (by simp [op]), if_pos op, if_pos on] at scrub
    exact refused_of scrub (by decide)
  · rw [withCmdIf_runs runs, cmdSprinkle_good form, if_neg (by simp [op]), if_pos op, if_neg (by simp [off])] at scrub
    exact ⟨_, scrub, waits_of runs.mem rfl, rfl⟩
  · rw [withCmdIf_runs runs, cmdSprinkle_good form, if_pos (by simp [op])] at scrub
    exact refused_of scrub (by decide)
  · have op : spkOp c = 1 := beq_iff_eq.mp runs.2
    rw [withCmdIf_runs runs, cmdSprinkle_good form, if_neg (by simp [op, low]), if_neg (by simp [op]), if_pos op] at test
    exact ⟨_, test, waits_of runs.mem rfl, rfl⟩
  · have op : spkOp c = 1 := beq_iff_eq.mp runs.2
    rw [withCmdIf_runs runs, cmdSprinkle_good form, if_pos (by simp [op, high])] at test
    exact refused_of test (by decide)
  · have op : spkOp c = 2 := beq_iff_eq.mp runs.2
    rw [withCmdIf_runs runs, cmdSprinkle_good form, if_neg (by simp [op]), if_neg (by simp [op]), if_neg (by simp [op]),
      finish_plain _ _ _ _ _ (by decide)] at hold
    exact ⟨_, hold, ends_of rfl, rfl⟩
  · obtain ⟨compl, fields, die, pos⟩ := retireForm_good form
    rw [withCmd_runs runs] at retire
    unfold cmdBlockRetire at retire
    dsimp only at retire
    rw [if_neg (by simp [compl]), fields, die, pos, if_neg (by decide), if_pos old] at retire
    exact refused_of retire (by decide)
  · obtain ⟨compl, fields, die, pos⟩ := retireForm_good form
    rw [withCmd_runs runs] at retire
    unfold cmdBlockRetire at retire
    dsimp only at retire
    rw [if_neg (by simp [compl]), fields, die, pos, if_neg (by decide), if_neg (by rw [new]; decide), if_pos (by simp [vault])] at retire
    exact refused_of retire (by decide)
  · rw [withCmd_runs runs, cmdBlockRetire_free form new vault idle block free, retireTested_same tests] at retire
    obtain ⟨q, cmds, spk, blk, tables⟩ := retireDone_block u d p (fun q => q.id == c.id) vault block new
    unfold retireNow at retire
    rw [finish_plain _ _ _ _ _ (by decide)] at retire
    refine ⟨_, retire, ⟨some q, ?_⟩, spk, blk, tables⟩
    show endCmd (retireDone u d p (fun q => q.id == c.id)).cmds c.id stOk 0xFFFFFFFF 0 false = _
    rw [cmds, endCmd, List.map_map]
    refine List.map_congr_left fun x _ => ?_
    by_cases mine : x.id = c.id
    · simp [mine, Cmd.ended]
    · simp [mine]
  · obtain ⟨t, asks, built⟩ := beginBuild_claims u d p p k 2 .retire
    rw [withCmd_runs runs, cmdBlockRetire_used form new vault idle block used plain claim, built] at retire
    unfold AsksOnly at asks
    refine ⟨_, retire, waits_of (u := t) (n := t.epoch.count) (by rw [asks]; exact runs.mem) rfl,
      ⟨_, List.mem_append_right _ (List.mem_singleton.mpr rfl), rfl, rfl, rfl, rfl, rfl⟩, ?_, by rw [asks]; rfl⟩
    show (mapGetD t.dies.spares (spKey d k) Spare.free).use = 2
    rw [asks]
    simp [State.setSpare, mapGetD]

end Sys2Proof.Claim
end

section
/-! PROOFS. Host transfers of commands, the key store (O39) and the vault commands (O31). -/

namespace Sys2Proof.Machine

/-- A key slot is written when NAND takes it and a vault is there. -/
theorem keyWrite_taken (s : State) (c : Cmd) (x : KeySlot) (vault : vaultTakes s = true) :
    keyWrite s c true x = finish (setKey s (keySlotOf c) x) c.id stOk (keySlotOf c) := if_pos (by simp [vault])

end Sys2Proof.Machine

namespace Sys2Proof.Claim

open Machine

/-! ### Host transfers -/

/-- A host write that reaches its host is one bus-master transfer. -/
theorem busWrite_reaches {u : State} {c : Cmd} {io : HostIO} (up : reaches_ u c io = true) (a : Nat) (l : List Byte) :
    busWrite u c io a l = (true, emit (.dma c.mb a l) u) := if_pos up

/-! ### The key store -/

/-- INSTALL with a good form, a key of the right kind and a good authorisation: the slot decides. -/
theorem cmdInstall_good {u : State} {c : Cmd} {io : HostIO} {programmed : Bool} {l : List Byte}
    (form : keyForm c (if keySlotOf c = 1 ∧ rooted u = false then 97 else 193) 0 = stOk)
    (read : busRead u c io (if keySlotOf c = 1 ∧ rooted u = false then 97 else 193) = some l) (kind : l.head? = some 4)
    (auth : rooted u = true → authOk u (keySlotOf c) 0 (slice l 1 96) (slice l 97 96) = true) : cmdInstall u c io programmed =
    if (keySlot u (keySlotOf c)).type ≠ 0 then finish u c.id stDuplicate
    else keyWrite u c programmed { type := 2, pub := BitVec.ofNat 776 (natBE (l.take 97)), gen := 0 } := by
  have count : (if keySlotOf c = 1 ∧ (!rooted u) = true then 97 else 193) = if keySlotOf c = 1 ∧ rooted u = false then 97 else 193 := by simp
  have input : keyInput u c io (if keySlotOf c = 1 ∧ rooted u = false then 97 else 193) = some l :=
    (if_neg (by split <;> decide)).trans read
  unfold cmdInstall
  dsimp only
  rw [count, if_neg (by simp [form]), input]
  dsimp only
  rw [if_neg (by simp [kind]), if_neg (by simpa using auth)]

/-- GENERATE and ERASE take a signature when the root slot holds a key. -/
theorem cmdErase_good {u : State} {c : Cmd} {io : HostIO} {programmed : Bool} {l : List Byte}
    (form : keyForm c (if rooted u then 96 else 0) 0 = stOk) (read : keyInput u c io (if rooted u then 96 else 0) = some l)
    (auth : rooted u = true → authOk u (keySlotOf c) 2 (bytesLE 96 0) l = true) : cmdErase u c io programmed =
    if (keySlot u (keySlotOf c)).type = 0 then finish u c.id stNotFound else keyWrite u c programmed KeySlot.empty := by
  unfold cmdErase
  dsimp only
  rw [if_neg (by simp [form]), read]
  dsimp only
  rw [if_neg (by simpa using auth)]

/-- The key pair that GENERATE makes next. -/
def nextKey (u : State) : KeySlot := { type := 3, pub := Config.genPublicKey u.vault.gens, gen := u.vault.gens }

/-- GENERATE into an EMPTY slot that is not the root's: the public key is written to the host, and the pair is kept. -/
theorem cmdGenerate_good {u : State} {c : Cmd} {io : HostIO} {l : List Byte}
    (form : keyForm c (if rooted u then 96 else 0) 97 = stOk) (read : keyInput u c io (if rooted u then 96 else 0) = some l)
    (auth : rooted u = true → authOk u (keySlotOf c) 1 (bytesLE 96 0) l = true) (root : keySlotOf c ≠ 1)
    (empty : (keySlot u (keySlotOf c)).type = 0) (vault : vaultTakes u = true) (up : reaches_ u c io = true) :
    cmdGenerate u c io true = finish { u with
      out := u.out ++ [.dma c.mb (c.host 36) (pubBytes (Config.genPublicKey u.vault.gens))]
      vault := { u.vault with gens := u.vault.gens + 1, keys := u.vault.keys.set (keySlotOf c) (nextKey u) } }
      c.id stOk (keySlotOf c) := by
  unfold cmdGenerate
  dsimp only
  rw [if_neg (by simp [form]), if_neg root, read]
  dsimp only
  rw [if_neg (by simpa using auth), if_neg (by simp [empty]), if_neg (by simp [vault])]
  have bus := busWrite_reaches up (c.le 36 8) (pubBytes (Config.genPublicKey u.vault.gens))
  rw [bus]
  exact keyWrite_taken _ c _ vault

/-- Settles O39: by OP of KEY_PROVISION and by what its slot holds. -/
theorem keyCommands : Obligations.KeyCommands := by
  unfold Obligations.KeyCommands
  intro s mb c io u k errs
  have is : pre s = u := rfl
  clear_value u
  have install (w : Bool) : exec (.install mb io w) s =
      .next (withCmdIf u mb 0xA2 (fun c => keyOp c == 0) (fun s c => cmdInstall (meet s io.errs) c io w)) := by subst is; rfl
  have generate (w : Bool) : exec (.generate mb io w) s =
      .next (withCmdIf u mb 0xA2 (fun c => keyOp c == 1) (fun s c => cmdGenerate (meet s io.errs) c io w)) := by subst is; rfl
  have erase (w : Bool) : exec (.erase mb io w) s =
      .next (withCmdIf u mb 0xA2 (fun c => keyOp c == 2) (fun s c => cmdErase (meet s io.errs) c io w)) := by subst is; rfl
  have readPub : exec (.readPub mb io) s =
      .next (withCmdIf u mb 0xA2 (fun c => keyOp c == 3) (fun s c => cmdReadPub (meet s io.errs) c io)) := by subst is; rfl
  rw [errs] at install generate erase readPub
  refine ⟨fun l runs form read kind auth => ⟨fun empty vault => ?_, fun empty => ?_, fun full => ?_⟩,
    fun l runs form read auth => ⟨fun root empty vault up => ?_, fun root => ?_⟩,
    fun l runs form read auth => ⟨fun full vault => ?_, fun empty => ?_⟩, fun runs form => ⟨fun full up => ?_, fun empty => ?_⟩⟩
  · have run := install true
    rw [withCmdIf_runs runs, meet_nil, cmdInstall_good form read kind auth, if_neg (not_not_intro empty), keyWrite_taken u c _ vault,
      finish_plain _ _ _ _ _ (by decide)] at run
    exact ⟨_, run, ends_of rfl, rfl⟩
  · have run := install false
    rw [withCmdIf_runs runs, meet_nil, cmdInstall_good form read kind auth, if_neg (not_not_intro empty)] at run
    exact refused_of run (by decide)
  · have run := install true
    rw [withCmdIf_runs runs, meet_nil, cmdInstall_good form read kind auth, if_pos full] at run
    exact refused_of run (by decide)
  · have run := generate true
    rw [withCmdIf_runs runs, meet_nil, cmdGenerate_good form read auth root empty vault up, finish_plain _ _ _ _ _ (by decide)] at run
    exact ⟨_, run, ends_of rfl, rfl⟩
  · have run := generate true
    rw [withCmdIf_runs runs, meet_nil] at run
    unfold cmdGenerate at run
    dsimp only at run
    rw [if_neg (by simp [form]), if_pos root] at run
    exact refused_of run (by decide)
  · have run := erase true
    rw [withCmdIf_runs runs, meet_nil, cmdErase_good form read auth, if_neg full, keyWrite_taken u c _ vault,
      finish_plain _ _ _ _ _ (by decide)] at run
    exact ⟨_, run, ends_of rfl, rfl⟩
  · have run := erase true
    rw [withCmdIf_runs runs, meet_nil, cmdErase_good form read auth, if_pos empty] at run
    exact refused_of run (by decide)
  · rw [withCmdIf_runs runs, meet_nil] at readPub
    have bus := busWrite_reaches up (c.le 36 8) (pubBytes (keySlot u k).pub)
    unfold cmdReadPub at readPub
    dsimp only at readPub
    rw [if_neg (by simp [form]), if_neg full, bus] at readPub
    dsimp only at readPub
    rw [finish_plain _ _ _ _ _ (by decide)] at readPub
    exact ⟨_, readPub, ends_of rfl, rfl⟩
  · rw [withCmdIf_runs runs, meet_nil] at readPub
    unfold cmdReadPub at readPub
    dsimp only at readPub
    rw [if_neg (by simp [form]), if_pos empty] at readPub
    exact refused_of readPub (by decide)

/-! ### The vault -/

theorem crumbForm_good {c : Cmd} (form : crumbForm c = true) : c.compl 24 28 4 = true ∧
    (c.auto || c.addr || c.host 16 % 16 != 0 || decide (16384 < c.le 24 4) || !c.zeroFrom 32) = false := by
  simp only [crumbForm, Bool.and_eq_true, beq_iff_eq, Bool.not_eq_eq_eq_not, Bool.not_true, decide_eq_true_eq] at form
  obtain ⟨⟨⟨⟨⟨compl, auto⟩, addr⟩, host⟩, count⟩, rest⟩ := form
  exact ⟨compl, by simp [auto, addr, host, count, rest]⟩

/-- CRUMB_SET with good operands reads its handles; they decide. -/
theorem cmdCrumbSet_good {u : State} {c : Cmd} {io : HostIO} {programmed : Bool} {x : Table} {hs : List Nat} (form : crumbForm c = true)
    (here : u.table c.table = some x) (live : x.st = .live) (ternary : x.kind = .ternary) (noCasc : taCasc u c.table = false)
    (count : c.le 24 4 ≤ 4 * (4096 / taW u c.table))
    (read : if c.le 24 4 = 0 then hs = [] else (busRead u c io (4 * c.le 24 4)).map (fun l => listHandles l (c.le 24 4)) = some hs) :
    cmdCrumbSet u c io programmed = match crumbHandles x ((liveSlot x).getD 0) 0 [] hs with
      | .error (st, i) => finish u c.id st i
      | .ok rs =>
        if !crumbsFit u (u.vault.crumb.filter (fun p => p.1 != c.table) ++ rs.map (fun r => (c.table, r))) then finish u c.id stTableFull
        else if !programmed || !vaultTakes u then finish u c.id stVaultFault
        else finish { u with vault := { u.vault with
          crumb := u.vault.crumb.filter (fun p => p.1 != c.table) ++ rs.map (fun r => (c.table, r)) } } c.id stOk := by
  obtain ⟨compl, fields⟩ := crumbForm_good form
  have handles : (if c.le 24 4 = 0 then some [] else (busRead u c io (4 * c.le 24 4)).map (fun l => listHandles l (c.le 24 4))) = some hs := by
    split at read
    · rw [if_pos ‹_›, read]
    · rw [if_neg ‹_›, read]
  have isLive : tableLive u c.table = true := by unfold tableLive; rw [here]; simp [live]
  unfold cmdCrumbSet
  dsimp only
  rw [if_neg (by simp [compl]), fields, if_neg (by decide), if_neg (by simp [isLive]), here]
  dsimp only
  rw [if_neg (by simp [ternary, noCasc, count]), handles] <;> rfl

/-- Settles O31: each vault command with good operands, by what the vault holds. -/
theorem vaultCommands : Obligations.VaultCommands := by
  unfold Obligations.VaultCommands
  intro s mb c io u errs
  have is : pre s = u := rfl
  clear_value u
  have checkpoint : exec (.vaultCheckpoint mb) s = .next (withCmd u mb 0x70 cmdVaultCheckpoint) := by subst is; rfl
  have status : exec (.vaultStatus mb io) s = .next (withCmd u mb 0x74 (fun s c => cmdVaultStatus (meet s io.errs) c io)) := by subst is; rfl
  have crumb (w : Bool) : exec (.crumbSet mb io w) s = .next (withCmd u mb 0x73 (fun s c => cmdCrumbSet (meet s io.errs) c io w)) := by
    subst is; rfl
  rw [errs] at status crumb
  refine ⟨fun runs table auto addr rest => ⟨fun may => ?_, fun may => ?_⟩, fun runs table auto addr host rest up => ?_,
    fun x hs rs programmed runs form here live ternary noCasc count read => ⟨fun good => ⟨fun fits on vault => ?_, fun fits off => ?_⟩,
      fun st i bad full none busy => ?_⟩⟩
  · rw [withCmd_runs runs] at checkpoint
    unfold cmdVaultCheckpoint at checkpoint
    rw [if_neg (by simp [table, auto, addr, rest]), if_neg (by simp [may])] at checkpoint
    exact ⟨_, checkpoint, waits_of runs.mem rfl, rfl⟩
  · rw [withCmd_runs runs] at checkpoint
    unfold cmdVaultCheckpoint at checkpoint
    rw [if_neg (by simp [table, auto, addr, rest]), if_pos (by simp [may])] at checkpoint
    exact refused_of checkpoint (by decide)
  · rw [withCmd_runs runs, meet_nil] at status
    unfold cmdVaultStatus at status
    rw [if_neg (by simp [table, auto, addr, host, rest]), busWrite_reaches up] at status
    dsimp only at status
    rw [finish_plain _ _ _ _ _ (by decide)] at status
    exact ⟨_, status, ends_of rfl, rfl⟩
  · have run := crumb programmed
    rw [withCmd_runs runs, meet_nil, cmdCrumbSet_good form here live ternary noCasc count read, good] at run
    dsimp only at run
    rw [if_neg (by simp [fits]), if_neg (by simp [on, vault]), finish_plain _ _ _ _ _ (by decide)] at run
    exact ⟨_, run, ends_of rfl, rfl⟩
  · have run := crumb programmed
    rw [withCmd_runs runs, meet_nil, cmdCrumbSet_good form here live ternary noCasc count read, good] at run
    dsimp only at run
    rw [if_neg (by simp [fits]), if_pos (by simpa using off)] at run
    exact refused_of run (by decide)
  · have run := crumb programmed
    rw [withCmd_runs runs, meet_nil, cmdCrumbSet_good form here live ternary noCasc count read, bad] at run
    exact refused_of run (by simp [plainStatus, full, none, busy])

end Sys2Proof.Claim
end

section
/-! PROOFS. Tables and their slots, journal room, and the commands of learning, aging and glazes (O29, O27). -/

namespace Sys2Proof.Machine

/-! ### Tables -/

theorem table_of_tables {s t : State} (h : t.tables = s.tables) (q : Nat) : t.table q = s.table q := congrArg (fun m => mapGet m q) h

@[simp] theorem table_setTable_same (s : State) (t : Nat) (x : Table) : (s.setTable t x).table t = some x := by
  simp [State.table, State.setTable]

theorem table_setTable_ne (s : State) {t q : Nat} (x : Table) (h : q ≠ t) : (s.setTable t x).table q = s.table q := by
  simp [State.table, State.setTable, mapGet_mapSet_ne _ _ _ _ h]

theorem modTable_some {s : State} {t : Nat} {x : Table} (f : Table → Table) (here : s.table t = some x) : s.modTable t f = s.setTable t (f x) := by
  unfold State.modTable
  rw [show mapGet s.tables t = some x from here]

theorem table_modTable_same {s : State} {t : Nat} {x : Table} (f : Table → Table) (here : s.table t = some x) :
    (s.modTable t f).table t = some (f x) := by rw [modTable_some f here, table_setTable_same]

theorem table_modTable_ne (s : State) {t q : Nat} (f : Table → Table) (h : q ≠ t) : (s.modTable t f).table q = s.table q := by
  unfold State.modTable
  split
  · rfl
  · exact table_setTable_ne s _ h

theorem slot_modSlot_same (x : Table) {k : Nat} (f : Slot → Slot) (h : k < x.slots.length) : (x.modSlot k f).slot k = f (x.slot k) := by
  simp only [Table.slot, Table.modSlot]
  exact (getD_listMod x.slots k k f Slot.empty h).trans (if_pos rfl)

theorem slot_modSlot_ne (x : Table) {k j : Nat} (f : Slot → Slot) (h : j ≠ k) : (x.modSlot k f).slot j = x.slot j := by
  simp only [Table.slot, Table.modSlot]
  exact getD_listMod_ne _ _ _ _ _ h

theorem mem_slotsIn {x : Table} {p : SlotSt → Bool} {k : Nat} : k ∈ slotsIn x p ↔ k < 4 ∧ p (x.slot k).st = true := by
  simp [slotsIn]

theorem openSlot_spec {x : Table} {k : Nat} (h : openSlot x = some k) : k < 4 ∧ (x.slot k).st = .opened := by
  have here := List.mem_of_mem_head? (h : _ ∈ (slotsIn x (fun q => q == .opened)).head?)
  obtain ⟨low, st⟩ := mem_slotsIn.mp here
  exact ⟨low, beq_iff_eq.mp st⟩

theorem tableLive_of {s : State} {t : Nat} {x : Table} (here : s.table t = some x) (live : x.st = .live) : tableLive s t = true := by
  unfold tableLive; rw [here]; simp [live]

theorem liveFor_of {s : State} {c : Cmd} {x : Table} (here : s.table c.table = some x) (live : x.st = .live) : liveFor s c = true := by
  unfold liveFor; rw [tableLive_of here live]; rfl

theorem tableKind_of {s : State} {t : Nat} {x : Table} (here : s.table t = some x) : tableKind s t = some x.kind := by
  unfold tableKind; rw [here]; rfl

/-! ### Sealing -/

/-- A slot that is sealed. -/
def Slot.sealedFor (y : Slot) (e fin no : Nat) (by_ : Sealer) : Slot :=
  { y with st := .sealed, epoch := e, sealEnd := fin, armed := false, sealNo := no, by_ := by_ }

/-- Sealing takes the next seal number and changes its slot alone. -/
theorem sealSlot_eq (s : State) (t k e : Nat) (by_ : Sealer) : sealSlot s t k e by_ = (s.seals + 1,
    { ({ s with free := s.free + 1 } : State).modTable t (fun x => x.modSlot k (fun y =>
        y.sealedFor e (s.now + Config.openNat s.free % 15001) (s.seals + 1) by_)) with seals := s.seals + 1 }) := rfl

theorem sealSlot_table {s : State} {t : Nat} {x : Table} (k e : Nat) (by_ : Sealer) (here : s.table t = some x) :
    (sealSlot s t k e by_).2.table t = some (x.modSlot k (fun y => y.sealedFor e (s.now + Config.openNat s.free % 15001) (s.seals + 1) by_)) :=
  table_modTable_same (s := { s with free := s.free + 1 }) _ here

theorem sealSlot_table_ne (s : State) {t q : Nat} (k e : Nat) (by_ : Sealer) (h : q ≠ t) : (sealSlot s t k e by_).2.table q = s.table q :=
  table_modTable_ne { s with free := s.free + 1 } _ h

theorem sealSlot_cmds (s : State) (t k e : Nat) (by_ : Sealer) : (sealSlot s t k e by_).2.cmds = s.cmds :=
  State.modTable_cmds _ _ _

theorem sealSlot_epoch (s : State) (t k e : Nat) (by_ : Sealer) : (sealSlot s t k e by_).2.epoch = s.epoch :=
  State.modTable_epoch _ _ _

/-! ### Journal room and records of commands -/

/-- A command whose record fits goes on at once. -/
theorem needJournal_fits {s : State} {c : Cmd} (f : State) (h : (journalRoom s || !vaultTakes s) = true) : needJournal s c f = f := if_pos h

/-- The record of a command notes at most what the command's completion waits for. -/
theorem stageRec_cmds (s : State) (y t : Nat) (cmd : Option Nat) (b : JBody) : ∃ q : Option Nat, (stageRec s y t cmd b).cmds =
    s.cmds.map (fun d => if cmd = some d.id then { d with jneed := q.or d.jneed } else d) := by
  by_cases takes : vaultTakes s
  · cases cmd with
    | none => exact ⟨none, by rw [stageRec_none_cmds]; simp⟩
    | some i =>
      refine ⟨some (s.vault.seq + 1), ?_⟩
      unfold stageRec
      rw [if_neg (by simp [takes])]
      dsimp only
      have each : ∀ l : List Cmd, l.map (fun d => if (d.id == i) = true then { d with jneed := some (s.vault.seq + 1) } else d) =
          l.map (fun d => if some i = some d.id then { d with jneed := (some (s.vault.seq + 1)).or d.jneed } else d) := by
        intro l
        refine List.map_congr_left fun d _ => ?_
        by_cases mine : d.id = i
        · simp [mine]
        · rw [if_neg (by simpa using mine), if_neg (by simpa using Ne.symm mine)]
      split
      · rw [State.raise_cmds]; exact each _
      · exact each _
  · refine ⟨none, ?_⟩
    unfold stageRec
    rw [if_pos (by simp [takes])]
    simp

theorem stageCmd_cmds (s : State) (c : Cmd) (y : Nat) (b : JBody) : ∃ q : Option Nat, (stageCmd s c y b).cmds =
    s.cmds.map (fun d => if d.id == c.id then { d with jneed := q.or d.jneed } else d) := by
  obtain ⟨q, hq⟩ := stageRec_cmds s y c.table (if durOnCompletion s c.op then some c.id else none) b
  refine ⟨if durOnCompletion s c.op then q else none, hq.trans (List.map_congr_left fun d _ => ?_)⟩
  by_cases dur : durOnCompletion s c.op
  · by_cases mine : d.id = c.id
    · rw [if_pos dur, if_pos (by rw [mine]), if_pos (by simp [mine]), if_pos dur]
    · rw [if_pos dur, if_neg (by simpa using Ne.symm mine), if_neg (by simpa using mine)]
  · rw [if_neg dur, if_neg (by simp), if_neg dur]
    split <;> rfl

@[simp] theorem stageCmd_vaultTakes (s : State) (c : Cmd) (y : Nat) (b : JBody) : vaultTakes (stageCmd s c y b) = vaultTakes s :=
  stageRec_vaultTakes ..

/-- A listed command stays listed while records are noted. -/
theorem stageCmd_listed {s : State} {c : Cmd} (y : Nat) (b : JBody) {d : Cmd} (h : d ∈ s.cmds) : ∃ e ∈ (stageCmd s c y b).cmds, e.id = d.id := by
  obtain ⟨q, hq⟩ := stageCmd_cmds s c y b
  rw [hq]
  exact ⟨_, List.mem_map.mpr ⟨d, h, rfl⟩, by split <;> rfl⟩

end Sys2Proof.Machine

namespace Sys2Proof.Claim

open Machine

/-! ### Commands with a record -/

theorem mayChange_spec {u : State} {c : Cmd} (h : mayChange u c = true) : vaultFails u c.op = false ∧ recordFits u = true := by
  simpa [mayChange] using h

/-- A command whose record is noted, and which then ends, ends with what its completion waits for. -/
theorem ends_staged {s v : State} {c : Cmd} {y status handle vis : Nat} {held : Bool} {b : JBody}
    (h : v.cmds = endCmd (stageCmd s c y b).cmds c.id status handle vis held) : Ends s v c status handle vis held := by
  obtain ⟨q, hq⟩ := stageCmd_cmds s c y b
  refine ⟨q, h.trans ?_⟩
  rw [hq, endCmd, List.map_map]
  refine List.map_congr_left fun d _ => ?_
  by_cases mine : d.id = c.id
  · simp [mine, Cmd.ended]
  · simp [mine]

/-- A command waits once it begins to, whatever record it has noted. -/
theorem waits_after {s t : State} {c : Cmd} {w : Wait} {n : Nat} (mem : ∃ d ∈ s.cmds, d.id = c.id)
    (h : t.cmds = s.cmds.map (fun d => if d.id == c.id then d.waits w n else d)) : Waits t c w := by
  obtain ⟨d, hd, id⟩ := mem
  exact ⟨d.waits w n, by rw [h]; exact List.mem_map.mpr ⟨d, hd, if_pos (beq_iff_eq.mpr id)⟩, id, rfl⟩

/-! ### Learning and aging -/

/-- A command that is refused asks for no slots. -/
theorem refused_slots_of {i : Instr} {s u : State} {c : Cmd} {status handle : Nat} {w : Nat → Who}
    (run : exec i s = .next (withSlots u (finish u c.id status handle) 2 w)) (plain : plainStatus status = true) : Refused i s u c status handle :=
  refused_of (run.trans (congrArg _ (withSlots_same u _ _ _ (by simp) (by simp) (by simp)))) plain

/-- A command that puts `y` in place of its table and notes that ends, and no other table changes. -/
theorem configured_gives {i : Instr} {s u : State} {c : Cmd} {y : Table} {k : Nat} {b : JBody}
    (run : exec i s = .next (withSlots u (finish (stageCmd (u.setTable c.table y) c k b) c.id stOk) 2 (fun _ => sequencerOf c.id))) :
    Gives i s (fun v => Ends u v c stOk 0xFFFFFFFF 0 false ∧ v.table c.table = some y ∧ ∀ q : Nat, q ≠ c.table → v.table q = u.table q) := by
  have tables : ∀ q, (withSlots u (finish (stageCmd (u.setTable c.table y) c k b) c.id stOk) 2 (fun _ => sequencerOf c.id)).table q =
      (u.setTable c.table y).table q := table_of_tables (by simp)
  refine gives_of run ⟨?_, (tables _).trans (table_setTable_same ..), fun q other => (tables q).trans (table_setTable_ne _ _ other)⟩
  exact (ends_staged (s := u.setTable c.table y) ((withSlots_cmds ..).trans (finishAs_cmds ..))).of_cmds (State.setTable_cmds ..)

theorem cmdLearnCfg_good {u : State} {c : Cmd} {x : Table} (here : u.table c.table = some x) (live : x.st = .live) (ternary : x.kind = .ternary)
    (free : lockWait u c = false) (may : mayChange u c = true) (low : c.compl 28 32 4 = true) (high : c.compl 36 72 8 = true)
    (form : learnForm c = true) : cmdLearnCfg u c = if learnFits u c.table (learnOperands c) then
      finish (stageCmd (u.setTable c.table { x with learn := some (learnOperands c) }) c 0x30
        (tableBody (u.setTable c.table { x with learn := some (learnOperands c) }) c.table)) c.id stOk
    else finish u c.id stInvalid := by
  obtain ⟨vault, fits⟩ := mayChange_spec may
  have kind : isTernary u c.table = true := by unfold isTernary; rw [tableKind_of here, ternary]; rfl
  unfold cmdLearnCfg
  dsimp only
  rw [if_neg (by simp [low, high]), if_neg (by simp [form]), if_neg (by simp [liveFor_of here live]), if_neg (by simp [free]), kind,
    modTable_some _ here]
  by_cases fit : learnFits u c.table (learnOperands c) = true
  · rw [if_pos fit, if_neg (by simp [fit]), if_neg (by simp [vault]), needJournal_fits _ fits]
  · rw [if_neg fit, if_pos (by simp [fit])]

/-- The configuration that an AGE_SWEEP carries (R224). -/
def ageOperands (c : Cmd) : AgeCfg :=
  { next := c.le 16 6, th := c.le 32 3, period := c.le 36 4, op := c.le 40 4, delMax := c.le 44 4, addr := c.host 48, len := c.le 56 4, port := c.mb }

theorem cmdAgeSweep_good {u : State} {c : Cmd} {x : Table} (here : u.table c.table = some x) (live : x.st = .live) (ternary : x.kind = .ternary)
    (free : lockWait u c = false) (may : mayChange u c = true) (form : ageForm c = true) (store : asLost u = false) :
    cmdAgeSweep u c = finish (stageCmd (u.setTable c.table { x with age := if c.le 40 4 = 2 then none else some (ageOperands c) }) c 0x30
      (tableBody (u.setTable c.table { x with age := if c.le 40 4 = 2 then none else some (ageOperands c) }) c.table)) c.id stOk := by
  obtain ⟨vault, fits⟩ := mayChange_spec may
  simp only [ageForm, Bool.and_eq_true, beq_iff_eq, Bool.not_eq_eq_eq_not, Bool.not_true, decide_eq_true_eq, Bool.or_eq_true, bne_iff_ne] at form
  obtain ⟨⟨⟨⟨⟨⟨⟨⟨⟨low, high⟩, auto⟩, addr⟩, e⟩, th⟩, op⟩, rest⟩, stop⟩, report⟩ := form
  have act : actCheck u c.table = stOk := by
    unfold actCheck isTernary
    rw [tableLive_of here live, tableKind_of here, ternary, store]
    rfl
  have fields : (c.auto || c.addr || c.le 22 2 != 0 || c.le 35 1 != 0 || decide (2 < c.le 40 4) || !c.zeroFrom 64 ||
      (c.le 40 4 != 2 && c.le 32 3 == 0) || (c.le 40 4 == 1 && (c.host 48 % 16 != 0 || c.le 56 4 % 16 != 0))) = false := by
    have zero : (c.le 40 4 != 2 && c.le 32 3 == 0) = false := by
      rcases stop with two | some
      · simp [two]
      · simp [some]
    have addr' : (c.le 40 4 == 1 && (c.host 48 % 16 != 0 || c.le 56 4 % 16 != 0)) = false := by
      rcases report with other | ⟨a, l⟩
      · simp [other]
      · simp [a, l]
    rw [zero, addr']
    simp [auto, addr, e, th, rest, op]
  unfold cmdAgeSweep
  dsimp only
  rw [if_neg (by simp [low, high]), fields, if_neg (by decide), if_neg (by simp [act]), if_neg (by simp [free]), if_neg (by simp [vault]),
    needJournal_fits _ fits, modTable_some _ here]
  rfl

/-- Settles O29: the table gets its new configuration, and the command ends. -/
theorem learningAndAgingAreConfigured : Obligations.LearningAndAgingAreConfigured := by
  unfold Obligations.LearningAndAgingAreConfigured
  intro s mb c x u here live ternary free may
  have is : pre s = u := rfl
  clear_value u
  have learn : exec (.learnCfg mb) s = .next (withCmdSlots u mb 0x60 cmdLearnCfg) := by subst is; rfl
  have age : exec (.ageSweep mb) s = .next (withCmdSlots u mb 0x61 cmdAgeSweep) := by subst is; rfl
  refine ⟨fun runs low high form => ⟨fun fits => ?_, fun unfit => ?_⟩, fun runs form store => ?_⟩
  · rw [withCmdSlots_runs runs, cmdLearnCfg_good here live ternary free may low high form, if_pos fits] at learn
    exact configured_gives learn
  · rw [withCmdSlots_runs runs, cmdLearnCfg_good here live ternary free may low high form, if_neg (by simp [unfit])] at learn
    exact refused_slots_of learn (by decide)
  · rw [withCmdSlots_runs runs, cmdAgeSweep_good here live ternary free may form store] at age
    obtain ⟨v, run, ends, mine, others⟩ := configured_gives age
    refine ⟨v, run, ends, ⟨_, mine, rfl, fun stop => if_pos stop, fun on => ⟨ageOperands c, if_neg on, rfl, rfl, rfl, rfl, rfl, rfl⟩⟩, others⟩

end Sys2Proof.Claim
end

section
/-! PROOFS. What the operations of the counter cache change: the cache, the activity store, counters and requests for DRAM
slots. -/

namespace Sys2Proof.Machine

/-- `t` is `s` but for the cache, the activity store, the registers and the requests for DRAM slots. -/
def CacheWork (s t : State) : Prop :=
  t = { s with cache := t.cache, act := t.act, regs := t.regs, dies := { s.dies with dram := t.dies.dram, dramAt := t.dies.dramAt } }

theorem CacheWork.refl (s : State) : CacheWork s s := rfl

theorem CacheWork.trans {s t u : State} (h : CacheWork s t) (k : CacheWork t u) : CacheWork s u := by
  unfold CacheWork at h k ⊢
  rw [k, h]

theorem CacheWork.ite {c : Prop} [Decidable c] {s a b : State} (ha : CacheWork s a) (hb : CacheWork s b) : CacheWork s (if c then a else b) := by
  split <;> assumption

theorem CacheWork.foldl {α : Type} {f : State → α → State} (each : ∀ s a, CacheWork s (f s a)) (l : List α) (s : State) :
    CacheWork s (l.foldl f s) :=
  foldl_keep (P := fun t : State => CacheWork s t) f (fun t a h => h.trans (each t a)) l s (CacheWork.refl s)

theorem CacheWork.of_cache (s : State) (c : Cache) (a : Act) : CacheWork s { s with cache := c, act := a } := rfl

theorem CacheWork.bump (s : State) (a n : Nat) : CacheWork s (s.bump a n) := by
  unfold CacheWork; apply State.same_fields <;> simp

theorem CacheWork.setField (s : State) (a hi lo v : Nat) : CacheWork s (s.setField a hi lo v) := rfl

theorem CacheWork.askDram (s : State) (req a len order : Nat) (w : Who) : CacheWork s (askDram s req a len order w) := rfl

theorem putPair_work (s : State) (p : Nat) (v : Pair) : CacheWork s (putPair s p v) := rfl

theorem putStamp_work (s : State) (p : Nat) (w : BitVec 64) : CacheWork s (putStamp s p w) := rfl

theorem askLine_work (s : State) (cls n : Nat) : CacheWork s (askLine s cls n) := rfl

theorem writeBack_work (s : State) (cls : Nat) (l : Line) : CacheWork s (writeBack s cls l) := by
  have each : ∀ (v : State) (k : Nat), CacheWork v (match l.sectors[k]? with
      | some x => if x.valid && x.dirty then (putPair v (4 * l.line + k) x.data).bump 0x100064 else v
      | none => v) := by
    intro v k
    split
    · exact CacheWork.ite ((putPair_work ..).trans (CacheWork.bump ..)) (CacheWork.refl v)
    · exact CacheWork.refl v
  exact (CacheWork.ite (askLine_work s cls l.line) (CacheWork.refl s)).trans (CacheWork.foldl each _ _)

theorem dropLine_work (s : State) (n : Nat) : CacheWork s (dropLine s n) := rfl

theorem dropVictim_work (s : State) (n : Nat) : CacheWork s (dropVictim s n) := rfl

theorem toVictim_work (s : State) (cls : Nat) (l : Line) : CacheWork s (toVictim s cls l) := by
  unfold toVictim
  dsimp only
  refine CacheWork.trans ?_ (CacheWork.of_cache _ _ _)
  split
  · exact CacheWork.ite ((writeBack_work s cls _).trans (CacheWork.of_cache _ _ _)) (CacheWork.refl s)
  · exact CacheWork.refl s

theorem allocate_work (s : State) (cls n : Nat) (sec : List Sector) : CacheWork s (allocate s cls n sec) := by
  unfold allocate
  dsimp only
  split
  · exact CacheWork.of_cache _ _ _
  · refine CacheWork.trans ?_ (CacheWork.of_cache _ _ _)
    refine (CacheWork.setField s 0x100014 15 0 (lfsrNext (s.cfg 0x100014 15 0))).trans ?_
    generalize s.setField 0x100014 15 0 (lfsrNext (s.cfg 0x100014 15 0)) = w
    split
    · exact (dropLine_work ..).trans (toVictim_work ..)
    · exact CacheWork.refl w

theorem streamWrite_work (s : State) (cls n : Nat) : CacheWork s (streamWrite s cls n) := by
  unfold streamWrite
  dsimp only
  exact CacheWork.ite ((CacheWork.of_cache _ _ _).trans (CacheWork.bump ..)) (CacheWork.of_cache _ _ _)

theorem modSector_work (s : State) (p : Nat) (f : Sector → Sector) : CacheWork s (modSector s p f) := rfl

theorem sweepLine_work (s : State) (n : Nat) : CacheWork s (sweepLine s n) := by
  unfold sweepLine
  split
  · exact CacheWork.ite ((writeBack_work ..).trans (dropLine_work ..)) (CacheWork.refl s)
  · exact CacheWork.refl s

theorem recallLine_work (s : State) (cls n : Nat) (write : Bool) : CacheWork s (recallLine s cls n write) := by
  unfold recallLine
  split
  · exact CacheWork.refl s
  · exact (CacheWork.bump ..).trans (CacheWork.ite ((dropVictim_work ..).trans (allocate_work ..)) (CacheWork.refl _))

theorem addBypass_work (s : State) (o : CacheOp) : CacheWork s (addBypass s o) :=
  ((askLine_work ..).trans (askLine_work ..)).trans ((putPair_work ..).trans (CacheWork.bump ..))

theorem runOp_work (s : State) (o : CacheOp) : CacheWork s (runOp s o) := by
  have counted : ∀ (v : State) (a : Nat), CacheWork v (if o.missed then v else v.bump a) := fun v a =>
    CacheWork.ite (CacheWork.refl v) (CacheWork.bump ..)
  unfold runOp
  dsimp only
  refine CacheWork.ite (CacheWork.of_cache _ _ _) ?_
  have found : CacheWork s (recallLine (sweepLine s (o.pos / 4)) o.cls (o.pos / 4) true) := (sweepLine_work ..).trans (recallLine_work ..)
  generalize recallLine (sweepLine s (o.pos / 4)) o.cls (o.pos / 4) true = w at found ⊢
  refine found.trans (CacheWork.ite ((counted w _).trans (modSector_work ..)) ((counted w (0x100050 + 4 * o.cls)).trans ?_))
  generalize (if o.missed then w else w.bump (0x100050 + 4 * o.cls)) = v
  refine CacheWork.ite (CacheWork.trans ?_ (CacheWork.of_cache _ _ _)) (addBypass_work ..)
  exact (CacheWork.ite (CacheWork.refl v) (allocate_work ..)).trans (askLine_work ..)

theorem pressTo_work (s : State) : CacheWork s (pressTo s) := by
  unfold pressTo
  split
  · exact CacheWork.refl s
  · exact (CacheWork.bump ..).trans (CacheWork.of_cache _ _ _)

theorem pressEnd_work (s : State) : CacheWork s (pressEnd s) := CacheWork.ite (CacheWork.refl s) (CacheWork.of_cache _ _ _)

theorem fillReturn_work (s : State) (n : Nat) : CacheWork s (fillReturn s n) := by
  unfold fillReturn
  split
  · exact CacheWork.refl s
  · dsimp only
    exact (((pressTo_work s).trans (CacheWork.of_cache _ _ _)).trans (CacheWork.of_cache _ _ _)).trans
      ((CacheWork.foldl runOp_work _ _).trans (pressEnd_work _))

theorem finishLine_work (s : State) (n : Nat) : CacheWork s (finishLine s n) := (fillReturn_work ..).trans (fillReturn_work ..)

theorem counterAdd_work (s : State) (cls p pkt byte : Nat) : CacheWork s (counterAdd s cls p pkt byte) :=
  ((streamWrite_work ..).trans (sweepLine_work ..)).trans (runOp_work ..)

theorem counterRead_work (s : State) (cls p : Nat) : CacheWork s (counterRead s cls p).2 := by
  have found : CacheWork s (recallLine (sweepLine (finishLine s (p / 4)) (p / 4)) cls (p / 4) false) :=
    (finishLine_work ..).trans ((sweepLine_work ..).trans (recallLine_work ..))
  unfold counterRead
  dsimp only
  generalize recallLine (sweepLine (finishLine s (p / 4)) (p / 4)) cls (p / 4) false = w at found ⊢
  refine found.trans ?_
  split
  · exact CacheWork.bump ..
  · have missed : CacheWork w (askLine (w.bump (0x100050 + 4 * cls)) cls (p / 4)) := (CacheWork.bump ..).trans (askLine_work ..)
    generalize askLine (w.bump (0x100050 + 4 * cls)) cls (p / 4) = v at missed ⊢
    refine missed.trans ?_
    split
    · refine CacheWork.trans (CacheWork.trans ?_ (CacheWork.of_cache _ _ _)) (fillReturn_work ..)
      exact CacheWork.ite (CacheWork.refl v) (allocate_work ..)
    · exact CacheWork.bump ..

theorem counterZero_work (s : State) (cls p : Nat) : CacheWork s (counterZero s cls p) := by
  have found : CacheWork s (recallLine (sweepLine (streamWrite (finishLine s (p / 4)) cls (p / 4)) (p / 4)) cls (p / 4) true) :=
    ((finishLine_work ..).trans (streamWrite_work ..)).trans ((sweepLine_work ..).trans (recallLine_work ..))
  unfold counterZero
  dsimp only
  generalize recallLine (sweepLine (streamWrite (finishLine s (p / 4)) cls (p / 4)) (p / 4)) cls (p / 4) true = w at found ⊢
  refine found.trans (CacheWork.ite ((CacheWork.bump ..).trans (modSector_work ..)) ((CacheWork.bump w (0x100050 + 4 * cls) 1).trans ?_))
  exact CacheWork.ite ((askLine_work ..).trans ((putPair_work ..).trans (CacheWork.bump ..)))
    (CacheWork.ite (modSector_work ..) (allocate_work ..))

theorem counterClear_work (s : State) (cls p : Nat) : CacheWork s (counterClear s cls p) :=
  (counterZero_work s cls p).trans (CacheWork.of_cache _ _ _)

theorem freePosition_work (s : State) (p : Nat) : CacheWork s (freePosition s p) :=
  (finishLine_work ..).trans ((modSector_work ..).trans (CacheWork.of_cache _ _ _))

theorem freeUnused_work (s : State) (t : Nat) (ps : List Nat) : CacheWork s (freeUnused s t ps) := by
  unfold freeUnused
  split
  · exact CacheWork.refl s
  · exact CacheWork.foldl (fun v p => CacheWork.ite (CacheWork.refl v) (freePosition_work v p)) _ _

theorem maintLine_work (s : State) (op n : Nat) : CacheWork s (maintLine s op n).2 := by
  unfold maintLine
  dsimp only
  refine (finishLine_work s n).trans ?_
  generalize finishLine s n = w
  split
  · exact CacheWork.refl w
  · rename_i l _
    split
    · exact ((dropLine_work ..).trans (dropVictim_work ..)).trans (CacheWork.bump ..)
    · refine (writeBack_work w 2 l).trans ?_
      split
      · exact (dropLine_work ..).trans (dropVictim_work ..)
      · exact CacheWork.of_cache _ _ _

theorem cacheLost_work (s : State) : CacheWork s (cacheLost s) := (pressTo_work s).trans (CacheWork.of_cache _ _ _)

/-! ### What cache work leaves -/

theorem CacheWork.tables {s t : State} (h : CacheWork s t) : t.tables = s.tables := by
  rw [h]

theorem CacheWork.cmds {s t : State} (h : CacheWork s t) : t.cmds = s.cmds := by
  rw [h]

theorem CacheWork.direct {s t : State} (h : CacheWork s t) : t.direct = s.direct := by
  rw [h]

theorem CacheWork.table {s t : State} (h : CacheWork s t) (q : Nat) : t.table q = s.table q := table_of_tables h.tables q

end Sys2Proof.Machine
end

section
/-! PROOFS. Rows that a change drops, generations that are discarded, and the commands of the glaze class (O27). -/

namespace Sys2Proof.Machine

/-! ### Operations on the rows of one table -/

/-- `v` is `s` but for the rows and covers of table `t`, and for what their positions and blocks need. -/
structure RowWork (t : Nat) (s v : State) : Prop where
  frame : v = { s with tables := v.tables, cache := v.cache, act := v.act, regs := v.regs, dies := v.dies }
  others : ∀ q, q ≠ t → v.table q = s.table q
  here : ∀ x, s.table t = some x → ∃ y, v.table t = some y ∧ y = { x with rows := y.rows, covers := y.covers, aged := y.aged }

theorem RowWork.refl (t : Nat) (s : State) : RowWork t s s := ⟨rfl, fun _ _ => rfl, fun x h => ⟨x, h, rfl⟩⟩

theorem RowWork.trans {t : Nat} {s v w : State} (h : RowWork t s v) (k : RowWork t v w) : RowWork t s w := by
  refine ⟨by rw [k.frame, h.frame], fun q other => (k.others q other).trans (h.others q other), fun x here => ?_⟩
  obtain ⟨y, hy, same⟩ := h.here x here
  obtain ⟨z, hz, same'⟩ := k.here y hy
  exact ⟨z, hz, by rw [same', same]⟩

theorem RowWork.of_cache {t : Nat} {s v : State} (h : CacheWork s v) : RowWork t s v := by
  refine ⟨?_, fun q _ => h.table q, fun x here => ⟨x, (h.table t).trans here, rfl⟩⟩
  unfold CacheWork at h
  rw [h]

theorem RowWork.of_dies {t : Nat} {s v : State} (h : v = { s with dies := v.dies }) : RowWork t s v := by
  have tables : v.tables = s.tables := by rw [h]
  exact ⟨by rw [h], fun q _ => table_of_tables tables q, fun x here => ⟨x, (table_of_tables tables t).trans here, rfl⟩⟩

theorem RowWork.setTable {t : Nat} {s : State} {x y : Table} (here : s.table t = some x)
    (same : y = { x with rows := y.rows, covers := y.covers, aged := y.aged }) : RowWork t s (s.setTable t y) := by
  refine ⟨rfl, fun q other => table_setTable_ne s y other, fun z hz => ⟨y, table_setTable_same s t y, ?_⟩⟩
  obtain rfl : x = z := Option.some.inj (here.symm.trans hz)
  exact same

theorem RowWork.modTable (t : Nat) (s : State) (f : Table → Table)
    (same : ∀ x, f x = { x with rows := (f x).rows, covers := (f x).covers, aged := (f x).aged }) : RowWork t s (s.modTable t f) := by
  cases here : s.table t with
  | none =>
    have : s.modTable t f = s := by unfold State.modTable; rw [show mapGet s.tables t = none from here]
    rw [this]; exact RowWork.refl t s
  | some x => rw [modTable_some f here]; exact RowWork.setTable here (same x)

theorem markHeld_dies (s : State) (x : Table) : markHeld s x = { s with dies := (markHeld s x).dies } := by
  unfold markHeld
  exact foldl_keep (P := fun t : State => t = { s with dies := t.dies }) _ (fun t h ht => by rw [ht]; rfl) _ s rfl

theorem sweepRows_work (s : State) (t : Nat) : RowWork t s (sweepRows s t) := by
  unfold sweepRows
  cases here : s.table t with
  | none => exact RowWork.refl t s
  | some x =>
    dsimp only
    have held : RowWork t s (if (x.rows.filter (fun r => r.vis &&& usedMask x == 0)).isEmpty = true then s else markHeld s x) := by
      split
      · exact RowWork.refl t s
      · exact RowWork.of_dies (markHeld_dies s x)
    generalize (if (x.rows.filter (fun r => r.vis &&& usedMask x == 0)).isEmpty = true then s else markHeld s x) = w at held ⊢
    obtain ⟨y, hy, same⟩ := held.here x here
    refine held.trans (RowWork.trans ?_ (RowWork.of_cache (freeUnused_work ..)))
    exact RowWork.setTable hy (by rw [same])

theorem sweepAged_work (s : State) (t : Nat) : RowWork t s (sweepAged s t) := RowWork.modTable t s _ fun _ => rfl

theorem removeOpen_work (s : State) (t o h : Nat) : RowWork t s (removeOpen s t o h) :=
  (RowWork.modTable t s _ fun _ => rfl).trans (sweepRows_work _ t)

/-! ### Commands that end with an operation -/

/-- `t` is `s` but for results of commands. -/
def CmdsEnd (s t : State) : Prop := t = { s with cmds := t.cmds } ∧ t.cmds.map (fun c => c.id) = s.cmds.map (fun c => c.id)

theorem CmdsEnd.refl (s : State) : CmdsEnd s s := ⟨rfl, rfl⟩

theorem CmdsEnd.trans {s t u : State} (h : CmdsEnd s t) (k : CmdsEnd t u) : CmdsEnd s u := ⟨by rw [k.1, h.1], k.2.trans h.2⟩

theorem CmdsEnd.finishAs (s : State) (id status handle vis : Nat) (held : Bool) (plain : plainStatus status = true) :
    CmdsEnd s (finishAs s id status handle vis held) := by
  rw [finishAs_plain _ _ _ _ _ _ plain]
  refine ⟨rfl, ?_⟩
  simp only [endCmd, List.map_map]
  refine List.map_congr_left fun d _ => ?_
  simp only [Function.comp_apply]
  split <;> rfl

theorem CmdsEnd.foldl {α : Type} {f : State → α → State} (each : ∀ s a, CmdsEnd s (f s a)) (l : List α) (s : State) : CmdsEnd s (l.foldl f s) :=
  foldl_keep (P := fun t : State => CmdsEnd s t) f (fun t a h => h.trans (each t a)) l s (CmdsEnd.refl s)

theorem CmdsEnd.ite {c : Prop} [Decidable c] {s a b : State} (ha : CmdsEnd s a) (hb : CmdsEnd s b) : CmdsEnd s (if c then a else b) := by
  split <;> assumption

/-- A listed command stays listed. -/
theorem listed_of_ids {l m : List Cmd} (h : m.map (fun c => c.id) = l.map (fun c => c.id)) {c : Cmd} (mem : c ∈ l) : ∃ d ∈ m, d.id = c.id := by
  have : c.id ∈ m.map (fun c => c.id) := by rw [h]; exact List.mem_map.mpr ⟨c, mem, rfl⟩
  obtain ⟨d, hd, id⟩ := List.mem_map.mp this
  exact ⟨d, hd, id⟩

/-! ### Blocks that return -/

theorem dropCopies_dies (s : State) (d u : Nat) : dropCopies s d u = { s with dies := (dropCopies s d u).dies } := by
  unfold dropCopies
  exact foldl_keep (P := fun t : State => t = { s with dies := t.dies }) _ (fun t b ht => by
    split
    · rw [ht]; rfl
    · exact ht) _ _ rfl

theorem releaseSpare_dies (s : State) (d k : Nat) : releaseSpare s d k = { s with dies := (releaseSpare s d k).dies } := by
  unfold releaseSpare
  rw [dropCopies_dies]
  rfl

theorem freeBlock_dies (s : State) (d b : Nat) : freeBlock s d b = { s with dies := (freeBlock s d b).dies } := by
  have released := foldl_keep (P := fun t : State => t = { s with dies := t.dies }) (fun s k => releaseSpare s d k)
    (fun t k ht => by rw [releaseSpare_dies, ht]) (mirrors s d b false) s rfl
  have dropped := dropCopies_dies ((mirrors s d b false).foldl (fun s k => releaseSpare s d k) s) d b
  unfold freeBlock
  dsimp only
  generalize (mirrors s d b false).foldl (fun s k => releaseSpare s d k) s = v at released dropped ⊢
  generalize dropCopies v d b = w at dropped ⊢
  split <;> (rw [dropped, released]; rfl)

theorem withdrawAlter_dies (s : State) (t : Nat) : withdrawAlter s t = { s with dies := (withdrawAlter s t).dies } := by
  unfold withdrawAlter
  refine foldl_keep (P := fun v : State => v = { s with dies := v.dies }) _ (fun v k hv => ?_) _ _ rfl
  exact foldl_keep (P := fun w : State => w = { s with dies := w.dies }) _ (fun w h hw => by rw [freeBlock_dies, hw]) _ v hv

theorem endHolders_ends (s : State) (t : Nat) : CmdsEnd s (endHolders s t) := by
  refine CmdsEnd.foldl (fun v c => CmdsEnd.ite ?_ (CmdsEnd.refl v)) _ s
  by_cases own : (c.auto || c.op == 0x40) = true
  · rw [if_pos own]; exact CmdsEnd.finishAs v c.id stAborted c.handle 0 false (by decide)
  · rw [if_neg own]; exact CmdsEnd.finishAs v c.id stOk c.handle 0 false (by decide)

/-! ### Generations that are discarded -/

/-- The table with the slots `ks` given back. -/
def emptied (x : Table) (ks : List Nat) : List Slot := ks.foldl (fun l k => l.set k Slot.empty) x.slots

theorem slots_emptied (ks : List Nat) (l : List Slot) (j : Nat) : ((ks.foldl (fun l k => l.set k Slot.empty) l).getD j Slot.empty) =
    if j ∈ ks then Slot.empty else l.getD j Slot.empty := by
  induction ks generalizing l with
  | nil => simp
  | cons k ks ih =>
    rw [List.foldl_cons, ih]
    by_cases later : j ∈ ks
    · simp [later]
    · by_cases this : j = k
      · subst this
        simp only [later, if_false, List.mem_cons, true_or, if_true]
        simp only [List.getD_eq_getElem?_getD, List.getElem?_set, if_true]
        split <;> rfl
      · simp [later, this, List.getElem?_set_ne (Ne.symm this)]

/-- Slots are discarded: their table keeps the others, other tables are as they were, and waiting commands end. -/
theorem discardSlots_spec (s : State) (t : Nat) (ks : List Nat) (x : Table) (here : s.table t = some x) :
    (∃ l, discardSlots s t ks = { s with
      tables := (discardSlots s t ks).tables, cache := (discardSlots s t ks).cache, act := (discardSlots s t ks).act
      regs := (discardSlots s t ks).regs, dies := (discardSlots s t ks).dies, cmds := l } ∧
      l.map (fun c => c.id) = s.cmds.map (fun c => c.id)) ∧
    (∀ q, q ≠ t → (discardSlots s t ks).table q = s.table q) ∧
    ∃ y, (discardSlots s t ks).table t = some y ∧ y = { x with slots := emptied x ks, rows := y.rows, covers := y.covers, aged := y.aged } := by
  have set := table_setTable_same s t { x with slots := emptied x ks }
  have work := (sweepRows_work (s.setTable t { x with slots := emptied x ks }) t).trans (sweepAged_work _ t)
  unfold discardSlots
  rw [here]
  dsimp only
  unfold emptied at set work ⊢
  generalize sweepAged (sweepRows (s.setTable t _) t) t = w at work ⊢
  have ends : CmdsEnd w (w.cmds.foldl (fun s c => match c.st with
      | .waiting (.glaze u n) => if u = t ∧ (ks.map (fun k => (x.slot k).sealNo)).contains n then finish s c.id stAborted c.handle else s
      | _ => s) w) := by
    refine CmdsEnd.foldl (fun v c => ?_) _ w
    split
    · exact CmdsEnd.ite (CmdsEnd.finishAs v c.id stAborted c.handle 0 false (by decide)) (CmdsEnd.refl v)
    · exact CmdsEnd.refl v
  generalize List.foldl _ w w.cmds = v at ends ⊢
  obtain ⟨frame, ids⟩ := ends
  have tables : v.tables = w.tables := by rw [frame]
  have cmds : w.cmds = s.cmds := by rw [work.frame]; rfl
  obtain ⟨y, hy, same⟩ := work.here _ set
  refine ⟨⟨v.cmds, ?_, ids.trans (by rw [cmds])⟩, fun q other => ?_, y, (table_of_tables tables t).trans hy, same⟩
  · rw [frame, work.frame]; rfl
  · rw [table_of_tables tables q, work.others q other, table_setTable_ne _ _ other]

/-- No discarded slot of a table is OPEN or SEALED any more. -/
theorem slotsIn_emptied (x y : Table) (p : SlotSt → Bool) (free : p .free = false) (same : y.slots = emptied x (slotsIn x p)) : slotsIn y p = [] := by
  rw [List.eq_nil_iff_forall_not_mem]
  intro k hk
  obtain ⟨low, st⟩ := mem_slotsIn.mp hk
  unfold Table.slot at st
  rw [same, emptied, slots_emptied] at st
  split at st
  · rw [show Slot.empty.st = SlotSt.free from rfl, free] at st; exact nomatch st
  · rename_i out; exact out (mem_slotsIn.mpr ⟨low, st⟩)

/-! ### The open generation -/

/-- The slot that receives changes is OPEN, and only its table has changed. -/
theorem openGen_spec {s s1 : State} {t o : Nat} {x : Table} (here : s.table t = some x) (four : x.slots.length = 4)
    (h : openGen s t = some (o, s1)) : s1 = { s with tables := s1.tables } ∧ (∀ q, q ≠ t → s1.table q = s.table q) ∧
      ∃ y, s1.table t = some y ∧ o < y.slots.length ∧ (y.slot o).st = .opened := by
  unfold openGen at h
  rw [here] at h
  dsimp only at h
  cases opened : openSlot x with
  | some k =>
    rw [opened] at h
    obtain ⟨rfl, rfl⟩ := Prod.mk.inj (Option.some.inj h)
    obtain ⟨low, st⟩ := openSlot_spec opened
    exact ⟨rfl, fun _ _ => rfl, x, here, by omega, st⟩
  | none =>
    rw [opened] at h
    dsimp only at h
    cases free : ([(headSlot x + 1) % 4, (headSlot x + 2) % 4, (headSlot x + 3) % 4]).find? (fun k => (x.slot k).st == .free) with
    | none => rw [free] at h; exact nomatch h
    | some k =>
      rw [free] at h
      dsimp only at h
      obtain ⟨rfl, rfl⟩ := Prod.mk.inj (Option.some.inj h)
      have low : k < 4 := by
        have := List.mem_of_find?_eq_some free
        simp only [List.mem_cons, List.not_mem_nil, or_false] at this
        omega
      refine ⟨rfl, fun q other => table_setTable_ne s _ other, _, table_setTable_same .., ?_, ?_⟩
      · simp [four, low]
      · simp [Table.slot, List.getElem?_set, four, low]

end Sys2Proof.Machine

namespace Sys2Proof.Claim

open Machine

/-! ### The glaze class -/

/-- A table and a command that GLAZE_SCHEDULE may act on. -/
theorem cmdGlazeSchedule_runs {u : State} {c : Cmd} {x : Table} (runs : glazeRuns u c x) : cmdGlazeSchedule u c =
    if u.epoch.qual = .lost ∧ c.got ≠ 1 then finish u c.id stExpired else match openSlot x with
      | none => finishAs u c.id stOk 0xFFFFFFFF x.glazed x.glazedHeld
      | some k =>
        if c.le 16 6 < sealedMax x then finish u c.id stInvalid
        else if vaultFails u c.op then finish u c.id stVaultFault
        else needJournal u c (cmdWait (stageCmd (sealSlot u c.table k (c.le 16 6) .command).2 c 0x20
          (tableBody (sealSlot u c.table k (c.le 16 6) .command).2 c.table)) c.id (.glaze c.table (u.seals + 1))) := by
  obtain ⟨form, here, live, kind, lock⟩ := runs
  unfold cmdGlazeSchedule
  dsimp only
  rw [if_neg (by simp [form]), if_neg (by simp [liveFor_of here live]), if_neg (by simp [tableKind_of here, kind]), if_neg (by simp [lock]), here]
  rfl

/-- What a command that seals slot `k` of its table leaves, once its record is noted and it waits. -/
theorem sealed_waits {w v : State} {c : Cmd} {x : Table} {k e y : Nat} {by_ : Sealer} {b : JBody} (here : w.table c.table = some x)
    (low : k < x.slots.length) (mem : c ∈ w.cmds)
    (h : v = cmdWait (stageCmd (sealSlot w c.table k e by_).2 c y b) c.id (.glaze c.table (w.seals + 1))) :
    Waits v c (.glaze c.table (w.seals + 1)) ∧ v.seals = w.seals + 1 ∧ (∃ z, v.table c.table = some z ∧ (z.slot k).st = .sealed ∧
      (z.slot k).epoch = e ∧ (z.slot k).sealNo = w.seals + 1 ∧ (z.slot k).armed = false ∧ (z.slot k).by_ = by_ ∧ z.rows = x.rows ∧
      z.covers = x.covers ∧ ∀ j, j ≠ k → z.slot j = x.slot j) ∧ ∀ q, q ≠ c.table → v.table q = w.table q := by
  have tables : ∀ q, v.table q = (sealSlot w c.table k e by_).2.table q := fun q => by
    rw [h]; exact table_of_tables ((cmdWait_tables ..).trans (stageCmd_tables ..)) q
  have listed := stageCmd_listed y b (s := (sealSlot w c.table k e by_).2) (c := c) (d := c) (by rw [sealSlot_cmds]; exact mem)
  have slot := slot_modSlot_same x (fun z => z.sealedFor e (w.now + Config.openNat w.free % 15001) (w.seals + 1) by_) low
  refine ⟨?_, ?_, ⟨_, (tables _).trans (sealSlot_table k e by_ here), ?_, ?_, ?_, ?_, ?_, rfl, rfl, fun j other => slot_modSlot_ne x _ other⟩,
    fun q other => (tables q).trans (sealSlot_table_ne w k e by_ other)⟩
  · refine waits_after (s := stageCmd (sealSlot w c.table k e by_).2 c y b) (n := (stageCmd (sealSlot w c.table k e by_).2 c y b).epoch.count) listed ?_
    rw [h]; rfl
  · rw [h, cmdWait_seals, stageCmd_seals]; rfl
  all_goals rw [slot]; rfl

theorem cmdGlazeAbort_some {u : State} {c : Cmd} {x : Table} (auto : c.auto = false) (addr : c.addr = false) (rest : c.zeroFrom 16 = true)
    (here : u.table c.table = some x) (live : x.st = .live) (kind : x.kind ≠ .direct) : cmdGlazeAbort u c =
    if (abortTable u c.table).1.isEmpty then finish u c.id stNotFound else if vaultFails u c.op then finish u c.id stVaultFault
    else needJournal u c (finish (stageCmd (abortTable u c.table).2 c 0x22 (tableBody (abortTable u c.table).2 c.table)) c.id stOk) := by
  unfold cmdGlazeAbort
  dsimp only
  rw [if_neg (by simp [auto, addr, rest]), if_neg (by simp [tableLive_of here live]), if_neg (by simp [tableKind_of here, kind])]

/-- An abort discards every slot that is OPEN or SEALED; commands stay listed, and other tables are as they were. -/
theorem abortTable_spec {u : State} {t : Nat} {x : Table} (here : u.table t = some x)
    (some_ : slotsIn x (fun q => q == .opened || q == .sealed) ≠ []) :
    (abortTable u t).1 = slotsIn x (fun q => q == .opened || q == .sealed) ∧
    (abortTable u t).2.cmds.map (fun c => c.id) = u.cmds.map (fun c => c.id) ∧
    (∀ q, q ≠ t → (abortTable u t).2.table q = u.table q) ∧
    ∃ y, (abortTable u t).2.table t = some y ∧ slotsIn y (fun q => q == .opened || q == .sealed) = [] := by
  obtain ⟨⟨l, frame, ids⟩, others, y, hy, same⟩ := discardSlots_spec u t (slotsIn x (fun q => q == .opened || q == .sealed)) x here
  have step : abortTable u t = (slotsIn x (fun q => q == .opened || q == .sealed),
      endHolders (withdrawAlter (discardSlots u t (slotsIn x (fun q => q == .opened || q == .sealed))) t) t) := by
    unfold abortTable
    rw [here]
    exact if_neg (by simpa using some_)
  rw [step]
  dsimp only
  generalize discardSlots u t (slotsIn x (fun q => q == .opened || q == .sealed)) = w at frame others hy ⊢
  have withdrawn := withdrawAlter_dies w t
  obtain ⟨ended, ids'⟩ := endHolders_ends (withdrawAlter w t) t
  have tables : (endHolders (withdrawAlter w t) t).tables = w.tables := by rw [ended, withdrawn]
  refine ⟨rfl, ?_, fun q other => (table_of_tables tables q).trans (others q other), y, (table_of_tables tables t).trans hy, ?_⟩
  · rw [ids', withdrawn]
    show w.cmds.map _ = _
    rw [frame]
    exact ids
  · exact slotsIn_emptied x y _ rfl (by rw [same])

/-- The glaze class runs in LOST only for a command that took its lock before. -/
theorem glaze_may {q : Qual} {got : Nat} (may : q ≠ .lost ∨ got = 1) : ¬ (q = .lost ∧ got ≠ 1) := fun ⟨lost, other⟩ => may.elim (· lost) other

/-- GLAZE_SCHEDULE of a table with an OPEN slot seals it and waits. -/
theorem glazeSchedule_seals {i : Instr} {s u : State} {m : Nat} {c : Cmd} {x : Table} {k : Nat}
    (run : exec i s = .next (withCmdSlots u m 0x40 cmdGlazeSchedule)) (runs : Runs u m 0x40 c) (good : glazeRuns u c x)
    (may : u.epoch.qual ≠ .lost ∨ c.got = 1) (opened : openSlot x = some k) (low : k < x.slots.length) (late : sealedMax x ≤ c.le 16 6)
    (change : mayChange u c = true) : Gives i s (fun v => Waits v c (.glaze c.table (u.seals + 1)) ∧ v.seals = u.seals + 1 ∧
      (∃ y, v.table c.table = some y ∧ (y.slot k).st = .sealed ∧ (y.slot k).epoch = c.le 16 6 ∧ (y.slot k).sealNo = u.seals + 1 ∧
        (y.slot k).armed = false ∧ y.rows = x.rows ∧ y.covers = x.covers ∧ (∀ j : Nat, j ≠ k → y.slot j = x.slot j)) ∧
      ∀ q : Nat, q ≠ c.table → v.table q = u.table q) := by
  obtain ⟨vault, fits⟩ := mayChange_spec change
  rw [withCmdSlots_runs runs, cmdGlazeSchedule_runs good, if_neg (glaze_may may), opened] at run
  dsimp only at run
  rw [if_neg (by omega), if_neg (by simp [vault]), needJournal_fits _ fits] at run
  have done := sealed_waits (e := c.le 16 6) (y := 0x20) (by_ := .command)
    (b := tableBody (sealSlot u c.table k (c.le 16 6) .command).2 c.table) good.2.1 low runs.mem rfl
  generalize cmdWait _ c.id (.glaze c.table (u.seals + 1)) = w at run done
  obtain ⟨waits, seals, ⟨y, hy, st, epoch, no, armed, _, rows, covers, slots⟩, others⟩ := done
  exact ⟨_, run, waits, seals, ⟨y, hy, st, epoch, no, armed, rows, covers, slots⟩, others⟩

/-- GLAZE_ABORT of a table with a slot that is OPEN or SEALED leaves it none. -/
theorem glazeAbort_discards {i : Instr} {s u : State} {m : Nat} {c : Cmd} {x : Table} (run : exec i s = .next (withCmdSlots u m 0x41 cmdGlazeAbort))
    (runs : Runs u m 0x41 c) (auto : c.auto = false) (addr : c.addr = false) (rest : c.zeroFrom 16 = true) (here : u.table c.table = some x)
    (live : x.st = .live) (kind : x.kind ≠ .direct) (some_ : slotsIn x (fun q => q == .opened || q == .sealed) ≠ [])
    (change : mayChange u c = true) : Gives i s (fun v => (∃ d ∈ v.cmds, d.id = c.id ∧ d.st = .finished ∧ d.status = stOk) ∧
      (∃ y, v.table c.table = some y ∧ slotsIn y (fun q => q == .opened || q == .sealed) = []) ∧
      ∀ q : Nat, q ≠ c.table → v.table q = u.table q) := by
  obtain ⟨vault, fits⟩ := mayChange_spec change
  obtain ⟨slots, ids, others, y, hy, gone⟩ := abortTable_spec here some_
  rw [withCmdSlots_runs runs, cmdGlazeAbort_some auto addr rest here live kind, if_neg (by rw [slots]; simpa using some_),
    if_neg (by simp [vault]), needJournal_fits _ fits] at run
  generalize (abortTable u c.table).2 = w at run ids others hy
  have tables : ∀ q, (withSlots u (finish (stageCmd w c 0x22 (tableBody w c.table)) c.id stOk) 2 (fun _ => sequencerOf c.id)).table q = w.table q :=
    table_of_tables (by simp)
  refine ⟨_, run, ?_, ⟨y, (tables _).trans hy, gone⟩, fun q other => (tables q).trans (others q other)⟩
  obtain ⟨d, hd, id⟩ := listed_of_ids ids runs.mem
  obtain ⟨e, he, id'⟩ := stageCmd_listed 0x22 (tableBody w c.table) (c := c) hd
  have cmds := finishAs_cmds (stageCmd w c 0x22 (tableBody w c.table)) c.id stOk 0xFFFFFFFF 0 false
  exact ⟨e.ended stOk 0xFFFFFFFF 0 false, (congrArg (e.ended stOk 0xFFFFFFFF 0 false ∈ ·) cmds).mpr
    (List.mem_map.mpr ⟨e, he, if_pos (by simp [id', id])⟩), id'.trans id, rfl, rfl⟩

/-- What the change of a TERNARY table leaves once it is marked and counted: the same table otherwise. -/
theorem marked_table {s2 : State} {t o : Nat} {y : Table} (cmd : Bool) (here : s2.table t = some y) :
    (markChange (s2.bump 0x8800C) t o cmd).table t =
      some (y.modSlot o (fun z => { z with hasCmd := z.hasCmd || cmd, hasInt := z.hasInt || !cmd })) :=
  table_modTable_same _ ((table_of_tables (State.bump_tables ..) t).trans here)

/-- The end of an entry command with AUTO outside LOST: its slot is sealed for the first epoch that may follow, and it waits. -/
theorem endEntry_auto {w : State} {c : Cmd} {x : Table} {o handle : Nat} (auto : c.auto = true) (qual : w.epoch.qual ≠ .lost)
    (here : w.table c.table = some x) (low : o < x.slots.length) (mem : ∃ d ∈ w.cmds, d.id = c.id) :
    Waits (endEntry w c o handle) c (.glaze c.table (w.seals + 1)) ∧ (endEntry w c o handle).seals = w.seals + 1 ∧
    ∃ z, (endEntry w c o handle).table c.table = some z ∧ (z.slot o).st = .sealed ∧ (z.slot o).by_ = .auto ∧
      (z.slot o).sealNo = w.seals + 1 ∧ w.epoch.count ≤ (z.slot o).epoch := by
  have slot := slot_modSlot_same x (fun z => z.sealedFor (max w.epoch.count (sealedMax x)) (w.now + Config.openNat w.free % 15001) (w.seals + 1) .auto) low
  have table := sealSlot_table o (max w.epoch.count (sealedMax x)) .auto here
  have cmds := sealSlot_cmds w c.table o (max w.epoch.count (sealedMax x)) .auto
  unfold endEntry
  dsimp only
  rw [if_neg (by simp [auto]), if_neg qual, here]
  dsimp only
  rw [show (sealSlot w c.table o (max w.epoch.count (sealedMax x)) .auto).1 = w.seals + 1 from rfl]
  have seals : (sealSlot w c.table o (max w.epoch.count (sealedMax x)) .auto).2.seals = w.seals + 1 := rfl
  generalize (sealSlot w c.table o (max w.epoch.count (sealedMax x)) .auto).2 = v at table cmds seals ⊢
  obtain ⟨d, hd, id⟩ := mem
  obtain ⟨e, he, id'⟩ := stageCmd_listed 0x20 (tableBody v c.table) (c := c) (show d ∈ v.cmds by rw [cmds]; exact hd)
  have same : (stageCmd v c 0x20 (tableBody v c.table)).tables = v.tables := stageCmd_tables ..
  have same' : (stageCmd v c 0x20 (tableBody v c.table)).seals = v.seals := stageCmd_seals ..
  generalize stageCmd v c 0x20 (tableBody v c.table) = q at he same same' ⊢
  refine ⟨?_, same'.trans seals, _, (table_of_tables same _).trans table, ?_, ?_, ?_, ?_⟩
  · refine waits_after (s := q.modCmds (fun d => d.id == c.id) (fun d => { d with handle := handle })) (n := q.epoch.count)
      ⟨{ e with handle := handle }, List.mem_map.mpr ⟨e, he, if_pos (by simp [id', id])⟩, id'.trans id⟩ rfl
  · rw [slot]; rfl
  · rw [slot]; rfl
  · rw [slot]; rfl
  · rw [slot]; exact Nat.le_max_left ..

/-- An entry command whose change of a TERNARY table is placed notes its record and ends (R178). -/
theorem runChange_placed {u : State} {c : Cmd} {x : Table} {g : Change} {o : Nat} {s1 s2 : State} (word : ∀ i v, g ≠ .word i v)
    (here : u.table c.table = some x) (live : x.st = .live) (kind : x.kind = .ternary) (lock : lockWait u c = false) (free : noSlot x = false)
    (check : changeCheck u c.table g = stOk) (opened : openGen u c.table = some (o, s1)) (applied : applyChange s1 c.table o g = .ok s2)
    (room : (journalRoom s1 || !vaultTakes s1) = true) (vault : vaultFails u c.op = false) : runChange u c g =
    endEntry (stageCmd (markChange (s2.bump 0x8800C) c.table o true) c (changeType g)
      (tableBody (markChange (s2.bump 0x8800C) c.table o true) c.table)) c o (changeHandle g) := by
  cases g
  case word i v => exact absurd rfl (word i v)
  all_goals
    unfold runChange
    dsimp only
    rw [if_neg (by simp [liveFor_of here live]), if_neg (by simp [lock]), here]
    dsimp only
    rw [if_neg (by simp [kind]), if_neg (by simp [check]), if_neg (by decide), if_neg (by simp [free]), opened]
    dsimp only
    rw [applied]
    dsimp only
    rw [if_neg (by simp [vault]), needJournal_fits _ room]

/-- ENT_DELETE with AUTO removes its entry from the OPEN slot, seals it and waits. -/
theorem entDelete_auto {i : Instr} {s u : State} {m : Nat} {c : Cmd} {x : Table} {o : Nat} {s1 s2 : State}
    (run : exec i s = .next (withCmdSlots u m 0x21 cmdEntDelete)) (runs : Runs u m 0x21 c) (compl : c.compl 16 20 4 = true) (addr : c.addr = false)
    (rest : c.zeroFrom 24 = true) (auto : c.auto = true) (qual : u.epoch.qual ≠ .lost) (here : u.table c.table = some x) (live : x.st = .live)
    (kind : x.kind = .ternary) (lock : lockWait u c = false) (free : noSlot x = false) (check : changeCheck u c.table (.del (c.le 16 4)) = stOk)
    (opened : openGen u c.table = some (o, s1)) (applied : applyChange s1 c.table o (.del (c.le 16 4)) = .ok s2)
    (change : mayChange u c = true) (four : x.slots.length = 4) : Gives i s (fun v =>
      Waits v c (.glaze c.table (u.seals + 1)) ∧ v.seals = u.seals + 1 ∧
      ∃ y, v.table c.table = some y ∧ (y.slot o).st = .sealed ∧ (y.slot o).by_ = .auto ∧ (y.slot o).sealNo = u.seals + 1 ∧
        u.epoch.count ≤ (y.slot o).epoch) := by
  obtain ⟨vault, fits⟩ := mayChange_spec change
  obtain ⟨frame, _, y, hy, low, _⟩ := openGen_spec here four opened
  have room : (journalRoom s1 || !vaultTakes s1) = true := by rw [frame]; exact fits
  obtain rfl : removeOpen s1 c.table o (c.le 16 4) = s2 := by
    unfold applyChange at applied
    rw [hy] at applied
    exact Except.ok.inj applied
  have work := removeOpen_work s1 c.table o (c.le 16 4)
  rw [withCmdSlots_runs runs] at run
  unfold cmdEntDelete at run
  rw [if_neg (by simp [compl]), if_neg (by simp [addr, rest]),
    runChange_placed (by simp) here live kind lock free check opened applied room vault] at run
  obtain ⟨z, hz, same⟩ := work.here y hy
  have frame2 := work.frame
  generalize removeOpen s1 c.table o (c.le 16 4) = s2 at run hz frame2
  have marked := marked_table (o := o) true hz
  have cmds : (markChange (s2.bump 0x8800C) c.table o true).cmds = u.cmds := by
    unfold markChange; rw [State.modTable_cmds, State.bump_cmds, frame2, frame]
  have seals : (markChange (s2.bump 0x8800C) c.table o true).seals = u.seals := by
    unfold markChange; rw [State.modTable_seals, State.bump_seals, frame2, frame]
  have epoch : (markChange (s2.bump 0x8800C) c.table o true).epoch = u.epoch := by
    unfold markChange; rw [State.modTable_epoch, State.bump_epoch, frame2, frame]
  generalize markChange (s2.bump 0x8800C) c.table o true = w at run marked cmds seals epoch
  obtain ⟨d, hd, id⟩ := stageCmd_listed (changeType (.del (c.le 16 4))) (tableBody w c.table) (c := c) (show c ∈ w.cmds by rw [cmds]; exact runs.mem)
  have tables : (stageCmd w c (changeType (.del (c.le 16 4))) (tableBody w c.table)).tables = w.tables := stageCmd_tables ..
  have seals' := (stageCmd_seals w c (changeType (.del (c.le 16 4))) (tableBody w c.table)).trans seals
  have epoch' := (stageCmd_epoch w c (changeType (.del (c.le 16 4))) (tableBody w c.table)).trans epoch
  generalize stageCmd w c (changeType (.del (c.le 16 4))) (tableBody w c.table) = v at run hd tables seals' epoch'
  have fits' : o < (z.modSlot o (fun z => { z with hasCmd := z.hasCmd || true, hasInt := z.hasInt || !true })).slots.length := by
    unfold Table.modSlot
    rw [length_listMod, same]
    exact low
  have done := endEntry_auto (handle := changeHandle (.del (c.le 16 4))) auto (by rw [epoch']; exact qual) ((table_of_tables tables _).trans marked) fits'
    ⟨d, hd, id⟩
  rw [seals', epoch'] at done
  obtain ⟨waits, sealed, k, hk, st, by_, no, when_⟩ := done
  exact ⟨_, run, waits, sealed, k, hk, st, by_, no, when_⟩

/-- Settles O27: GLAZE_SCHEDULE by the state of its table, GLAZE_ABORT, FENCE, and the glaze of AUTO. -/
theorem glazeClassCommands : Obligations.GlazeClassCommands := by
  unfold Obligations.GlazeClassCommands
  refine ⟨fun s mb c => ?_, fun s mb c x o s1 s2 => ?_⟩
  · intro u
    have is : pre s = u := rfl
    clear_value u
    have schedule : exec (.glazeSchedule mb) s = .next (withCmdSlots u mb 0x40 cmdGlazeSchedule) := by subst is; rfl
    have abort : exec (.glazeAbort mb) s = .next (withCmdSlots u mb 0x41 cmdGlazeAbort) := by subst is; rfl
    have fence : exec (.fence mb) s = .next (withCmd u mb 0x42 cmdFence) := by subst is; rfl
    refine ⟨fun x runs good => ⟨fun lost got => ?_, fun may none => ?_,
        fun k may opened low late change => glazeSchedule_seals schedule runs good may opened low late change, fun k may opened early => ?_⟩,
      fun x runs auto addr rest here live kind => ⟨fun none => ?_,
        fun some_ change => glazeAbort_discards abort runs auto addr rest here live kind some_ change⟩,
      fun runs auto addr rest table => ⟨fun open_ => ?_, fun shut => ?_⟩⟩
    · rw [withCmdSlots_runs runs, cmdGlazeSchedule_runs good, if_pos ⟨lost, got⟩] at schedule
      exact refused_slots_of schedule (by decide)
    · rw [withCmdSlots_runs runs, cmdGlazeSchedule_runs good, if_neg (glaze_may may), none] at schedule
      dsimp only at schedule
      rw [finishAs_plain _ _ _ _ _ _ (by decide)] at schedule
      exact ⟨_, schedule.trans (congrArg _ (withSlots_same u _ _ _ (by simp) (by simp) (by simp))), ends_of rfl, rfl⟩
    · rw [withCmdSlots_runs runs, cmdGlazeSchedule_runs good, if_neg (glaze_may may), opened] at schedule
      dsimp only at schedule
      rw [if_pos early] at schedule
      exact refused_slots_of schedule (by decide)
    · have empty : (abortTable u c.table).1.isEmpty = true := by unfold abortTable; rw [here]; simp [none]
      rw [withCmdSlots_runs runs, cmdGlazeAbort_some auto addr rest here live kind, if_pos empty] at abort
      exact refused_slots_of abort (by decide)
    · rw [withCmd_runs runs] at fence
      unfold cmdFence at fence
      rw [if_neg (by simp [auto, addr, rest, table]), if_pos open_, finish_plain _ _ _ _ _ (by decide)] at fence
      exact ⟨_, fence, ends_of rfl, rfl⟩
    · rw [withCmd_runs runs] at fence
      unfold cmdFence at fence
      rw [if_neg (by simp [auto, addr, rest, table]), if_neg (by simp [shut])] at fence
      exact ⟨_, fence, waits_of runs.mem rfl, rfl⟩
  · intro u runs compl addr rest auto qual here live kind lock free check opened applied change four
    have is : pre s = u := rfl
    clear_value u
    have delete : exec (.entDelete mb) s = .next (withCmdSlots u mb 0x21 cmdEntDelete) := by subst is; rfl
    exact entDelete_auto delete runs compl addr rest auto qual here live kind lock free check opened applied change four

end Sys2Proof.Claim
end

section
/-! PROOFS. Power and the control contacts (O50). -/

namespace Sys2Proof.Machine

/-! ### The journal tail -/

theorem le_maxNat {n : Nat} : ∀ {l : List Nat}, n ∈ l → n ≤ maxNat l
  | a :: l, h => by
    rcases List.mem_cons.mp h with rfl | h
    · exact Nat.le_max_left ..
    · exact Nat.le_trans (le_maxNat h) (Nat.le_max_right ..)

/-- Every staged record is due by the newest number among them. -/
theorem staged_due (l : List JRec) : l.filter (fun r => decide (r.seq ≤ maxNat (l.map (fun r => r.seq)))) = l :=
  List.filter_eq_self.mpr fun r h => decide_eq_true (le_maxNat (List.mem_map_of_mem h))

theorem staged_past (l : List JRec) : l.filter (fun r => decide (maxNat (l.map (fun r => r.seq)) < r.seq)) = [] :=
  List.filter_eq_nil_iff.mpr fun r h => by simpa using le_maxNat (List.mem_map_of_mem (f := fun r : JRec => r.seq) h)

/-- The tail changes the vault, the place of the log and the choices drawn. -/
theorem writeTail_frame (s : State) (most : Nat) : writeTail s most =
    { s with vault := (writeTail s most).vault, mgmt := { s.mgmt with copied := (writeTail s most).mgmt.copied }, free := (writeTail s most).free } := by
  unfold writeTail
  split <;> rfl

theorem writeTail_crumb (s : State) (most : Nat) : (writeTail s most).vault.crumb = s.vault.crumb := by
  unfold writeTail
  split <;> rfl

/-- With room for every staged record the tail holds them all, and no record is lost (R393). -/
theorem writeTail_whole {s : State} (takes : vaultTakes s = true) (fits : fitRecs (8 * 2 ^ 20) s.vault.staged = s.vault.staged) :
    (∀ r ∈ s.vault.staged, r ∈ (writeTail s s.vault.staged.length).vault.journal) ∧
      (writeTail s s.vault.staged.length).vault.cfg = s.vault.staged.foldl cfgApply s.vault.cfg ∧
      (writeTail s s.vault.staged.length).vault.lostTail = s.vault.lostTail := by
  have all : (fitRecs (8 * 2 ^ 20) s.vault.staged).take s.vault.staged.length = s.vault.staged := by rw [fits, List.take_length]
  unfold writeTail
  rw [if_neg (by simp [takes]), all]
  refine ⟨fun r h => ?_, ?_, ?_⟩
  · simp [programRecs, draw, logCopy, staged_due, h]
  · simp [programRecs, draw, logCopy, staged_due]
  · simp [programRecs, draw, logCopy, staged_past]

/-! ### Answering the held requests leaves the power state -/

@[simp] theorem statAdd_power (s : State) (t o n : Nat) : (statAdd s t o n).power = s.power := by unfold statAdd; simp

@[simp] theorem snapPost_power (u : CntUpd) : ∀ (l : List Nat) (s : State), (snapPost s u l).2.power = s.power
  | [], _ => rfl
  | b :: l, s => by
    unfold snapPost
    dsimp only
    split
    · rfl
    · exact snapPost_power u l _

theorem CacheWork.power {s t : State} (h : CacheWork s t) : t.power = s.power := by rw [h]

theorem stampHit_work (s : State) (p e ph : Nat) : CacheWork s (stampHit s p e ph) := by
  unfold stampHit
  dsimp only
  refine CacheWork.ite (CacheWork.refl s) ((CacheWork.askDram ..).trans (CacheWork.trans (CacheWork.ite ?_ (CacheWork.refl _)) (CacheWork.of_cache _ _ _)))
  exact (CacheWork.of_cache _ _ _).trans (CacheWork.askDram ..)

theorem foldl_power {α : Type} {f : State → α → State} (each : ∀ s a, (f s a).power = s.power) (l : List α) (s : State) :
    (l.foldl f s).power = s.power :=
  foldl_keep (P := fun t : State => t.power = s.power) f (fun t a h => (each t a).trans h) l s rfl

@[simp] theorem postUpd_power (s : State) (u : CntUpd) : (postUpd s u).power = s.power := by
  unfold postUpd
  split
  · rfl
  dsimp only
  have aged : (if (u.aged && !u.late) = true then (statAdd s u.table 0x78).bump 0x11105C else s : State).power = s.power := by split <;> simp
  generalize (if (u.aged && !u.late) = true then (statAdd s u.table 0x78).bump 0x11105C else s : State) = w at aged ⊢
  have posted : (if u.cnt = true then snapPost w u (snapsAfter w u.table u.epoch) else (false, w)).2.power = s.power := by split <;> simp [aged]
  generalize (if u.cnt = true then snapPost w u (snapsAfter w u.table u.epoch) else (false, w)) = p at posted ⊢
  split
  · split <;> simp [posted]
  · have added : (if p.1 = true then counterAdd p.2 0 u.pos 1 u.len else p.2 : State).power = s.power := by
      split
      · exact (counterAdd_work ..).power.trans posted
      · exact posted
    split
    · exact (stampHit_work ..).power.trans added
    · exact added

@[simp] theorem postAll_power (s : State) (l : List CntUpd) : (postAll s none l).power = s.power := foldl_power postUpd_power l s

@[simp] theorem learnPush_power (s : State) (r : LearnRec) : (learnPush s r).power = s.power := by
  unfold learnPush
  dsimp only
  split
  · simp
  · split <;> simp

@[simp] theorem checkAll_power (s0 : State) (bad : List Nat) : ∀ (i : Nat) (l : List Rec) (s : State), (checkAll s0 bad i l s).2.power = s.power
  | _, [], _ => rfl
  | i, r :: l, s => by
    have one : (checkWords s0 bad i s r).2.power = s.power := by unfold checkWords; split <;> simp
    unfold checkAll
    exact (checkAll_power s0 bad (i + 1) l _).trans one

theorem emitHold_power (s : State) (h : Hold) (bad : List Nat) : (emitHold s h bad none).power = s.power := by
  have first : (h.bads.foldl (fun s b => s.raise evLkpAwMismatch b.1 b.2) s).power = s.power := foldl_power (by simp) _ _
  unfold emitHold
  dsimp only
  generalize h.bads.foldl (fun s b => s.raise evLkpAwMismatch b.1 b.2) s = s1 at first ⊢
  have checked := (checkAll_power (atT0 s1 h) bad 0 h.recs s1).trans first
  generalize checkAll (atT0 s1 h) bad 0 h.recs s1 = p at checked ⊢
  obtain ⟨recs, s2⟩ := p
  dsimp only at checked ⊢
  generalize keepOld { h with recs := recs } recs = g
  have advanced : (g.advs.foldl (fun s t => statAdd s t 0x50) s2).power = s.power := (foldl_power (by simp) _ _).trans checked
  generalize g.advs.foldl (fun s t => statAdd s t 0x50) s2 = s3 at advanced ⊢
  have safe : (g.safes.foldl (fun s t => if (s.table t).isSome then s.bump (taAddr t 0x38) else s) s3).power = s.power :=
    (foldl_power (fun v t => by split <;> simp) _ _).trans advanced
  generalize g.safes.foldl (fun s t => if (s.table t).isSome then s.bump (taAddr t 0x38) else s) s3 = s4 at safe ⊢
  have posted := (postAll_power s4 g.upds).trans safe
  generalize postAll s4 none g.upds = s5 at posted ⊢
  have learned : (if asLost s5 then s5 else g.learns.foldl learnPush s5 : State).power = s.power := by
    split
    · exact posted
    · exact (foldl_power (by simp) _ _).trans posted
  generalize (if asLost s5 then s5 else g.learns.foldl learnPush s5 : State) = s6 at learned ⊢
  have sent : (if linkUp (s6.link g.port) then emit (.frame g.port (g.t0 + 8 * g.lat) (responseFrame g)) s6
      else s6.bump (hpAddr g.port 0x54) : State).power = s.power := by split <;> simp [learned]
  exact sent

@[simp] theorem headRec_power (s0 s : State) (c : CscWait) : (headRec s0 s c).2.2.2.power = s.power := by
  unfold headRec
  dsimp only
  generalize mergeParts (c.pstat, c.part, c.pos) (c.ans.getD (5, c.part, 0)) = m
  obtain ⟨q, r, home, below⟩ := m
  dsimp only
  repeat' split
  all_goals simp

@[simp] theorem fateRec_power (s : State) (c : CscWait) (r : Rec) : (fateRec s c r).2.power = s.power := by
  unfold fateRec
  split
  · rfl
  · split <;> simp

theorem headAll_power (s0 : State) (bad : List Nat) : ∀ (l : List CscWait) (s : State) (h : Hold) (w : List (Nat × Nat × Nat)),
    (headAll s0 bad l s h w).1.power = s.power
  | [], _, _, _ => rfl
  | c :: l, s, h, w => by
    unfold headAll
    exact (headAll_power s0 bad l _ _ _).trans ((fateRec_power _ c _).trans (headRec_power s0 s c))

theorem nextPass_power (s0 s : State) (h : Hold) (n : Nat) : (nextPass s0 s h n).2.2.1.power = s.power := by
  have lose : ∀ (l : List Nat) (o : Nat), (l.foldl (fun s t => statAdd s t o) s).power = s.power := fun l o => foldl_power (by simp) _ _
  unfold nextPass
  split
  · rfl
  · dsimp only
    split
    · exact lose _ _
    · split
      · exact (State.raise_power ..).trans (lose _ _)
      · exact lose _ _

theorem lateRecs_power (s0 : State) (h : Hold) (prof : Nat) : ∀ (n k : Nat) (s : State), (lateRecs s0 h prof n k s).2.power = s.power
  | 0, _, _ => rfl
  | n + 1, k, s => by
    have one : (lateRec s0 s h prof k).2.power = s.power := by
      unfold lateRec
      dsimp only
      repeat' split
      all_goals simp
    unfold lateRecs
    exact (lateRecs_power s0 h prof n (k + 1) _).trans one

theorem sendWins_power : ∀ (l : List Nat) (s : State), (sendWins l s).power = s.power
  | [], _ => rfl
  | [n], s => by
    unfold sendWins
    split <;> simp
  | n :: m :: l, s => by
    unfold sendWins
    split
    · simp
    · exact sendWins_power l _

theorem passed_power {c : Prop} [Decidable c] {a b : Option Nat × Nat × State × Hold} {p : Power} (ha : a.2.2.1.power = p)
    (hb : b.2.2.1.power = p) : (if c then a else b).2.2.1.power = p := by
  split <;> assumption

theorem finishCsc_power (s : State) (h : Hold) (bad : List Nat) : (finishCsc s h bad).1.power = s.power := by
  unfold finishCsc
  split
  · rfl
  dsimp only
  have head := headAll_power (atT0 s h) bad h.csc s h []
  generalize headAll (atT0 s h) bad h.csc s h [] = a at head ⊢
  obtain ⟨s1, h1, wins⟩ := a
  dsimp only at head ⊢
  rw [sendWins_power]
  split
  · exact passed_power ((nextPass_power ..).trans head) head
  · exact (lateRecs_power ..).trans (passed_power ((nextPass_power ..).trans head) head)

theorem emitResponse_power (s : State) (port ctx : Nat) (bad : List Nat) : (emitResponse s port ctx bad none).power = s.power := by
  unfold emitResponse
  split
  · rfl
  · split
    · rfl
    · split
      · rfl
      · exact (emitHold_power ..).trans (finishCsc_power ..)

theorem flushWork_power (s : State) : (flushWork s).power = s.power := by
  unfold flushWork
  rw [writeTail_frame]
  exact foldl_power (fun (v : State) (h : Hold) => emitResponse_power v h.port h.ctx []) _ _

/-! ### Starts -/

theorem trainAll_frame (s : State) : trainAll s = { s with links := (trainAll s).links } := by
  refine foldl_keep (P := fun t : State => t = { s with links := t.links }) _ (fun t p h => ?_) _ s rfl
  unfold startTraining
  split
  · split
    · rw [h]; rfl
    · exact h
  · exact h

theorem startRef_frame (s : State) (m : BitVec 2) :
    startRef s m = { s with csc := Csc.reset m, stage := { s.stage with startRef := s.now }, links := (startRef s m).links } := by
  unfold startRef
  dsimp only
  split
  · rfl
  · exact trainAll_frame _

theorem startFlush_off {s : State} (good : s.power.pwrGood = true) : startFlush s .off = { s with power := { s.power with flush := some .off } } := by
  unfold startFlush
  rw [if_neg (by simp [good])]
  split
  · rename_i j _
    cases j <;> rfl
  · rfl

end Sys2Proof.Machine

namespace Sys2Proof.Claim

open Machine

/-- POWER_LOSS with PWR_GOOD: the tail is written, and all but the media is at reset. -/
theorem powerLoss_good {s : State} (written : Nat) (good : s.power.pwrGood = true) :
    powerLoss s written = powerOff (writeTail s (if s.power.holdupBad then written else s.vault.staged.length)) := if_pos good

theorem powerLoss_power (s : State) (written : Nat) :
    (powerLoss s written).power.pwrGood = false ∧ (powerLoss s written).power.overV = s.power.overV ∧
      (powerLoss s written).vault.crumb = s.vault.crumb := by
  unfold powerLoss
  split
  · refine ⟨rfl, ?_, writeTail_crumb ..⟩
    show (writeTail s _).power.overV = _
    rw [writeTail_frame]
  · rename_i off
    split
    · exact ⟨rfl, rfl, rfl⟩
    · exact ⟨by simpa using off, rfl, rfl⟩

theorem vinLow_whole {s : State} (written : Nat) (good : s.power.pwrGood = true) (store : s.power.holdupBad = false) (takes : vaultTakes s = true)
    (fits : fitRecs (8 * 2 ^ 20) s.vault.staged = s.vault.staged) :
    (∀ r ∈ s.vault.staged, r ∈ (vinLow s written).vault.journal) ∧
      (vinLow s written).vault.cfg = s.vault.staged.foldl cfgApply s.vault.cfg ∧
      (vinLow s written).vault.lostTail = s.vault.lostTail ∧ (vinLow s written).out = s.out := by
  have tail := writeTail_whole takes fits
  have out : (writeTail s s.vault.staged.length).out = s.out := by rw [writeTail_frame]
  unfold vinLow
  rw [powerLoss_good written good, store, if_neg (by decide)]
  exact ⟨tail.1, tail.2.1, tail.2.2, out⟩

/-- POWER_LOSS leaves no hub state and no staged record, and keeps the media. -/
theorem vinLow_clears {s : State} (written : Nat) (good : s.power.pwrGood = true) :
    (vinLow s written).holds = [] ∧ (vinLow s written).cmds = [] ∧ (vinLow s written).tables = [] ∧ (vinLow s written).mem = [] ∧
      (vinLow s written).vault.st = 0 ∧ (vinLow s written).stage.stage = 0 ∧ (vinLow s written).vault.staged = [] ∧
      (vinLow s written).vault.crumb = s.vault.crumb ∧ (vinLow s written).now = s.now := by
  have now : (powerLoss s written).now = s.now := by
    rw [powerLoss_good written good]
    show (writeTail s _).now = _
    rw [writeTail_frame]
  have crumb := (powerLoss_power s written).2.2
  unfold vinLow
  refine ⟨?_, ?_, ?_, ?_, ?_, ?_, ?_, crumb, now⟩ <;> rw [powerLoss_good written good] <;> rfl

/-- The state that PWR_GOOD finds: DORMANT with the media kept, the contacts read and the ports in training (R365, R452). -/
theorem pwrGoodRise_found {s : State} {t : Nat} (c : Nat) (m : BitVec 2) (en : s.power.pwrEn = true) (off : s.power.pwrGood = false)
    (pend : s.power.risePend = false) (ovr : s.power.overV = false) (cool : s.mgmt.tripped = false) :
    ∃ w : State, pwrGoodRise s t c m = (if c < 2000 then w.raise evPwrHoldupLow c else w) ∧
      w.power = { (powerOff (advance t s)).power with
        pwrGood := true, vinOk := true, holdup := c, holdupBad := decide (c < 1750), smbAddr := 0x3C + m.toNat
        mpUp := (powerOff (advance t s)).mbox.map (fun b => !b.resetHeld) } ∧
      w = { powerOff (advance t s) with power := w.power, csc := w.csc, stage := { Stage.reset w.now with startRef := w.stage.startRef }, links := w.links } ∧
      (s.power.mrstN = true → w.csc.pos = m ∧ w.stage.startRef = w.now) := by
  have kept : (powerOff (advance t s)).power.mrstN = s.power.mrstN := rfl
  have stage : (powerOff (advance t s)).stage = Stage.reset (powerOff (advance t s)).now := rfl
  unfold pwrGoodRise
  rw [if_neg (by simp [en, off, pend, ovr, cool])]
  dsimp only
  generalize powerOff (advance t s) = o at kept stage ⊢
  refine ⟨_, rfl, ?_⟩
  rw [kept]
  split
  · rw [startRef_frame, stage]
    exact ⟨rfl, rfl, fun _ => ⟨rfl, rfl⟩⟩
  · rename_i low
    refine ⟨rfl, ?_, fun up => absurd up low⟩
    apply State.same_fields <;> simp [stage, Stage.reset]

theorem pwrGoodRise_gives {i : Instr} {s u : State} (t c : Nat) (m : BitVec 2) (run : exec i s = .next (pwrGoodRise u t c m)) (en : u.power.pwrEn = true)
    (off : u.power.pwrGood = false) (pend : u.power.risePend = false) (ovr : u.power.overV = false) (cool : u.mgmt.tripped = false) :
    Gives i s (fun v =>
      v.power.pwrGood = true ∧ v.power.vinOk = true ∧ v.power.holdup = c ∧ v.power.smbAddr = 0x3C + m.toNat ∧
      v.now = max u.now t ∧ v.stage.stage = 0 ∧ v.own = Own.reset ∧ v.tables = [] ∧ v.mem = [] ∧ v.vault.st = 0 ∧
      v.vault.crumb = u.vault.crumb ∧ v.epoch.count = 0 ∧ (v.power.holdupBad = true ↔ c < 1750) ∧
      (c < 1750 → faultN v = true) ∧ (c < 2000 → Flagged v evPwrHoldupLow) ∧
      (u.power.mrstN = true → v.csc.pos = m ∧ v.stage.startRef = v.now)) := by
  obtain ⟨w, rise, power, frame, start⟩ := pwrGoodRise_found (t := t) c m en off pend ovr cool
  rw [rise] at run
  refine gives_of run ?_
  generalize result : (if c < 2000 then w.raise evPwrHoldupLow c else w : State) = v
  have same : v = { w with regs := v.regs, mgmt := v.mgmt, out := v.out } := by
    subst result
    split
    · apply State.same_fields <;> simp
    · rfl
  have flag : c < 2000 → Flagged v evPwrHoldupLow := fun low => by
    rw [← result, if_pos low]
    exact flagged_raise _ _ _ _ _ (by decide)
  have bad : v.power.holdupBad = decide (c < 1750) := by rw [same, power]
  refine ⟨?_, ?_, ?_, ?_, ?_, ?_, ?_, ?_, ?_, ?_, ?_, ?_, by rw [bad, decide_eq_true_iff], fun low => by simp [faultN, bad, low], flag, fun up => ?_⟩
  iterate 4 rw [same, power]
  iterate 8 rw [same, frame]; rfl
  rw [same]
  exact start up

/-- Settles O50: power, VIN, PWR_EN and PWR_GOOD. -/
theorem powerComesAndGoes : Obligations.PowerComesAndGoes := by
  unfold Obligations.PowerComesAndGoes
  intro s u
  have is : pre s = u := rfl
  clear_value u
  have lose : ∀ written, exec (.powerLoss written) s = .next (vinLow u written) := by subst is; exact fun _ => rfl
  have ovr : ∀ written, exec (.vinOvervoltage written) s = .next (vinHigh u written) := by subst is; exact fun _ => rfl
  have restart : exec .vinRestart s = .next (vinRestart u) := by subst is; rfl
  have low : exec .pwrInLow s = .next (pwrInLow u) := by subst is; rfl
  have rise : exec .pwrEnRise s = .next (pwrEnRise u) := by subst is; rfl
  have late : exec .pwrenLowElapsed s = .next (pwrenElapsed u) := by subst is; rfl
  have fall : exec .pwrEnFall s = .next (pwrEnFall u) := by subst is; rfl
  have down : exec .powerDown s = .next (powerDown u) := by subst is; rfl
  have good : ∀ t c m, exec (.pwrGoodRise t c m) s = .next (pwrGoodRise u t c m) := by subst is; exact fun _ _ _ => rfl
  have never : exec .pwrGoodLate s = .next (pwrGoodLate u) := by subst is; rfl
  refine ⟨fun written => ?_, fun written => ?_, fun v en => ?_, fun on => ?_, fun en => ?_, fun pend off => ?_, fun en on => ?_, fun en off trip => ?_,
    fun flush => ?_, fun t c m en off pend v cool => pwrGoodRise_gives t c m (good t c m) en off pend v cool, fun en off pend cool => ?_⟩
  · obtain ⟨off, same, _⟩ := powerLoss_power u written
    exact gives_of (lose written) ⟨off, rfl, same, fun on => vinLow_clears written on, fun on store takes fits => vinLow_whole written on store takes fits⟩
  · obtain ⟨off, _, crumb⟩ := powerLoss_power u written
    exact gives_of (ovr written) ⟨off, rfl, rfl, crumb⟩
  · rw [restart, vinRestart, if_pos (by simp [v, en])]
  · rw [pwrInLow, if_pos on] at low
    exact gives_of low ⟨flagged_raiseOnce _ _ _ _ _ _ (by decide), by apply State.same_fields <;> simp⟩
  · rw [pwrEnRise, if_neg (by simp [en])] at rise
    exact gives_of rise ⟨by simp, rfl⟩
  · rw [pwrenElapsed, if_pos (by simp [pend, off])] at late
    exact gives_of late ⟨rfl, rfl⟩
  · rw [pwrEnFall, if_neg (by simp [en])] at fall
    dsimp only at fall
    by_cases on' : u.power.pwrGood = true
    · rw [if_pos on', startFlush_off (by exact on')] at fall
      exact gives_of fall ⟨(if_pos on').symm, rfl⟩
    · have cool : u.mgmt.tripped = false := on.resolve_left on'
      rw [if_neg on', if_neg (by simp [cool])] at fall
      exact gives_of fall ⟨(if_neg on').symm, rfl⟩
  · rw [pwrEnFall, if_neg (by simp [en])] at fall
    dsimp only at fall
    rw [if_neg (by simp [off]), if_pos trip] at fall
    exact gives_of fall ⟨rfl, rfl, rfl⟩
  · rw [powerDown, flush] at down
    refine gives_of down ⟨rfl, rfl, ?_, rfl, rfl, rfl, rfl, rfl, rfl, rfl⟩
    show (flushWork u).power.pwrEn = _
    rw [flushWork_power]
  · rw [pwrGoodLate, if_pos (by simp [en, off, pend, cool])] at never
    exact gives_of never ⟨rfl, by simp [faultN], rfl⟩

end Sys2Proof.Claim
end

section
/-! PROOFS. The management processor: sensors, the thermal trip, rails, restarts and the log (O53). -/

namespace Sys2Proof.Machine

/-! ### What raising an event leaves of the management state -/

/-- The queue of events and the vectors are all that an event changes of the management state. -/
def EventsOnly (m n : Mgmt) : Prop :=
  n = { m with evq := n.evq, dropped := n.dropped, rate := n.rate, vecs := n.vecs, vecPend := n.vecPend }

theorem EventsOnly.refl (m : Mgmt) : EventsOnly m m := rfl

theorem EventsOnly.trans {m n k : Mgmt} (h : EventsOnly m n) (g : EventsOnly n k) : EventsOnly m k := by
  unfold EventsOnly at h g ⊢
  rw [g, h]

theorem deliver_events (s : State) (p e : Nat) : EventsOnly s.mgmt (deliver s p e).mgmt := by
  have sent : ∀ (v : State) (n : Nat), (sendMsix v p n).mgmt = v.mgmt := fun v n => by
    unfold sendMsix
    (repeat' split) <;> simp
  unfold deliver
  split
  · unfold raiseVec
    dsimp only
    split
    · rfl
    · rw [sent]; rfl
  · rfl

theorem raise_events (s : State) (e : Ev) (a b c : Nat) : EventsOnly s.mgmt (s.raise e a b c).mgmt := by
  unfold State.raise recordEvent
  dsimp only
  split
  · exact (State.setBits_mgmt s _ _).symm ▸ (by rw [State.bump_mgmt, State.setBits_mgmt]; rfl)
  · refine EventsOnly.trans ?_ ((deliver_events _ 0 _).trans ((deliver_events _ 1 _).trans ((deliver_events _ 2 _).trans (deliver_events _ 3 _))))
    rw [State.setBits_mgmt]
    rfl

theorem stageTo_frame (s : State) (n : Nat) :
    stageTo s n = { s with stage := { s.stage with stage := n }, regs := (stageTo s n).regs, mgmt := (stageTo s n).mgmt, out := (stageTo s n).out } := by
  unfold stageTo
  dsimp only
  split
  · rename_i same
    rw [← same]
  · apply State.same_fields <;> simp

theorem stageTo_live (s : State) (n a : Nat) (h : evReg a = false) : (stageTo s n).live a = s.live a := by
  unfold stageTo
  dsimp only
  split
  · rfl
  · exact live_raise _ _ _ _ _ _ h (by decide)

/-! ### The comparison of temperatures -/

/-- `t` is `s` after some comparisons: levels moved, events raised, no other register changed, no flag cleared. -/
structure Compared (s t : State) : Prop where
  frame : t = { s with mgmt := t.mgmt, regs := t.regs, out := t.out }
  mgmt : EventsOnly { s.mgmt with warn := t.mgmt.warn, limit := t.mgmt.limit } t.mgmt
  warn : t.mgmt.warn.length = s.mgmt.warn.length
  limit : t.mgmt.limit.length = s.mgmt.limit.length
  live : ∀ a, evReg a = false → t.live a = s.live a
  flags : ∀ n i, n < 44 → bit (s.live (0x20000 + n * 4)) i = true → bit (t.live (0x20000 + n * 4)) i = true

theorem Compared.refl (s : State) : Compared s s := ⟨rfl, rfl, rfl, rfl, fun _ _ => rfl, fun _ _ _ h => h⟩

theorem Compared.trans {s t u : State} (h : Compared s t) (k : Compared t u) : Compared s u where
  frame := by rw [k.frame, h.frame]
  mgmt := by
    have a := h.mgmt
    have b := k.mgmt
    unfold EventsOnly at a b ⊢
    rw [b, a]
  warn := k.warn.trans h.warn
  limit := k.limit.trans h.limit
  live a ha := (k.live a ha).trans (h.live a ha)
  flags n i hn f := k.flags n i hn (h.flags n i hn f)

theorem Compared.levels (s : State) (w l : List Nat) (hw : w.length = s.mgmt.warn.length) (hl : l.length = s.mgmt.limit.length) :
    Compared s { s with mgmt := { s.mgmt with warn := w, limit := l } } := ⟨rfl, rfl, hw, hl, fun _ _ => rfl, fun _ _ _ h => h⟩

theorem Compared.raise (s : State) (e : Ev) (a b c : Nat) (h : e.src < 704) : Compared s (s.raise e a b c) := by
  have same := raise_events s e a b c
  exact {
    frame := by apply State.same_fields <;> simp
    mgmt := by unfold EventsOnly at same ⊢; rw [same]
    warn := by rw [same]
    limit := by rw [same]
    live := fun r hr => live_raise _ _ _ _ _ _ hr h
    flags := fun n i hn f => raise_keeps_flag _ _ _ _ _ _ _ h hn f }

theorem Compared.ite {c : Prop} [Decidable c] {s a b : State} (ha : Compared s a) (hb : Compared s b) : Compared s (if c then a else b) := by
  split <;> assumption

/-- The levels that a comparison leaves. -/
theorem Compared.raise_levels (s : State) (e : Ev) (a b c : Nat) : (s.raise e a b c).mgmt.warn = s.mgmt.warn ∧
    (s.raise e a b c).mgmt.limit = s.mgmt.limit := by
  have same := raise_events s e a b c
  unfold EventsOnly at same
  exact ⟨by rw [same], by rw [same]⟩

/-- One comparison: the levels of its sensor move, and each that leaves 0 raises its event (R405, R407). -/
theorem tempCompare_spec (s : State) (n : Nat) : Compared s (tempCompare s n) ∧
    (tempCompare s n).mgmt.warn = s.mgmt.warn.set n (levelNext (natAt s.mgmt.warn n) (tempWarn s n) (s.mgmt.temp.getD n 0)) ∧
    (tempCompare s n).mgmt.limit = s.mgmt.limit.set n (levelNext (natAt s.mgmt.limit n) (tempLimit n) (s.mgmt.temp.getD n 0)) ∧
    (natAt s.mgmt.warn n = 0 → tempWarn s n ≤ s.mgmt.temp.getD n 0 →
      bit ((tempCompare s n).live (0x20000 + 193 / 16 * 4)) (193 % 16) = true) ∧
    (natAt s.mgmt.limit n = 0 → tempLimit n ≤ s.mgmt.temp.getD n 0 →
      bit ((tempCompare s n).live (0x20000 + 194 / 16 * 4)) (194 % 16) = true) := by
  unfold tempCompare
  dsimp only
  generalize first : levelNext (natAt s.mgmt.warn n) (tempWarn s n) (s.mgmt.temp.getD n 0) = w
  generalize second : levelNext (natAt s.mgmt.limit n) (tempLimit n) (s.mgmt.temp.getD n 0) = l
  have moved := Compared.levels s (s.mgmt.warn.set n w) (s.mgmt.limit.set n l) (List.length_set ..) (List.length_set ..)
  generalize hs1 : ({ s with mgmt := { s.mgmt with warn := s.mgmt.warn.set n w, limit := s.mgmt.limit.set n l } } : State) = s1 at moved ⊢
  have warn1 : s1.mgmt.warn = s.mgmt.warn.set n w := by rw [← hs1]
  have limit1 : s1.mgmt.limit = s.mgmt.limit.set n l := by rw [← hs1]
  have up : ∀ (cur : Nat) (lvl r : Int) {v : Nat}, levelNext cur lvl r = v → lvl ≤ r → v ≠ 0 := by
    intro cur lvl r v h le
    rw [← h, levelNext, if_pos le]
    decide
  generalize hs2 : (if natAt s.mgmt.warn n = 0 ∧ w ≠ 0 then s1.raise evMgtTempWarn n (intBits 16 (s.mgmt.temp.getD n 0)) else s1 : State) = s2
  have step2 : Compared s1 s2 ∧ s2.mgmt.warn = s1.mgmt.warn ∧ s2.mgmt.limit = s1.mgmt.limit := by
    rw [← hs2]
    split
    · exact ⟨Compared.raise _ _ _ _ _ (by decide), Compared.raise_levels ..⟩
    · exact ⟨Compared.refl _, rfl, rfl⟩
  have step3 : Compared s2 (if natAt s.mgmt.limit n = 0 ∧ l ≠ 0 then s2.raise evMgtTempLimit else s2) ∧
      (if natAt s.mgmt.limit n = 0 ∧ l ≠ 0 then s2.raise evMgtTempLimit else s2 : State).mgmt.warn = s2.mgmt.warn ∧
      (if natAt s.mgmt.limit n = 0 ∧ l ≠ 0 then s2.raise evMgtTempLimit else s2 : State).mgmt.limit = s2.mgmt.limit := by
    split
    · exact ⟨Compared.raise _ _ _ _ _ (by decide), Compared.raise_levels ..⟩
    · exact ⟨Compared.refl _, rfl, rfl⟩
  refine ⟨(moved.trans step2.1).trans step3.1, by rw [step3.2.1, step2.2.1, warn1], by rw [step3.2.2, step2.2.2, limit1], fun zero le => ?_,
    fun zero le => ?_⟩
  · refine step3.1.flags _ _ (by decide) ?_
    rw [← hs2, if_pos ⟨zero, up _ _ _ first le⟩]
    exact raise_flags s1 evMgtTempWarn _ _ _ (by decide)
  · rw [if_pos ⟨zero, up _ _ _ second le⟩]
    exact raise_flags s2 evMgtTempLimit _ _ _ (by decide)

theorem tempWarn_of {s t : State} (n : Nat) (h : n < 32) (live : ∀ a, evReg a = false → t.live a = s.live a) : tempWarn t n = tempWarn s n := by
  have quiet : evReg (0x160400 + 4 * n) = false := by simp [evReg]; omega
  simp only [tempWarn, State.cfg, live _ quiet]

/-- The comparisons of sensors `l`, each once: the levels of each move by its own reading, and those of no other sensor. -/
theorem tempCompare_all : ∀ (l : List Nat) (s : State), l.Nodup → (∀ n ∈ l, n < 32) → Compared s (l.foldl tempCompare s) ∧
    (∀ n, n ∉ l → natAt (l.foldl tempCompare s).mgmt.warn n = natAt s.mgmt.warn n ∧ natAt (l.foldl tempCompare s).mgmt.limit n = natAt s.mgmt.limit n) ∧
    ∀ n ∈ l, n < s.mgmt.warn.length → n < s.mgmt.limit.length →
      natAt (l.foldl tempCompare s).mgmt.warn n = levelNext (natAt s.mgmt.warn n) (tempWarn s n) (s.mgmt.temp.getD n 0) ∧
      natAt (l.foldl tempCompare s).mgmt.limit n = levelNext (natAt s.mgmt.limit n) (tempLimit n) (s.mgmt.temp.getD n 0) ∧
      (natAt s.mgmt.warn n = 0 → tempWarn s n ≤ s.mgmt.temp.getD n 0 →
        bit ((l.foldl tempCompare s).live (0x20000 + 193 / 16 * 4)) (193 % 16) = true) ∧
      (natAt s.mgmt.limit n = 0 → tempLimit n ≤ s.mgmt.temp.getD n 0 →
        bit ((l.foldl tempCompare s).live (0x20000 + 194 / 16 * 4)) (194 % 16) = true)
  | [], s, _, _ => ⟨Compared.refl s, fun _ _ => ⟨rfl, rfl⟩, fun n h => by simp at h⟩
  | k :: l, s, once, low => by
    obtain ⟨out, once⟩ := List.nodup_cons.mp once
    obtain ⟨one, warn, limit, warns, limits⟩ := tempCompare_spec s k
    have temp : (tempCompare s k).mgmt.temp = s.mgmt.temp := by rw [one.mgmt]
    rw [List.foldl_cons]
    obtain ⟨rest, others, each⟩ := tempCompare_all l (tempCompare s k) once (fun n h => low n (List.mem_cons_of_mem _ h))
    generalize tempCompare s k = t at *
    have kept : ∀ (m : List Nat) (j v : Nat), j ≠ k → natAt (m.set k v) j = natAt m j := fun m j v ne => by
      simp [natAt, List.getD_eq_getElem?_getD, List.getElem?_set, ne.symm]
    have put : ∀ (m : List Nat) (v : Nat), k < m.length → natAt (m.set k v) k = v := fun m v h => by
      simp [natAt, List.getD_eq_getElem?_getD, h]
    refine ⟨one.trans rest, fun n hn => ?_, fun n hn hw hl => ?_⟩
    · obtain ⟨ne, hn⟩ := not_or.mp (fun h => hn (List.mem_cons.mpr h))
      obtain ⟨a, b⟩ := others n hn
      exact ⟨by rw [a, warn, kept _ _ _ ne], by rw [b, limit, kept _ _ _ ne]⟩
    · rcases List.mem_cons.mp hn with rfl | hn
      · obtain ⟨a, b⟩ := others n out
        exact ⟨by rw [a, warn, put _ _ hw], by rw [b, limit, put _ _ hl], fun zero le => rest.flags _ _ (by decide) (warns zero le),
          fun zero le => rest.flags _ _ (by decide) (limits zero le)⟩
      · have ne : n ≠ k := fun h => out (h ▸ hn)
        obtain ⟨a, b, c, d⟩ := each n hn (by rw [one.warn]; exact hw) (by rw [one.limit]; exact hl)
        rw [tempWarn_of n (low n (List.mem_cons_of_mem _ hn)) one.live, temp] at a c
        rw [temp] at b d
        rw [warn, kept _ _ _ ne] at a c
        rw [limit, kept _ _ _ ne] at b d
        exact ⟨a, b, c, d⟩

/-! ### Records of the log -/

theorem bankOrder_frame (s : State) (b m : Nat) :
    bankOrder s b m = { s with now := (bankOrder s b m).now, spk := (bankOrder s b m).spk, regs := (bankOrder s b m).regs } := by
  unfold bankOrder
  dsimp only
  repeat' split
  all_goals apply State.same_fields <;> simp [bankConflict]

theorem bankTouch_frame (s : State) (m a : Nat) :
    bankTouch s m a = { s with now := (bankTouch s m a).now, spk := (bankTouch s m a).spk, regs := (bankTouch s m a).regs } := by
  have order := bankOrder_frame s (a / 0x10000) m
  unfold bankTouch
  dsimp only
  generalize bankOrder s (a / 0x10000) m = w at order ⊢
  repeat' split
  all_goals apply State.same_fields <;> simp [bankConflict] <;> rw [order]

/-- A write to the shared banks stores its bytes, and no others. -/
theorem bankWrite_stores (s : State) (m a : Nat) (l : List Byte) (wf : memWf s.mem = true) (room : a + l.length ≤ bankSize) :
    (∀ i, i < l.length → memRead (bankWrite s m a l).mem (a + i) = l.getD i 0) ∧
      ∀ b, b < a ∨ a + l.length ≤ b → memRead (bankWrite s m a l).mem b = memRead s.mem b := by
  have mem : (bankWrite s m a l).mem = memWriteAll s.mem a l := by
    unfold bankWrite
    rw [bankTouch_frame]
  rw [mem]
  exact ⟨fun i h => memWriteAll_read _ _ _ _ wf h room, fun b h => memWriteAll_other _ _ _ _ wf h⟩

theorem bankWrite_frame (s : State) (m a : Nat) (l : List Byte) : bankWrite s m a l = { s with
    now := (bankWrite s m a l).now, spk := (bankWrite s m a l).spk, regs := (bankWrite s m a l).regs, mem := (bankWrite s m a l).mem } := by
  unfold bankWrite
  rw [bankTouch_frame]

theorem ringPush_frame (s : State) (r : LogRec) : ringPush s r =
    { s with regs := (ringPush s r).regs, mgmt := { s.mgmt with ring := (ringPush s r).mgmt.ring } } := by
  unfold ringPush
  dsimp only
  split
  · rfl
  · repeat' split
    all_goals apply State.same_fields <;> simp

/-- The ring ends in the record that was pushed. -/
theorem ringPush_last (s : State) (r : LogRec) : (ringPush s r).mgmt.ring.getLast? = some r := by
  unfold ringPush
  dsimp only
  split
  · simp
  · rename_i long
    have some_ : s.mgmt.ring ≠ [] := by
      rintro h
      rw [h] at long
      exact long (by simp [ringSize])
    obtain ⟨a, l, h⟩ := List.exists_cons_of_ne_nil some_
    simp [h]

theorem logBytes_length (r : LogRec) : r.bytes.length = 64 := by
  simp [LogRec.bytes, bytesLE_length]

end Sys2Proof.Machine

namespace Sys2Proof.Claim

open Machine

/-- SENSOR_CONVERSION stores its readings, moves minima, maxima and levels, and raises the events of levels that leave 0. -/
theorem sensorScan_gives {i : Instr} {s u : State} (r : Readings) (run : exec i s = .next (sensorScan u r)) : Gives i s (fun v =>
    v.mgmt.temp = r.temp ∧ v.mgmt.volt = r.volt ∧ v.mgmt.curr = r.curr ∧ v.mgmt.power = r.power ∧ v.mgmt.bad = r.bad ∧ v.mgmt.valid = true ∧
    (u.mgmt.valid = true → v.mgmt.mins = (u.mgmt.mins.zip (sensorValues v.mgmt)).map (fun p => min p.1 p.2) ∧
      v.mgmt.maxs = (u.mgmt.maxs.zip (sensorValues v.mgmt)).map (fun p => max p.1 p.2)) ∧
    (∀ n : Nat, n < 32 → n < u.mgmt.warn.length → n < u.mgmt.limit.length →
      natAt v.mgmt.warn n = levelNext (natAt u.mgmt.warn n) (tempWarn u n) (r.temp.getD n 0) ∧
      natAt v.mgmt.limit n = levelNext (natAt u.mgmt.limit n) (tempLimit n) (r.temp.getD n 0) ∧
      (natAt u.mgmt.warn n = 0 → tempWarn u n ≤ r.temp.getD n 0 → Flagged v evMgtTempWarn) ∧
      (natAt u.mgmt.limit n = 0 → tempLimit n ≤ r.temp.getD n 0 → Flagged v evMgtTempLimit)) ∧
    v = { u with mgmt := v.mgmt, regs := v.regs, out := v.out }) := by
  refine gives_of run ?_
  unfold sensorScan
  dsimp only
  generalize hm : ({ u.mgmt with temp := r.temp, volt := r.volt, curr := r.curr, power := r.power, bad := r.bad, mins := _, maxs := _, valid := true, pwr := _, pwrHi := _, rails := _ } : Mgmt) = m
  obtain ⟨all, -, each⟩ := tempCompare_all (List.range 32) { u with mgmt := m } List.nodup_range (fun n h => List.mem_range.mp h)
  generalize (List.range 32).foldl tempCompare { u with mgmt := m } = w at all each ⊢
  generalize hv : (if (powerHigh ((r.power :: u.mgmt.pwr).take 10) && !u.mgmt.pwrHi) = true then w.raise evMgtPwrHi else w : State) = v
  have last : Compared w v ∧ v.mgmt.warn = w.mgmt.warn ∧ v.mgmt.limit = w.mgmt.limit := by
    rw [← hv]
    split
    · exact ⟨Compared.raise _ _ _ _ _ (by decide), Compared.raise_levels ..⟩
    · exact ⟨Compared.refl _, rfl, rfl⟩
  have whole := all.trans last.1
  have mgmt := whole.mgmt
  unfold EventsOnly at mgmt
  have values : sensorValues v.mgmt = sensorValues { u.mgmt with temp := r.temp, volt := r.volt, curr := r.curr, power := r.power, bad := r.bad } := by
    rw [mgmt, ← hm]; rfl
  refine ⟨by rw [mgmt, ← hm], by rw [mgmt, ← hm], by rw [mgmt, ← hm], by rw [mgmt, ← hm], by rw [mgmt, ← hm], by rw [mgmt, ← hm],
    fun valid => ?_, fun n hn hw hl => ?_, by rw [whole.frame]⟩
  · rw [values, mgmt, ← hm]
    simp only [valid, if_true, and_self]
  · have warn : m.warn = u.mgmt.warn := by rw [← hm]
    have limit : m.limit = u.mgmt.limit := by rw [← hm]
    have temp : m.temp = r.temp := by rw [← hm]
    obtain ⟨a, b, c, d⟩ := each n (List.mem_range.mpr hn) (by rw [warn]; exact hw) (by rw [limit]; exact hl)
    simp only [warn, limit, temp] at a b c d
    exact ⟨by rw [last.2.1]; exact a, by rw [last.2.2]; exact b, fun zero le => last.1.flags _ _ (by decide) (c zero le),
      fun zero le => last.1.flags _ _ (by decide) (d zero le)⟩

/-- A thermal trip at its level: the event, MGT_TRIP, DORMANT, and a flush that ends in the removal of power (R408). -/
theorem thermTrip_gives {i : Instr} {s u : State} (n : Fin 32) (run : exec i s = .next (thermTrip u n)) (good : u.power.pwrGood = true)
    (hot : tempTrip n ≤ u.mgmt.temp.getD n 0) (trip : u.power.flush ≠ some .trip) (off : u.power.flush ≠ some .off) : Gives i s (fun v =>
      v.power = { u.power with flush := some .trip } ∧ v.stage.stage = 0 ∧ Flagged v evMgtThermTrip ∧
      (∀ b ∈ v.mbox, b.stopped = true) ∧ bit (v.live 0x160008) 31 = true ∧ fld (v.live 0x160008) 4 0 = n.val ∧
      fld (v.live 0x160008) 23 16 = min 255 (fld (u.live 0x160008) 23 16 + 1) ∧
      v = { u with power := v.power, stage := { u.stage with stage := 0 }, mbox := v.mbox, regs := v.regs, mgmt := v.mgmt, out := v.out }) := by
  refine gives_of run ?_
  unfold thermTrip
  dsimp only
  rw [if_neg (by simpa [good, trip, off] using hot)]
  generalize intBits 16 (u.mgmt.temp.getD n 0) = r
  have raised : (u.raise evMgtThermTrip n r).live 0x160008 = u.live 0x160008 := live_raise _ _ _ _ _ _ (by decide) (by decide)
  have flag : Flagged (u.raise evMgtThermTrip n r) evMgtThermTrip := flagged_raise _ _ _ _ _ (by decide)
  have frame : u.raise evMgtThermTrip n r =
      { u with regs := (u.raise evMgtThermTrip n r).regs, mgmt := (u.raise evMgtThermTrip n r).mgmt, out := (u.raise evMgtThermTrip n r).out } := by
    apply State.same_fields <;> simp
  generalize u.raise evMgtThermTrip n r = a at raised flag frame ⊢
  have counted := fld_bumpField_same a 0x160008 23 16 1 (by decide) (by decide)
  rw [raised] at counted
  have put : (((a.bumpField 0x160008 23 16).setBits 0x160008 0x80000000).setField 0x160008 4 0 n).live 0x160008 =
      putFld ((a.bumpField 0x160008 23 16).live 0x160008 ||| word 0x80000000) 4 0 n := by
    rw [live_setField_same, live_setBits_same]
  have same : ((a.bumpField 0x160008 23 16).setBits 0x160008 0x80000000).setField 0x160008 4 0 n =
      { a with regs := (((a.bumpField 0x160008 23 16).setBits 0x160008 0x80000000).setField 0x160008 4 0 n).regs } := by
    apply State.same_fields <;> simp
  have kept : (((a.bumpField 0x160008 23 16).setBits 0x160008 0x80000000).setField 0x160008 4 0 n).live 0x20030 = a.live 0x20030 := by
    rw [live_setField_ne _ _ _ _ _ _ (by decide), live_setBits_ne _ _ _ _ (by decide), live_bumpField_ne _ _ _ _ _ _ (by decide)]
  generalize ((a.bumpField 0x160008 23 16).setBits 0x160008 0x80000000).setField 0x160008 4 0 n = b at put same kept ⊢
  have staged := stageTo_frame b 0
  have live := stageTo_live b 0 0x160008 (by decide)
  have flag2 : bit ((stageTo b 0).live (0x20000 + 12 * 4)) 8 = true := by
    have before : bit (b.live (0x20000 + 12 * 4)) 8 = true := by
      rw [show b.live (0x20000 + 12 * 4) = a.live 0x20030 from kept]
      exact flag
    unfold stageTo
    dsimp only
    split
    · exact before
    · exact raise_keeps_flag _ _ _ _ _ 12 8 (by decide) (by decide) before
  generalize stageTo b 0 = w at staged live flag2 ⊢
  have power : w.power = u.power := by rw [staged, same, frame]
  have start : startFlush { w with mbox := w.mbox.map (fun (b : Mbox) => { b with stopped := true }) } .trip =
      { w with mbox := w.mbox.map (fun (b : Mbox) => { b with stopped := true }), power := { u.power with flush := some .trip } } := by
    unfold startFlush
    dsimp only
    rw [power, if_neg (by simp [good])]
    cases f : u.power.flush with
    | none => rfl
    | some j => cases j with
      | mrst => rfl
      | soft => rfl
      | trip => exact absurd f trip
      | off => exact absurd f off
  rw [start]
  have word8 : w.live 0x160008 = putFld ((a.bumpField 0x160008 23 16).live 0x160008 ||| word 0x80000000) 4 0 n := live.trans put
  refine ⟨rfl, by rw [staged], flag2, fun x hx => ?_, ?_, ?_, ?_, by rw [staged, same, frame]⟩
  · obtain ⟨y, _, rfl⟩ := List.mem_map.mp hx
    rfl
  · show bit (w.live 0x160008) 31 = true
    rw [word8, bit_putFld_ne _ _ _ _ _ (by decide), bit_or, bit_word, show (0x80000000 : Nat).testBit 31 = true by decide]
    simp
  · show fld (w.live 0x160008) 4 0 = n.val
    rw [word8, fld_putFld_same _ _ _ _ (by decide) (by decide), Nat.mod_eq_of_lt (by have := n.isLt; omega)]
  · show fld (w.live 0x160008) 23 16 = _
    rw [word8, fld_putFld_ne _ _ _ _ _ _ (by decide)]
    refine Eq.trans (fld_eq_of_bits fun k lo hi => ?_) counted
    rw [bit_or, bit_word]
    have : (0x80000000 : Nat).testBit k = false := by
      rw [show (0x80000000 : Nat) = 2 ^ 31 from rfl, Nat.testBit_two_pow]
      simp
      omega
    simp [this]

/-- The record of the oldest event gets the next number, in the ring and in its slot of the window (R411, R412). -/
theorem logWrite_gives {i : Instr} {s u : State} {e : EvRec} {l : List EvRec} (run : exec i s = .next (logWrite u)) (queue : u.mgmt.evq = e :: l)
    (wf : memWf u.mem = true) : Gives i s (fun v =>
      v.mgmt.evq = l ∧ v.mgmt.run = true ∧ v.mgmt.logSeq = u.mgmt.logSeq + 1 ∧ (∃ r, v.mgmt.ring.getLast? = some r ∧
        r.seq = u.mgmt.logSeq + 1 ∧ r.src = e.src ∧ r.sev = e.sev ∧ r.op0 = e.op0 ∧ r.op1 = e.op1 ∧ r.op2 = e.op2 ∧ r.epoch = e.epoch ∧
        r.phase = e.phase ∧ r.held = e.held ∧ r.dropped = u.mgmt.dropped ∧
        Stored u v (0x20000 + r.seq % 4096 * 0x40) r.bytes) ∧
      v = { u with now := v.now, mgmt := v.mgmt, mem := v.mem, regs := v.regs, spk := v.spk }) := by
  obtain ⟨v, hv⟩ : ∃ v, v = logWrite u := ⟨_, rfl⟩
  rw [← hv] at run
  refine gives_of run ?_
  unfold logWrite at hv
  rw [queue] at hv
  dsimp only at hv
  unfold writeRecord at hv
  dsimp only at hv
  generalize hr : (LogRec.mk _ _ _ _ _ _ _ _ _ _ _ : LogRec) = r at hv
  have seq : r.seq = u.mgmt.logSeq + 1 := by rw [← hr]
  generalize hw : ({ u with mgmt := { u.mgmt with evq := l, run := true } } : State) = w at hv
  have pushed := ringPush_frame w r
  have last := ringPush_last w r
  generalize ringPush w r = x at pushed last hv
  have mem : x.mem = u.mem := by rw [pushed, ← hw]
  have stored := bankWrite_stores x mstMgmt (0x20000 + (u.mgmt.logSeq + 1) % 4096 * 0x40) r.bytes (by rw [mem]; exact wf)
    (by rw [logBytes_length]; have : (u.mgmt.logSeq + 1) % 4096 < 4096 := Nat.mod_lt _ (by decide); simp only [bankSize]; omega)
  rw [mem, ← seq] at stored
  rw [← seq] at hv ⊢
  have frame := bankWrite_frame x mstMgmt (0x20000 + r.seq % 4096 * 0x40) r.bytes
  generalize bankWrite x mstMgmt (0x20000 + r.seq % 4096 * 0x40) r.bytes = y at stored frame hv
  have mgmt : y.mgmt = { u.mgmt with evq := l, run := true, ring := x.mgmt.ring } := by rw [frame, pushed, ← hw]
  have fields : v = { y with mgmt := v.mgmt } ∧ v.mgmt.ring = x.mgmt.ring ∧ v.mgmt.evq = l ∧ v.mgmt.run = true ∧ v.mgmt.logSeq = r.seq := by
    rw [hv]
    split <;> simp [alertSet, mgmt]
  obtain ⟨same, ring, evq, on, number⟩ := fields
  refine ⟨evq, on, number, ⟨r, by rw [ring]; exact last, rfl, ?_, ?_, ?_, ?_, ?_, ?_, ?_, ?_, ?_, ?_⟩, by rw [same, frame, pushed, ← hw]⟩
  iterate 9 rw [← hr]
  unfold Stored
  rw [same]
  exact stored

theorem afterReset_frame (s : State) : afterReset s = { s with links := (afterReset s).links } := by
  unfold afterReset
  split
  · exact trainAll_frame s
  · rfl

theorem sensorConversion_on {s : State} (r : Readings) (on : islandOn s = true) : exec (.sensorConversion r) s = .next (sensorScan (pre s) r) := by
  show Host.Outcome.next (if islandOn s then sensorScan (pre s) r else s) = _
  rw [if_pos on]

theorem mgtRailFault_on {s : State} (n : Fin 14) (mv : Nat) (on : islandOn s = true) :
    exec (.mgtRailFault n mv) s = .next (railFault (pre s) n mv) := by
  show Host.Outcome.next (if islandOn s then railFault (pre s) n mv else s) = _
  rw [if_pos on]

theorem mgtRestart_on {s : State} (on : islandOn s = true) : exec .mgtRestart s = .next (mgtRestart (pre s)) := by
  show Host.Outcome.next (if islandOn s then mgtRestart (pre s) else s) = _
  rw [if_pos on]

/-- Settles O53: sensors, the thermal trip and restart, rails, a restart of the processor, and the log. -/
theorem sensorsTripAndLog : Obligations.SensorsTripAndLog := by
  unfold Obligations.SensorsTripAndLog
  intro s u
  have is : pre s = u := rfl
  clear_value u
  have scan : ∀ r, islandOn s = true → exec (.sensorConversion r) s = .next (sensorScan u r) := fun r on => by
    rw [← is]; exact sensorConversion_on r on
  have trip : ∀ n : Fin 32, exec (.mgtThermTrip n) s = .next (thermTrip u n) := by subst is; exact fun _ => rfl
  have restart : ∀ t, exec (.thermalRestart t) s = .next (thermalRestart u t) := by subst is; exact fun _ => rfl
  have rail : ∀ (n : Fin 14) (mv : Nat), islandOn s = true → exec (.mgtRailFault n mv) s = .next (railFault u n mv) := fun n mv on => by
    rw [← is]; exact mgtRailFault_on n mv on
  have again : islandOn s = true → exec .mgtRestart s = .next (mgtRestart u) := fun on => by rw [← is]; exact mgtRestart_on on
  have write : exec .logRecordWrite s = .next (logWrite u) := by subst is; rfl
  have flush : exec .logFlush s = .next (logFlush u) := by subst is; rfl
  refine ⟨fun r on => sensorScan_gives r (scan r on), fun n good hot no off => thermTrip_gives n (trip n) good hot no off, fun t cut en cool => ?_,
    fun n mv on => ⟨fun out => ?_, fun fits => ?_⟩, fun on => ?_, fun e l queue wf => logWrite_gives write queue wf, fun empty => ?_,
    fun r takes full => ?_, fun closed => ?_⟩
  · have all : (List.range 32).all (fun n => decide (u.mgmt.temp.getD n 0 ≤ tempLimit n - 160)) = true :=
      List.all_eq_true.mpr fun n h => decide_eq_true (cool n (List.mem_range.mp h))
    have run := restart t
    unfold thermalRestart at run
    rw [if_neg (by rw [cut, en, all]; decide)] at run
    refine gives_of run ?_
    rw [afterReset_frame]
    exact ⟨rfl, rfl, rfl, rfl, rfl, rfl⟩
  · have run := rail n mv on
    unfold railFault at run
    rw [if_neg (by simp [out])] at run
    generalize hl : (if u.mgmt.rails.contains n.val then u.mgmt.rails else u.mgmt.rails ++ [n.val]) = l at run
    have mem : n.val ∈ l := by
      rw [← hl]
      split
      · rename_i has
        simpa using has
      · simp
    generalize hw : ({ u with mgmt := { u.mgmt with rails := l } } : State) = w at run
    have events := raise_events w evMgtRailFault n mv 0
    unfold EventsOnly at events
    have rails : (w.raise evMgtRailFault n mv).mgmt.rails = l := by rw [events, ← hw]
    refine gives_of run ⟨by rw [rails]; exact mem, flagged_raise _ _ _ _ _ (by decide), ?_, ?_⟩
    · have some_ : l.isEmpty = false := by
        cases l with
        | nil => cases mem
        | cons a l => rfl
      simp [faultN, rails, some_]
    · apply State.same_fields <;> simp <;> rw [← hw]
  · rw [rail n mv on, railFault, if_pos (by simp [fits])]
  · have run := again on
    unfold mgtRestart at run
    dsimp only at run
    generalize hw : ({ u with mgmt := { u.mgmt with run := false } } : State) = w at run
    have count := fld_bumpField_same w 0x160004 7 0 1 (by decide) (by decide)
    have live : w.live 0x160004 = u.live 0x160004 := by rw [← hw]; rfl
    rw [live] at count
    have one : w.bumpField 0x160004 7 0 = { w with regs := (w.bumpField 0x160004 7 0).regs } := by apply State.same_fields <;> simp
    generalize w.bumpField 0x160004 7 0 = x at run count one
    have flag := flagged_raise x evMgtRestart 0 0 0 (by decide)
    have kept := live_raise x evMgtRestart 0 0 0 0x160004 (by decide) (by decide)
    have frame : x.raise evMgtRestart = { x with regs := (x.raise evMgtRestart).regs, mgmt := (x.raise evMgtRestart).mgmt, out := (x.raise evMgtRestart).out } := by
      apply State.same_fields <;> simp
    have events := raise_events x evMgtRestart 0 0 0
    unfold EventsOnly at events
    have stopped : (x.raise evMgtRestart).mgmt.run = false := by rw [events, one, ← hw]
    generalize x.raise evMgtRestart = y at run flag kept frame stopped
    have cmds : y.cmds = u.cmds := by rw [frame, one, ← hw]
    rw [cmds] at run
    rw [← kept] at count
    have same : ∀ v : State, v = { y with cmds := v.cmds } → v = { u with cmds := v.cmds, regs := v.regs, mgmt := v.mgmt, out := v.out } := fun v h => by
      rw [h, frame, one, ← hw]
    cases found : u.cmds.find? (fun c => c.st == .running && opMgmt c.op) with
    | none =>
      rw [found] at run
      exact gives_of run ⟨stopped, flag, count, fun c h => by simp at h, same y rfl⟩
    | some d =>
      rw [found] at run
      dsimp only at run
      rw [finish_plain _ _ _ _ _ (by decide)] at run
      refine gives_of run ⟨stopped, flag, count, fun c h => ?_, same _ rfl⟩
      cases h
      exact (ends_of rfl).of_cmds cmds
  · rw [write, logWrite, empty]
  · intro new room
    have some_ : 256 ≤ (logWaiting u).length := by
      obtain ⟨h, _⟩ := List.getElem?_eq_some_iff.mp full
      omega
    rw [flush]
    unfold logFlush
    dsimp only
    rw [if_neg (by simp [takes]), if_pos some_, full]
    unfold logCopy
    simp only [Option.map_some, Option.getD_some]
    have none_ : ((u.vault.log ++ u.mgmt.ring.filter (fun q => decide (u.mgmt.copied < q.seq) && decide (q.seq ≤ r.seq))).length - logPartition + 255) / 256 * 256 = 0 := by
      rw [Nat.sub_eq_zero_of_le room]
    rw [none_]
    rfl
  · rw [flush, logFlush, if_pos (by simp [closed])]

end Sys2Proof.Claim
end

section
/-! PROOFS. Mailboxes: acceptance, start, completion and the coalescing timer (O21, O22, O23). -/

namespace Sys2Proof.Machine

theorem setOwn_frame (s : State) (o : Own) :
    setOwn s o = { s with own := o, regs := (setOwn s o).regs, mgmt := (setOwn s o).mgmt, out := (setOwn s o).out } := by
  unfold setOwn
  dsimp only
  split
  · rfl
  · apply State.same_fields <;> simp

/-- Acceptance changes ownership and its events alone. -/
theorem acceptOwn_frame (s : State) (c : Cmd) : acceptOwn s c =
    { s with own := (acceptOwn s c).own, regs := (acceptOwn s c).regs, mgmt := (acceptOwn s c).mgmt, out := (acceptOwn s c).out } := by
  unfold acceptOwn
  split
  · rfl
  · split
    · rw [setOwn_frame]
    · split
      · split
        · rw [setOwn_frame]
        · rfl
      · rfl

theorem acceptOwn_release {s : State} {c : Cmd} (right : c.ownerRight = true) (good : headCheck c = none) (owned : s.own.st = .owned)
    (op : c.op = 0x84) (bare : bareForm c 16 = true) : (acceptOwn s c).own = { s.own with st := .draining } := by
  unfold acceptOwn
  rw [if_neg (by simp [right, good, owned]), if_pos (by simp [op, bare]), setOwn_own]

theorem acceptOwn_handover {s : State} {c : Cmd} {t e w : Nat} (right : c.ownerRight = true) (good : headCheck c = none) (owned : s.own.st = .owned)
    (op : c.op = 0x82) (form : (handoverForm c).2 = some (t, e, w)) : (acceptOwn s c).own =
      { s.own with st := .handing, target := t, hand := some { target := t, epoch := e, window := w, cmd := c.id } } := by
  unfold acceptOwn
  rw [if_neg (by simp [right, good, owned]), if_neg (by simp [op]), if_pos (by simp [op]), form]
  exact setOwn_own ..

theorem acceptOwn_other {s : State} {c : Cmd} (other : c.ownerRight = false ∨ s.own.st ≠ .owned ∨ (c.op ≠ 0x84 ∧ c.op ≠ 0x82)) :
    acceptOwn s c = s := by
  unfold acceptOwn
  rcases other with right | owned | ⟨release, handover⟩
  · rw [if_pos (by simp [right])]
  · rw [if_pos (by simp [owned])]
  · split
    · rfl
    · rw [if_neg (by simp [release]), if_neg (by simp [handover])]

/-- One mailbox whose turn it is: a member of the four in order from any start. -/
theorem mem_turns (n m : Nat) (h : m < 4) : m ∈ [0, 1, 2, 3].map (fun k => (n + k) % 4) := by
  simp only [List.map_cons, List.map_nil, List.mem_cons, List.not_mem_nil, or_false]
  omega

theorem sendMsix_frame (s : State) (p v : Nat) : sendMsix s p v = { s with regs := (sendMsix s p v).regs, out := (sendMsix s p v).out } := by
  apply State.same_fields <;> simp

theorem box_modBox_same {s : State} {m : Nat} (f : Mbox → Mbox) (h : m < s.mbox.length) : (s.modBox m f).box m = f (s.box m) := by
  rw [box_modBox s m m f h, if_pos rfl]

/-- A fence that wakes ends: no command leaves and none but fences changes. -/
theorem wakeFences_frame (s : State) : wakeFences s = { s with cmds := (wakeFences s).cmds } ∧
    (wakeFences s).cmds.map (fun d => d.id) = s.cmds.map (fun d => d.id) := by
  have each : ∀ (v : State) (c : Cmd), (if c.st == .waiting .fence && fenceOpen v c then finish v c.id stOk else v : State) =
      { v with cmds := (if c.st == .waiting .fence && fenceOpen v c then finish v c.id stOk else v : State).cmds } ∧
      (if c.st == .waiting .fence && fenceOpen v c then finish v c.id stOk else v : State).cmds.map (fun d => d.id) = v.cmds.map (fun d => d.id) := by
    intro v c
    split
    · rw [finish_plain _ _ _ _ _ (by decide)]
      refine ⟨rfl, ?_⟩
      show (endCmd v.cmds c.id stOk _ _ _).map _ = _
      unfold endCmd
      rw [List.map_map]
      exact List.map_congr_left fun d _ => by
        dsimp only [Function.comp]
        split <;> rfl
    · exact ⟨rfl, rfl⟩
  refine foldl_keep (P := fun t : State => t = { s with cmds := t.cmds } ∧ t.cmds.map (fun d => d.id) = s.cmds.map (fun d => d.id)) _
    (fun t c ⟨same, ids⟩ => ?_) _ s ⟨rfl, rfl⟩
  obtain ⟨frame, kept⟩ := each t c
  exact ⟨by rw [frame, same], kept.trans ids⟩

end Sys2Proof.Machine

namespace Sys2Proof.Claim

open Machine

/-- Settles O21: one descriptor is taken, with its number and its rights; a release or a handover of the owner begins there. -/
theorem acceptanceFixesTheRights : Obligations.AcceptanceFixesTheRights := by
  unfold Obligations.AcceptanceFixesTheRights
  intro s mb u flush good pick
  have is : pre s = u := rfl
  clear_value u
  have run : exec (.commandAccept []) s = .next (commandAccept u []) := by subst is; rfl
  unfold commandAccept at run
  rw [if_neg (by simp [flush, good]), pick] at run
  dsimp only at run
  rw [meet_nil] at run
  unfold acceptFrom bankRead at run
  dsimp only at run
  have touched := bankTouch_frame u mstSequencer (cmdSlot mb (pickRing u mb) (natAt (u.box mb).head (pickRing u mb)))
  generalize bankTouch u mstSequencer (cmdSlot mb (pickRing u mb) (natAt (u.box mb).head (pickRing u mb))) = b at run touched
  generalize hc : (Cmd.mk _ _ _ _ _ _ _ _ _ _ _ _ _ _ _ : Cmd) = c at run
  generalize hw : ({ b.modBox mb _ with cmds := _, nextCmd := _, rrMbox := _ } : State) = w at run
  have own : w.own = u.own := by rw [← hw]; show b.own = _; rw [touched]
  have frame := acceptOwn_frame w c
  refine gives_of run ⟨c, ?_, ?_, ?_, ?_, ?_, ?_, ?_, ?_, ?_, ?_, ?_, ?_, fun right head owned => ⟨fun op bare => ?_, fun op t e l form => ?_⟩, fun other => ?_⟩
  · show (acceptOwn w c).cmds = _
    rw [frame, ← hw]
    show b.cmds ++ [c] = _
    rw [touched]
  · rw [← hc]
    show b.nextCmd = _
    rw [touched]
  iterate 3 rw [← hc]
  · rw [← hc]
    show isOwner b mb = _
    rw [touched]
    rfl
  iterate 2 rw [← hc]
  · show (acceptOwn w c).nextCmd = _
    rw [frame, ← hw]
    show b.nextCmd + 1 = _
    rw [touched]
  · show (acceptOwn w c).rrMbox = _
    rw [frame, ← hw]
  · show (acceptOwn w c).mem = _
    rw [frame, ← hw]
    show b.mem = _
    rw [touched]
  · show (acceptOwn w c).tables = _
    rw [frame, ← hw]
    show b.tables = _
    rw [touched]
  · show (acceptOwn w c).own = _
    rw [acceptOwn_release right head (own ▸ owned) op bare, own]
  · show (acceptOwn w c).own = _
    rw [acceptOwn_handover right head (own ▸ owned) op form, own]
  · show (acceptOwn w c).own = _
    rw [acceptOwn_other (own ▸ other), own]

theorem unitTakes_spec {s : State} {k : Nat} {d : Cmd} (h : unitTakes s k = some d) : opUnit d.op = k ∧ behindFence s d = false ∧
    ((headCheck d).isSome = true ∨ unitFree s d = true) ∧
    (d.ring ≠ 0 → ∀ (m : Nat) (e : Cmd), m < 4 → nextStart s m = some e → opUnit e.op = k → startable s e = true → e.ring ≠ 0) := by
  unfold unitTakes at h
  dsimp only at h
  generalize hl : ((([0, 1, 2, 3].map (fun j => (natAt s.rrStart k + j) % 4)).filterMap (nextStart s)).filter
    (fun c => opUnit c.op == k && startable s c)) = l at h
  have mem : d ∈ l := by
    rcases Option.or_eq_some_iff.mp h with found | ⟨-, head⟩
    · exact List.mem_of_find?_eq_some found
    · exact List.mem_of_head? head
  have holds : opUnit d.op = k ∧ startable s d = true := by
    rw [← hl] at mem
    simpa using (List.mem_filter.mp mem).2
  obtain ⟨fence, check⟩ := Bool.and_eq_true_iff.mp (show (!behindFence s d && ((headCheck d).isSome || unitFree s d)) = true from holds.2)
  refine ⟨holds.1, by simpa using fence, by simpa using check, fun low m e hm next op may => ?_⟩
  have listed : e ∈ l := by
    rw [← hl]
    exact List.mem_filter.mpr ⟨List.mem_filterMap.mpr ⟨m, mem_turns _ m hm, next⟩, by simp [op, may]⟩
  rcases Option.or_eq_some_iff.mp h with found | ⟨none_, -⟩
  · exact absurd (by simpa using List.find?_some found) low
  · simpa using List.find?_eq_none.mp none_ e listed

theorem headCheck_plain {c : Cmd} {st : Nat} (h : headCheck c = some st) : plainStatus st = true := by
  unfold headCheck at h
  split at h
  · cases h; decide
  · split at h
    · cases h; decide
    · split at h
      · cases h; decide
      · cases h

/-- Settles O22: the turn of a unit, the order of the first checks, and what a start changes. -/
theorem startChecksComeInOrder : Obligations.StartChecksComeInOrder := by
  unfold Obligations.StartChecksComeInOrder
  intro s mb c u w next
  have is : pre s = u := rfl
  clear_value u
  have run : ∀ (parity : Bool) errs, exec (.commandStart mb parity errs) s = .next (commandStart u mb parity errs) := by subst is; exact fun _ _ => rfl
  have turn : ∀ parity, (unitTakes u (opUnit c.op)).map (fun d => d.id) = some c.id → commandStart u mb parity [] =
      (match (if parity then some stInvalid else headCheck c) with
        | some st => finish w c.id st
        | none => w.modCmds (fun d => d.id == c.id) (fun d => { d with st := .running, since := w.epoch.count })) := by
    intro parity takes
    unfold commandStart
    rw [next]
    dsimp only
    rw [if_neg (by simp [takes]), meet_nil] <;> rfl
  refine ⟨fun takes => ⟨fun good => ?_, fun st bad => ?_, ?_⟩, fun takes parity errs => ?_, fun k d h => unitTakes_spec h, fun bad => ?_, fun a b op => ?_,
    fun a b op high mid zero => ?_⟩
  · have went := run false []
    rw [turn false takes, good] at went
    exact gives_of went rfl
  · have went := run false []
    rw [turn false takes, bad] at went
    exact refused_of went (headCheck_plain bad)
  · have went := run true []
    rw [turn true takes] at went
    exact refused_of went (by decide)
  · rw [run, commandStart, next]
    dsimp only
    rw [if_pos (by simpa using takes)]
  · unfold headCheck
    rw [if_pos (by rcases bad with h | h <;> simp [h])]
  · unfold headCheck
    rw [if_neg (by simp [a, b]), if_pos (by simp [op])]
  · unfold headCheck
    rw [if_neg (by simp [a, b]), if_neg (by simp [op, high, mid, zero])]
    by_cases right : c.ownerRight = false ∧ opAnyone c.op = false
    · rw [if_pos right, if_pos (by simp [right])]
    · rw [if_neg right, if_neg (by simpa using right)]

/-- What posting a completion changes: its slot, the list of commands and its mailbox (R338, R341, R342). -/
theorem postCpl_spec (s : State) (c : Cmd) (room : c.mb < s.mbox.length) :
    (postCpl s c).mem = memWriteAll s.mem (cplSlot c.mb c.num) (cplRecord c) ∧ (postCpl s c).cmds = s.cmds.filter (fun x => x.id != c.id) ∧
      ((postCpl s c).box c.mb).cplTail = ((s.box c.mb).cplTail + 1) % 65536 ∧ (postCpl s c).own = s.own ∧ (postCpl s c).tables = s.tables ∧
      (postCpl s c).epoch = s.epoch := by
  have touched := bankTouch_frame s mstSequencer (cplSlot c.mb c.num)
  unfold postCpl bankWrite
  dsimp only
  generalize bankTouch s mstSequencer (cplSlot c.mb c.num) = b at touched ⊢
  have mem : b.mem = s.mem := by rw [touched]
  have cmds : b.cmds = s.cmds := by rw [touched]
  have boxes : b.mbox = s.mbox := by rw [touched]
  generalize hw : ({ b with mem := memWriteAll b.mem (cplSlot c.mb c.num) (cplRecord c), cmds := b.cmds.filter (fun x => x.id != c.id) } : State) = w
  have fit : c.mb < w.mbox.length := by rw [← hw]; show _ < b.mbox.length; rw [boxes]; exact room
  have box : w.box c.mb = s.box c.mb := by rw [← hw]; exact congrArg (fun l : List Mbox => l.getD c.mb Mbox.reset) boxes
  generalize (w.box c.mb).sinceRaise + 1 = n
  generalize hx : w.modBox c.mb (fun x => { x with cplTail := (x.cplTail + 1) % 65536, sinceRaise := n, firstAt := some (x.firstAt.getD b.now) }) = x
  have tail : (x.box c.mb).cplTail = ((s.box c.mb).cplTail + 1) % 65536 := by rw [← hx, box_modBox_same _ fit, box]
  have fitX : c.mb < x.mbox.length := by rw [← hx]; simpa [State.modBox] using fit
  have marked : ((markRings x c.mb).box c.mb).cplTail = (x.box c.mb).cplTail := by unfold markRings; rw [box_modBox_same _ fitX]
  have fitY : c.mb < (markRings x c.mb).mbox.length := by unfold markRings; simpa [State.modBox] using fitX
  have same : markRings x c.mb = { w with mbox := (markRings x c.mb).mbox } := by rw [← hx]; rfl
  generalize markRings x c.mb = y at marked fitY same ⊢
  have fields : ∀ v : State, v = { y with mbox := v.mbox, regs := v.regs, out := v.out } → (v.box c.mb).cplTail = (y.box c.mb).cplTail →
      v.mem = memWriteAll s.mem (cplSlot c.mb c.num) (cplRecord c) ∧ v.cmds = s.cmds.filter (fun x => x.id != c.id) ∧
      (v.box c.mb).cplTail = ((s.box c.mb).cplTail + 1) % 65536 ∧ v.own = s.own ∧ v.tables = s.tables ∧ v.epoch = s.epoch := by
    intro v frame kept
    refine ⟨?_, ?_, by rw [kept, marked, tail], ?_, ?_, ?_⟩
    · rw [frame, same, ← hw, ← mem]
    · rw [frame, same, ← hw, ← cmds]
    iterate 3 rw [frame, same, ← hw, touched]
  split
  · refine fields _ (by rw [sendMsix_frame]; rfl) ?_
    rw [sendMsix_frame]
    show ((y.modBox c.mb _).box c.mb).cplTail = _
    rw [box_modBox_same _ fitY]
  · exact fields _ rfl rfl

theorem completionPost_gives {i : Instr} {s u : State} {mb : Nat} {c : Cmd} (run : exec i s = .next (completionPost u mb)) (first : oldest u mb = some c)
    (done : c.st = .finished) (durable : cmdDurable u c = true) (room : mb < u.mbox.length) : Gives i s (fun v =>
      v.mem = memWriteAll u.mem (cplSlot c.mb c.num) (cplRecord c) ∧ (∀ d ∈ v.cmds, d.id ≠ c.id) ∧
      (v.box mb).cplTail = ((u.box mb).cplTail + 1) % 65536 ∧ v.own = u.own ∧ v.tables = u.tables ∧ v.epoch = u.epoch) := by
  have own : c.mb = mb := by simpa using List.find?_some first
  unfold completionPost at run
  rw [first] at run
  dsimp only at run
  rw [if_pos (by simp [done, durable])] at run
  subst own
  obtain ⟨mem, cmds, tail, owner, tables, epoch⟩ := postCpl_spec u c room
  generalize postCpl u c = w at run mem cmds tail owner tables epoch
  obtain ⟨frame, ids⟩ := wakeFences_frame w
  refine gives_of run ⟨by rw [frame]; exact mem, fun d hd => ?_, ?_, by rw [frame]; exact owner, by rw [frame]; exact tables, by rw [frame]; exact epoch⟩
  · have listed : d.id ∈ w.cmds.map (fun d => d.id) := ids ▸ List.mem_map_of_mem hd
    rw [cmds] at listed
    obtain ⟨e, he, same⟩ := List.mem_map.mp listed
    rw [← same]
    simpa using (List.mem_filter.mp he).2
  · rw [frame]
    exact tail

/-- Settles O23: the record of the oldest finished command, and the coalescing timer. -/
theorem completionsAreWrittenAndRaised : Obligations.CompletionsAreWrittenAndRaised := by
  unfold Obligations.CompletionsAreWrittenAndRaised
  intro s mb c
  refine ⟨?_, fun a first timer room => ?_⟩
  · intro u oldest done durable room
    have is : pre s = u := rfl
    clear_value u
    have run : exec (.completionPost mb) s = .next (completionPost u mb) := by subst is; rfl
    exact completionPost_gives run oldest done durable room
  · have run : exec (.irqCoalesceTimer mb) s = .next (irqTimer (pre s) mb) := rfl
    unfold irqTimer at run
    rw [first] at run
    dsimp only at run
    rw [if_neg timer] at run
    refine gives_of run ?_
    generalize preAt (a + (pre s).cfg (mbAddr mb 0x1C) 31 16 * 10000) (pre s) = w
    intro w' fit
    have box : (sendMsix (w.modBox mb (fun b => { b with sinceRaise := 0, firstAt := none })) mb 0).box mb =
        { w.box mb with sinceRaise := 0, firstAt := none } := by
      rw [sendMsix_frame]
      exact box_modBox_same _ fit
    exact ⟨by rw [box], by rw [box], by rw [box], by rw [sendMsix_frame]; rfl⟩

end Sys2Proof.Claim
end

section
/-! PROOFS. Accesses of the management ports: the laws of the register map, of rejected accesses, of writes and of reads (O42, O43). -/

namespace Sys2Proof.Machine

/-! ### The register map -/

/-- What every descriptor of the map obeys: a buffered register is the owner's, lies in no lane and has fields to write; the low word of
a pair clears nothing; a register of a lane is the owner's, and stands among the lanes. -/
def soundDesc (lanes : Bool) : Option RegDesc → Bool
  | none => true
  | some d => (d.group.isNone || (d.right == .owner && d.lane.isNone && d.rw != 0)) && (!d.rsh || d.rc == 0) &&
      (d.lane.isNone || (lanes && d.right == .owner))

theorem sound_ite {n : Bool} {c : Prop} [Decidable c] {a b : Option RegDesc} (ha : soundDesc n a = true) (hb : soundDesc n b = true) :
    soundDesc n (if c then a else b) = true := by
  split <;> assumption

theorem regDescId_sound (o : Nat) : soundDesc false (regDescId o) = true := by
  unfold regDescId
  repeat' split
  all_goals rfl

theorem regDescOwn_sound (o : Nat) : soundDesc false (regDescOwn o) = true := by
  unfold regDescOwn
  repeat' refine sound_ite ?_ ?_
  iterate 13 rfl
  split <;> rfl

theorem regDescEvt_sound (o : Nat) : soundDesc false (regDescEvt o) = true := by
  unfold regDescEvt
  repeat' split
  all_goals rfl

theorem regDescEpo_sound (o : Nat) : soundDesc false (regDescEpo o) = true := by
  unfold regDescEpo
  repeat' split
  all_goals rfl

theorem regDescMb_sound (m o : Nat) : soundDesc false (regDescMb m o) = true := by
  unfold regDescMb
  repeat' split
  all_goals rfl

theorem regDescTables_sound (o : Nat) : soundDesc false (regDescTables o) = true := by
  unfold regDescTables regDescTbl
  repeat' split
  all_goals rfl

theorem regDescSd_sound (o : Nat) : soundDesc false (regDescSd o) = true := by
  unfold regDescSd
  repeat' split
  all_goals rfl

theorem regDescWalk_sound (o : Nat) : soundDesc false (regDescWalk o) = true := by
  unfold regDescWalk
  repeat' split
  all_goals rfl

theorem regDescProf_sound (o : Nat) : soundDesc false (regDescProf o) = true := by
  unfold regDescProf
  dsimp only
  repeat' split
  all_goals rfl

theorem regDescCc_sound (o : Nat) : soundDesc false (regDescCc o) = true := by
  unfold regDescCc
  repeat' split
  all_goals rfl

theorem regDescAct_sound (o : Nat) : soundDesc false (regDescAct o) = true := by
  unfold regDescAct
  repeat' split
  all_goals rfl

theorem regDescWhl_sound (o : Nat) : soundDesc false (regDescWhl o) = true := by
  unfold regDescWhl
  repeat' split
  all_goals rfl

theorem regDescSpk_sound (o : Nat) : soundDesc false (regDescSpk o) = true := by
  unfold regDescSpk
  repeat' refine sound_ite ?_ ?_
  all_goals rfl

theorem regDescCsc_sound (o : Nat) : soundDesc false (regDescCsc o) = true := by
  unfold regDescCsc
  repeat' split
  all_goals rfl

theorem regDescVlt_sound (o : Nat) : soundDesc false (regDescVlt o) = true := by
  unfold regDescVlt
  repeat' split
  all_goals rfl

theorem regDescMgt_sound (o : Nat) : soundDesc false (regDescMgt o) = true := by
  unfold regDescMgt
  repeat' split
  all_goals rfl

theorem regDescMsix_sound (o : Nat) : soundDesc false (regDescMsix o) = true := by
  unfold regDescMsix
  repeat' split
  all_goals rfl

theorem regDescPort_sound (p o : Nat) : soundDesc false (regDescPort p o) = true := by
  unfold regDescPort
  repeat' split
  all_goals rfl

theorem regDescLane_sound (l o : Nat) : soundDesc true (regDescLane l o) = true := by
  unfold regDescLane
  repeat' split
  all_goals rfl

theorem sound_mono {o : Option RegDesc} (h : soundDesc false o = true) : soundDesc true o = true := by
  cases o with
  | none => rfl
  | some d =>
    simp only [soundDesc, Bool.false_and, Bool.or_false, Bool.and_eq_true] at h ⊢
    exact ⟨h.1, by simp [h.2]⟩

theorem regDesc_sound_low {a : Nat} (low : a < 0x1C0000) : soundDesc false (regDesc a) = true := by
  unfold regDesc
  refine sound_ite rfl (sound_ite (regDescId_sound _) (sound_ite (regDescOwn_sound _) (sound_ite (regDescEvt_sound _) (sound_ite (regDescEpo_sound _)
    (sound_ite (regDescMb_sound _ _) (sound_ite rfl (sound_ite (regDescTables_sound _) (sound_ite (regDescSd_sound _) (sound_ite (regDescWalk_sound _)
    (sound_ite (regDescProf_sound _) (sound_ite (regDescCc_sound _) (sound_ite (regDescAct_sound _) (sound_ite (regDescWhl_sound _)
    (sound_ite (regDescSpk_sound _) (sound_ite (regDescCsc_sound _) (sound_ite (regDescVlt_sound _) (sound_ite (regDescMgt_sound _)
    (sound_ite (regDescMsix_sound _) (sound_ite rfl (sound_ite (regDescPort_sound _ _) ?_))))))))))))))))))))
  rw [if_pos low]
  rfl

theorem regDesc_lanes {a : Nat} (aligned : a % 4 = 0) (low : 0x1C0000 ≤ a) (high : a < 0x1E0000) :
    regDesc a = regDescLane ((a - 0x1C0000) / 0x100) ((a - 0x1C0000) % 0x100) := by
  unfold regDesc
  iterate 22 rw [if_neg (by omega)]
  rw [if_pos high]

/-- Every register lies below 0x1E0000, at a multiple of 4. -/
theorem regDesc_below {a : Nat} {d : RegDesc} (h : regDesc a = some d) : a % 4 = 0 ∧ a < 0x1E0000 := by
  by_cases aligned : a % 4 = 0
  · refine ⟨aligned, ?_⟩
    refine Classical.byContradiction fun out => ?_
    unfold regDesc at h
    iterate 23 rw [if_neg (by omega)] at h
    cases h
  · unfold regDesc at h
    rw [if_pos aligned] at h
    cases h

theorem regDesc_sound (a : Nat) : soundDesc true (regDesc a) = true := by
  by_cases low : a < 0x1C0000
  · exact sound_mono (regDesc_sound_low low)
  · cases desc : regDesc a with
    | none => rfl
    | some d =>
      obtain ⟨aligned, high⟩ := regDesc_below desc
      rw [← desc, regDesc_lanes aligned (by omega) high]
      exact regDescLane_sound _ _

/-- A buffered register is the owner's, lies in no lane and has fields to write. -/
theorem regDesc_buf {a : Nat} {d : RegDesc} (h : regDesc a = some d) (buf : d.group.isSome = true) : d.right = .owner ∧ d.lane = none ∧ d.rw ≠ 0 := by
  have sound := regDesc_sound a
  rw [h] at sound
  simp only [soundDesc, Bool.and_eq_true, Bool.or_eq_true, beq_iff_eq, bne_iff_ne, Option.isNone_iff_eq_none] at sound
  obtain ⟨⟨none_ | ⟨⟨right, lane⟩, rw_⟩, -⟩, -⟩ := sound
  · simp [none_] at buf
  · exact ⟨right, lane, rw_⟩

/-- The low word of a pair clears nothing. -/
theorem regDesc_rsh {a : Nat} {d : RegDesc} (h : regDesc a = some d) (rsh : d.rsh = true) : d.rc = 0 := by
  have sound := regDesc_sound a
  rw [h] at sound
  simp only [soundDesc, Bool.and_eq_true, Bool.or_eq_true, beq_iff_eq] at sound
  simpa [rsh] using sound.1.2

/-- A register of a lane is the owner's, and one of the 512 lanes'. -/
theorem regDesc_lane {a n : Nat} {d : RegDesc} (desc : regDesc a = some d) (lane : d.lane = some n) : d.right = .owner ∧ n < 512 := by
  obtain ⟨aligned, top⟩ := regDesc_below desc
  have low : 0x1C0000 ≤ a := by
    refine Classical.byContradiction fun out => ?_
    have sound := regDesc_sound_low (a := a) (by omega)
    rw [desc] at sound
    simp [soundDesc, lane] at sound
  have sound := regDesc_sound a
  rw [desc] at sound
  refine ⟨by simpa [soundDesc, lane] using (Bool.and_eq_true_iff.mp sound).2, ?_⟩
  rw [regDesc_lanes aligned low top] at desc
  have at_ : n = (a - 0x1C0000) / 0x100 := by
    unfold regDescLane at desc
    split at desc
    · obtain rfl := Option.some.inj desc; exact (Option.some.inj lane).symm
    · split at desc
      · obtain rfl := Option.some.inj desc; exact (Option.some.inj lane).symm
      · split at desc
        · obtain rfl := Option.some.inj desc; exact (Option.some.inj lane).symm
        · split at desc
          · obtain rfl := Option.some.inj desc; cases lane
          · cases desc
  omega

/-! ### What hardware changes of the register file -/

/-- Live values, and the note of what hardware changed in this hub cycle, are all that changes. -/
def LiveOnly (r q : Regs) : Prop := q = { r with live := q.live, met := q.met }

theorem LiveOnly.refl (r : Regs) : LiveOnly r r := rfl

theorem LiveOnly.trans {r q k : Regs} (h : LiveOnly r q) (g : LiveOnly q k) : LiveOnly r k := by
  unfold LiveOnly at h g ⊢
  rw [g, h]

theorem setLive_liveOnly (s : State) (a : Nat) (v : Word) : LiveOnly s.regs (s.setLive a v).regs := rfl

theorem setField_liveOnly (s : State) (a hi lo v : Nat) : LiveOnly s.regs (s.setField a hi lo v).regs := rfl

theorem setBits_liveOnly (s : State) (a v : Nat) : LiveOnly s.regs (s.setBits a v).regs := by
  unfold State.setBits
  dsimp only
  split <;> rfl

theorem bump_liveOnly (s : State) (a n : Nat) : LiveOnly s.regs (s.bump a n).regs := by
  unfold State.bump
  dsimp only
  split <;> rfl

theorem bumpField_liveOnly (s : State) (a hi lo n : Nat) : LiveOnly s.regs (s.bumpField a hi lo n).regs := by
  unfold State.bumpField
  dsimp only
  split <;> rfl

theorem sendMsix_liveOnly (s : State) (p v : Nat) : LiveOnly s.regs (sendMsix s p v).regs := by
  unfold sendMsix
  split
  · rfl
  · split
    · exact setBits_liveOnly ..
    · split <;> rfl

theorem deliver_liveOnly (s : State) (p e : Nat) : LiveOnly s.regs (deliver s p e).regs := by
  unfold deliver raiseVec
  split
  · dsimp only
    split
    · rfl
    · exact sendMsix_liveOnly ..
  · rfl

theorem raise_liveOnly (s : State) (e : Ev) (a b c : Nat) : LiveOnly s.regs (s.raise e a b c).regs := by
  refine (setBits_liveOnly s (0x20000 + e.src / 16 * 4) (2 ^ (e.src % 16))).trans ?_
  unfold State.raise recordEvent
  dsimp only
  split
  · exact bump_liveOnly ..
  · generalize hw : ({ s.setBits (0x20000 + e.src / 16 * 4) (2 ^ (e.src % 16)) with mgmt := _ } : State) = w
    have same : w.regs = (s.setBits (0x20000 + e.src / 16 * 4) (2 ^ (e.src % 16))).regs := by rw [← hw]
    rw [← same]
    exact (deliver_liveOnly w 0 _).trans ((deliver_liveOnly _ 1 _).trans ((deliver_liveOnly _ 2 _).trans (deliver_liveOnly _ 3 _)))

theorem raiseOnce_liveOnly (s : State) (e : Ev) (k a b c : Nat) : LiveOnly s.regs (s.raiseOnce e k a b c).regs := by
  unfold State.raiseOnce
  split
  · exact setBits_liveOnly ..
  · exact raise_liveOnly { s with mgmt := _ } e a b c

theorem LiveOnly.buf {r q : Regs} (h : LiveOnly r q) : q.buf = r.buf := by rw [h]

theorem LiveOnly.pw {r q : Regs} (h : LiveOnly r q) : q.pw = r.pw := by rw [h]

/-! ### Rejected accesses -/

theorem logAccess_frame (s : State) (p a c : Nat) :
    logAccess s p a c = { s with regs := (logAccess s p a c).regs, mgmt := (logAccess s p a c).mgmt, out := (logAccess s p a c).out } := by
  unfold logAccess
  dsimp only
  split <;> (apply State.same_fields <;> simp)

theorem logAccess_liveOnly (s : State) (p a c : Nat) : LiveOnly s.regs (logAccess s p a c).regs := by
  unfold logAccess
  dsimp only
  refine LiveOnly.trans ?_ (raiseOnce_liveOnly ..)
  refine LiveOnly.trans (LiveOnly.trans ?_ (setBits_liveOnly ..)) (bump_liveOnly ..)
  split
  · exact (setField_liveOnly ..).trans (setLive_liveOnly ..)
  · exact LiveOnly.refl _

/-- A rejected access sets the bit of its cause (R364). -/
theorem logAccess_cause (s : State) {p c : Nat} (a : Nat) (hp : p < 4) (hc : c < 8) : bit ((logAccess s p a c).live (0x200 + p * 0x10)) c = true := by
  have quiet : evReg (0x200 + p * 0x10) = false := by simp [evReg]; omega
  unfold logAccess
  dsimp only
  generalize (if fld (s.live (0x200 + p * 0x10)) 7 0 = 0 then (s.setField (0x200 + p * 0x10) 31 28 (c + 1)).setLive (0x200 + p * 0x10 + 4) (word (a % 0x1000000)) else s : State) = w
  show bit ((((w.setBits (0x200 + p * 0x10) (2 ^ c)).bump (0x200 + p * 0x10 + 8)).raiseOnce evRegAccess p p (a % 0x1000000) c).live (0x200 + p * 0x10)) c = true
  rw [live_raiseOnce _ _ _ _ _ _ _ quiet (by decide), live_bump_ne _ _ _ _ (by omega), live_setBits_same, bit_or, bit_word, Nat.testBit_two_pow_self]
  simp
  omega

theorem logAccess_live (s : State) {p a c b : Nat} (quiet : evReg b = false) (cause : b ≠ 0x200 + p * 0x10) (addr : b ≠ 0x200 + p * 0x10 + 4)
    (count : b ≠ 0x200 + p * 0x10 + 8) : (logAccess s p a c).live b = s.live b := by
  unfold logAccess
  dsimp only
  show ((State.raiseOnce _ _ _ _ _ _).live b) = _
  rw [live_raiseOnce _ _ _ _ _ _ _ quiet (by decide), live_bump_ne _ _ _ _ count, live_setBits_ne _ _ _ _ cause]
  split
  · rw [live_setLive_ne _ _ _ _ addr, live_setField_ne _ _ _ _ _ _ cause]
  · rfl

/-! ### Writes that arrive -/

/-- The register is served: there is one, and the stage allows it. -/
theorem regThere_of {s : State} {a : Nat} {d : RegDesc} (served : blockServed s a = true) (desc : regDesc a = some d) : regThere s a = true := by
  simp [regThere, served, desc]

/-- A 32-bit write of a port that reaches BAR0 is a write of its register. -/
theorem busWriteOp_reaches {s : State} {p a : Nat} {d : RegDesc} (v : Word) (up : portUp s p = true) (served : blockServed s a = true)
    (desc : regDesc a = some d) : busWriteOp s p a (bytesLE 4 v.toNat) = regWrite4 s p a v := by
  obtain ⟨aligned, low⟩ := regDesc_below desc
  unfold busWriteOp
  rw [if_neg (by simp [up]), if_neg (by omega), if_pos (by omega)]
  unfold regWriteAt
  dsimp only
  rw [bytesLE_length, if_neg (by decide), if_neg (by omega), if_pos ⟨rfl, aligned⟩, if_neg (by simp [regThere_of served desc]), word_bytes]

/-- The owner's write of a register of the owner that lies in no lane takes effect. -/
theorem regWrite4_owner {s : State} {p a : Nat} {d : RegDesc} (v : Word) (desc : regDesc a = some d) (right : d.right = .owner) (lane : d.lane = none)
    (fields : d.rw ||| d.w1c ||| d.w1s ≠ 0) (owner : isOwner s p = true) : regWrite4 s p a v =
      regEffect { s with regs := { s.regs with parityErr := s.regs.parityErr.filter (fun b => b != a) } } p a d v := by
  unfold regWrite4
  rw [desc]
  dsimp only
  rw [right, if_neg (by simp [isForeign]), if_neg fields, if_neg (by simp [mayWrite, owner]), lane]

/-- A port other than the owner is refused. -/
theorem regWrite4_refused {s : State} {p a : Nat} {d : RegDesc} (v : Word) (desc : regDesc a = some d) (right : d.right = .owner)
    (fields : d.rw ||| d.w1c ||| d.w1s ≠ 0) (other : isOwner s p = false) : regWrite4 s p a v = logAccess s p a acNotOwner := by
  unfold regWrite4
  rw [desc]
  dsimp only
  rw [right, if_neg (by simp [isForeign]), if_neg fields, if_pos (by simp [mayWrite, other])]
  rfl

theorem regWrite4_readOnly {s : State} {p a : Nat} {d : RegDesc} (v : Word) (desc : regDesc a = some d) (right : d.right = .owner)
    (fields : d.rw ||| d.w1c ||| d.w1s = 0) : regWrite4 s p a v = logAccess s p a acReadOnly := by
  unfold regWrite4
  rw [desc]
  dsimp only
  rw [right, if_neg (by simp [isForeign]), if_pos fields]

/-! ### The registers whose writes do more than store -/

theorem regDesc_evt {a : Nat} (aligned : a % 4 = 0) (low : 0x20000 ≤ a) (high : a < 0x30000) : regDesc a = regDescEvt (a - 0x20000) := by
  unfold regDesc
  rw [if_neg (by omega), if_neg (by omega), if_neg (by omega), if_pos high]

theorem regDesc_mb {a : Nat} (aligned : a % 4 = 0) (low : 0x40000 ≤ a) (high : a < 0x50000) :
    regDesc a = regDescMb ((a - 0x40000) / 0x4000) ((a - 0x40000) % 0x4000) := by
  unfold regDesc
  iterate 5 rw [if_neg (by omega)]
  rw [if_pos high]

theorem regDesc_msix {a : Nat} (aligned : a % 4 = 0) (low : 0x170000 ≤ a) (high : a < 0x172000) : regDesc a = regDescMsix (a - 0x170000) := by
  unfold regDesc
  iterate 18 rw [if_neg (by omega)]
  rw [if_pos high]

theorem regDesc_port {a : Nat} (aligned : a % 4 = 0) (low : 0x180000 ≤ a) (high : a < 0x1A4000) :
    regDesc a = regDescPort ((a - 0x180000) / 0x2000) ((a - 0x180000) % 0x2000) := by
  unfold regDesc
  iterate 20 rw [if_neg (by omega)]
  rw [if_pos high]

/-- No field of the register is buffered. -/
def unbuffered (o : Option RegDesc) : Bool := o.all (fun d => d.group.isNone)

theorem regDescEvt_unbuffered (o : Nat) : unbuffered (regDescEvt o) = true := by
  unfold regDescEvt
  repeat' split
  all_goals rfl

theorem regDescMb_unbuffered (m o : Nat) : unbuffered (regDescMb m o) = true := by
  unfold regDescMb
  repeat' split
  all_goals rfl

theorem regDescMsix_unbuffered (o : Nat) : unbuffered (regDescMsix o) = true := by
  unfold regDescMsix
  repeat' split
  all_goals rfl

/-- The single registers whose writes do more than store. -/
def actingRegs : List Nat := [0x104, 0x10008, 0x1000C, 0x10100, 0x1010C, 0x10110, 0x10114, 0x100000, 0x100004, 0x30024, 0x100014]

theorem actingRegs_unbuffered : ∀ a ∈ actingRegs, unbuffered (regDesc a) = true := by decide

/-- A write of a buffered register without pulses stores. -/
theorem regEffect_buf {a : Nat} {d : RegDesc} (s : State) (p : Nat) (v : Word) (desc : regDesc a = some d) (buf : d.group.isSome = true)
    (pulse : d.w1s = 0) : regEffect s p a d v = writePlain s p a d v := by
  obtain ⟨aligned, top⟩ := regDesc_below desc
  have no : unbuffered (regDesc a) = false := by
    rw [desc]
    simp only [unbuffered, Option.all_some]
    cases h : d.group with
    | none => simp [h] at buf
    | some g => rfl
  have acts : ∀ b ∈ actingRegs, a ≠ b := fun b hb h => by
    rw [h, actingRegs_unbuffered b hb] at no
    cases no
  have evt : ¬ (0x20000 ≤ a ∧ a < 0x30000) := fun ⟨low, high⟩ => by
    rw [regDesc_evt aligned low high, regDescEvt_unbuffered] at no
    cases no
  have mb : ¬ (0x40000 ≤ a ∧ a < 0x50000) := fun ⟨low, high⟩ => by
    rw [regDesc_mb aligned low high, regDescMb_unbuffered] at no
    cases no
  have msix : ¬ (0x170000 ≤ a ∧ a < 0x172000) := fun ⟨low, high⟩ => by
    rw [regDesc_msix aligned low high, regDescMsix_unbuffered] at no
    cases no
  have port : ¬ (0x180000 ≤ a ∧ a < 0x1C0000 ∧ a % 0x2000 = 8) := fun ⟨low, high, at8⟩ => by
    by_cases in_ : a < 0x1A4000
    · rw [regDesc_port aligned low in_, show (a - 0x180000) % 0x2000 = 8 by omega] at desc
      unfold regDescPort at desc
      rw [if_neg (by decide), if_neg (by decide), if_pos rfl] at desc
      split at desc <;> (obtain rfl := Option.some.inj desc; exact absurd pulse (by decide))
    · unfold regDesc at desc
      iterate 21 rw [if_neg (by omega)] at desc
      rw [if_pos (by omega)] at desc
      cases desc
  unfold regEffect
  iterate 7 rw [if_neg (acts _ (by decide))]
  rw [if_neg (by omega), if_neg (by omega), if_neg mb]
  iterate 4 rw [if_neg (acts _ (by decide))]
  rw [if_neg (by omega), if_neg port]

end Sys2Proof.Machine

namespace Sys2Proof.Claim

open Machine

/-- A refused access changes the access log and its event alone. -/
theorem refusedWrite {i : Instr} {s u : State} {p a c : Nat} (run : exec i s = .next (logAccess u p a c)) (hp : p < 4) (hc : c < 8) : Gives i s (fun v =>
    bit (v.live (0x200 + p * 0x10)) c = true ∧ v.regs.buf = u.regs.buf ∧ v = { u with regs := v.regs, mgmt := v.mgmt, out := v.out }) :=
  gives_of run ⟨logAccess_cause u a hp hc, (logAccess_liveOnly ..).buf, logAccess_frame ..⟩

theorem served_of {u : State} (stage : u.stage.stage ≠ 0) (a : Nat) : blockServed u a = true := by simp [blockServed, stage]

/-- A write through the plain view stores its bytes in the banks above the rings. -/
theorem bankWrite_gives {i : Instr} {s u : State} {p o : Nat} {l : List Byte} (run : exec i s = .next (bankWrite u p o l)) (wf : memWf u.mem = true)
    (room : o + l.length ≤ 0x400000) : Gives i s (fun v => Stored u v o l ∧
      v = { u with now := v.now, mem := v.mem, regs := v.regs, spk := v.spk }) :=
  gives_of run ⟨bankWrite_stores u p o l wf room, bankWrite_frame u p o l⟩

/-- A write that reaches the banks above the rings, in whole words. -/
theorem bankWriteAt_above {u : State} {p a o view : Nat} {l : List Byte} (stage : u.stage.stage ≠ 0) (above : aboveRings o l.length)
    (long : 4 ≤ l.length) (form : (if view = 0 then wholeWords o l.length else (l.length == 4 && o % 4 == 0) || (l.length == 8 && o % 8 == 0)) = true) :
    bankWriteAt u p a o view l .none = bankPut u p o view l .none := by
  obtain ⟨low, high⟩ := above
  unfold bankWriteAt
  dsimp only
  rw [if_neg (by omega), if_neg (by simp [form]), if_neg (by simp [stage, bankReserved]; omega), if_neg (by omega), if_neg (by omega),
    if_neg (by omega)]

/-- One word written through an alias is merged with the word that stood there (R291). -/
theorem bankPut_alias {u : State} {p o view : Nat} {l : List Byte} (alias_ : view ≠ 0) (word4 : l.length = 4) :
    bankPut u p o view l .none = bankWrite u p o (mergeBytes view (memReadAll u.mem o 4) l) := by
  unfold bankPut
  rw [if_neg alias_, if_pos (by omega), word4]
  rfl

theorem memReadAll_length (m : List Host.Cell) (a n : Nat) : (memReadAll m a n).length = n := by
  induction n generalizing a with
  | zero => rfl
  | succ n ih => exact congrArg (· + 1) (ih (a + 1))

theorem registerWrite_runs (s : State) (port : Fin 4) (a : Nat) (l : List Byte) :
    exec (.registerWrite port a l) s = .next (busWriteOp (prePort s port) port a l) := by
  show Host.Outcome.next (if false = true then poisonedWrite (prePort s port) port a else busWriteOp (prePort s port) port a l) = _
  rw [if_neg (by decide)]

theorem registerWrite_poisoned (s : State) (port : Fin 4) (a : Nat) (l : List Byte) :
    exec (.registerWrite port a l true) s = .next (poisonedWrite (prePort s port) port a) := by
  show Host.Outcome.next (if true = true then poisonedWrite (prePort s port) port a else busWriteOp (prePort s port) port a l) = _
  rw [if_pos rfl]

/-- A full write by the owner goes to the buffer of a BUF register. -/
theorem registerWrite_buf {i : Instr} {s u : State} {port : Fin 4} {a : Nat} {d : RegDesc} (v : Word) (run : exec i s = .next (busWriteOp u port a (bytesLE 4 v.toNat)))
    (reach : reachable u port a d) (owner : isOwner u port = true) (buf : d.group.isSome = true) (pulse : d.w1s = 0) : Gives i s (fun w =>
      w.buffer a = (u.buffer a &&& ~~~ d.rw) ||| (v &&& d.rw) ∧ w.live a = u.live a ∧ w = { u with regs := w.regs }) := by
  obtain ⟨up, stage, -, -, desc, lane⟩ := reach
  obtain ⟨right, -, some_⟩ := regDesc_buf desc buf
  have fields : d.rw ||| d.w1c ||| d.w1s ≠ 0 := fun h => some_ (BitVec.or_eq_zero_iff.mp (BitVec.or_eq_zero_iff.mp h).1).1
  rw [busWriteOp_reaches v up (served_of stage a) desc, regWrite4_owner v desc right lane fields owner, regEffect_buf _ _ _ desc buf pulse] at run
  unfold writePlain at run
  rw [if_pos buf] at run
  exact gives_of run ⟨buffer_setBuf_same .., rfl, rfl⟩

/-- A write narrower than a register is dropped and logged. -/
theorem registerWrite_narrow {i : Instr} {s u : State} {port : Fin 4} {a : Nat} {l : List Byte} (run : exec i s = .next (busWriteOp u port a l))
    (up : portUp u port = true) (low : a < 0x400000) (short : l.length < 4) (fits : a % 4 + l.length ≤ 4) : Gives i s (fun v =>
      bit (v.live (0x200 + port * 0x10)) 0 = true ∧ v.regs.buf = u.regs.buf ∧ v = { u with regs := v.regs, mgmt := v.mgmt, out := v.out }) := by
  unfold busWriteOp at run
  rw [if_neg (by simp [up]), if_neg (by omega), if_pos low] at run
  unfold regWriteAt at run
  dsimp only at run
  rw [if_neg (by omega), if_pos ⟨short, fits⟩] at run
  exact refusedWrite run port.isLt (by decide)

theorem regDesc_status {g : Nat} (h : g < 44) : regDesc (0x20000 + 4 * g) = regW1C 0 0xFFFF := by
  have at_ : arr 0 4 44 (4 * g) = some g := by
    unfold arr
    rw [if_pos (by omega)]
    simp
  rw [regDesc_evt (by omega) (by omega) (by omega)]
  unfold regDescEvt
  rw [show 0x20000 + 4 * g - 0x20000 = 4 * g by omega, if_neg (by omega), if_neg (by omega), if_neg (by omega), at_]

/-- A status word of the events stores as any W1C register does. -/
theorem regEffect_status {g : Nat} (s : State) (p : Nat) (d : RegDesc) (v : Word) (h : g < 44) :
    regEffect s p (0x20000 + 4 * g) d v = writePlain s p (0x20000 + 4 * g) d v := by
  have acts : ∀ b ∈ actingRegs, 0x20000 + 4 * g ≠ b := fun b hb => by
    simp only [actingRegs, List.mem_cons, List.not_mem_nil, or_false] at hb
    omega
  unfold regEffect
  iterate 7 rw [if_neg (acts _ (by decide))]
  rw [if_neg (by omega), if_neg (by omega), if_neg (by omega)]
  iterate 4 rw [if_neg (acts _ (by decide))]
  rw [if_neg (by omega), if_neg (by omega)]

/-- A W1C status word clears the bits written 1. -/
theorem registerWrite_status {i : Instr} {s u : State} {port : Fin 4} {g : Nat} (v : Word)
    (run : exec i s = .next (busWriteOp u port (0x20000 + 4 * g) (bytesLE 4 v.toNat))) (owner : ownerAt u port) (low : g < 44)
    (met : metNow u (0x20000 + 4 * g) = none) : Gives i s (fun w =>
      w.live (0x20000 + 4 * g) = u.live (0x20000 + 4 * g) &&& ~~~ (v &&& 0xFFFF#32) ∧ w = { u with regs := w.regs }) := by
  obtain ⟨up, right, stage⟩ := owner
  rw [busWriteOp_reaches v up (served_of stage _) (regDesc_status low), regWrite4_owner v (regDesc_status low) rfl rfl (by decide) right,
    regEffect_status _ _ _ _ low] at run
  generalize hw : ({ u with regs := { u.regs with parityErr := _ } } : State) = w at run
  have live : w.live (0x20000 + 4 * g) = u.live (0x20000 + 4 * g) := by rw [← hw]; rfl
  have met' : metNow w (0x20000 + 4 * g) = none := by rw [← hw]; exact met
  have key : regKey port (0x20000 + 4 * g) = 0x20000 + 4 * g := if_neg (by omega)
  unfold writePlain at run
  dsimp only at run
  rw [if_neg (by decide), if_neg (by decide), key, met', live] at run
  refine gives_of run ⟨?_, by rw [← hw]; rfl⟩
  rw [live_setLive_same]
  simp [word]

/-- A write through view `view` of the banks above the rings. -/
theorem busWriteOp_bank {u : State} {p o : Nat} (view : Nat) {l : List Byte} (up : portUp u p = true) (stage : u.stage.stage ≠ 0)
    (above : aboveRings o l.length) (long : 4 ≤ l.length) (three : view < 3)
    (form : (if view = 0 then wholeWords o l.length else (l.length == 4 && o % 4 == 0) || (l.length == 8 && o % 8 == 0)) = true) :
    busWriteOp u p (0x400000 * (view + 1) + o) l = bankPut u p o view l .none := by
  have high := above.2
  unfold busWriteOp
  rw [if_neg (by simp [up]), if_neg (by omega), if_neg (by omega), show (0x400000 * (view + 1) + o - 0x400000) % 0x400000 = o by omega,
    show (0x400000 * (view + 1) + o - 0x400000) / 0x400000 = view by omega, bankWriteAt_above stage above long form]

/-- Settles O43: full and narrow writes of registers, poisoned writes, W1C status words, and the shared banks through their views. -/
theorem registerWrites : Obligations.RegisterWrites := by
  unfold Obligations.RegisterWrites
  intro s port u
  have write := registerWrite_runs s port
  have poison := registerWrite_poisoned s port
  have set : ∀ a l, exec (.bitSetWrite port a l .none) s = .next (busWriteOp (prePort s port) port a l) := fun _ _ => rfl
  have clear : ∀ a l, exec (.bitClearWrite port a l .none) s = .next (busWriteOp (prePort s port) port a l) := fun _ _ => rfl
  have is : prePort s port = u := rfl
  rw [is] at write poison set clear
  clear_value u
  refine ⟨fun a d value reach => ⟨fun owner buf pulse => registerWrite_buf value (write a _) reach owner buf pulse, fun other right fields => ?_,
      fun right fields => ?_, fun i l one short fits => registerWrite_narrow (write (a + i) l) reach.1 ?_ short ?_⟩, fun a l up => ?_,
    fun g value owner low met => registerWrite_status value (write _ _) owner low met, fun o l up stage wf above => ⟨fun whole => ?_, fun word4 aligned => ?_⟩⟩
  · obtain ⟨up, stage, -, -, desc, -⟩ := reach
    have run := write a (bytesLE 4 value.toNat)
    rw [busWriteOp_reaches value up (served_of stage a) desc, regWrite4_refused value desc right fields other] at run
    exact refusedWrite run port.isLt (by decide)
  · obtain ⟨up, stage, -, -, desc, -⟩ := reach
    have run := write a (bytesLE 4 value.toNat)
    rw [busWriteOp_reaches value up (served_of stage a) desc, regWrite4_readOnly value desc right fields] at run
    exact refusedWrite run port.isLt (by decide)
  · obtain ⟨-, -, -, -, desc, -⟩ := reach
    have := regDesc_below desc
    omega
  · obtain ⟨-, -, aligned, -⟩ := reach
    omega
  · have run := poison a l
    rw [poisonedWrite, if_pos up] at run
    exact refusedWrite run port.isLt (by decide)
  · have four : 4 ≤ l.length := by
      simp only [wholeWords, Bool.and_eq_true, decide_eq_true_eq] at whole
      omega
    have run := write (0x400000 * (0 + 1) + o) l
    rw [busWriteOp_bank 0 up stage above four (by decide) (by simpa using whole)] at run
    exact bankWrite_gives run wf above.2
  · have form : ∀ view, 1 ≤ view → (if view = 0 then wholeWords o l.length else (l.length == 4 && o % 4 == 0) || (l.length == 8 && o % 8 == 0)) = true :=
      fun view h => by rw [if_neg (by omega)]; simp [word4, aligned]
    have room : ∀ view, view ≠ 0 → o + (mergeBytes view (memReadAll u.mem o 4) l).length ≤ 0x400000 := fun view h => by
      have := above.2
      simp [mergeBytes, h, memReadAll_length, word4]
      omega
    have run1 := set (0x400000 * (1 + 1) + o) l
    have run2 := clear (0x400000 * (2 + 1) + o) l
    rw [busWriteOp_bank 1 up stage above (by omega) (by decide) (form 1 (by decide)), bankPut_alias (by decide) word4] at run1
    rw [busWriteOp_bank 2 up stage above (by omega) (by decide) (form 2 (by decide)), bankPut_alias (by decide) word4] at run2
    exact ⟨bankWrite_gives run1 wf (room 1 (by decide)), bankWrite_gives run2 wf (room 2 (by decide))⟩

end Sys2Proof.Claim
end

section
/-! PROOFS. Reads of the registers (O42). -/

namespace Sys2Proof.Machine

/-- A full read of a port that reaches BAR0 is a read of its register. -/
theorem busReadOp_full {s : State} {p a : Nat} {d : RegDesc} (e : RegErr) (up : portUp s p = true) (served : blockServed s a = true)
    (desc : regDesc a = some d) : busReadOp s p a 4 e =
      answerRead (readFull (pwSettle (readErr s a e) a) p a).2 p (bytesLE 4 (readFull (pwSettle (readErr s a e) a) p a).1.toNat) := by
  obtain ⟨aligned, low⟩ := regDesc_below desc
  unfold busReadOp
  rw [if_neg (by simp [up]), if_neg (by omega), if_pos (by omega)]
  unfold regReadAt
  rw [if_neg (by decide), if_neg (by omega), if_pos ⟨rfl, aligned⟩, if_neg (by simp [regThere_of served desc])]

/-- A narrow read answers the bytes it names. -/
theorem busReadOp_narrow {s : State} {p a i n : Nat} {d : RegDesc} (up : portUp s p = true) (served : blockServed s a = true)
    (desc : regDesc a = some d) (lane : d.lane = none) (one : 1 ≤ n) (short : n < 4) (fits : i + n ≤ 4) :
    busReadOp s p (a + i) n .none = answerRead s p (slice (bytesLE 4 (regValue s p a d).toNat) i n) := by
  obtain ⟨aligned, low⟩ := regDesc_below desc
  unfold busReadOp
  rw [if_neg (by simp [up]), if_neg (by omega), if_pos (by omega)]
  unfold regReadAt
  dsimp only
  rw [if_neg (by omega), if_pos (by omega), show (a + i) / 4 * 4 = a by omega, show (a + i) % 4 = i by omega,
    if_neg (by simp [regThere_of served desc])]
  unfold pwSettle
  rw [desc]
  dsimp only [Option.bind]
  rw [lane]
  rfl

/-- A register in no lane has nothing posted to take. -/
theorem pwSettle_none (s : State) {a : Nat} {d : RegDesc} (desc : regDesc a = some d) (lane : d.lane = none) : pwSettle s a = s := by
  unfold pwSettle
  rw [desc]
  dsimp only [Option.bind]
  rw [lane]

/-- What a full read returns, and what it leaves: the fields that it clears. -/
theorem readFull_plain {s : State} {p a : Nat} {d : RegDesc} (desc : regDesc a = some d) (free : freeBits a = 0) (rsh : d.rsh = false)
    (press : a = 0x10007C → s.cache.press = none) :
    readFull s p a = (regValue s p a d, if d.rc ≠ 0 ∧ isOwner s p then readClear s a d.rc else s) := by
  have pressed : (if a = 0x10007C then pressTo s else s) = s := by
    split
    · rename_i h
      unfold pressTo
      rw [press h]
    · rfl
  unfold readFull
  rw [desc]
  dsimp only
  rw [pressed, if_pos free]
  dsimp only
  rw [if_neg (c := d.rsh = true) (by simp [rsh])]

/-- The registers whose reads are free hold no pair, nor does CC_PRESS. -/
theorem rsh_counted {a : Nat} {d : RegDesc} (desc : regDesc a = some d) (rsh : d.rsh = true) : a ≠ 0x10007C ∧ freeBits a = 0 := by
  have not_at : ∀ b, (regDesc b).all (fun d => !d.rsh) = true → a ≠ b := fun b hb h => by
    rw [← h, desc, Option.all_some, rsh] at hb
    cases hb
  refine ⟨not_at _ (by decide), ?_⟩
  have lane : ¬ (0x1C0000 ≤ a ∧ a < 0x1E0000) := fun ⟨low, high⟩ => by
    obtain ⟨aligned, -⟩ := regDesc_below desc
    unfold regDesc at desc
    iterate 22 rw [if_neg (by omega)] at desc
    rw [if_pos high] at desc
    have none_ : ∀ l o, (regDescLane l o).all (fun d => !d.rsh) = true := fun l o => by
      unfold regDescLane
      repeat' split
      all_goals rfl
    have := none_ ((a - 0x1C0000) / 0x100) ((a - 0x1C0000) % 0x100)
    rw [desc, Option.all_some, rsh] at this
    cases this
  unfold freeBits
  rw [if_neg, if_neg (not_at _ (by decide))]
  simp only [freeReg, Bool.or_eq_true, Bool.and_eq_true, beq_iff_eq, decide_eq_true_eq]
  rintro ((h | h) | h)
  · exact not_at 0x150048 (by decide) h
  · exact not_at 0x15004C (by decide) h
  · exact lane h.1

/-- A read of the low word of a pair latches it for the port (R353). -/
theorem readFull_pair {s : State} {p a : Nat} {d : RegDesc} (desc : regDesc a = some d) (rsh : d.rsh = true) :
    readFull s p a = (regValue s p a d, latchPair s p a) := by
  obtain ⟨press, free⟩ := rsh_counted desc rsh
  unfold readFull
  rw [desc]
  dsimp only
  rw [if_neg press, if_pos free]
  dsimp only
  rw [if_pos rsh, if_neg (by simp [regDesc_rsh desc rsh])]

theorem latchPair_spec (s : State) (p a : Nat) : mapGetD (latchPair s p a).regs.shadow (portKey p (a + 4)) 0 = regNow s p (a + 4) ∧
    latchPair s p a = { s with regs := { s.regs with shadow := (latchPair s p a).regs.shadow } } := by
  unfold latchPair
  dsimp only
  split
  · rename_i h
    subst h
    refine ⟨?_, rfl⟩
    show mapGetD (mapSet (mapSet s.regs.shadow _ _) _ _) _ 0 = _
    simp [mapGetD, mapGet_mapSet, portKey]
  · exact ⟨by simp [mapGetD], rfl⟩

/-- A register with a parity error that carries no complement is noted and raises its event (R360). -/
theorem parityAt_spec {s : State} {a : Nat} {d : RegDesc} (desc : regDesc a = some d) (cx : d.cx = 0) (fields : d.rw ≠ 0)
    (fresh : s.regs.parityErr.contains a = false) :
    (parityAt s a).regs.parityErr = s.regs.parityErr ++ [a] ∧
      (parityAt s a).live 0x244 = word (min 0xFFFFFFFF ((s.live 0x244).toNat + 1)) ∧
      bit ((parityAt s a).live (0x20000 + 50 / 16 * 4)) (50 % 16) = true ∧ bit ((parityAt s a).live 0x240) 31 = true ∧
      parityAt s a = { s with regs := (parityAt s a).regs, mgmt := (parityAt s a).mgmt, out := (parityAt s a).out } := by
  obtain ⟨-, low⟩ := regDesc_below desc
  have count := live_bump_same s 0x244 1
  have kept := bump_liveOnly s 0x244 1
  unfold parityAt
  rw [desc]
  dsimp only
  rw [if_neg (fun reason => reason.elim (fun other => other cx) (fun none => fields none))]
  have frame : s.bump 0x244 = { s with regs := (s.bump 0x244).regs } := by apply State.same_fields <;> simp
  generalize s.bump 0x244 = b at count kept frame ⊢
  generalize hw : (if bit (b.live 0x240) 31 = true then b else b.setLive 0x240 (word (0x80000000 + a % 0x1000000)) : State) = w
  have logged : bit (w.live 0x240) 31 = true ∧ w.live 0x244 = b.live 0x244 ∧ LiveOnly b.regs w.regs ∧ w = { b with regs := w.regs } := by
    rw [← hw]
    split
    · rename_i h
      exact ⟨h, rfl, LiveOnly.refl _, rfl⟩
    · refine ⟨?_, live_setLive_ne _ _ _ _ (by decide), rfl, rfl⟩
      rw [live_setLive_same, bit_word, Nat.mod_eq_of_lt (by omega), show (0x80000000 : Nat) = 2 ^ 31 from rfl, Nat.testBit_two_pow_add_eq]
      simp
      rw [Nat.testBit_lt_two_pow (by omega)]
  obtain ⟨bit31, same, only, frame2⟩ := logged
  have errs : w.regs.parityErr = s.regs.parityErr := by rw [only, kept]
  rw [if_neg (by rw [errs, fresh]; decide), errs]
  generalize hx : ({ w with regs := { w.regs with parityErr := s.regs.parityErr ++ [a] } } : State) = x
  have after := raise_liveOnly x evCfgParity a 0 0
  have live : ∀ q, x.live q = w.live q := fun q => by rw [← hx]; rfl
  refine ⟨by rw [after, ← hx], ?_, raise_flags x evCfgParity a 0 0 (by decide), ?_, ?_⟩
  · rw [live_raise _ _ _ _ _ _ (by decide) (by decide), live, same, count]
  · rw [live_raise _ _ _ _ _ _ (by decide) (by decide), live, bit31]
  · apply State.same_fields <;> simp <;> rw [← hx, frame2, frame]

end Sys2Proof.Machine

namespace Sys2Proof.Claim

open Machine

/-- A full read without fields to clear answers the value and changes nothing else. -/
theorem fullRead_gives {i : Instr} {s u : State} {p : Fin 4} {a : Nat} {d : RegDesc} (run : exec i s = .next (busReadOp u p a 4 .none))
    (reach : reachable u p a d) (free : freeBits a = 0) (rsh : d.rsh = false) (press : a = 0x10007C → u.cache.press = none)
    (keeps : d.rc = 0 ∨ isOwner u p = false) : Gives i s (fun v => v = { u with out := u.out ++ [readsAs u p a d] }) := by
  obtain ⟨up, stage, -, -, desc, lane⟩ := reach
  rw [busReadOp_full .none up (served_of stage a) desc] at run
  change exec i s = .next (answerRead (readFull (pwSettle u a) p a).2 p (bytesLE 4 (readFull (pwSettle u a) p a).1.toNat)) at run
  rw [pwSettle_none u desc lane, readFull_plain desc free rsh press] at run
  dsimp only at run
  rw [if_neg (by rcases keeps with h | h <;> simp [h])] at run
  exact gives_of run rfl

/-- A full read that meets a parity error notes it. -/
theorem parityRead_gives {i : Instr} {s u : State} {p : Fin 4} {a : Nat} {d : RegDesc} (run : exec i s = .next (busReadOp u p a 4 .parity))
    (reach : reachable u p a d) (free : freeBits a = 0) (rsh : d.rsh = false) (press : a = 0x10007C → u.cache.press = none) (rc : d.rc = 0)
    (cx : d.cx = 0) (fields : d.rw ≠ 0) (fresh : u.regs.parityErr.contains a = false) : Gives i s (fun v =>
      v.regs.parityErr = u.regs.parityErr ++ [a] ∧ Counts u v 0x244 ∧ Flagged v evCfgParity ∧ bit (v.live 0x240) 31 = true ∧
      v = { u with regs := v.regs, mgmt := v.mgmt, out := v.out }) := by
  obtain ⟨up, stage, -, -, desc, lane⟩ := reach
  obtain ⟨errs, count, flag, bit31, frame⟩ := parityAt_spec desc cx fields fresh
  rw [busReadOp_full .parity up (served_of stage a) desc] at run
  change exec i s = .next (answerRead (readFull (pwSettle (parityAt u a) a) p a).2 p (bytesLE 4 (readFull (pwSettle (parityAt u a) a) p a).1.toNat)) at run
  generalize parityAt u a = w at run errs count flag bit31 frame
  rw [pwSettle_none w desc lane, readFull_plain desc free rsh (fun h => by rw [frame]; exact press h)] at run
  dsimp only at run
  rw [if_neg (by simp [rc])] at run
  exact gives_of run ⟨errs, count, flag, bit31, by rw [frame]; rfl⟩

/-- The owner's full read clears the RC fields. -/
theorem clearRead_gives {i : Instr} {s u : State} {p : Fin 4} {a : Nat} {d : RegDesc} (run : exec i s = .next (busReadOp u p a 4 .none))
    (reach : reachable u p a d) (free : freeBits a = 0) (rsh : d.rsh = false) (press : a = 0x10007C → u.cache.press = none) (rc : d.rc ≠ 0)
    (owner : isOwner u p = true) (met : metNow u a = none) : Gives i s (fun v => v.live a = u.live a &&& ~~~ d.rc ∧
      v = { u with regs := v.regs, out := u.out ++ [readsAs u p a d] }) := by
  obtain ⟨up, stage, -, -, desc, lane⟩ := reach
  rw [busReadOp_full .none up (served_of stage a) desc] at run
  change exec i s = .next (answerRead (readFull (pwSettle u a) p a).2 p (bytesLE 4 (readFull (pwSettle u a) p a).1.toNat)) at run
  rw [pwSettle_none u desc lane, readFull_plain desc free rsh press] at run
  dsimp only at run
  rw [if_pos ⟨rc, owner⟩] at run
  unfold readClear at run
  rw [met] at run
  exact gives_of run ⟨live_setLive_same .., rfl⟩

/-- Settles O42: full and narrow reads, parity errors, cleared fields, latched pairs, and reserved locations. -/
theorem registerReads : Obligations.RegisterReads := by
  unfold Obligations.RegisterReads
  intro s port a u
  have read : ∀ b n e, exec (.registerRead port b n e) s = .next (busReadOp u port b n e) := fun _ _ _ => rfl
  have rcRead : exec (.rcRead port a) s = .next (busReadOp u port a 4 .none) := rfl
  have rshRead : exec (.rshLatchRead port a false) s = .next (busReadOp u port a 4 .none) := rfl
  clear_value u
  refine ⟨fun d reach free rsh press => ⟨fun rc => ⟨fullRead_gives (read a 4 .none) reach free rsh press (.inl rc),
      fun cx fields fresh => parityRead_gives (read a 4 .parity) reach free rsh press rc cx fields fresh⟩, fun i n one short fits => ?_,
      fun rc owner met => clearRead_gives rcRead reach free rsh press rc owner met,
      fun rc other => fullRead_gives rcRead reach free rsh press (.inr other)⟩, fun d reach rsh => ?_, fun up stage aligned low none_ => ?_⟩
  · obtain ⟨up, stage, -, -, desc, lane⟩ := reach
    have run := read (a + i) n .none
    rw [busReadOp_narrow up (served_of stage a) desc lane one short fits] at run
    exact gives_of run rfl
  · obtain ⟨up, stage, -, -, desc, lane⟩ := reach
    rw [busReadOp_full .none up (served_of stage a) desc] at rshRead
    change exec _ s = .next (answerRead (readFull (pwSettle u a) port a).2 port (bytesLE 4 (readFull (pwSettle u a) port a).1.toNat)) at rshRead
    rw [pwSettle_none u desc lane, readFull_pair desc rsh] at rshRead
    obtain ⟨latched, frame⟩ := latchPair_spec u port a
    refine gives_of rshRead ⟨latched, ?_⟩
    show emit _ (latchPair u port a) = _
    rw [frame]
    rfl
  · have run := read a 4 .none
    unfold busReadOp at run
    rw [if_neg (by simp [up]), if_neg (by omega), if_pos low] at run
    unfold regReadAt at run
    dsimp only at run
    rw [if_neg (by decide), if_neg (by omega), if_pos ⟨rfl, aligned⟩, if_pos (by simp [regThere, none_])] at run
    have cause := logAccess_cause u a port.isLt (c := acReserved) (by decide)
    have frame := logAccess_frame u port a acReserved
    unfold rejectRead emit at run
    generalize logAccess u port a acReserved = w at run cause frame
    exact gives_of run ⟨cause, by simp, by rw [frame]⟩

end Sys2Proof.Claim
end

section
/-! PROOFS. Writes of registers that act: EPOCH_SET_HI, the indices of the rings, STG_CTRL, HP_CTRL and the lanes (O5, O20, O44). -/

namespace Sys2Proof.Machine

/-- A write by a port with the right, of a register in no lane, takes effect. -/
theorem regWrite4_effect {s : State} {p a : Nat} {d : RegDesc} (v : Word) (desc : regDesc a = some d) (own : isForeign p d.right = false)
    (may : mayWrite s p d.right = true) (lane : d.lane = none) (fields : d.rw ||| d.w1c ||| d.w1s ≠ 0) : regWrite4 s p a v =
      regEffect { s with regs := { s.regs with parityErr := s.regs.parityErr.filter (fun b => b != a) } } p a d v := by
  unfold regWrite4
  rw [desc]
  dsimp only
  rw [if_neg (by simp [own]), if_neg fields, if_neg (by simp [may]), lane]

theorem regDescMb_index {m o : Nat} (h : o = 0 ∨ o = 8 ∨ o = 0x14) : regDescMb m o = some { rw := 0xFFFF, right := .mailbox m } := by
  unfold regDescMb
  rw [if_pos h]

/-- The indices of mailbox `m` that its port writes. -/
theorem regDesc_index {m o : Nat} (hm : m < 4) (h : o = 0 ∨ o = 8 ∨ o = 0x14) : regDesc (mbAddr m o) = some { rw := 0xFFFF, right := .mailbox m } := by
  unfold mbAddr
  rw [regDesc_mb (by omega) (by omega) (by omega), show (0x40000 + m * 0x4000 + o - 0x40000) / 0x4000 = m by omega,
    show (0x40000 + m * 0x4000 + o - 0x40000) % 0x4000 = o by omega, regDescMb_index h]

/-- The control register of port `p`. -/
def hpCtrlDesc (p : Nat) : RegDesc :=
  if p < 16 then { reset := 0x98, rw := 0xF8, w1s := 3, group := some 14 } else { reset := 0xF98, rw := 0xFF8, w1s := 3, group := some 14 }

theorem regDesc_hpCtrl {p : Nat} (h : p < 18) : regDesc (hpAddr p 8) = some (hpCtrlDesc p) := by
  unfold hpAddr
  rw [regDesc_port (by omega) (by omega) (by omega), show (0x180000 + p * 0x2000 + 8 - 0x180000) / 0x2000 = p by omega,
    show (0x180000 + p * 0x2000 + 8 - 0x180000) % 0x2000 = 8 by omega]
  unfold regDescPort hpCtrlDesc
  rw [if_neg (by decide), if_neg (by decide), if_pos rfl]
  split <;> rfl

theorem hpCtrlDesc_spec (p : Nat) : (hpCtrlDesc p).right = .owner ∧ (hpCtrlDesc p).lane = none ∧ (hpCtrlDesc p).group = some 14 ∧
    (hpCtrlDesc p).rw ||| (hpCtrlDesc p).w1c ||| (hpCtrlDesc p).w1s ≠ 0 := by
  unfold hpCtrlDesc
  split <;> decide

/-- A write of the control register stores its fields, and retrains or widens its port. -/
theorem regEffect_hpCtrl (s : State) (p q : Nat) (v : Word) (h : q < 18) : regEffect s p (hpAddr q 8) (hpCtrlDesc q) v =
    (if bit v 1 then widenStart (if bit v 0 then retrain (writePlain s p (hpAddr q 8) (hpCtrlDesc q) v) q else writePlain s p (hpAddr q 8) (hpCtrlDesc q) v) q
      else if bit v 0 then retrain (writePlain s p (hpAddr q 8) (hpCtrlDesc q) v) q else writePlain s p (hpAddr q 8) (hpCtrlDesc q) v) := by
  have acts : ∀ b ∈ actingRegs, hpAddr q 8 ≠ b := fun b hb => by
    simp only [actingRegs, List.mem_cons, List.not_mem_nil, or_false] at hb
    unfold hpAddr
    omega
  have at_ : 0x180000 ≤ hpAddr q 8 ∧ hpAddr q 8 < 0x1C0000 ∧ hpAddr q 8 % 0x2000 = 8 := by unfold hpAddr; omega
  have port : (hpAddr q 8 - 0x180000) / 0x2000 = q := by unfold hpAddr; omega
  unfold regEffect
  iterate 7 rw [if_neg (acts _ (by decide))]
  rw [if_neg (by omega), if_neg (by omega), if_neg (by omega)]
  iterate 4 rw [if_neg (acts _ (by decide))]
  rw [if_neg (by omega), if_pos at_, port]

theorem mbErr_frame (s : State) (m b : Nat) : mbErr s m b = { s with regs := (mbErr s m b).regs, out := (mbErr s m b).out } := by
  unfold mbErr
  rw [sendMsix_frame]
  apply State.same_fields <;> simp

theorem evReg_mbAddr {m o : Nat} (hm : m < 4) (ho : o < 0x4000) : evReg (mbAddr m o) = false := by
  simp only [evReg, mbAddr, Bool.or_eq_false_iff, Bool.and_eq_false_iff]
  exact ⟨.inr (decide_eq_false (by omega)), .inl (decide_eq_false (by omega))⟩

/-- A bit of MB_ERR is set, and stays through the vector it raises. -/
theorem mbErr_bit (s : State) {m b : Nat} (hm : m < 4) (hb : b < 4) : bit ((mbErr s m b).live (mbAddr m 0x20)) b = true := by
  unfold mbErr
  rw [live_sendMsix _ _ _ _ (evReg_mbAddr hm (by decide)) (by decide), live_setBits_same, bit_or, bit_word, Nat.testBit_two_pow_self]
  simp
  omega

theorem markRings_spec (s : State) {m : Nat} (h : m < s.mbox.length) : markRings s m = { s with mbox := (markRings s m).mbox } ∧
    (markRings s m).box m = { s.box m with waits := ((markRings s m).box m).waits } := by
  refine ⟨rfl, ?_⟩
  unfold markRings
  rw [box_modBox_same _ h]

/-- A write of an index register acts on its mailbox. -/
theorem regEffect_index (s : State) (p : Nat) {m o : Nat} (d : RegDesc) (v : Word) (hm : m < 4) (h : o = 0 ∨ o = 8 ∨ o = 0x14) :
    regEffect s p (mbAddr m o) d v =
      if o = 0 then doDoorbell s m 0 (fld v 15 0) else if o = 8 then doDoorbell s m 1 (fld v 15 0) else doCplHead s m (fld v 15 0) := by
  have acts : ∀ b ∈ actingRegs, mbAddr m o ≠ b := fun b hb => by
    simp only [actingRegs, List.mem_cons, List.not_mem_nil, or_false] at hb
    unfold mbAddr
    omega
  have place : mbAddr m o % 0x4000 = o ∧ (mbAddr m o - 0x40000) / 0x4000 = m ∧ 0x40000 ≤ mbAddr m o ∧ mbAddr m o < 0x50000 := by
    unfold mbAddr
    omega
  obtain ⟨off, number, low, high⟩ := place
  unfold regEffect
  iterate 7 rw [if_neg (acts _ (by decide))]
  rw [if_neg (by omega), if_neg (by omega), if_pos ⟨low, high⟩, off, number]
  rcases h with rfl | rfl | rfl <;> rfl

end Sys2Proof.Machine

namespace Sys2Proof.Claim

open Machine

/-! ### EPOCH_SET_HI and beacons -/

theorem regDesc_armed : regDesc 0x30024 = some { rw := 0xFFFF, w1s := 0x80000000 } := rfl

theorem armWrite_gives {i : Instr} {s u : State} {port : Fin 4} {value : Word} (run : exec i s = .next (busWrite4 u port 0x30024 value))
    (up : portUp u port = true) : (isOwner u port = true → Gives i s (fun v => fld (v.live 0x30024) 15 0 = fld value 15 0 ∧
        bit (v.live 0x30024) 31 = (bit (u.live 0x30024) 31 || bit value 31) ∧ v = { u with regs := v.regs })) ∧
      (isOwner u port = false → Gives i s (fun v => v.live 0x30024 = u.live 0x30024 ∧
        bit (v.live (0x200 + port * 0x10)) 5 = true ∧ v = { u with regs := v.regs, mgmt := v.mgmt, out := v.out })) := by
  unfold busWrite4 at run
  rw [busWriteOp_reaches value up (by simp [blockServed]) regDesc_armed] at run
  refine ⟨fun owner => ?_, fun other => ?_⟩
  · rw [regWrite4_owner value regDesc_armed rfl rfl (by decide) owner] at run
    generalize hw : ({ u with regs := { u.regs with parityErr := _ } } : State) = w at run
    have live : w.live 0x30024 = u.live 0x30024 := by rw [← hw]; rfl
    unfold regEffect at run
    iterate 7 rw [if_neg (by decide)] at run
    rw [if_neg (by decide), if_neg (by decide), if_neg (by decide), if_neg (by decide), if_neg (by decide), if_pos rfl] at run
    generalize hx : (if (bit value 31 && bit (w.live 0x30024) 31) = true then softWrite w 0x30024 else w : State) = x at run
    have kept : x.live 0x30024 = u.live 0x30024 ∧ x = { u with regs := x.regs } := by
      rw [← hx]
      split
      · exact ⟨live, by rw [← hw]; rfl⟩
      · exact ⟨live, by rw [← hw]⟩
    unfold writePlain at run
    dsimp only at run
    rw [if_neg (by decide), if_pos rfl, show regKey port 0x30024 = 0x30024 from rfl, kept.1] at run
    refine gives_of run ⟨?_, ?_, by rw [kept.2]; rfl⟩
    · rw [live_setLive_same]
      have zeros : ∀ k < 16, bit 0xFFFF0000#32 k = false := by decide
      have ones : ∀ k < 16, bit 0x8000FFFF#32 k = true := by decide
      refine fld_eq_of_bits fun k _ hk => ?_
      have kept : bit 0xFFFF0000#32 k = false := zeros k (by omega)
      have written : bit 0x8000FFFF#32 k = true := ones k (by omega)
      simp [kept, written]
    · rw [live_setLive_same]
      simp [show bit 0xFFFF0000#32 31 = true from rfl, show bit 0x8000FFFF#32 31 = true from rfl]
  · rw [regWrite4_refused value regDesc_armed rfl (by decide) other] at run
    have hp := port.isLt
    exact gives_of run ⟨logAccess_live u (by decide) (by omega) (by omega) (by omega), logAccess_cause u _ hp (by decide), logAccess_frame ..⟩

/-- Settles O5: a beacon by the port that EPOCH_SRC names, and the write of EPOCH_SET_HI by the rights of its port. -/
theorem beaconAndSetWaitForTheStep : Obligations.BeaconAndSetWaitForTheStep := by
  unfold Obligations.BeaconAndSetWaitForTheStep
  intro s u
  have is : pre s = u := rfl
  clear_value u
  have hear : ∀ port f, exec (.beacon port f) s = .next (beaconIn u port f) := by subst is; exact fun _ _ => rfl
  refine ⟨fun port f up type => ⟨fun on src good => ?_, fun off => ?_⟩, fun port value => ?_⟩
  · have run := hear port f
    have far : ∀ a, a < 0x180000 → a ≠ hpAddr port 0x40 := fun a h => (hpAddr_ne port 0x40 a h).symm
    unfold beaconIn at run
    dsimp only at run
    rw [if_neg (by simp [up, type]), if_neg (by simp [on, src]), if_neg (by simp [good])] at run
    refine gives_of run ⟨by simp, ?_, ?_, ?_, ?_⟩
    · rw [live_bump_ne _ _ _ _ (far _ (by decide)), live_setLive_ne _ _ _ _ (by decide), live_setLive_same]
    · rw [live_bump_ne _ _ _ _ (far _ (by decide)), live_setLive_same]
    · refine (counts_bump _ _).of_live ?_ rfl
      rw [live_setLive_ne _ _ _ _ (far _ (by decide)).symm, live_setLive_ne _ _ _ _ (far _ (by decide)).symm]
      rfl
    · apply State.same_fields <;> simp
  · have run := hear port f
    unfold beaconIn at run
    dsimp only at run
    rw [if_neg (by simp [up, type]), if_pos (by rcases off with h | h <;> simp [h])] at run
    exact gives_of run ⟨counts_bump u _, by apply State.same_fields <;> simp⟩
  · intro u up
    exact armWrite_gives (i := .arm port value) (s := s) rfl up

/-! ### The indices of the rings -/

/-- A write of an index of its own mailbox acts. -/
theorem indexWrite_own {u : State} {mb : Fin 4} {o : Nat} (v : Word) (up : portUp u mb = true) (stage : u.stage.stage ≠ 0)
    (h : o = 0 ∨ o = 8 ∨ o = 0x14) : ∃ w : State, busWrite4 u mb (mbAddr mb o) v =
      (if o = 0 then doDoorbell w mb 0 (fld v 15 0) else if o = 8 then doDoorbell w mb 1 (fld v 15 0) else doCplHead w mb (fld v 15 0)) ∧
      w = { u with regs := w.regs } := by
  have desc := regDesc_index mb.isLt h
  unfold busWrite4
  rw [busWriteOp_reaches v up (served_of stage _) desc, regWrite4_effect v desc (by simp [isForeign]) (by simp [mayWrite]) rfl
      (show (0xFFFF#32 ||| 0#32 ||| 0#32) ≠ 0 by decide), regEffect_index _ _ _ _ mb.isLt h]
  exact ⟨_, rfl, rfl⟩

/-- A write of an index of another mailbox is dropped, and both logs tell of it. -/
theorem indexWrite_foreign {i : Instr} {s u : State} {port mb : Fin 4} {o : Nat} {v : Word} (run : exec i s = .next (busWrite4 u port (mbAddr mb o) v))
    (other : port ≠ mb) (up : portUp u port = true) (stage : u.stage.stage ≠ 0) (h : o = 0 ∨ o = 8 ∨ o = 0x14) : Gives i s (fun w =>
      bit (w.live (mbAddr mb 0x20)) 3 = true ∧ bit (w.live (0x200 + port * 0x10)) 6 = true ∧
      w = { u with regs := w.regs, mgmt := w.mgmt, out := w.out }) := by
  have desc := regDesc_index mb.isLt h
  have apart : mb.val ≠ port.val := fun e => other (Fin.ext e.symm)
  have hp := port.isLt
  have hm := mb.isLt
  unfold busWrite4 at run
  rw [busWriteOp_reaches v up (served_of stage _) desc] at run
  unfold regWrite4 at run
  rw [desc] at run
  dsimp only at run
  rw [if_pos (by simp [isForeign, apart])] at run
  change exec i s = .next (logAccess (mbErr u mb 3) port (mbAddr mb o) acForeign) at run
  refine gives_of run ⟨?_, logAccess_cause _ _ hp (by decide), ?_⟩
  · rw [logAccess_live _ (evReg_mbAddr hm (by decide)) (by unfold mbAddr; omega) (by unfold mbAddr; omega) (by unfold mbAddr; omega)]
    exact mbErr_bit u hm (by decide)
  · rw [logAccess_frame, mbErr_frame]

/-- A write beyond the ring sets its bit of MB_ERR and raises its event. -/
theorem badIndex_gives {i : Instr} {s u w : State} {mb : Fin 4} {b x y z : Nat} {e : Ev} (run : exec i s = .next ((mbErr w mb b).raise e x y z))
    (frame : w = { u with regs := w.regs }) (hb : b < 4) (src : e.src < 704) : Gives i s (fun v =>
      bit (v.live (mbAddr mb 0x20)) b = true ∧ Flagged v e ∧ v = { u with regs := v.regs, mgmt := v.mgmt, out := v.out }) := by
  refine gives_of run ⟨?_, flagged_raise _ _ _ _ _ src, ?_⟩
  · rw [live_raise _ _ _ _ _ _ (evReg_mbAddr mb.isLt (by decide)) src]
    exact mbErr_bit w mb.isLt hb
  · have same : mbErr w mb b = { u with regs := (mbErr w mb b).regs, out := (mbErr w mb b).out } := by rw [mbErr_frame, frame]
    generalize mbErr w mb b = x at same ⊢
    apply State.same_fields <;> simp <;> rw [same]

/-- A doorbell within 64 of the old tail and of the head sets the tail. -/
theorem doDoorbell_taken {i : Instr} {s u w : State} {mb : Fin 4} {r t : Nat} (run : exec i s = .next (doDoorbell w mb r t))
    (frame : w = { u with regs := w.regs }) (room : mb < u.mbox.length) (ring : r < (u.box mb).tail.length)
    (tail : (t + 65536 - natAt (u.box mb).tail r) % 65536 ≤ 64) (head : (t + 65536 - natAt (u.box mb).head r) % 65536 ≤ 64) : Gives i s (fun v =>
      natAt (v.box mb).tail r = t ∧ v = { u with mbox := v.mbox, regs := v.regs }) := by
  have box : w.box mb = u.box mb := by rw [frame]; rfl
  have room' : mb < w.mbox.length := by rw [frame]; exact room
  unfold doDoorbell at run
  dsimp only at run
  rw [box, if_pos ⟨tail, head⟩] at run
  have set := box_modBox_same (fun b => { b with tail := b.tail.set r t }) room'
  rw [box] at set
  have fit : mb < (w.modBox mb (fun b => { b with tail := b.tail.set r t })).mbox.length := by simpa [State.modBox] using room'
  have same : w.modBox mb (fun b => { b with tail := b.tail.set r t }) = { w with mbox := (w.modBox mb (fun b => { b with tail := b.tail.set r t })).mbox } := rfl
  generalize w.modBox mb (fun b => { b with tail := b.tail.set r t }) = x at run set fit same
  obtain ⟨frame2, kept⟩ := markRings_spec x fit
  refine gives_of run ⟨?_, by rw [frame2, same, frame]⟩
  rw [kept, set]
  simp [natAt, List.getD_eq_getElem?_getD, ring]

/-- A head within the posted records is taken. -/
theorem doCplHead_taken {i : Instr} {s u w : State} {mb : Fin 4} {h : Nat} (run : exec i s = .next (doCplHead w mb h))
    (frame : w = { u with regs := w.regs }) (room : mb < u.mbox.length)
    (in_ : (h + 65536 - (u.box mb).cplHead) % 65536 ≤ ((u.box mb).cplTail + 65536 - (u.box mb).cplHead) % 65536) : Gives i s (fun v =>
      (v.box mb).cplHead = h ∧ v = { u with mbox := v.mbox, regs := v.regs }) := by
  have box : w.box mb = u.box mb := by rw [frame]; rfl
  have room' : mb < w.mbox.length := by rw [frame]; exact room
  unfold doCplHead at run
  dsimp only at run
  rw [box, if_pos in_] at run
  have set := box_modBox_same (fun b => { b with cplHead := h }) room'
  have fit : mb < (w.modBox mb (fun b => { b with cplHead := h })).mbox.length := by simpa [State.modBox] using room'
  have same : w.modBox mb (fun b => { b with cplHead := h }) = { w with mbox := (w.modBox mb (fun b => { b with cplHead := h })).mbox } := rfl
  generalize w.modBox mb (fun b => { b with cplHead := h }) = x at run set fit same
  obtain ⟨frame2, kept⟩ := markRings_spec x fit
  exact gives_of run ⟨by rw [kept, set], by rw [frame2, same, frame]⟩

/-- A doorbell of its own mailbox is a doorbell on its ring. -/
theorem doorbell_runs {u : State} {mb : Fin 4} (ring : Fin 2) (v : Word) (up : portUp u mb = true) (stage : u.stage.stage ≠ 0) :
    ∃ w : State, busWrite4 u mb (mbAddr mb (8 * ring)) v = doDoorbell w mb ring (fld v 15 0) ∧ w = { u with regs := w.regs } := by
  obtain ⟨w, run, frame⟩ := indexWrite_own v up stage (o := 8 * ring) (by have := ring.isLt; omega)
  refine ⟨w, run.trans ?_, frame⟩
  rcases (by have := ring.isLt; omega : ring.val = 0 ∨ ring.val = 1) with h | h
  · rw [h]; rfl
  · rw [h]; rfl

/-- Settles O20: the indices that software moves, within their rings and beyond, and those of another port. -/
theorem ringIndicesAreChecked : Obligations.RingIndicesAreChecked := by
  unfold Obligations.RingIndicesAreChecked
  refine ⟨fun s mb value => ?_, fun s port mb ring value => ?_⟩
  · intro u up stage room
    have bell : ∀ ring, exec (.doorbell mb mb ring value) s = .next (busWrite4 u mb (mbAddr mb (8 * ring)) value) := fun _ => rfl
    have head : exec (.mbCplHeadWrite mb mb value) s = .next (busWrite4 u mb (mbAddr mb 0x14) value) := rfl
    clear_value u
    obtain ⟨x, headIs, frameX⟩ := indexWrite_own value up stage (o := 0x14) (by decide)
    rw [headIs, if_neg (by decide), if_neg (by decide)] at head
    have box : x.box mb = u.box mb := by rw [frameX]; rfl
    refine ⟨fun ring fits => ⟨fun tail near => ?_, fun far => ?_⟩, fun in_ => doCplHead_taken head frameX room in_, fun out => ?_⟩
    · obtain ⟨w, is, frame⟩ := doorbell_runs ring value up stage
      have run := bell ring
      rw [is] at run
      exact doDoorbell_taken run frame room fits tail near
    · obtain ⟨w, is, frame⟩ := doorbell_runs ring value up stage
      have run := bell ring
      have same : w.box mb = u.box mb := by rw [frame]; rfl
      rw [is] at run
      unfold doDoorbell at run
      dsimp only at run
      rw [same, if_neg (fun h => Nat.not_le.mpr far h.1)] at run
      exact badIndex_gives run frame (by decide) (by decide)
    · unfold doCplHead at head
      dsimp only at head
      rw [box, if_neg (Nat.not_le.mpr out)] at head
      exact badIndex_gives head frameX (by decide) (by decide)
  · intro u other up stage
    have bell : exec (.doorbell port mb ring value) s = .next (busWrite4 u port (mbAddr mb (8 * ring)) value) := rfl
    have head : exec (.mbCplHeadWrite port mb value) s = .next (busWrite4 u port (mbAddr mb 0x14) value) := rfl
    clear_value u
    exact ⟨indexWrite_foreign bell other up stage (by have := ring.isLt; omega), indexWrite_foreign head other up stage (by decide)⟩

/-! ### STG_CTRL, HP_CTRL and the lanes -/

/-- STG_CTRL.RESET starts a flush (R375). -/
theorem resetWrite_gives {i : Instr} {s u : State} {port : Fin 4} {value : Word} (run : exec i s = .next (busWrite4 u port 0x104 value))
    (up : portUp u port = true) (owner : isOwner u port = true) (good : u.power.pwrGood = true) (calm : u.power.flush = none) :
    (bit value 0 = true → Gives i s (fun v => v = { u with regs := v.regs, power := { u.power with flush := some .soft } })) ∧
      (bit value 0 = false → Gives i s (fun v => v = { u with regs := v.regs })) := by
  have desc : regDesc 0x104 = some { w1s := 1 } := rfl
  unfold busWrite4 at run
  rw [busWriteOp_reaches value up (by simp [blockServed]) desc, regWrite4_owner value desc rfl rfl (by decide) owner] at run
  generalize hw : ({ u with regs := { u.regs with parityErr := _ } } : State) = w at run
  unfold regEffect at run
  rw [if_pos rfl] at run
  refine ⟨fun on => ?_, fun off => ?_⟩
  · rw [if_pos on] at run
    have power : w.power = u.power := by rw [← hw]
    unfold startFlush at run
    rw [power, if_neg (by simp [good]), calm] at run
    exact gives_of run (by rw [← hw])
  · rw [if_neg (by simp [off])] at run
    exact gives_of run (by rw [← hw])

/-- A write of the control register of port `link` stores its fields first. -/
theorem hpCtrlWrite {u : State} {port : Fin 4} {link : Fin 18} (value : Word) (up : portUp u port = true) (owner : isOwner u port = true)
    (stage : u.stage.stage ≠ 0) : ∃ w : State, w = { u with regs := w.regs } ∧ (∀ a, w.live a = u.live a) ∧
      busWrite4 u port (hpAddr link 8) value =
        (if bit value 1 then widenStart (if bit value 0 then retrain w link else w) link else if bit value 0 then retrain w link else w) := by
  have desc := regDesc_hpCtrl link.isLt
  obtain ⟨right, lane, group, fields⟩ := hpCtrlDesc_spec link
  unfold busWrite4
  rw [busWriteOp_reaches value up (served_of stage _) desc, regWrite4_owner value desc right lane fields owner, regEffect_hpCtrl _ _ _ _ link.isLt]
  refine ⟨_, ?_, fun a => ?_, rfl⟩
  · unfold writePlain
    rw [if_pos (by rw [group]; rfl)]
    rfl
  · unfold writePlain
    rw [if_pos (by rw [group]; rfl)]
    rfl

theorem retrainWrite_gives {i : Instr} {s u : State} {port : Fin 4} {link : Fin 18} {value : Word}
    (run : exec i s = .next (busWrite4 u port (hpAddr link 8) value)) (up : portUp u port = true) (owner : isOwner u port = true)
    (stage : u.stage.stage ≠ 0) (on : bit value 0 = true) (room : link < u.links.length) : Gives i s (fun v =>
      (v.link link).st = (if bit (u.live (hpAddr link 8)) 7 then 1 else 0) ∧ (v.link link).width = 0 ∧
      (∀ q : Nat, q ≠ link → v.link q = u.link q) ∧ OnlyLinks u v) := by
  obtain ⟨w, frame, live, is⟩ := hpCtrlWrite (link := link) value up owner stage
  have links : ∀ q, w.link q = u.link q := link_of_links (by rw [frame])
  obtain ⟨others, only, -, this⟩ := retrain_keeps w link link.isLt (by rw [frame]; exact room)
  rw [is, if_pos on] at run
  rw [live] at this
  have down : linkUp ((retrain w link).link link) = false := by
    rw [this]
    unfold linkUp
    dsimp only
    split <;> rfl
  have same : (if bit value 1 = true then widenStart (retrain w link) link else retrain w link : State) = retrain w link := by
    split
    · unfold widenStart
      rw [if_neg (by simp [down])]
    · rfl
  rw [same] at run
  refine gives_of run ⟨by rw [this], by rw [this]; rfl, fun q hq => by rw [others q hq, links], ?_⟩
  unfold OnlyLinks at only ⊢
  rw [only, frame]

theorem widenWrite_gives {i : Instr} {s u : State} {port : Fin 4} {link : Fin 18} {value : Word}
    (run : exec i s = .next (busWrite4 u port (hpAddr link 8) value)) (up : portUp u port = true) (owner : isOwner u port = true)
    (stage : u.stage.stage ≠ 0) (off : bit value 0 = false) (on : bit value 1 = true) (running : linkUp (u.link link) = true) : Gives i s (fun v =>
      (v.link link).widen = true ∧ (v.link link).width = (u.link link).width ∧ (∃ fl : List Flit, v.out = u.out ++ [.frame link u.now fl]) ∧
      (∀ q : Nat, q ≠ link → v.link q = u.link q) ∧ v = { u with links := v.links, regs := v.regs, out := v.out }) := by
  obtain ⟨w, frame, -, is⟩ := hpCtrlWrite (link := link) value up owner stage
  have links : ∀ q, w.link q = u.link q := link_of_links (by rw [frame])
  have room : link < w.links.length := by
    refine Classical.byContradiction fun out => ?_
    rw [← links, State.link, getD_past _ _ (by omega)] at running
    cases running
  rw [is, if_pos on, if_neg (by simp [off])] at run
  unfold widenStart at run
  dsimp only at run
  rw [if_pos (by rw [links]; exact running)] at run
  unfold sendLink at run
  have put := link_modLink_same (fun l => { l with widen := true }) room
  refine gives_of run ⟨?_, ?_, ?_, fun q hq => ?_, ?_⟩
  · rw [link_emit, put]
  · rw [link_emit, put]
    show (w.link link).width = _
    rw [links]
  · refine ⟨[linkFlitOf ((w.modLink link (fun l => { l with widen := true })).link link) 3 [] 0 (roundNow (w.link link) w.now + 4)], ?_⟩
    show w.out ++ [.frame link w.now _] = _
    rw [frame]
  · rw [link_emit, link_modLink_ne _ _ hq, links]
  · apply State.same_fields <;> simp <;> rw [frame]

/-- A write of a lane's register is posted, or refused while one is. -/
theorem laneWrite_gives {i : Instr} {s u : State} {port : Fin 4} {a n : Nat} {d : RegDesc} {value : Word}
    (run : exec i s = .next (busWrite4 u port a value)) (up : portUp u port = true) (owner : isOwner u port = true) (stage : u.stage.stage ≠ 0)
    (desc : regDesc a = some d) (lane : d.lane = some n) (fields : d.rw ≠ 0) :
    (mapGet u.regs.pw n = none → Gives i s (fun v => mapGet v.regs.pw n = some (a, value) ∧ v.live a = u.live a ∧ v = { u with regs := v.regs })) ∧
      ((mapGet u.regs.pw n).isSome = true → Gives i s (fun v => v.regs.pw = u.regs.pw ∧
        bit (v.live (0x1C00FC + n * 0x100)) 30 = true ∧ bit (v.live (0x200 + port * 0x10)) 7 = true ∧
        v = { u with regs := v.regs, mgmt := v.mgmt, out := v.out })) := by
  obtain ⟨right, high⟩ := regDesc_lane desc lane
  have any : d.rw ||| d.w1c ||| d.w1s ≠ 0 := fun h => fields (BitVec.or_eq_zero_iff.mp (BitVec.or_eq_zero_iff.mp h).1).1
  have hp := port.isLt
  unfold busWrite4 at run
  rw [busWriteOp_reaches value up (served_of stage a) desc] at run
  unfold regWrite4 at run
  rw [desc] at run
  dsimp only at run
  rw [right, if_neg (by simp [isForeign]), if_neg any, if_neg (by simp [mayWrite, owner]), lane] at run
  dsimp only at run
  refine ⟨fun free => ?_, fun busy => ?_⟩
  · rw [if_neg (by simp [free])] at run
    exact gives_of run ⟨mapGet_mapSet_same .., rfl, rfl⟩
  · rw [if_pos busy] at run
    generalize hw : ({ u with regs := { u.regs with parityErr := _ } } : State) = w at run
    have marked : bit ((w.setBits (0x1C00FC + n * 0x100) 0x40000000).live (0x1C00FC + n * 0x100)) 30 = true := by
      rw [live_setBits_same, bit_or, bit_word, show (0x40000000 : Nat).testBit 30 = true by decide]
      simp
    have only := setBits_liveOnly w (0x1C00FC + n * 0x100) 0x40000000
    have frame : w.setBits (0x1C00FC + n * 0x100) 0x40000000 = { w with regs := (w.setBits (0x1C00FC + n * 0x100) 0x40000000).regs } := by
      apply State.same_fields <;> simp
    generalize w.setBits (0x1C00FC + n * 0x100) 0x40000000 = x at run marked only frame
    have quiet : evReg (0x1C00FC + n * 0x100) = false := by
      simp only [evReg, Bool.or_eq_false_iff, Bool.and_eq_false_iff]
      exact ⟨.inr (decide_eq_false (by omega)), .inr (decide_eq_false (by omega))⟩
    refine gives_of run ⟨?_, ?_, logAccess_cause x a hp (by decide), ?_⟩
    · rw [(logAccess_liveOnly x port a acBusy).pw, only.pw, ← hw]
    · rw [logAccess_live x quiet (by omega) (by omega) (by omega)]
      exact marked
    · rw [logAccess_frame, frame, ← hw]

/-- Settles O44: STG_CTRL.RESET, HP_CTRL and the posted writes of the lanes. -/
theorem controlWritesAct : Obligations.ControlWritesAct := by
  unfold Obligations.ControlWritesAct
  intro s port value
  refine ⟨?_, fun lane a w d => ?_⟩
  · intro u up owner
    have stg : exec (.stgCtrlReset port value) s = .next (busWrite4 u port 0x104 value) := rfl
    have again : ∀ link, exec (.retrain port link value) s = .next (busWrite4 u port (hpAddr link 8) value) := fun _ => rfl
    have wide : ∀ link, exec (.widen port link value) s = .next (busWrite4 u port (hpAddr link 8) value) := fun _ => rfl
    have post : ∀ a, exec (.pwWrite port a value) s = .next (busWrite4 u port a value) := fun _ => rfl
    clear_value u
    exact ⟨fun good calm => resetWrite_gives stg up owner good calm, fun link stage =>
      ⟨fun on room => retrainWrite_gives (again link) up owner stage on room, fun off on running => widenWrite_gives (wide link) up owner stage off on running⟩,
      fun a n d stage desc lane fields => laneWrite_gives (post a) up owner stage desc lane fields⟩
  · intro u posted desc
    have run : exec (.pwBusyClear lane) s = .next (pwTake u lane) := rfl
    clear_value u
    unfold pwTake at run
    rw [posted] at run
    dsimp only at run
    rw [desc] at run
    exact gives_of run ⟨mapGet_mapErase_same .., live_setLive_same .., rfl⟩

end Sys2Proof.Claim
end

section
/-! PROOFS. What the rest of a step leaves as it was, and applies of update groups and wheels (O40). -/

namespace Sys2Proof.Machine

/-! ### Folds -/

/-- A relation that every step of a fold keeps holds between its ends. -/
theorem foldl_rel {α β : Type} {R : β → β → Prop} (refl : ∀ q, R q q) (trans : ∀ {a b c}, R a b → R b c → R a c) {f : β → α → β}
    (each : ∀ q a, R q (f q a)) (l : List α) (q : β) : R q (l.foldl f q) := by
  induction l generalizing q with
  | nil => exact refl q
  | cons a l ih => exact trans (each q a) (ih (f q a))

theorem mapGet_filter {α : Type} (m : NMap α) (f : Nat → Bool) (k : Nat) :
    mapGet (m.filter (fun p => f p.1)) k = if f k then mapGet m k else none := by
  induction m with
  | nil => simp [mapGet]
  | cons p m ih =>
    obtain ⟨j, v⟩ := p
    by_cases keep : f j
    · rw [List.filter_cons_of_pos (by simpa using keep)]
      unfold mapGet
      by_cases at_ : j = k
      · subst at_; simp [keep]
      · rw [if_neg at_, if_neg at_, ih]
    · rw [List.filter_cons_of_neg (by simpa using keep), ih]
      conv => rhs; unfold mapGet
      by_cases at_ : j = k
      · subst at_; simp [keep]
      · rw [if_neg at_]

theorem mapGet_foldl_mapSet {α : Type} (l : List Nat) (m : NMap α) (v : α) (k : Nat) :
    mapGet (l.foldl (fun m j => mapSet m j v) m) k = if k ∈ l then some v else mapGet m k := by
  induction l generalizing m with
  | nil => simp
  | cons a l ih =>
    rw [List.foldl_cons, ih, mapGet_mapSet]
    by_cases here : k = a
    · simp [here]
    · simp [here]

/-! ### Grants of wheels -/

theorem countCycle_liveOnly (s : State) (w r c : Nat) (l : List (SlotAsk × Nat)) : LiveOnly s.regs (countCycle s w r c l).regs := by
  unfold countCycle
  dsimp only
  split
  · rfl
  · split
    · rfl
    · generalize hq : countUp s (whlCnt w r) _ = q
      have first : LiveOnly s.regs q.regs := by rw [← hq]; rfl
      refine first.trans ?_
      split <;> rfl

theorem countCycles_liveOnly (s : State) (c : Nat) (l : List (SlotAsk × Nat)) (qs : List (Nat × Nat)) :
    LiveOnly s.regs (qs.foldl (fun s q => countCycle s q.1 q.2 c l) s).regs :=
  foldl_rel (R := fun (a b : State) => LiveOnly a.regs b.regs) (fun q => .refl q.regs) .trans (fun q a => countCycle_liveOnly q a.1 a.2 c l) qs s

theorem blockSlots_liveOnly (n : Nat) (s : State) : LiveOnly s.regs (blockSlots n s).regs := by
  induction n generalizing s with
  | zero => rfl
  | succ n ih =>
    unfold blockSlots
    split
    · rfl
    · exact (countCycles_liveOnly s _ _ _).trans (ih _)

theorem dramSlots_liveOnly (n : Nat) (s : State) : LiveOnly s.regs (dramSlots n s).regs := by
  induction n generalizing s with
  | zero => rfl
  | succ n ih =>
    unfold dramSlots
    split
    · rfl
    · exact (countCycles_liveOnly s _ _ _).trans (ih _)

/-- Grants change live counters alone among the registers. -/
theorem wheelsTo_liveOnly (s : State) : LiveOnly s.regs (wheelsTo s).regs := by
  unfold wheelsTo
  exact (blockSlots_liveOnly _ s).trans (dramSlots_liveOnly _ _)

/-! ### What happens by itself after an action -/

/-- A change of width changes its link, and counts and tells a narrower one. -/
theorem widthChange_eq (s : State) (p w t : Nat) : ∃ f : Link → Link, widthChange s p w t =
    if w < (s.link p).width then ((s.modLink p f).bump (hpAddr p 0x50)).raise (evLnkDegrade p) p (s.link p).width w else s.modLink p f :=
  ⟨_, rfl⟩

theorem widthChange_frame (s : State) (p w t : Nat) : widthChange s p w t = { s with
    links := (widthChange s p w t).links, regs := (widthChange s p w t).regs, mgmt := (widthChange s p w t).mgmt, out := (widthChange s p w t).out } := by
  obtain ⟨f, eq⟩ := widthChange_eq s p w t
  rw [eq]
  split
  · apply State.same_fields <;> simp
  · rfl

theorem widthChange_liveOnly (s : State) (p w t : Nat) : LiveOnly s.regs (widthChange s p w t).regs := by
  obtain ⟨f, eq⟩ := widthChange_eq s p w t
  rw [eq]
  split
  · exact (bump_liveOnly (s.modLink p f) _ _).trans (raise_liveOnly ..)
  · rfl

theorem widthChange_live (s : State) {p : Nat} (w t : Nat) {a : Nat} (hp : p < 18) (quiet : evReg a = false) (ne : a ≠ hpAddr p 0x50) :
    (widthChange s p w t).live a = s.live a := by
  obtain ⟨f, eq⟩ := widthChange_eq s p w t
  rw [eq]
  split
  · rw [live_raise _ _ _ _ _ _ quiet (by show 272 + 16 * p + 1 < 704; omega), live_bump_ne _ _ _ _ ne]; rfl
  · rfl

/-- A link whose change has begun by now takes its new width. -/
def settleLink (s : State) (p : Nat) : State :=
  match (s.link p).change with
  | some (w, t) => if t ≤ s.now then widthChange s p w t else s
  | none => s

theorem settleLinks_eq (s : State) : settleLinks s = (List.range 18).foldl settleLink s := rfl

/-- A relation to every change of width holds of what a link does by itself. -/
theorem settleLink_rel {R : State → State → Prop} (s : State) (p : Nat) (stay : R s s) (change : ∀ w t, R s (widthChange s p w t)) :
    R s (settleLink s p) := by
  unfold settleLink
  split
  · split
    · exact change _ _
    · exact stay
  · exact stay

/-- Links, live values and what tells of them are all that may differ. -/
def LinkOnly (s t : State) : Prop := t = { s with links := t.links, regs := t.regs, mgmt := t.mgmt, out := t.out }

theorem LinkOnly.trans {a b c : State} (h : LinkOnly a b) (g : LinkOnly b c) : LinkOnly a c := by
  unfold LinkOnly at h g ⊢
  rw [g, h]

theorem settleLinks_frame (s : State) : LinkOnly s (settleLinks s) :=
  foldl_rel (R := LinkOnly) (fun _ => rfl) .trans (fun q p => settleLink_rel q p rfl (widthChange_frame q p)) _ s

theorem settleLinks_liveOnly (s : State) : LiveOnly s.regs (settleLinks s).regs :=
  foldl_rel (R := fun (a b : State) => LiveOnly a.regs b.regs) (fun q => .refl q.regs) .trans
    (fun q p => settleLink_rel (R := fun (a b : State) => LiveOnly a.regs b.regs) q p (.refl _) (widthChange_liveOnly q p)) _ s

theorem settleLinks_live (s : State) {a : Nat} (quiet : evReg a = false) (ne : ∀ p, p < 18 → a ≠ hpAddr p 0x50) :
    (settleLinks s).live a = s.live a := by
  have each : ∀ (l : List Nat) (q : State), (∀ p ∈ l, p < 18) → (l.foldl settleLink q).live a = q.live a := by
    intro l
    induction l with
    | nil => exact fun _ _ => rfl
    | cons p l ih =>
      intro q low
      have hp := low p List.mem_cons_self
      rw [List.foldl_cons, ih _ (fun p h => low p (List.mem_cons_of_mem _ h))]
      exact settleLink_rel (R := fun (a' b : State) => b.live a = a'.live a) q p rfl (fun w t => widthChange_live q w t hp quiet (ne p hp))
  exact each _ s (fun p h => List.mem_range.mp h)

theorem alertUpdate_frame (s : State) : alertUpdate s = { s with mgmt := (alertUpdate s).mgmt } := by
  unfold alertUpdate
  split <;> rfl

/-- What happens by itself after an action touches links, live values, and what tells of it. -/
theorem settle_frame (s : State) : LinkOnly s (settle_ s) := by
  have links := settleLinks_frame s
  unfold LinkOnly at links ⊢
  unfold settle_
  rw [alertUpdate_frame]
  rw [links]

theorem settle_regs (s : State) : (settle_ s).regs = (settleLinks s).regs := by
  unfold settle_
  rw [alertUpdate_frame]

theorem settle_liveOnly (s : State) : LiveOnly s.regs (settle_ s).regs := by
  rw [settle_regs]
  exact settleLinks_liveOnly s

/-- A register that no event writes and that counts no degrade of a port stays. -/
theorem settle_live (s : State) {a : Nat} (quiet : evReg a = false) (ne : ∀ p, p < 18 → a ≠ hpAddr p 0x50) : (settle_ s).live a = s.live a := by
  rw [live_of_regs (congrArg Regs.live (settle_regs s)), settleLinks_live s quiet ne]

/-- The action that a command names is the first of the step, and alone of its kind: it is applied, and the rest stays due. -/
theorem dueUpTo_now {s : State} {p : Due → Bool} {d : Due} {l : List Due} (now : Claim.DueNow s p d l)
    (stays : (runDue { s with due := [] } d).due = []) : dueUpTo p s = { runDue { s with due := [] } d with due := l } := by
  obtain ⟨due, this, alone⟩ := now
  have any : s.due.any p = true := by simp [due, this]
  unfold dueUpTo
  rw [if_pos any, due]
  unfold runTo
  rw [if_pos (by simp [this])]
  cases l with
  | nil => exact State.same_fields rfl rfl stays rfl rfl rfl rfl rfl rfl rfl rfl rfl rfl rfl rfl rfl rfl rfl rfl rfl rfl rfl rfl rfl rfl rfl rfl rfl rfl rfl rfl rfl
  | cons e l =>
    unfold runTo
    rw [if_neg (by simp [alone])]

end Sys2Proof.Machine
end

section
/-! PROOFS. Applies of update groups, and wheels that go live (O40). -/

namespace Sys2Proof.Machine

/-! ### Registers of a group -/

/-- A grouped register is told of by no event, and is neither a word of the chain nor a counter of the epoch block or of a port. -/
theorem grouped_quiet {s : State} {g a : Nat} (h : regGroup s a = some g) : evReg a = false ∧ a ≠ 0x140008 ∧ a ≠ 0x30018 ∧
    ∀ p, p < 18 → a ≠ hpAddr p 0x50 := by
  have no : unbuffered (regDesc a) = false := by
    unfold regGroup at h
    cases desc : regDesc a with
    | none => rw [desc] at h; cases h
    | some d =>
      cases group : d.group with
      | none => rw [desc, Option.bind_some, group] at h; cases h
      | some k => simp [unbuffered, group]
  obtain ⟨d, desc⟩ : ∃ d, regDesc a = some d := by
    cases desc : regDesc a with
    | none => rw [desc] at no; cases no
    | some d => exact ⟨d, rfl⟩
  obtain ⟨aligned, top⟩ := regDesc_below desc
  have ne : ∀ b, unbuffered (regDesc b) = true → a ≠ b := fun b hb e => by
    rw [e, hb] at no
    cases no
  refine ⟨?_, ne _ (by decide), ne _ (by decide), fun p hp => ne _ ?_⟩
  · simp only [evReg, Bool.or_eq_false_iff, Bool.and_eq_false_iff]
    refine ⟨?_, ?_⟩
    · refine Classical.byContradiction fun out => ?_
      simp only [not_or, decide_eq_false_iff_not, Classical.not_not] at out
      rw [regDesc_evt aligned out.1 (by omega), regDescEvt_unbuffered] at no
      cases no
    · refine Classical.byContradiction fun out => ?_
      simp only [not_or, decide_eq_false_iff_not, Classical.not_not] at out
      rw [regDesc_msix aligned (by omega) (by omega), regDescMsix_unbuffered] at no
      cases no
  · unfold hpAddr
    rw [regDesc_port (by omega) (by omega) (by omega), show (0x180000 + p * 0x2000 + 0x50 - 0x180000) % 0x2000 = 0x50 by omega]
    unfold regDescPort
    iterate 3 rw [if_neg (by decide)]
    rfl

/-! ### Records -/

/-- A record is staged without a change of what stands outside its unit: the tables, the banks, the epoch and the stage among it. -/
theorem stageRec_rest (s : State) (y t : Nat) (c : Option Nat) (b : JBody) : stageRec s y t c b = { s with
    dies := (stageRec s y t c b).dies, vault := (stageRec s y t c b).vault, cmds := (stageRec s y t c b).cmds, regs := (stageRec s y t c b).regs
    mgmt := (stageRec s y t c b).mgmt, out := (stageRec s y t c b).out, free := (stageRec s y t c b).free } := by
  unfold stageRec
  split
  · rfl
  · dsimp only
    cases c <;> (dsimp only; split <;> (apply State.same_fields <;> simp [draw, State.modCmds]))

/-- What staging a record does to the registers is at most the raise of UPD_BACKLOG_HI. -/
theorem stageRec_regs (s : State) (y t : Nat) (c : Option Nat) (b : JBody) : (stageRec s y t c b).regs = s.regs ∨
    ∃ w : State, ∃ n, w.regs = s.regs ∧ stageRec s y t c b = w.raise evUpdBacklogHi n := by
  unfold stageRec
  split
  · exact .inl rfl
  · dsimp only
    cases c <;> (dsimp only; split)
    · exact .inr ⟨_, _, by simp [draw], rfl⟩
    · exact .inl (by simp [draw])
    · exact .inr ⟨_, _, by simp [draw, State.modCmds], rfl⟩
    · exact .inl (by simp [draw, State.modCmds])

theorem stageRec_live (s : State) (y t : Nat) (c : Option Nat) (b : JBody) {a : Nat} (quiet : evReg a = false) :
    (stageRec s y t c b).live a = s.live a := by
  rcases stageRec_regs s y t c b with same | ⟨w, n, same, eq⟩
  · simp only [State.live, same]
  · rw [eq, live_raise _ _ _ _ _ _ quiet (by decide)]
    simp only [State.live, same]

theorem stageRec_keeps_flag (s : State) (y t : Nat) (c : Option Nat) (b : JBody) {n i : Nat} (hn : n < 44)
    (h : bit (s.live (0x20000 + n * 4)) i = true) : bit ((stageRec s y t c b).live (0x20000 + n * 4)) i = true := by
  rcases stageRec_regs s y t c b with same | ⟨w, m, same, eq⟩
  · simp only [State.live, same] at h ⊢; exact h
  · rw [eq]
    exact raise_keeps_flag _ _ _ _ _ _ _ (by decide) hn (by simp only [State.live, same] at h ⊢; exact h)

/-! ### An apply of one register -/

theorem cscApplied_live (s : State) (en : Bool) {a : Nat} (quiet : evReg a = false) (ne : a ≠ 0x140008) : (cscApplied s en).live a = s.live a := by
  unfold cscApplied
  dsimp only
  split
  · rfl
  · split
    · rfl
    · split
      · exact chainBreak_live _ _ quiet ne
      · rfl

/-- Links, the chain, live values and what tells of them are all that may differ. -/
def ApplyOnly (s t : State) : Prop := t = { s with
  links := t.links, csc := t.csc, regs := t.regs, dies := t.dies, vault := t.vault, cmds := t.cmds, mgmt := t.mgmt, out := t.out, free := t.free }

theorem ApplyOnly.trans {a b c : State} (h : ApplyOnly a b) (g : ApplyOnly b c) : ApplyOnly a c := by
  unfold ApplyOnly at h g ⊢
  rw [g, h]

theorem ApplyOnly.refl (s : State) : ApplyOnly s s := rfl

theorem ApplyOnly.ite {c : Prop} [Decidable c] {s a b : State} (ha : ApplyOnly s a) (hb : ApplyOnly s b) : ApplyOnly s (if c then a else b) := by
  split <;> assumption

theorem cscApplied_only (s : State) (en : Bool) : ApplyOnly s (cscApplied s en) := by
  unfold cscApplied
  dsimp only
  split
  · rfl
  · split
    · rfl
    · split
      · unfold ApplyOnly
        rw [chainBreak_frame]
      · rfl

theorem startTraining_only (s : State) (p : Nat) : ApplyOnly s (startTraining s p) := by
  unfold startTraining
  split <;> rfl

theorem startTraining_live (s : State) (p a : Nat) : (startTraining s p).live a = s.live a := by
  unfold startTraining
  split <;> rfl

theorem linkDown_only (s : State) (p : Nat) : ApplyOnly s (linkDown s p) := by
  unfold ApplyOnly
  rw [linkDown_frame]

/-- What a new live value of a register that is no table's does besides. -/
theorem afterReg_only (s : State) {a : Nat} (old new : Word) (table : attrTable a = none) : ApplyOnly s (afterReg s a old new) := by
  unfold afterReg
  rw [table]
  exact .ite (.ite (.refl _) rfl) (.ite (cscApplied_only ..) (.ite (.ite (linkDown_only ..) (.ite (startTraining_only ..) (.refl _))) (.refl _)))

theorem afterReg_live (s : State) {a : Nat} (old new : Word) (table : attrTable a = none) (quiet : evReg a = false) (ne : a ≠ 0x140008) :
    (afterReg s a old new).live a = s.live a := by
  unfold afterReg
  rw [table]
  dsimp only
  split
  · split <;> rfl
  · split
    · exact cscApplied_live _ _ quiet ne
    · split
      · split
        · exact linkDown_live _ _ _ quiet ne
        · split
          · exact startTraining_live ..
          · rfl
      · rfl

/-- A value that is applied, or rejected with an event of the map. -/
def Known (r : Except (Ev × Nat) Word) : Prop := ∀ e o, r = .error (e, o) → e.src < 704

theorem Known.ok (w : Word) : Known (.ok w) := fun _ _ h => by cases h

theorem Known.error {e : Ev} {o : Nat} (h : e.src < 704) : Known (.error (e, o)) := fun _ _ same => by cases same; exact h

theorem Known.ite {c : Prop} [Decidable c] {a b : Except (Ev × Nat) Word} (ha : c → Known a) (hb : Known b) : Known (if c then a else b) := by
  split
  · exact ha ‹_›
  · exact hb

/-- A value applied, or rejected by a check of its own. -/
theorem Known.check {c : Prop} [Decidable c] {w : Word} {e : Ev} {o : Nat} (h : e.src < 704) :
    Known (if c then .ok w else .error (e, o)) :=
  .ite (fun _ => .ok w) (.error h)

theorem applyVal_known (s : State) {a : Nat} (v : Word) (table : attrTable a = none) : Known (applyVal s a v) := by
  have source : 0xA0000 ≤ a ∧ a < 0xE0000 → (evSrcCfgInvalid ((a - 0xA0000) / 0x10000)).src < 704 := fun _ => by
    show 208 + 16 * ((a - 0xA0000) / 0x10000) + 4 < 704
    omega
  unfold applyVal
  rw [table]
  exact .ite (fun _ => .check (by decide)) (.ite (fun _ => .check (by decide)) (.ite (fun h => .ite (fun _ => .check (source h)) (.ok _))
    (.ite (fun _ => .ok _) (.ite (fun _ => .check (by decide)) (.ite (fun _ => .check (by decide)) (.ite (fun _ => .ok _)
    (.ite (fun _ => .check (by decide)) (.ite (fun _ => .check (by decide)) (.ite (fun _ => .ok _) (.ite (fun _ => .check (by decide))
    (.ite (fun _ => .ok _) (.ok _))))))))))))

/-! ### An apply of a group of one register -/

theorem raise_only (s : State) (e : Ev) (a b c : Nat) : ApplyOnly s (s.raise e a b c) := by
  unfold ApplyOnly
  apply State.same_fields <;> simp

theorem journalConfig_only (s : State) (l : List Nat) : ApplyOnly s (journalConfig s l) := by
  unfold ApplyOnly journalConfig
  rw [stageRec_rest]

theorem applyWheels_nil (s : State) : applyWheels s [] = s := by
  unfold applyWheels
  simp [strobeDie, dedup, sortBy]

/-- The one register of a group is applied, and recorded. -/
theorem applyWords_single {s : State} {g a : Nat} (one : groupAddrs s g = [a]) (place : a < 0xE0000 ∨ (0x100000 ≤ a ∧ a < 0x120000) ∨ 0x130000 ≤ a) :
    applyWords s g = journalConfig (applyReg s s a) [a] := by
  have prof : (decide (0xF0000 ≤ a) && decide (a < 0x100000)) = false := by
    simp only [Bool.and_eq_false_iff, decide_eq_false_iff_not]; omega
  have parse : (decide (0xE0000 ≤ a) && decide (a < 0xF0000)) = false := by
    simp only [Bool.and_eq_false_iff, decide_eq_false_iff_not]; omega
  have wheel : (decide (0x120000 ≤ a) && decide (a < 0x130000)) = false := by
    simp only [Bool.and_eq_false_iff, decide_eq_false_iff_not]; omega
  unfold applyWords
  simp only [one, List.filter_cons, List.filter_nil, prof, parse, wheel, Bool.not_false, Bool.and_self, if_true, Bool.false_eq_true, if_false,
    List.foldl_cons, List.foldl_nil, applyWheels_nil]
  rfl

/-- The buffer of a register that is no table's is not discarded. -/
theorem buffer_discardAbsent (s : State) {a : Nat} (table : attrTable a = none) : (discardAbsent s).buffer a = s.buffer a := by
  show mapGetD (s.regs.buf.filter (fun p => (fun k => match attrTable k with
    | some t => (s.table t).isSome
    | none => true) p.1)) a _ = _
  unfold mapGetD
  rw [mapGet_filter _ (fun k => match attrTable k with
    | some t => (s.table t).isSome
    | none => true)]
  simp [table]
  rfl

theorem applyVal_discardAbsent (s : State) (a : Nat) (v : Word) : applyVal (discardAbsent s) a v = applyVal s a v := rfl

/-! ### Arming -/

theorem armGroups_eq (s : State) (v : Word) : armGroups s v = { s with regs := { s.regs with
    armed := ((List.range 32).filter (fun g => bit v g)).foldl (fun m g => mapSet m g (schedEpoch s)) s.regs.armed } } := by
  have each : ∀ (l : List Nat) (q : State), l.foldl (fun (s' : State) g =>
      { s' with regs := { s'.regs with armed := mapSet s'.regs.armed g (schedEpoch s) } }) q =
      { q with regs := { q.regs with armed := l.foldl (fun m g => mapSet m g (schedEpoch s)) q.regs.armed } } := by
    intro l
    induction l with
    | nil => exact fun _ => rfl
    | cons g l ih => exact fun q => ih _
  exact each _ s

/-- A word with one bit names one group. -/
theorem filter_oneBit {g : Nat} (h : g < 32) : (List.range 32).filter (fun k => bit (word (2 ^ g)) k) = [g] := by
  have all : ∀ g < 32, (List.range 32).filter (fun k => bit (word (2 ^ g)) k) = [g] := by decide
  exact all g h

end Sys2Proof.Machine

namespace Sys2Proof.Claim

open Machine

/-- An apply of a group of one plain register: its value is live as the register applies it, or it is rejected with its event. -/
theorem applyGroup_plain {s : State} {g a : Nat} (plain : plainGroup (startBuffers s) g a) : ApplyOnly s (applyGroup s g) ∧
    (∀ w : Word, applyVal (startBuffers s) a ((startBuffers s).buffer a) = .ok w → (applyGroup s g).live a = w) ∧
    (∀ (e : Ev) (o : Nat), applyVal (startBuffers s) a ((startBuffers s).buffer a) = .error (e, o) →
      (applyGroup s g).live a = s.live a ∧ Flagged (applyGroup s g) e) := by
  obtain ⟨group, one, table, place, parse⟩ := plain
  obtain ⟨quiet, chain, -, -⟩ := grouped_quiet group
  have first : applyBuffers (startBuffers s) g = journalConfig (applyReg (discardAbsent (startBuffers s)) (discardAbsent (startBuffers s)) a) [a] := by
    unfold applyBuffers
    dsimp only
    rw [show (if g = 3 then parseFails (discardAbsent (startBuffers s)) else none) = none by split <;> simp_all]
    exact applyWords_single one place
  obtain ⟨y, hy⟩ : ∃ y, y = applyReg (discardAbsent (startBuffers s)) (discardAbsent (startBuffers s)) a := ⟨_, rfl⟩
  rw [← hy] at first
  have eq : applyGroup s g = { journalConfig y [a] with regs := { (journalConfig y [a]).regs with buf := (discardAbsent s).regs.buf } } := by
    rw [← first]
    rfl
  have live : ∀ b, (applyGroup s g).live b = (journalConfig y [a]).live b := fun b => by rw [eq]; rfl
  unfold applyReg at hy
  dsimp only at hy
  rw [buffer_discardAbsent _ table, applyVal_discardAbsent] at hy
  have known := applyVal_known (startBuffers s) ((startBuffers s).buffer a) table
  have base : ApplyOnly s (discardAbsent (startBuffers s)) := rfl
  have last : ApplyOnly (journalConfig y [a]) (applyGroup s g) := by rw [eq]; rfl
  have record := journalConfig_only y [a]
  cases value : applyVal (startBuffers s) a ((startBuffers s).buffer a) with
  | ok w =>
    rw [value] at hy
    refine ⟨?_, fun w' h => ?_, fun e o h => by cases h⟩
    · have reg : ApplyOnly (discardAbsent (startBuffers s)) ((discardAbsent (startBuffers s)).setLive a w) := rfl
      refine ApplyOnly.trans (.trans (base.trans reg) ?_) (record.trans last)
      rw [hy]
      exact afterReg_only _ _ _ table
    · cases h
      rw [live, journalConfig, stageRec_live _ _ _ _ _ quiet, hy, afterReg_live _ _ _ table quiet chain, live_setLive_same]
  | error eo =>
    obtain ⟨e, o⟩ := eo
    have low := known e o value
    rw [value] at hy
    have raised : y = (discardAbsent (startBuffers s)).raise e a ((startBuffers s).buffer a).toNat o := by
      rw [hy]
      dsimp only
      unfold rejectReg
      rw [table]
    refine ⟨?_, fun w' h => (by cases h), fun e' o' h => ?_⟩
    · refine ApplyOnly.trans (base.trans ?_) (record.trans last)
      rw [raised]
      exact raise_only ..
    · cases h
      refine ⟨?_, ?_⟩
      · rw [live, journalConfig, stageRec_live _ _ _ _ _ quiet, raised, live_raise _ _ _ _ _ _ quiet low]
        rfl
      · unfold Flagged
        rw [live, journalConfig]
        refine stageRec_keeps_flag _ _ _ _ _ (by omega) ?_
        rw [raised]
        exact raise_flags _ _ _ _ _ low

/-- A strobe of a group of one plain register. -/
theorem strobe_gives {i : Instr} {s u : State} {port : Fin 4} {g a : Nat} (run : exec i s = .next (busWrite4 u port 0x10100 (word (2 ^ g))))
    (owner : ownerAt u port) (low : g < 32) (plain : plainGroup (startBuffers (nextCycle u)) g a) :
    (∀ w : Word, applyVal (startBuffers (nextCycle u)) a ((startBuffers (nextCycle u)).buffer a) = .ok w → Gives i s (fun v =>
      v.live a = w ∧ v.tables = u.tables ∧ v.mem = u.mem ∧ v.epoch = u.epoch)) ∧
    (∀ (e : Ev) (o : Nat), applyVal (startBuffers (nextCycle u)) a ((startBuffers (nextCycle u)).buffer a) = .error (e, o) → Gives i s (fun v =>
      v.live a = u.live a ∧ Flagged v e ∧ v.tables = u.tables ∧ v.mem = u.mem ∧ v.epoch = u.epoch)) := by
  obtain ⟨up, right, stage⟩ := owner
  have desc : regDesc 0x10100 = some ((regDesc 0x10100).get rfl) := rfl
  unfold busWrite4 at run
  rw [busWriteOp_reaches _ up (served_of stage _) desc, regWrite4_owner _ desc rfl rfl (by decide) right] at run
  generalize hw : ({ u with regs := { u.regs with parityErr := _ } } : State) = w at run
  have some_ : word (2 ^ g) ≠ 0 := (show ∀ g < 32, word (2 ^ g) ≠ 0 by decide) g low
  unfold regEffect at run
  iterate 3 rw [if_neg (by decide)] at run
  rw [if_pos rfl, if_neg some_, applyStrobe, filter_oneBit low] at run
  change exec i s = .next (applyGroup (nextCycle w) g) at run
  have plain' : plainGroup (startBuffers (nextCycle w)) g a := by rw [← hw]; exact plain
  obtain ⟨only, ok, error⟩ := applyGroup_plain plain'
  have same : applyVal (startBuffers (nextCycle w)) a ((startBuffers (nextCycle w)).buffer a) =
      applyVal (startBuffers (nextCycle u)) a ((startBuffers (nextCycle u)).buffer a) := by rw [← hw]; rfl
  rw [same] at ok error
  have rest : ∀ t, ApplyOnly (nextCycle w) t → t.tables = u.tables ∧ t.mem = u.mem ∧ t.epoch = u.epoch := fun t h => by
    rw [h, ← hw]
    exact ⟨rfl, rfl, rfl⟩
  refine ⟨fun x h => gives_of run ⟨ok x h, rest _ only⟩, fun e o h => gives_of run ⟨?_, (error e o h).2, rest _ only⟩⟩
  rw [(error e o h).1, ← hw]
  rfl

/-- A write of UPD_SCHED_SET arms its groups for the epoch of the pair. -/
theorem schedSet_gives {i : Instr} {s u : State} {port : Fin 4} {value : Word} (run : exec i s = .next (busWrite4 u port 0x1010C value))
    (owner : ownerAt u port) : Gives i s (fun v => (∀ g : Nat, g < 32 →
      mapGet v.regs.armed g = if bit value g then some (schedEpoch u) else mapGet u.regs.armed g) ∧ v = { u with regs := v.regs }) := by
  obtain ⟨up, right, stage⟩ := owner
  have desc : regDesc 0x1010C = some ((regDesc 0x1010C).get rfl) := rfl
  unfold busWrite4 at run
  rw [busWriteOp_reaches _ up (served_of stage _) desc, regWrite4_owner _ desc rfl rfl (by decide) right] at run
  unfold regEffect at run
  iterate 4 rw [if_neg (by decide)] at run
  rw [if_pos rfl, armGroups_eq] at run
  refine gives_of run ⟨fun g low => ?_, rfl⟩
  show mapGet (List.foldl _ _ _) g = _
  rw [mapGet_foldl_mapSet]
  simp only [List.mem_filter, List.mem_range, low, true_and]
  rfl

/-- A write of UPD_SCHED_ARMED disarms its groups. -/
theorem schedDisarm_gives {i : Instr} {s u : State} {port : Fin 4} {value : Word} (run : exec i s = .next (busWrite4 u port 0x10110 value))
    (owner : ownerAt u port) : Gives i s (fun v => (∀ g : Nat, g < 32 →
      mapGet v.regs.armed g = if bit value g then none else mapGet u.regs.armed g) ∧ v = { u with regs := v.regs }) := by
  obtain ⟨up, right, stage⟩ := owner
  have desc : regDesc 0x10110 = some ((regDesc 0x10110).get rfl) := rfl
  unfold busWrite4 at run
  rw [busWriteOp_reaches _ up (served_of stage _) desc, regWrite4_owner _ desc rfl rfl (by decide) right] at run
  unfold regEffect at run
  iterate 5 rw [if_neg (by decide)] at run
  rw [if_pos rfl] at run
  refine gives_of run ⟨fun g _ => ?_, rfl⟩
  show mapGet (List.filter (fun p => (fun k => !bit value k) p.1) _) g = _
  rw [mapGet_filter _ (fun k => !bit value k)]
  cases bit value g <;> rfl

theorem heldAction_liveOnly (s : State) (k o : Nat) : LiveOnly s.regs (heldAction s k o).regs := by
  unfold heldAction
  split
  · exact (bumpField_liveOnly s ..).trans (raise_liveOnly ..)
  · rfl

theorem heldAction_only (s : State) (k o : Nat) : ApplyOnly s (heldAction s k o) := by
  unfold heldAction
  split
  · unfold ApplyOnly
    apply State.same_fields <;> simp
  · rfl

/-- What happens by itself after an action, as an apply sees it. -/
theorem settle_only (s : State) : ApplyOnly s (settle_ s) := by
  unfold ApplyOnly
  rw [settle_frame]

theorem scheduledApply_gives {s : State} {group : Fin 32} {l : List Due} {e a : Nat} {w : Word}
    (now : DueNow s (fun d => d == .apply group) (.apply group) l) (armed : mapGet s.regs.armed group = some e)
    (plain : plainGroup (startBuffers s) group a) (value : applyVal (startBuffers s) a ((startBuffers s).buffer a) = .ok w) :
    Gives (.scheduledApply group) s (fun v => v.live a = w ∧ mapGet v.regs.armed group = none ∧
      mapGet v.regs.lastApply group = some s.epoch.count ∧ v.due = l ∧ v.tables = s.tables ∧ v.mem = s.mem ∧ v.epoch = s.epoch) := by
  obtain ⟨quiet, -, held, port⟩ := grouped_quiet plain.1
  obtain ⟨x, hx⟩ : ∃ x : State, x = { s with due := [] } := ⟨_, rfl⟩
  have plain' : plainGroup (startBuffers x) group a := by rw [hx]; exact plain
  obtain ⟨only, ok, -⟩ := applyGroup_plain plain'
  have live := ok w (by rw [hx]; exact value)
  obtain ⟨y, hy⟩ : ∃ y : State, y = { applyGroup x group with regs := { (applyGroup x group).regs with
      armed := mapErase (applyGroup x group).regs.armed group
      lastApply := mapSet (applyGroup x group).regs.lastApply group (applyGroup x group).epoch.count } } := ⟨_, rfl⟩
  have applied : runDue x (.apply group) = heldAction y 2 group := by
    show applyArmed x group = _
    unfold applyArmed
    rw [show mapGet x.regs.armed group = some e by rw [hx]; exact armed, hy]
  have keeps : ApplyOnly x (heldAction y 2 group) := by
    refine only.trans (.trans ?_ (heldAction_only ..))
    rw [hy]
    rfl
  have run : exec (.scheduledApply group) s = .next (settle_ (dueUpTo (fun d => d == .apply group) s)) := rfl
  rw [dueUpTo_now now (by rw [← hx, applied, keeps, hx]), ← hx, applied] at run
  generalize hz : ({ heldAction y 2 group with due := l } : State) = z at run
  have rest : ApplyOnly { x with due := l } z := by
    rw [← hz]
    unfold ApplyOnly at keeps ⊢
    rw [keeps]
  have settled := rest.trans (settle_only z)
  have regs : LiveOnly y.regs (settle_ z).regs := by
    refine LiveOnly.trans ?_ (settle_liveOnly z)
    rw [← hz]
    exact heldAction_liveOnly y 2 group
  have epoch : (applyGroup x group).epoch = s.epoch := by rw [only, hx]
  refine gives_of run ⟨?_, ?_, ?_, ?_⟩
  · rw [settle_live z quiet port, ← hz]
    show (heldAction y 2 group).live a = w
    rw [live_heldAction _ _ _ _ quiet held, hy]
    exact live
  · rw [regs, hy]
    exact mapGet_mapErase_same ..
  · rw [regs, hy]
    show mapGet (mapSet _ _ _) _ = _
    rw [mapGet_mapSet_same, epoch]
  · rw [settled, hx]
    exact ⟨rfl, rfl, rfl, rfl⟩

/-! ### Wheels -/

theorem live_foldl_setLive {f : Nat → Nat} (inj : Function.Injective f) (g : Nat → Word) (l : List Nat) (s : State) (k : Nat) :
    (l.foldl (fun s j => s.setLive (f j) (g j)) s).live (f k) = if k ∈ l then g k else s.live (f k) := by
  induction l generalizing s with
  | nil => simp
  | cons j l ih =>
    rw [List.foldl_cons, ih]
    by_cases here : k = j
    · simp [here]
    · rw [live_setLive_ne _ _ _ _ (fun e => here (inj e))]
      simp [here]

theorem foldl_setLive_liveOnly (f : Nat → Nat) (g : Nat → Word) (l : List Nat) (s : State) :
    (l.foldl (fun s j => s.setLive (f j) (g j)) s) = { s with regs := (l.foldl (fun s j => s.setLive (f j) (g j)) s).regs } ∧
      LiveOnly s.regs (l.foldl (fun s j => s.setLive (f j) (g j)) s).regs := by
  refine foldl_rel (R := fun (a b : State) => b = { a with regs := b.regs } ∧ LiveOnly a.regs b.regs) (fun q => ⟨rfl, rfl⟩)
    (fun h g => ⟨by rw [g.1, h.1], h.2.trans g.2⟩) (f := fun (s : State) j => s.setLive (f j) (g j)) (fun q j => ⟨rfl, rfl⟩) l s

theorem wheelAddr_injective (i : Nat) : Function.Injective (wheelAddr i) := fun j k h => by
  unfold wheelAddr at h
  split at h <;> omega

theorem wheelAddr_quiet {i j : Nat} (hi : i < 66) (hj : j < 32) : evReg (wheelAddr i j) = false := by
  have : 0x120000 ≤ wheelAddr i j ∧ wheelAddr i j < 0x130000 := by
    unfold wheelAddr
    split <;> omega
  simp only [evReg, Bool.or_eq_false_iff, Bool.and_eq_false_iff]
  exact ⟨.inr (decide_eq_false (by omega)), .inl (decide_eq_false (by omega))⟩

theorem tellLongRun_spec (s : State) (i : Nat) : LiveOnly s.regs (tellLongRun s i).regs ∧
    tellLongRun s i = { s with regs := (tellLongRun s i).regs, mgmt := (tellLongRun s i).mgmt, out := (tellLongRun s i).out } ∧
    ∀ a, evReg a = false → (tellLongRun s i).live a = s.live a := by
  unfold tellLongRun
  split
  · generalize longestRun _ = best
    obtain ⟨k, n⟩ := best
    dsimp only
    split
    · exact ⟨raise_liveOnly .., by apply State.same_fields <;> simp, fun a h => live_raise _ _ _ _ _ _ h (by decide)⟩
    · exact ⟨rfl, rfl, fun _ _ => rfl⟩
  · exact ⟨rfl, rfl, fun _ _ => rfl⟩

/-- The oldest copy of a wheel goes live at its wrap. -/
theorem wheelLiveAt_gives {i : Instr} {s u : State} {wheel : Fin 66} {a w : Nat} {ws : List Word} {rest : List (Nat × Nat × List Word)}
    (run : exec i s = .next (wheelLiveAt u wheel)) (pend : mapGetD u.regs.wheelPend wheel [] = (a, w, ws) :: rest) : Gives i s (fun v =>
      v.now = max u.now (w * wheelClock wheel) ∧ (∀ j : Nat, j < 32 → v.live (wheelAddr wheel j) = ws.getD j 0) ∧
      mapGetD v.regs.wheelPend wheel [] = rest ∧ (∀ i : Nat, i ≠ wheel → mapGet v.regs.wheelPend i = mapGet u.regs.wheelPend i) ∧
      v = { u with now := v.now, dies := v.dies, regs := v.regs, mgmt := v.mgmt, out := v.out }) := by
  unfold wheelLiveAt at run
  rw [pend] at run
  dsimp only at run
  have grants := wheelsTo_liveOnly (advance (w * wheelClock wheel) u)
  have frame : wheelsTo (advance (w * wheelClock wheel) u) = { u with
    now := max u.now (w * wheelClock wheel), regs := (wheelsTo (advance (w * wheelClock wheel) u)).regs
    dies := (wheelsTo (advance (w * wheelClock wheel) u)).dies } := rfl
  generalize wheelsTo (advance (w * wheelClock wheel) u) = x at run grants frame
  obtain ⟨store, words⟩ := foldl_setLive_liveOnly (wheelAddr wheel) (fun j => ws.getD j 0) (List.range 32) x
  have value := fun j => live_foldl_setLive (wheelAddr_injective wheel) (fun j => ws.getD j 0) (List.range 32) x j
  generalize List.foldl _ _ _ = y at run store words value
  have pending : y.regs.wheelPend = u.regs.wheelPend := by rw [words, grants]; rfl
  generalize hz : ({ y with regs := { y.regs with wheelPend := _ } } : State) = z at run
  have live : ∀ b, z.live b = y.live b := fun b => by rw [← hz]; rfl
  have left : z.regs.wheelPend = if rest.isEmpty then mapErase u.regs.wheelPend wheel else mapSet u.regs.wheelPend wheel rest := by
    rw [← hz, ← pending]
  obtain ⟨told, only, kept⟩ := tellLongRun_spec z wheel
  generalize tellLongRun z wheel = v at run told only kept
  refine gives_of run ⟨?_, fun j hj => ?_, ?_, fun i other => ?_, ?_⟩
  · rw [only, ← hz, store, frame]
  · rw [kept _ (wheelAddr_quiet wheel.isLt hj), live, value, if_pos (List.mem_range.mpr hj)]
  · rw [told, left]
    cases rest <;> simp [mapGetD]
  · rw [told, left]
    split
    · exact mapGet_mapErase_ne _ _ _ other
    · exact mapGet_mapSet_ne _ _ _ _ other
  · rw [only, ← hz, store, frame]

/-- Settles O40: a strobe by what its one register does, the armed groups by their lists, and a wheel by its oldest copy. -/
theorem updateGroupsApply : Obligations.UpdateGroupsApply := by
  unfold Obligations.UpdateGroupsApply
  intro s
  refine ⟨fun port g a => ?_, fun port value => ?_, fun group l e a w now armed plain value => scheduledApply_gives now armed plain value,
    fun wheel a w ws rest => ?_⟩
  · intro u z owner low plain
    exact strobe_gives (i := .updStrobe port (word (2 ^ g))) (s := s) rfl owner low plain
  · intro u owner
    exact ⟨schedSet_gives (i := .updSchedSet port value) (s := s) rfl owner, schedDisarm_gives (i := .updSchedDisarm port value) (s := s) rfl owner⟩
  · intro u pend
    exact wheelLiveAt_gives (i := .wheelGoesLive wheel) (s := s) rfl pend

end Sys2Proof.Claim
end

section
/-! PROOFS. The acceptance of a request, and its response (O9, O10). -/

namespace Sys2Proof.Machine

/-! ### Records that post nothing -/

/-- A record posts an update, a learn record or a count, or its words disagree. -/
def posts (r : Rec) : Bool := r.upd.isSome || r.learn.isSome || r.safe || r.awBad

theorem posts_false {r : Rec} (h : posts r = false) : r.upd = none ∧ r.learn = none ∧ r.safe = false ∧ r.awBad = false := by
  simp only [posts, Bool.or_eq_false_iff, Option.isSome_eq_false_iff, Option.isNone_iff_eq_none] at h
  obtain ⟨⟨⟨upd, learn⟩, safe⟩, aw⟩ := h
  exact ⟨upd, learn, safe, aw⟩

/-- Records whose words agree are sent as they are. -/
theorem checkAll_agree (s0 : State) (l : List Rec) (i : Nat) (s : State) (h : ∀ r ∈ l, r.awBad = false) : checkAll s0 [] i l s = (l, s) := by
  induction l generalizing i s with
  | nil => rfl
  | cons r l ih =>
    have aw := h r List.mem_cons_self
    unfold checkAll checkWords
    rw [if_neg (by simp [aw])]
    dsimp only
    rw [ih _ _ (fun q hq => h q (List.mem_cons_of_mem _ hq))]

/-- What the hold entry of a response without posts still posts at emission: nothing. -/
theorem keepOld_quiet (h : Hold) (l : List Rec) (no : ∀ r ∈ l, posts r = false) : (keepOld h l).upds = h.upds ∧ (keepOld h l).learns = h.learns ∧
    (keepOld h l).safes = h.safes := by
  have none_ : ∀ r ∈ l.filter (fun r => !r.awBad), r.upd = none ∧ r.learn = none ∧ r.safe = false := fun r hr => by
    obtain ⟨upd, learn, safe, -⟩ := posts_false (no r (List.mem_filter.mp hr).1)
    exact ⟨upd, learn, safe⟩
  have bad : l.filter (fun r => r.awBad) = [] := List.filter_eq_nil_iff.mpr fun r hr => by simp [(posts_false (no r hr)).2.2.2]
  refine ⟨?_, ?_, ?_⟩
  · show h.upds ++ List.filterMap _ _ = _
    rw [List.filterMap_eq_nil_iff.mpr fun r hr => (none_ r hr).1, List.append_nil]
  · show h.learns ++ List.filterMap _ _ = _
    rw [List.filterMap_eq_nil_iff.mpr fun r hr => (none_ r hr).2.1, List.append_nil]
  · show h.safes ++ List.map _ (List.filter _ (List.filter _ l)) ++ List.map _ (List.filter _ l) = _
    rw [bad, List.filter_eq_nil_iff.mpr fun r hr => by simp [(none_ r hr).2.2]]
    simp

/-! ### The emission -/

/-- Statistics of tables are all that may differ. -/
def StatsOnly (s t : State) : Prop := t = { s with tables := t.tables }

theorem StatsOnly.trans {a b c : State} (h : StatsOnly a b) (g : StatsOnly b c) : StatsOnly a c := by
  unfold StatsOnly at h g ⊢
  rw [g, h]

theorem statAdd_only (s : State) (t o n : Nat) : StatsOnly s (statAdd s t o n) := by
  unfold statAdd State.modTable
  split <;> rfl

theorem statAdds_only (l : List Nat) (o : Nat) (s : State) : StatsOnly s (l.foldl (fun s t => statAdd s t o) s) :=
  foldl_rel (R := StatsOnly) (fun _ => rfl) .trans (f := fun s t => statAdd s t o) (fun q t => statAdd_only q t o 1) l s

/-- The response of a hold entry that posts nothing: the frame, or the count of a frame dropped, and the credit. -/
theorem emitHold_quiet {s : State} {h : Hold} (ok : Claim.quiet h = true) : ∃ w, StatsOnly s w ∧
    emitHold s h [] none = markSettling (returnCredit (if linkUp (w.link h.port) then
      emit (.frame h.port (h.t0 + 8 * h.lat) (responseFrame h)) w else w.bump (hpAddr h.port 0x54)) h.port h.ctx) false := by
  simp only [Claim.quiet, Bool.and_eq_true, List.isEmpty_iff, List.all_eq_true, Option.isNone_iff_eq_none, Bool.not_eq_eq_eq_not, Bool.not_true] at ok
  obtain ⟨⟨⟨⟨⟨-, upds⟩, learns⟩, safes⟩, bads⟩, recs⟩ := ok
  have no : ∀ r ∈ h.recs, posts r = false := fun r hr => by
    obtain ⟨⟨⟨upd, learn⟩, safe⟩, aw⟩ := recs r hr
    simp [posts, upd, learn, safe, aw]
  obtain ⟨keptU, keptL, keptS⟩ := keepOld_quiet { h with recs := h.recs } h.recs no
  obtain ⟨k, hk⟩ : ∃ k, k = keepOld { h with recs := h.recs } h.recs := ⟨_, rfl⟩
  have same : k.port = h.port ∧ k.ctx = h.ctx ∧ k.t0 + 8 * k.lat = h.t0 + 8 * h.lat ∧ responseFrame k = responseFrame h := by
    rw [hk]
    exact ⟨rfl, rfl, rfl, rfl⟩
  obtain ⟨port, ctx, due, frame⟩ := same
  refine ⟨_, statAdds_only k.advs 0x50 s, ?_⟩
  unfold emitHold
  rw [show h.bads.foldl (fun (s : State) b => s.raise evLkpAwMismatch b.1 b.2) s = s by rw [bads]; rfl]
  dsimp only
  rw [checkAll_agree _ _ _ _ (fun r hr => (recs r hr).2)]
  dsimp only
  rw [← hk] at keptU keptL keptS ⊢
  rw [keptU, keptL, keptS, upds, learns, safes, port, ctx, due, frame]
  generalize k.advs.foldl (fun s t => statAdd s t 0x50) s = w
  have posted : (if asLost (postAll w none []) then postAll w none [] else [].foldl learnPush (postAll w none [])) = w := ite_self w
  exact congrArg (fun x => markSettling (returnCredit (if linkUp (x.link h.port) then emit (.frame h.port (h.t0 + 8 * h.lat) (responseFrame h)) x
    else x.bump (hpAddr h.port 0x54)) h.port h.ctx) false) posted

/-! ### The grant of a request that is alone -/

/-- A requester that alone wants a slot and has a rank takes it, whoever owns the slot. -/
theorem slotTaker_sole {owner r : Nat} {rank : List Nat} {wants : Nat → Bool} (sole : ∀ k, wants k = (r == k)) (ranked : r ∈ rank) :
    slotTaker owner rank wants = some r := by
  unfold slotTaker
  split
  · rename_i own
    rw [sole, beq_iff_eq] at own
    rw [own]
  · cases found : rank.find? wants with
    | none => simpa [sole] using List.find?_eq_none.mp found r ranked
    | some k =>
      have := List.find?_some found
      rw [sole, beq_iff_eq] at this
      rw [this]

/-- A request that is alone at a unit without searches is granted once it is ready. -/
theorem blockGrants_sole {s : State} {c : Nat} {a : SlotAsk} (sole : s.dies.asks = [a]) (ready : a.ready c = true)
    (free : keysAt s (a.wheel / 16) a.unit c = 0) (ranked : a.req ∈ rankOrder (s.live 0x129000) 3) : blockGrants s c = [(a, 1)] := by
  have taker := slotTaker_sole (owner := ownerBy s a.wheel c (c - 4)) (rank := rankOrder (s.live 0x129000) 3)
    (wants := fun (r : Nat) => s.dies.asks.any (fun b => b.wheel == a.wheel && b.unit == a.unit && b.req == r && b.ready c))
    (fun k => by simp [sole, ready]) ranked
  have this : granted s c [] a = true := by
    unfold granted
    dsimp only
    rw [taker, ready, free]
    simp
  unfold blockGrants
  rw [sole]
  simp [this, b2n]

theorem blockGrants_wait {s : State} {c : Nat} {a : SlotAsk} (sole : s.dies.asks = [a]) (wait : a.ready c = false) : blockGrants s c = [(a, 0)] := by
  have this : granted s c [] a = false := by
    unfold granted
    dsimp only
    rw [wait]
    rfl
  unfold blockGrants
  rw [sole]
  simp [this, b2n]

/-- A cycle before the request is ready passes. -/
theorem blockCycle_wait {s : State} {c : Nat} {a : SlotAsk} (sole : s.dies.asks = [a]) (wait : a.ready c = false) (left : a.left ≠ 0) :
    blockCycle s c = { s with dies := { s.dies with asks := [a], askAt := c + 1 } } := by
  unfold blockCycle
  rw [blockGrants_wait sole wait, sole]
  simp [requesters, dedupBlocks, countCycle, wait, afterCycle, left]

/-- In the cycle of its grant the request is done, and the grant is counted. -/
theorem blockCycle_grant {s : State} {c : Nat} {a : SlotAsk} (sole : s.dies.asks = [a]) (ready : a.ready c = true)
    (free : keysAt s (a.wheel / 16) a.unit c = 0) (ranked : a.req ∈ rankOrder (s.live 0x129000) 3) (one : a.left ≤ 1) (first : a.run = 0) (low : a.wheel < 64) :
    blockCycle s c = { countUp s (whlCnt a.wheel a.req) 1 with dies := { s.dies with asks := [], askAt := c + 1 } } := by
  have same : (countUp s (whlCnt a.wheel a.req) 1).dies = s.dies := rfl
  unfold blockCycle
  rw [blockGrants_sole sole ready free ranked, sole]
  simp [requesters, dedupBlocks, countCycle, ready, afterCycle, one, low, first, maxNat, same]

/-- A request that is alone and becomes ready in the second cycle is granted there, and no other cycle counts. -/
theorem blockSlots_second {s : State} {c : Nat} {a : SlotAsk} (n : Nat) (sole : s.dies.asks = [a]) (at_ : s.dies.askAt = c) (wait : a.ready c = false)
    (ready : a.ready (c + 1) = true) (free : s.dies.book = []) (ranked : a.req ∈ rankOrder (s.live 0x129000) 3) (one : a.left = 1) (first : a.run = 0)
    (low : a.wheel < 64) : blockSlots (n + 2) s = { countUp s (whlCnt a.wheel a.req) 1 with dies := { s.dies with asks := [], askAt := c + 2 } } := by
  show blockSlots (n + 1 + 1) s = _
  unfold blockSlots
  rw [if_neg (by simp [sole]), at_, blockCycle_wait sole wait (by omega)]
  generalize hx : ({ s with dies := { s.dies with asks := [a], askAt := c + 1 } } : State) = x
  have keeps : x.dies = { s.dies with asks := [a], askAt := c + 1 } ∧ x.live = s.live := by rw [← hx]; exact ⟨rfl, rfl⟩
  obtain ⟨dies, live⟩ := keeps
  unfold blockSlots
  rw [if_neg (by simp [dies]), show x.dies.askAt = c + 1 by rw [dies], blockCycle_grant (s := x) (a := a) (by rw [dies]) ready
    (by unfold keysAt; rw [dies, free]; rfl) (by rw [live]; exact ranked) (by omega) first low]
  have last : ∀ y : State, y.dies.asks = [] → blockSlots n y = y := fun y none_ => by
    cases n with
    | zero => rfl
    | succ n => unfold blockSlots; rw [none_]; rfl
  rw [last _ rfl, dies, ← hx]
  rfl

theorem dramSlots_none {s : State} (n : Nat) (none_ : s.dies.dram = []) : dramSlots n s = s := by
  cases n with
  | zero => rfl
  | succ n =>
    unfold dramSlots
    rw [none_]
    rfl

end Sys2Proof.Machine

namespace Sys2Proof.Claim

open Machine

/-- One credit more of a context is owed to its port. -/
theorem returnCredit_back (s : State) (port ctx : Nat) : natAt ((returnCredit s port ctx).link port).back ctx =
    natAt (s.link port).back ctx + (if ctx < (s.link port).back.length ∧ port < s.links.length then 1 else 0) := by
  unfold returnCredit
  by_cases there : port < s.links.length
  · rw [link_modLink _ _ _ _ there, if_pos rfl]
    dsimp only
    by_cases ctx_ : ctx < (s.link port).back.length
    · unfold natAt
      rw [getD_listMod _ _ _ _ _ ctx_, if_pos rfl, if_pos ⟨ctx_, there⟩]
    · unfold natAt
      rw [if_neg (by simp [ctx_]), getD_past _ _ (by simpa using ctx_), getD_past _ _ (by simpa using ctx_)]
  · rw [if_neg (by simp [there])]
    have out : ∀ l : List Link, l.length ≤ port → l.getD port Link.reset = Link.reset := fun l h => getD_past _ _ h
    unfold State.link State.modLink
    rw [out _ (by simpa using there), out _ (by simpa using there)]
    rfl

/-- The response of a hold entry that posts nothing leaves at its latency, or is dropped and counted. -/
theorem responseEmit_gives {i : Instr} {s u : State} {port : Fin 16} {ctx : Fin 8} {h : Hold}
    (run : exec i s = .next (emitResponse u port ctx [] none)) (oldest : oldestHold u port ctx = some h) (ok : quiet h = true)
    (turn : emitsLater u port ctx (h.t0 + 8 * h.lat) = false) : Gives i s (fun v =>
    v.now = max u.now (h.t0 + 8 * h.lat) ∧ v.holds.length + 1 = u.holds.length ∧
    natAt (v.link port).back ctx = natAt (u.link port).back ctx + (if ctx < (u.link port).back.length ∧ port < u.links.length then 1 else 0) ∧
    (linkUp (u.link port) = true → v.out = u.out ++ [.frame port (h.t0 + 8 * h.lat) (responseFrame h)] ∧ v.regs = u.regs) ∧
    (linkUp (u.link port) = false → v.out = u.out ∧ Counts u v (hpAddr port 0x54)) ∧
    v = { u with now := v.now, holds := v.holds, links := v.links, tables := v.tables, out := v.out, regs := v.regs }) := by
  obtain ⟨k, find, get⟩ := findIdx_some _ _ 0 h oldest
  have mine := List.find?_some oldest
  simp only [Bool.and_eq_true, beq_iff_eq] at mine
  have alone : h.csc.isEmpty = true := by
    simp only [quiet, Bool.and_eq_true] at ok
    exact ok.1.1.1.1.1
  have short : k < u.holds.length := (List.getElem?_eq_some_iff.mp get).1
  unfold emitResponse at run
  rw [find] at run
  dsimp only at run
  rw [Nat.zero_add, get] at run
  dsimp only at run
  rw [if_neg (by simp [turn]), finishCsc, if_pos alone, ite_self] at run
  obtain ⟨w, stats, emits⟩ := emitHold_quiet (s := { advance (h.t0 + 8 * h.lat) u with holds := u.holds.eraseIdx k }) ok
  dsimp only at run
  rw [emits, mine.1, mine.2] at run
  have links : w.links = u.links := by rw [stats]; rfl
  have link : w.link port = u.link port := link_of_links links port
  have holds : w.holds.length + 1 = u.holds.length := by
    rw [stats]
    show (u.holds.eraseIdx k).length + 1 = _
    rw [List.length_eraseIdx, if_pos short]
    omega
  rw [link] at run
  have credit : ∀ x : State, x.links = u.links → natAt ((markSettling (returnCredit x port ctx) false).link port).back ctx =
      natAt (u.link port).back ctx + (if ctx < (u.link port).back.length ∧ port < u.links.length then 1 else 0) := fun x same => by
    have back := returnCredit_back x port ctx
    rw [link_of_links same port, same] at back
    exact back
  cases up : linkUp (u.link port) with
  | true =>
    rw [up, if_pos rfl] at run
    exact gives_of run ⟨by rw [stats]; rfl, holds, credit _ links, fun _ => ⟨by rw [stats]; rfl, by rw [stats]; rfl⟩, fun h => (by cases h), by rw [stats]; rfl⟩
  | false =>
    rw [up, if_neg (by decide)] at run
    have counts := counts_bump w (hpAddr port 0x54)
    have only : w.bump (hpAddr port 0x54) = { w with regs := (w.bump (hpAddr port 0x54)).regs } := by apply State.same_fields <;> simp
    generalize w.bump (hpAddr port 0x54) = x at run counts only
    refine gives_of run ⟨by rw [only, stats]; rfl, by rw [← holds, only]; rfl, credit _ (by rw [only]; exact links), fun h => (by cases h),
      fun _ => ⟨by rw [only, stats]; rfl, ?_⟩, by rw [only, stats]; rfl⟩
    exact counts.of_live (by rw [stats]; rfl) rfl

/-- Settles O10: the order of the hub cycle, and the emission of a hold entry that posts nothing. -/
theorem responseLeavesAtItsLatency : Obligations.ResponseLeavesAtItsLatency := by
  unfold Obligations.ResponseLeavesAtItsLatency
  intro s port ctx h u
  have run : exec (.responseEmit port ctx [] none) s = .next (emitResponse u port ctx [] none) := rfl
  clear_value u
  refine fun oldest => ⟨fun later => ?_, fun ok turn => responseEmit_gives run oldest ok turn⟩
  obtain ⟨k, find, get⟩ := findIdx_some _ _ 0 h oldest
  rw [run]
  unfold emitResponse
  rw [find]
  dsimp only
  rw [Nat.zero_add, get]
  dsimp only
  rw [if_pos later]

/-! ### A request whose profile is none of the 256 -/

/-- A link once the oldest request of a context has been taken from its buffer and the slots of the response are booked. -/
def bookedLink (u : State) (port ctx t0 : Nat) (r : Req) (l : Link) : Link :=
  let g := firstSlot (u.link port) (t0 + 8 * requestLat u r.profile t0)
  let e := lastOf (u.link port) ((profileLen u r.profile + 255) / 256) g
  let l := bookSlots (dropReq l ctx) t0 g e
  { l with lastSlot := l.lastSlot.set ctx e }

/-- A key-form request that may be accepted runs its lookups at t0, with the slots of its response booked and the wheels granted up to then. -/
theorem acceptRequest_acceptable {u : State} {port ctx t : Nat} {r : Req} (faults : List FaultAt) (parse : Option Nat)
    (ok : acceptable u port ctx t r = true) (key : r.hform = false) : acceptRequest u port ctx t faults parse =
      holdFor ((wheelsTo { u with now := acceptAt u t, walkEnds := u.walkEnds.filter (fun w => decide (acceptAt u t < w)) }).modLink port (bookedLink u port ctx (acceptAt u t) r)) port r
        (requestLat u r.profile (acceptAt u t)) (acceptAt u t) faults parse := by
  simp only [acceptable, Bool.and_eq_true, beq_iff_eq, decide_eq_true_eq] at ok
  obtain ⟨⟨⟨⟨⟨⟨⟨first, takes⟩, up⟩, free⟩, later⟩, few⟩, room⟩, -⟩ := ok
  have full : queueFull u = false := decide_eq_false (by omega)
  unfold acceptRequest
  dsimp only
  rw [first]
  dsimp only
  rw [if_neg, if_neg (by simp [full]), if_neg (by simp [key]), if_neg (by simp [key])]
  · rfl
  · simp only [acceptAt] at free later
    simp only [takes, up, free, Bool.not_true, Bool.false_or, Bool.or_eq_true, decide_eq_true_eq]
    omega

/-- A request that names profile 0x3A0: the address of its first register is that of a grant counter of the wheels. -/
def strayReq : Req :=
  { hform := false, ctx := 0, tag := 0, profile := 0x3A0, length := 0, tok := none, vec := 0, winLen := 0, hostClass := 0, root := 0, frameLen := 0
    window := [], flits := 1, waited := false }

/-- A search that waits for a slot of wheel 0. -/
def strayAsk : SlotAsk := { wheel := 0, unit := 0, req := 1, left := 1, made := 0, since := 0 }

/-- The request waits on port 0, and the search for the grant that sets bit 31 of the counter. -/
def strayState : State := { State.reset with
  stage := { Stage.reset 0 with stage := 1 }
  links := [{ Link.reset with st := 2, width := 1, rx := [strayReq], lastSlot := [0] }]
  dies := { Dies.reset with asks := [strayAsk] }
  regs := { Regs.reset with live := [(0x129000, 1), (pfAddr 0x3A0 0, 0x7FFFFFFF)] } }

/-- The state at t0, before the grants. -/
def strayT0 : State := { pre strayState with now := 1000, walkEnds := [] }

/-- The state at t0. -/
def strayMet : State := { countUp strayT0 (pfAddr 0x3A0 0) 1 with dies := { strayT0.dies with asks := [], askAt := 6 } }

theorem strayState_accepts : acceptable (pre strayState) 0 0 1000 strayReq = true ∧ bit ((pre strayState).live (pfAddr strayReq.profile 0)) 31 = false := by
  decide +kernel

theorem strayT0_asks : strayT0.dies.asks = [strayAsk] ∧ strayT0.dies.askAt = 4 ∧ strayT0.dies.dram = [] ∧ strayT0.dies.book = [] ∧
    strayAsk.req ∈ rankOrder (strayT0.live 0x129000) 3 := by decide +kernel

/-- The search is granted before t0, and the grant counts in the word that the request takes for its profile. -/
theorem strayT0_granted : wheelsTo strayT0 = strayMet := by
  obtain ⟨asks, at_, dram, book, ranked⟩ := strayT0_asks
  have slots : blockSlots (1000 / 10 + 4 - 4) strayT0 = strayMet :=
    blockSlots_second 98 asks at_ (by decide) (by decide) book ranked rfl rfl (by decide)
  unfold wheelsTo
  rw [at_, show strayT0.now = 1000 from rfl, slots, dramSlots_none (s := strayMet) _ dram]
  rfl

/-- The profile has become VALID by t0, and no event is raised. -/
theorem strayMet_unflagged : bit ((holdFor (strayMet.modLink 0 (bookedLink (pre strayState) 0 0 1000 strayReq)) 0 strayReq
    (requestLat (pre strayState) strayReq.profile 1000) 1000 [] none).live (0x20000 + evLkpNoProfile.src / 16 * 4)) (evLkpNoProfile.src % 16) = false := by
  decide +kernel

/-- Refutes O9: a request in the receive buffer of a state may name a profile beyond the 256, whose register is a counter of the wheels; a grant
before t0 then makes the profile VALID, its lookups run, and LKP_NO_PROFILE is not raised. -/
theorem not_acceptanceFixesTimeAndView : ¬ Obligations.AcceptanceFixesTimeAndView := by
  unfold Obligations.AcceptanceFixesTimeAndView
  intro h
  obtain ⟨accepts, invalid⟩ := strayState_accepts
  obtain ⟨v, run, flagged, -⟩ := (h strayState 0 0 1000 [] none strayReq accepts).2 rfl rfl rfl invalid
  have is : exec (.requestAccept 0 0 1000 [] none) strayState = .next (acceptRequest (pre strayState) 0 0 1000 [] none) := rfl
  have t0 : acceptAt (pre strayState) 1000 = 1000 := by decide +kernel
  rw [is, acceptRequest_acceptable [] none accepts rfl, t0] at run
  have met : wheelsTo { pre strayState with now := 1000, walkEnds := (pre strayState).walkEnds.filter (fun w => decide (1000 < w)) } = strayMet :=
    strayT0_granted
  rw [met] at run
  cases run
  exact absurd flagged (by rw [Flagged, strayMet_unflagged]; decide)

end Sys2Proof.Claim
end

section
/-! PROOFS. What tells of an action of a step, and ownership by rule (O34). -/

namespace Sys2Proof.Machine

/-! ### What tells of an action -/

/-- A register that no event, no flagged action and no narrower link writes. -/
def calm (a : Nat) : Bool := !evReg a && a != 0x30018 && (List.range 18).all (fun p => a != hpAddr p 0x50)

theorem calm_iff {a : Nat} : calm a = true ↔ evReg a = false ∧ a ≠ 0x30018 ∧ ∀ p, p < 18 → a ≠ hpAddr p 0x50 := by
  simp [calm, and_assoc]

/-- `t` is `s` after what tells of an action: events, vectors, flags, links that take their width. -/
structure Tells (s t : State) : Prop where
  frame : LinkOnly s t
  regs : LiveOnly s.regs t.regs
  live : ∀ a, calm a = true → t.live a = s.live a
  flags : ∀ n i, n < 44 → bit (s.live (0x20000 + n * 4)) i = true → bit (t.live (0x20000 + n * 4)) i = true

namespace Tells

theorem refl (s : State) : Tells s s := ⟨rfl, rfl, fun _ _ => rfl, fun _ _ _ h => h⟩

theorem trans {a b c : State} (h : Tells a b) (g : Tells b c) : Tells a c where
  frame := h.frame.trans g.frame
  regs := h.regs.trans g.regs
  live r hr := (g.live r hr).trans (h.live r hr)
  flags n i hn f := g.flags n i hn (h.flags n i hn f)

theorem ite {c : Prop} [Decidable c] {s a b : State} (ha : Tells s a) (hb : Tells s b) : Tells s (if c then a else b) := by
  split <;> assumption

theorem raise (s : State) (e : Ev) (a b c : Nat) (h : e.src < 704) : Tells s (s.raise e a b c) where
  frame := by unfold LinkOnly; apply State.same_fields <;> simp
  regs := raise_liveOnly ..
  live r hr := live_raise _ _ _ _ _ _ (calm_iff.mp hr).1 h
  flags n i hn f := raise_keeps_flag _ _ _ _ _ _ _ h hn f

theorem sendMsix (s : State) (p v : Nat) (h : v < 64) : Tells s (sendMsix s p v) where
  frame := by unfold LinkOnly; rw [sendMsix_frame]
  regs := sendMsix_liveOnly ..
  live r hr := live_sendMsix _ _ _ _ (calm_iff.mp hr).1 h
  flags n i hn f := by rwa [sendMsix_keeps_live _ _ _ _ (statusWord n hn).1 h]

/-- A live value that counts or notes what was done, in a register that is not calm and no status word. -/
theorem bumpField (s : State) (hi lo n : Nat) : Tells s (s.bumpField 0x30018 hi lo n) where
  frame := by unfold LinkOnly; apply State.same_fields <;> simp
  regs := bumpField_liveOnly ..
  live r hr := live_bumpField_ne _ _ _ _ _ _ (calm_iff.mp hr).2.1
  flags k i hk f := by rwa [live_bumpField_ne _ _ _ _ _ _ (by omega)]

theorem heldAction (s : State) (k o : Nat) : Tells s (heldAction s k o) := by
  unfold Machine.heldAction
  split
  · exact (bumpField s ..).trans (raise _ _ _ _ _ (by decide))
  · exact refl s

theorem widthChange (s : State) {p : Nat} (w t : Nat) (hp : p < 18) : Tells s (widthChange s p w t) where
  frame := widthChange_frame ..
  regs := widthChange_liveOnly ..
  live r hr := widthChange_live _ _ _ hp (calm_iff.mp hr).1 ((calm_iff.mp hr).2.2 p hp)
  flags n i hn f := by
    obtain ⟨g, eq⟩ := widthChange_eq s p w t
    rw [eq]
    split
    · refine raise_keeps_flag _ _ _ _ _ _ _ (by show 272 + 16 * p + 1 < 704; omega) hn ?_
      rwa [live_bump_ne _ _ _ _ (by unfold hpAddr; omega)]
    · exact f

theorem settleLinks (s : State) : Tells s (settleLinks s) := by
  have each : ∀ (l : List Nat) (q : State), (∀ p ∈ l, p < 18) → Tells q (l.foldl settleLink q) := by
    intro l
    induction l with
    | nil => exact fun q _ => refl q
    | cons p l ih =>
      intro q low
      have hp := low p List.mem_cons_self
      exact (settleLink_rel q p (refl q) (fun w t => widthChange q w t hp)).trans (ih _ (fun p h => low p (List.mem_cons_of_mem _ h)))
  exact each _ s (fun p h => List.mem_range.mp h)

theorem settle (s : State) : Tells s (settle_ s) where
  frame := settle_frame s
  regs := settle_liveOnly s
  live r hr := settle_live s (calm_iff.mp hr).1 (calm_iff.mp hr).2.2
  flags n i hn f := by
    rw [live_of_regs (congrArg Regs.live (settle_regs s))]
    exact (settleLinks s).flags n i hn f

/-- A change of ownership tells of itself. -/
theorem setOwn (s : State) (o : Own) : Tells { s with own := o } (setOwn s o) := by
  unfold Machine.setOwn
  exact .ite (refl _) ((raise _ _ _ _ _ (by decide)).trans
    (((sendMsix _ 0 1 (by decide)).trans (sendMsix _ 1 1 (by decide))).trans ((sendMsix _ 2 1 (by decide)).trans (sendMsix _ 3 1 (by decide)))))

/-- An event told of stays told of. -/
theorem flagged {s t : State} {e : Ev} (h : Tells s t) (low : e.src < 704) (f : Claim.Flagged s e) : Claim.Flagged t e :=
  h.flags _ _ (by omega) f

end Tells

/-- A change of state or of owner is told of as OWN_CHANGE. -/
theorem setOwn_flags (s : State) (o : Own) (h : ¬(o.st = s.own.st ∧ o.owner = s.own.owner)) : Claim.Flagged (setOwn s o) evOwnChange := by
  unfold setOwn
  rw [if_neg h]
  have told : Claim.Flagged (({ s with own := o } : State).raise evOwnChange (ownWord s.own) (ownWord o) s.epoch.count) evOwnChange :=
    raise_flags _ _ _ _ _ (by decide)
  exact (((Tells.sendMsix _ 0 1 (by decide)).trans (.sendMsix _ 1 1 (by decide))).trans
    ((Tells.sendMsix _ 2 1 (by decide)).trans (.sendMsix _ 3 1 (by decide)))).flagged (by decide) told

/-! ### Steps of ownership -/

/-- Ownership, the commands, links and what tells of them are all that may differ. -/
def OwnOnly (s t : State) : Prop := t = { s with
  own := t.own, cmds := t.cmds, links := t.links, regs := t.regs, mgmt := t.mgmt, out := t.out }

theorem OwnOnly.trans {a b c : State} (h : OwnOnly a b) (g : OwnOnly b c) : OwnOnly a c := by
  unfold OwnOnly at h g ⊢
  rw [g, h]

theorem Tells.ownOnly {s t : State} (h : Tells s t) : OwnOnly s t := by
  have frame := h.frame
  unfold LinkOnly at frame
  unfold OwnOnly
  rw [frame]

/-- What a change of ownership, and what tells of it, leave. -/
structure Passes (s t : State) (o : Own) (cmds : List Cmd) : Prop where
  only : OwnOnly s t
  own : t.own = o
  cmds : t.cmds = cmds
  live : ∀ a, calm a = true → t.live a = s.live a
  flags : ∀ n i, n < 44 → bit (s.live (0x20000 + n * 4)) i = true → bit (t.live (0x20000 + n * 4)) i = true

theorem Passes.tells {s t v : State} {o : Own} {cmds : List Cmd} (h : Passes s t o cmds) (g : Tells t v) : Passes s v o cmds where
  only := h.only.trans g.ownOnly
  own := by rw [g.frame]; exact h.own
  cmds := by rw [g.frame]; exact h.cmds
  live a ha := (g.live a ha).trans (h.live a ha)
  flags n i hn f := g.flags n i hn (h.flags n i hn f)

theorem Passes.flagged {s t : State} {o : Own} {cmds : List Cmd} {e : Ev} (h : Passes s t o cmds) (low : e.src < 704) (f : Claim.Flagged s e) :
    Claim.Flagged t e := h.flags _ _ (by omega) f

theorem setOwn_passes (s : State) (o : Own) : Passes s (setOwn s o) o s.cmds :=
  Passes.tells (t := { s with own := o }) ⟨rfl, rfl, rfl, fun _ _ => rfl, fun _ _ _ f => f⟩ (.setOwn s o)

/-- The commands once the handover in progress, if any, has ended with a status. -/
def handEnded (s : State) (status : Nat) : List Cmd := match s.own.hand with
  | none => s.cmds
  | some h => endCmd s.cmds h.cmd status 0xFFFFFFFF 0 false

/-- The drain begins: ownership is DRAINING, a handover has ended EXPIRED, and OWN_EXPIRE tells of it. -/
theorem expireOwner_spec (s : State) (cause : Nat) : ∃ x, OwnOnly s x ∧ x.own = s.own ∧ x.cmds = handEnded s stExpired ∧
    (∀ a, a ≠ 0x10018 → x.live a = s.live a) ∧ (cause = 0 → bit (x.live 0x10018) 0 = true) ∧
    Passes x (expireOwner s cause) { s.own with st := .draining, hand := none } (handEnded s stExpired) ∧ Claim.Flagged (expireOwner s cause) evOwnExpire := by
  obtain ⟨y, hy⟩ : ∃ y : State, y = { s with cmds := handEnded s stExpired } := ⟨_, rfl⟩
  have ended : (match s.own.hand with
      | none => s
      | some h => finish s h.cmd stExpired) = y := by
    rw [hy]
    unfold handEnded
    cases s.own.hand with
    | none => rfl
    | some h => exact finish_plain _ _ _ _ _ (by decide)
  obtain ⟨x, hx⟩ : ∃ x : State, x = if cause = 0 then y.setBits 0x10018 1 else y := ⟨_, rfl⟩
  have frame : x = { y with regs := x.regs } := by
    rw [hx]
    split
    · apply State.same_fields <;> simp
    · rfl
  have own : x.own = s.own := by rw [frame, hy]
  have cmds : x.cmds = handEnded s stExpired := by rw [frame, hy]
  have told := Tells.raise x evOwnExpire x.own.owner cause x.epoch.count (by decide)
  have flag : Claim.Flagged (x.raise evOwnExpire x.own.owner cause x.epoch.count) evOwnExpire := raise_flags _ _ _ _ _ (by decide)
  have eq : expireOwner s cause = heldAction (setOwn (x.raise evOwnExpire x.own.owner cause x.epoch.count)
      { (x.raise evOwnExpire x.own.owner cause x.epoch.count).own with st := .draining, hand := none }) 1 0xFFFFFFFF := by
    rw [hx, ← ended]
    rfl
  generalize x.raise evOwnExpire x.own.owner cause x.epoch.count = z at told flag eq
  have kept : z.own = s.own ∧ z.cmds = handEnded s stExpired := by rw [told.frame]; exact ⟨own, cmds⟩
  rw [kept.1] at eq
  have passes := (setOwn_passes z { s.own with st := .draining, hand := none }).tells (.heldAction _ 1 0xFFFFFFFF)
  rw [← eq, kept.2] at passes
  refine ⟨x, by rw [frame, hy]; rfl, own, cmds, fun a ne => ?_, fun zero => ?_, ?_, passes.flagged (by decide) flag⟩
  · rw [hx]
    split
    · rw [live_setBits_ne _ _ _ _ ne, hy]; rfl
    · rw [hy]; rfl
  · rw [hx, if_pos zero, live_setBits_same, bit_or]
    simp [bit_word]
  · exact ⟨told.ownOnly.trans passes.only, passes.own, passes.cmds, fun a ha => (passes.live a ha).trans (told.live a ha),
      fun n i hn f => passes.flags n i hn (told.flags n i hn f)⟩

/-- Without a link cause, a lease that is past ends. -/
theorem leaseEndAt_past {s : State} (st : s.own.st = .owned ∨ s.own.st = .handing) (loss : s.own.linkLoss = none) (past : leaseNow s ≤ s.epoch.count) :
    leaseEndAt s = endLease s := by
  have own : ({ s.own with linkLoss := none } : Own) = s.own := by rw [← loss]
  have same : ({ s with own := { s.own with linkLoss := none } } : State) = s := by rw [own]
  unfold leaseEndAt
  dsimp only
  rw [if_neg (by simp [loss]), if_pos ⟨st, past⟩, same]

/-- A link cause begins the drain. -/
theorem leaseEndAt_loss {s : State} {w : Nat} (st : s.own.st = .owned ∨ s.own.st = .handing) (loss : s.own.linkLoss = some w) :
    leaseEndAt s = expireOwner { s with own := { s.own with linkLoss := none } } w := by
  unfold leaseEndAt
  dsimp only
  rw [if_pos ⟨st, by simp [loss]⟩, loss]
  rfl

theorem Passes.withCmds {s t : State} {o : Own} {cmds : List Cmd} (h : Passes s t o cmds) (l : List Cmd) : Passes s { t with cmds := l } o l where
  only := h.only.trans rfl
  own := h.own
  cmds := rfl
  live := h.live
  flags := h.flags

/-- Commands of which those with the identity of a chosen one have ended OK at an epoch. -/
def endAll (p : Cmd → Bool) (l m : List Cmd) (vis : Nat) (held : Bool) : List Cmd :=
  m.map (fun d => if l.any (fun c => p c && c.id == d.id) then d.ended stOk 0xFFFFFFFF vis held else d)

theorem endAll_cons (p : Cmd → Bool) (c : Cmd) (l m : List Cmd) (vis : Nat) (held : Bool) : endAll p (c :: l) m vis held =
    endAll p l (if p c then endCmd m c.id stOk 0xFFFFFFFF vis held else m) vis held := by
  unfold endAll
  cases chosen : p c with
  | false => simp [chosen]
  | true =>
    rw [if_pos rfl, endCmd, List.map_map]
    refine List.map_congr_left fun d _ => ?_
    rw [List.any_cons, chosen, Bool.true_and]
    have id : (d.ended stOk 0xFFFFFFFF vis held).id = d.id := rfl
    by_cases same : d.id = c.id
    · simp only [Function.comp, same, beq_self_eq_true, Bool.true_or, if_true, id]
      split <;> rfl
    · have apart : (c.id == d.id) = false := beq_false_of_ne (Ne.symm same)
      simp only [Function.comp, beq_false_of_ne same, apart, Bool.false_or, Bool.false_eq_true, if_false]

/-- The releases complete at the step. -/
theorem foldl_releases (l : List Cmd) (s : State) (p : Cmd → Bool) : l.foldl (fun s c =>
      if p c then finishAs s c.id stOk 0xFFFFFFFF s.epoch.count s.epoch.held else s) s =
    { s with cmds := endAll p l s.cmds s.epoch.count s.epoch.held } := by
  induction l generalizing s with
  | nil => simp [endAll]
  | cons c l ih =>
    rw [List.foldl_cons, ih, endAll_cons]
    cases p c with
    | false => rfl
    | true =>
      rw [if_pos rfl, if_pos rfl, finishAs_plain _ _ _ _ _ _ (by decide)]

/-- Is a release not yet finished? -/
def openRelease (c : Cmd) : Bool := releases c && c.st != .finished

/-- Ownership falls vacant, and the releases end. -/
theorem vacateOwner_passes (s : State) : Passes s (vacateOwner s) { s.own with st := .vacant, probation := false }
      (endAll openRelease s.cmds s.cmds s.epoch.count s.epoch.held) ∧
    (s.own.st = .draining → Claim.Flagged (vacateOwner s) evOwnChange) := by
  have first := setOwn_passes s { s.own with st := .vacant, probation := false }
  have flag := setOwn_flags s { s.own with st := .vacant, probation := false }
  have runs : vacateOwner s = heldAction ((setOwn s { s.own with st := .vacant, probation := false }).cmds.foldl (fun s c =>
      if openRelease c then finishAs s c.id stOk 0xFFFFFFFF s.epoch.count s.epoch.held else s)
      (setOwn s { s.own with st := .vacant, probation := false })) 1 0xFFFFFFFF := rfl
  generalize setOwn s { s.own with st := .vacant, probation := false } = w at first flag runs
  have epoch : w.epoch = s.epoch := by rw [first.only]
  rw [foldl_releases] at runs
  have told := Tells.heldAction { w with cmds := endAll openRelease w.cmds w.cmds w.epoch.count w.epoch.held } 1 0xFFFFFFFF
  rw [← runs] at told
  have passes := (first.withCmds _).tells told
  rw [first.cmds, epoch] at passes
  exact ⟨passes, fun st => told.flagged (by decide) (flag (by simp [st]))⟩

theorem bestBallot_of {s t : State} (now : t.now = s.now) (ballots : t.own.ballots = s.own.ballots) : bestBallot t = bestBallot s := by
  unfold bestBallot
  rw [now, ballots]

/-- The winner of an election owns the module for a new lease. -/
theorem elect_spec {s : State} {p : Nat} (best : bestBallot s = some p) : OwnOnly s (elect s) ∧ ∃ b : Ballot, (elect s).own = { s.own with
    st := .owned, owner := p, probation := false, rank := b.rank, token := b.token, hand := none
    began := s.epoch.count, beganHeld := s.epoch.held, leaseEnd := s.epoch.count + leaseLen s
    ballots := s.own.ballots.set p { b with pending := false, result := 2 } } := by
  obtain ⟨b, hb⟩ : ∃ b, b = s.own.ballots.getD p { pending := false, rank := 0, token := 0, result := 0, castAt := 0 } := ⟨_, rfl⟩
  obtain ⟨o, ho⟩ : ∃ o : Own, o = { s.own with
    st := .owned, owner := p, probation := false, rank := b.rank, token := b.token, hand := none
    began := s.epoch.count, beganHeld := s.epoch.held, leaseEnd := s.epoch.count + leaseLen s
    ballots := s.own.ballots.set p { b with pending := false, result := 2 } } := ⟨_, rfl⟩
  have first := setOwn_passes s o
  obtain ⟨f, hf⟩ : ∃ f : State → Cmd → State, f = fun (s : State) (c : Cmd) =>
      if c.st == .waiting .election then
        (if c.mb == p then finishAs s c.id stOk 0xFFFFFFFF s.epoch.count s.epoch.held
         else finish s c.id stNotOwner)
      else s := ⟨_, rfl⟩
  have each : ∀ q c, f q c = { q with cmds := (f q c).cmds } := fun q c => by
    rw [hf]
    dsimp only
    split
    · split
      · rw [finishAs_plain _ _ _ _ _ _ (by decide)]
      · rw [finish_plain _ _ _ _ _ (by decide)]
    · rfl
  have fold := foldl_rel (R := fun (a b : State) => b = { a with cmds := b.cmds }) (fun _ => rfl) (fun h g => by rw [g, h]) each
    (setOwn s o).cmds (setOwn s o)
  have eq : elect s = heldAction ((setOwn s o).cmds.foldl f (setOwn s o)) 1 p := by
    unfold elect
    rw [best, ho, hf, hb]
  generalize (setOwn s o).cmds.foldl f (setOwn s o) = w at fold eq
  have told := Tells.heldAction w 1 p
  rw [← eq] at told
  refine ⟨first.only.trans (OwnOnly.trans (b := w) ?_ told.ownOnly), b, ?_⟩
  · rw [fold]
    rfl
  · rw [told.frame]
    show w.own = _
    rw [fold, ← ho]
    exact first.own

end Sys2Proof.Machine

namespace Sys2Proof.Claim

open Machine

/-- An action of the step, applied by the row that names it: the rest stays due, and what happens by itself is told of. -/
theorem gives_due {i : Instr} {s t : State} {p : Due → Bool} {d : Due} {l : List Due} (run : exec i s = .next (settle_ (dueUpTo p s)))
    (now : DueNow s p d l) (acts : runDue { s with due := [] } d = t) (stays : t.due = []) :
    ∃ v, exec i s = .next v ∧ Tells { t with due := l } v :=
  ⟨_, run, by rw [dueUpTo_now now (by rw [acts, stays]), acts]; exact .settle _⟩

/-! ### The end of a lease -/

/-- Commands of which one has ended. -/
theorem endCmd_ended {l : List Cmd} {id status handle vis : Nat} {held : Bool} {d : Cmd} (h : d ∈ endCmd l id status handle vis held) (same : d.id = id) :
    d.st = .finished ∧ d.status = status ∧ d.vis = vis ∧ d.held = held := by
  obtain ⟨c, hc, eq⟩ := List.mem_map.mp h
  by_cases this : c.id = id
  · rw [if_pos (by simpa using this)] at eq
    rw [← eq]
    exact ⟨rfl, rfl, rfl, rfl⟩
  · rw [if_neg (by simpa using this)] at eq
    rw [eq] at this
    exact absurd same this

/-- LEASE_END without a link cause: the lease has ended at this step. -/
theorem leaseEnd_gives {s : State} {l : List Due} (now : DueNow s (fun d => d == .leaseEnd) .leaseEnd l) (st : s.own.st = .owned ∨ s.own.st = .handing)
    (loss : s.own.linkLoss = none) (past : leaseNow s ≤ s.epoch.count) : Gives .leaseEnd s (fun v =>
      v.own = { s.own with st := .draining, hand := none, leaseEnd := leaseNow s } ∧
      bit (v.live 0x10018) 0 = true ∧ Flagged v evOwnExpire ∧ (∀ e : Nat, lateRenewal s = some (e, true) → Flagged v evRegCollide) ∧
      (∀ h : Handover, s.own.hand = some h → ∀ d ∈ v.cmds, d.id = h.cmd → d.st = .finished ∧ d.status = stExpired) ∧
      v.due = l ∧ v.tables = s.tables ∧ v.mem = s.mem ∧ v.epoch = s.epoch) := by
  obtain ⟨x, hx⟩ : ∃ x : State, x = { s with due := [], own := { s.own with leaseEnd := leaseNow s } } := ⟨_, rfl⟩
  obtain ⟨y, hy⟩ : ∃ y : State, y = match lateRenewal s with
    | some (_, true) => x.raise evRegCollide 0x1000C
    | _ => x := ⟨_, rfl⟩
  obtain ⟨z, hz⟩ : ∃ z : State, z = { y with regs := { y.regs with hard := mapSet y.regs.hard 0x1000C (y.now, 1) } } := ⟨_, rfl⟩
  have runs : runDue { s with due := [] } .leaseEnd = expireOwner z 0 := by
    show leaseEndAt { s with due := [] } = _
    rw [leaseEndAt_past (s := { s with due := [] }) st loss past, hz, hy, hx]
    rfl
  have first : Tells x y := by
    rw [hy]
    split
    · exact .raise _ _ _ _ _ (by decide)
    · exact .refl x
  have own : z.own = { s.own with leaseEnd := leaseNow s } := by rw [hz]; show y.own = _; rw [first.frame, hx]
  obtain ⟨w, only, -, -, keep, expired, passes, flag⟩ := expireOwner_spec z 0
  have whole : OwnOnly { s with due := [] } (expireOwner z 0) := by
    refine OwnOnly.trans (b := z) ?_ (only.trans passes.only)
    rw [hz]
    refine OwnOnly.trans (b := y) ?_ rfl
    refine OwnOnly.trans (b := x) ?_ first.ownOnly
    rw [hx]
    rfl
  obtain ⟨v, run, told⟩ := gives_due (i := .leaseEnd) rfl now runs (by rw [whole])
  have fields : v.own = (expireOwner z 0).own ∧ v.cmds = (expireOwner z 0).cmds ∧ v.due = l ∧ v.tables = s.tables ∧ v.mem = s.mem ∧ v.epoch = s.epoch := by
    rw [told.frame]
    refine ⟨rfl, rfl, rfl, ?_⟩
    dsimp only
    rw [whole]
    exact ⟨rfl, rfl, rfl⟩
  obtain ⟨ownV, cmdsV, rest⟩ := fields
  have calmReg : calm 0x10018 = true := by decide
  refine ⟨v, run, ?_, ?_, told.flagged (by decide) flag, fun e late => ?_, fun h hand d hd same => ?_, rest⟩
  · rw [ownV, passes.own, own]
  · rw [told.live _ calmReg]
    show bit ((expireOwner z 0).live 0x10018) 0 = true
    rw [passes.live _ calmReg]
    exact expired rfl
  · have raised : Flagged y evRegCollide := by
      rw [hy, late]
      exact raise_flags _ _ _ _ _ (by decide)
    refine told.flagged (by decide) (passes.flagged (by decide) ?_)
    unfold Flagged
    rw [keep _ (by decide), hz]
    exact raised
  · rw [cmdsV, passes.cmds] at hd
    unfold handEnded at hd
    rw [own, hand] at hd
    have ended := endCmd_ended hd same
    exact ⟨ended.1, ended.2.1⟩

/-- LEASE_END with a link cause. -/
theorem linkLoss_gives {s : State} {l : List Due} {w : Nat} (now : DueNow s (fun d => d == .leaseEnd) .leaseEnd l)
    (st : s.own.st = .owned ∨ s.own.st = .handing) (loss : s.own.linkLoss = some w) : Gives .leaseEnd s (fun v =>
      v.own = { s.own with st := .draining, hand := none, linkLoss := none } ∧ Flagged v evOwnExpire ∧
      v.due = l ∧ v.tables = s.tables ∧ v.mem = s.mem ∧ v.epoch = s.epoch) := by
  obtain ⟨z, hz⟩ : ∃ z : State, z = { s with due := [], own := { s.own with linkLoss := none } } := ⟨_, rfl⟩
  have runs : runDue { s with due := [] } .leaseEnd = expireOwner z w := by
    show leaseEndAt { s with due := [] } = _
    rw [leaseEndAt_loss (s := { s with due := [] }) st loss, hz]
  obtain ⟨x, only, -, -, -, -, passes, flag⟩ := expireOwner_spec z w
  have whole : OwnOnly { s with due := [] } (expireOwner z w) := by
    refine OwnOnly.trans (b := z) ?_ (only.trans passes.only)
    rw [hz]
    rfl
  obtain ⟨v, run, told⟩ := gives_due (i := .leaseEnd) rfl now runs (by rw [whole])
  refine ⟨v, run, ?_, told.flagged (by decide) flag, ?_⟩
  · rw [told.frame]
    show (expireOwner z w).own = _
    rw [passes.own, hz]
  · rw [told.frame]
    refine ⟨rfl, ?_⟩
    dsimp only
    rw [whole]
    exact ⟨rfl, rfl, rfl⟩

/-! ### Vacancy and election -/

theorem vacantAt_drained {s : State} (st : s.own.st = .draining) (drained : ownDrained s = true) : vacantAt s = vacateOwner s :=
  if_pos ⟨st, drained⟩

/-- Every release is finished once the open ones have ended. -/
theorem endAll_releases {l : List Cmd} {vis : Nat} {held : Bool} : (∀ d ∈ endAll openRelease l l vis held, releases d = true → d.st = .finished) ∧
    (∀ c ∈ l, releases c = true → c.st ≠ .finished → ∀ d ∈ endAll openRelease l l vis held, d.id = c.id → d.status = stOk ∧ d.vis = vis ∧ d.held = held) := by
  refine ⟨fun d hd release => ?_, fun c hc release open_ d hd same => ?_⟩
  · obtain ⟨e, he, eq⟩ := List.mem_map.mp hd
    split at eq
    · rw [← eq]; rfl
    · rename_i no
      subst eq
      refine Classical.byContradiction fun out => ?_
      exact no (List.any_eq_true.mpr ⟨e, he, by simp [openRelease, release, out]⟩)
  · obtain ⟨e, he, eq⟩ := List.mem_map.mp hd
    split at eq
    · rw [← eq]; exact ⟨rfl, rfl, rfl⟩
    · rename_i no
      subst eq
      exact absurd (List.any_eq_true.mpr ⟨c, hc, by simp [openRelease, release, open_, same]⟩) no

/-- OWNERSHIP_VACANT when no ballot stands. -/
theorem vacant_gives {s : State} {l : List Due} (now : DueNow s isVacant (.vacant true) l) (st : s.own.st = .draining) (drained : ownDrained s = true)
    (best : bestBallot s = none) : Gives .ownershipVacant s (fun v => v.own = { s.own with st := .vacant, probation := false } ∧
      Flagged v evOwnChange ∧ (∀ d ∈ v.cmds, releases d = true → d.st = .finished) ∧
      (∀ c ∈ s.cmds, releases c = true → c.st ≠ .finished → ∀ d ∈ v.cmds, d.id = c.id →
        d.status = stOk ∧ d.vis = s.epoch.count ∧ d.held = s.epoch.held) ∧ v.due = l ∧ v.tables = s.tables ∧ v.mem = s.mem ∧ v.epoch = s.epoch) := by
  obtain ⟨passes, flag⟩ := vacateOwner_passes { s with due := [] }
  have runs : runDue { s with due := [] } (.vacant true) = vacateOwner { s with due := [] } := by
    show electAt (if true then vacantAt { s with due := [] } else { s with due := [] }) = _
    rw [if_pos rfl, vacantAt_drained (s := { s with due := [] }) st drained]
    unfold electAt
    rw [if_pos (by rw [passes.own])]
    unfold elect
    rw [bestBallot_of (s := s) (by rw [passes.only]) (by rw [passes.own]), best]
  generalize vacateOwner { s with due := [] } = w at passes flag runs
  obtain ⟨v, run, told⟩ := gives_due (i := .ownershipVacant) rfl now runs (by rw [passes.only])
  have cmds : v.cmds = w.cmds := by rw [told.frame]
  rw [passes.cmds] at cmds
  obtain ⟨done, ok⟩ := endAll_releases (l := s.cmds) (vis := s.epoch.count) (held := s.epoch.held)
  refine ⟨v, run, ?_, told.flagged (by decide) (flag st), by rw [cmds]; exact done, fun c hc release open_ d hd => ?_, ?_⟩
  · rw [told.frame]
    exact passes.own
  · rw [cmds] at hd
    exact ok c hc release open_ d hd
  · rw [told.frame]
    refine ⟨rfl, ?_⟩
    dsimp only
    rw [passes.only]
    exact ⟨rfl, rfl, rfl⟩

/-- OWNERSHIP_VACANT when a ballot wins. -/
theorem elected_gives {s : State} {l : List Due} {p : Nat} (now : DueNow s isVacant (.vacant true) l) (st : s.own.st = .draining)
    (drained : ownDrained s = true) (best : bestBallot s = some p) : Gives .ownershipVacant s (fun v => v.own.st = .owned ∧ v.own.owner = p ∧
      v.own.probation = false ∧ v.own.leaseEnd = s.epoch.count + leaseLen s ∧ v.own.began = s.epoch.count ∧
      v.own.beganHeld = s.epoch.held ∧ v.due = l ∧ v.tables = s.tables ∧ v.epoch = s.epoch) := by
  obtain ⟨passes, -⟩ := vacateOwner_passes { s with due := [] }
  have runs : runDue { s with due := [] } (.vacant true) = elect (vacateOwner { s with due := [] }) := by
    show electAt (if true then vacantAt { s with due := [] } else { s with due := [] }) = _
    rw [if_pos rfl, vacantAt_drained (s := { s with due := [] }) st drained]
    unfold electAt
    rw [if_pos (by rw [passes.own])]
  generalize vacateOwner { s with due := [] } = w at passes runs
  have epoch : w.epoch = s.epoch := by rw [passes.only]
  have len : leaseLen w = leaseLen s := by
    unfold leaseLen
    rw [passes.live _ (by decide)]
    rfl
  obtain ⟨only, b, own⟩ := elect_spec (s := w) (p := p)
    (by rw [bestBallot_of (s := s) (by rw [passes.only]) (by rw [passes.own]), best])
  rw [epoch, len] at own
  have whole := passes.only.trans only
  obtain ⟨v, run, told⟩ := gives_due (i := .ownershipVacant) rfl now runs (by rw [whole])
  have ownV : v.own = (elect w).own := by rw [told.frame]
  rw [own] at ownV
  refine ⟨v, run, by rw [ownV], by rw [ownV], by rw [ownV], by rw [ownV], by rw [ownV], by rw [ownV], ?_⟩
  rw [told.frame]
  refine ⟨rfl, ?_⟩
  dsimp only
  rw [whole]
  exact ⟨rfl, rfl⟩

/-! ### Handovers -/

theorem handoverAt_due {s : State} {h : Handover} (hand : s.own.hand = some h) (st : s.own.st = .handing) (epoch : h.epoch ≤ s.epoch.count)
    (drained : ownDrained s = true) : handoverAt s = passOwner s h := by
  unfold handoverAt
  rw [hand]
  exact if_pos ⟨st, epoch, drained⟩

/-- HANDOVER_PASS to a port that is up. -/
theorem handover_gives {s : State} {l : List Due} {h : Handover} (now : DueNow s (fun d => d == .handover) .handover l) (hand : s.own.hand = some h)
    (st : s.own.st = .handing) (epoch : h.epoch ≤ s.epoch.count) (drained : ownDrained s = true) (up : s.power.mpUp.getD h.target false = true) :
    Gives .handoverPass s (fun v => v.own = { s.own with
      st := .owned, owner := h.target, probation := true, rank := 0, token := 0, hand := none, began := s.epoch.count
      beganHeld := s.epoch.held, leaseEnd := s.epoch.count + h.window } ∧
      (∀ d ∈ v.cmds, d.id = h.cmd → d.st = .finished ∧ d.status = stOk ∧ d.vis = s.epoch.count) ∧ v.due = l ∧ v.tables = s.tables ∧
      v.epoch = s.epoch) := by
  obtain ⟨x, hx⟩ : ∃ x : State, x = { s with due := [], cmds := endCmd s.cmds h.cmd stOk 0xFFFFFFFF s.epoch.count s.epoch.held } := ⟨_, rfl⟩
  obtain ⟨o, ho⟩ : ∃ o : Own, o = { s.own with
      st := .owned, owner := h.target, probation := true, rank := 0, token := 0, hand := none, began := s.epoch.count
      beganHeld := s.epoch.held, leaseEnd := s.epoch.count + h.window } := ⟨_, rfl⟩
  have runs : runDue { s with due := [] } .handover = heldAction (setOwn x o) 1 h.target := by
    show handoverAt { s with due := [] } = _
    rw [handoverAt_due (s := { s with due := [] }) hand st epoch drained]
    unfold passOwner
    rw [if_pos up, finishAs_plain _ _ _ _ _ _ (by decide), hx, ho]
  have passes := (setOwn_passes x o).tells (.heldAction _ 1 h.target)
  generalize heldAction (setOwn x o) 1 h.target = w at passes runs
  obtain ⟨v, run, told⟩ := gives_due (i := .handoverPass) rfl now runs (by rw [passes.only, hx])
  refine ⟨v, run, ?_, fun d hd same => ?_, ?_⟩
  · rw [told.frame, ← ho]
    exact passes.own
  · have cmds : v.cmds = w.cmds := by rw [told.frame]
    rw [cmds, passes.cmds, hx] at hd
    obtain ⟨done, ok, vis, -⟩ := endCmd_ended hd same
    exact ⟨done, ok, vis⟩
  · rw [told.frame]
    refine ⟨rfl, ?_⟩
    dsimp only
    rw [passes.only, hx]
    exact ⟨rfl, rfl⟩

/-- HANDOVER_PASS to a port that is down: ownership falls vacant. -/
theorem handoverFail_gives {s : State} {l : List Due} {h : Handover} (now : DueNow s (fun d => d == .handover) .handover l) (hand : s.own.hand = some h)
    (st : s.own.st = .handing) (epoch : h.epoch ≤ s.epoch.count) (drained : ownDrained s = true) (down : s.power.mpUp.getD h.target false = false) :
    Gives .handoverPass s (fun v => v.own = { s.own with
      st := .vacant, probation := false, hand := none } ∧ bit (v.live 0x10018) 2 = true ∧ Flagged v evOwnHandoverFail ∧
      (∀ d ∈ v.cmds, d.id = h.cmd → d.st = .finished ∧ d.status = stAborted) ∧ v.due = l ∧ v.tables = s.tables) := by
  obtain ⟨x, hx⟩ : ∃ x : State, x = { s with due := [], cmds := endCmd s.cmds h.cmd stAborted 0xFFFFFFFF 0 false } := ⟨_, rfl⟩
  obtain ⟨y, hy⟩ : ∃ y : State, y = x.setBits 0x10018 4 := ⟨_, rfl⟩
  obtain ⟨z, hz⟩ : ∃ z : State, z = y.raise evOwnHandoverFail x.own.owner h.target x.epoch.count := ⟨_, rfl⟩
  have frame : y = { x with regs := y.regs } := by rw [hy]; apply State.same_fields <;> simp
  have bit2 : bit (y.live 0x10018) 2 = true := by
    rw [hy, live_setBits_same, bit_or, bit_word, Bool.or_eq_true]
    exact .inr (by decide)
  have first : Tells y z := by rw [hz]; exact .raise _ _ _ _ _ (by decide)
  have flag : Flagged z evOwnHandoverFail := by rw [hz]; exact raise_flags _ _ _ _ _ (by decide)
  have kept : z.own = s.own ∧ z.cmds = x.cmds := by
    rw [first.frame]
    dsimp only
    rw [frame, hx]
    exact ⟨rfl, rfl⟩
  have runs : runDue { s with due := [] } .handover = heldAction (setOwn z { z.own with st := .vacant, probation := false, hand := none }) 1 0xFFFFFFFF := by
    show handoverAt { s with due := [] } = _
    rw [handoverAt_due (s := { s with due := [] }) hand st epoch drained]
    unfold passOwner
    rw [if_neg (by simp only [Bool.not_eq_true]; exact down), finish_plain _ _ _ _ _ (by decide), hz, hy, hx]
  rw [kept.1] at runs
  have passes := (setOwn_passes z { s.own with st := .vacant, probation := false, hand := none }).tells (.heldAction _ 1 0xFFFFFFFF)
  generalize heldAction (setOwn z { s.own with st := .vacant, probation := false, hand := none }) 1 0xFFFFFFFF = w at passes runs
  have whole : OwnOnly { s with due := [] } w := by
    refine OwnOnly.trans (b := y) ?_ (first.ownOnly.trans passes.only)
    rw [frame, hx]
    rfl
  obtain ⟨v, run, told⟩ := gives_due (i := .handoverPass) rfl now runs (by rw [whole])
  have calmReg : calm 0x10018 = true := by decide
  refine ⟨v, run, ?_, ?_, told.flagged (by decide) (passes.flagged (by decide) flag), fun d hd same => ?_, ?_⟩
  · rw [told.frame]
    exact passes.own
  · rw [told.live _ calmReg]
    show bit (w.live 0x10018) 2 = true
    rw [passes.live _ calmReg, first.live _ calmReg]
    exact bit2
  · have cmds : v.cmds = w.cmds := by rw [told.frame]
    rw [cmds, passes.cmds, kept.2, hx] at hd
    obtain ⟨done, ok, -, -⟩ := endCmd_ended hd same
    exact ⟨done, ok⟩
  · rw [told.frame]
    refine ⟨rfl, ?_⟩
    dsimp only
    rw [whole]

/-! ### Writes of OWN_CLAIM and OWN_LEASE -/

/-- The ballot that a write of OWN_CLAIM casts or withdraws. -/
def writtenBallot (u : State) (value : Word) : Ballot :=
  { pending := fld value 23 16 != 0, rank := fld value 23 16, token := fld value 15 0
    result := if fld value 23 16 = 0 then 0 else 1, castAt := u.now }

/-- A write of OWN_CLAIM with CAST casts or withdraws the ballot of its port. -/
theorem claimWrite_gives {i : Instr} {s u : State} {port : Fin 4} {value : Word} (run : exec i s = .next (busWrite4 u port 0x10008 value))
    (up : portUp u port = true) (cast : bit value 29 = true) : Gives i s (fun v =>
      v = { u with regs := v.regs, own := { u.own with ballots := u.own.ballots.set port (writtenBallot u value) } }) := by
  have desc : regDesc 0x10008 = some ((regDesc 0x10008).get rfl) := rfl
  unfold busWrite4 at run
  rw [busWriteOp_reaches _ up (by simp [blockServed]) desc, regWrite4_effect _ desc rfl rfl rfl (by decide)] at run
  unfold regEffect at run
  rw [if_neg (by decide), if_pos rfl, doClaim, if_pos cast] at run
  exact gives_of run rfl

theorem journalConfig_tells (s : State) (l : List Nat) : (journalConfig s l) = { s with
      regs := (journalConfig s l).regs, vault := (journalConfig s l).vault, free := (journalConfig s l).free, mgmt := (journalConfig s l).mgmt
      out := (journalConfig s l).out, dies := (journalConfig s l).dies } ∧ (∀ a, evReg a = false → (journalConfig s l).live a = s.live a) := by
  refine ⟨?_, fun a quiet => stageRec_live _ _ _ _ _ quiet⟩
  have cmds := stageRec_none_cmds s 0x30 255 (configBody s l)
  have rest := stageRec_rest s 0x30 255 none (configBody s l)
  unfold journalConfig
  rw [cmds] at rest
  exact rest

/-- The state of a write of OWN_LEASE once its LEN is set or refused. -/
def leaseWritten (s : State) (port : Nat) (v : Word) : State :=
  if fld v 23 0 < 16 then s.raise evOwnCfgInvalid 0x1000C v.toNat port else s.setField 0x1000C 23 0 (fld v 23 0)

theorem leaseWritten_spec (s : State) (port : Nat) (v : Word) : leaseWritten s port v = { s with
      regs := (leaseWritten s port v).regs, mgmt := (leaseWritten s port v).mgmt, out := (leaseWritten s port v).out } ∧
    (16 ≤ fld v 23 0 → leaseLen (leaseWritten s port v) = fld v 23 0) ∧
    (fld v 23 0 < 16 → leaseLen (leaseWritten s port v) = leaseLen s ∧ Flagged (leaseWritten s port v) evOwnCfgInvalid) := by
  have low : fld v 23 0 < 2 ^ 24 := Nat.mod_lt _ (by decide)
  unfold leaseWritten
  by_cases short : fld v 23 0 < 16
  · rw [if_pos short]
    refine ⟨by apply State.same_fields <;> simp, fun h => by omega, fun _ => ⟨?_, raise_flags _ _ _ _ _ (by decide)⟩⟩
    unfold leaseLen
    rw [live_raise _ _ _ _ _ _ (by decide) (by decide)]
  · rw [if_neg short]
    refine ⟨rfl, fun _ => ?_, fun h => absurd h short⟩
    unfold leaseLen
    rw [live_setField_same, fld_putFld_same _ _ _ _ (by decide) (by decide)]
    exact Nat.mod_eq_of_lt low

/-- The write of OWN_LEASE reaches the ownership logic, and is recorded when its LEN is set. -/
theorem regEffect_lease (s : State) (p : Nat) (d : RegDesc) (v : Word) : regEffect s p 0x1000C d v =
    if fld v 23 0 < 16 then doLease s p v else journalConfig (doLease s p v) [0x1000C] := by
  unfold regEffect
  rw [if_neg (by decide), if_neg (by decide), if_pos rfl]

theorem doLease_renews {s : State} {p : Nat} {v : Word} (renew : bit v 31 = true) (st : s.own.st ≠ .draining) :
    doLease s p v = renewLease (leaseWritten s p v) (leaseLen (leaseWritten s p v)) true := by
  have own : (leaseWritten s p v).own = s.own := by rw [(leaseWritten_spec s p v).1]
  show (if bit v 31 = true then if (leaseWritten s p v).own.st = .draining then _ else renewLease (leaseWritten s p v) (leaseLen (leaseWritten s p v)) true
    else leaseWritten s p v) = _
  rw [if_pos renew, own, if_neg st]

/-- A renewal of an ownership that drains is late. -/
theorem doLease_late {s : State} {p : Nat} {v : Word} (renew : bit v 31 = true) (st : s.own.st = .draining) :
    bit ((doLease s p v).live 0x10018) 1 = true ∧ doLease s p v = { s with
      regs := (doLease s p v).regs, mgmt := (doLease s p v).mgmt, out := (doLease s p v).out } := by
  have own : (leaseWritten s p v).own = s.own := by rw [(leaseWritten_spec s p v).1]
  obtain ⟨w, hw⟩ : ∃ w, w = (leaseWritten s p v).setBits 0x10018 2 := ⟨_, rfl⟩
  have eq : doLease s p v = if hardMask w 0x1000C = 0 then w else w.raise evRegCollide 0x1000C := by
    show (if bit v 31 = true then if (leaseWritten s p v).own.st = .draining then
      (if hardMask ((leaseWritten s p v).setBits 0x10018 2) 0x1000C = 0 then (leaseWritten s p v).setBits 0x10018 2
        else ((leaseWritten s p v).setBits 0x10018 2).raise evRegCollide 0x1000C) else renewLease (leaseWritten s p v) (leaseLen (leaseWritten s p v)) true
    else leaseWritten s p v) = _
    rw [if_pos renew, own, if_pos st, ← hw]
  have set : bit (w.live 0x10018) 1 = true := by
    rw [hw, live_setBits_same, bit_or, bit_word, Bool.or_eq_true]
    exact .inr (by decide)
  have frame : w = { s with regs := w.regs, mgmt := w.mgmt, out := w.out } := by
    rw [show w = { leaseWritten s p v with regs := w.regs } by rw [hw]; apply State.same_fields <;> simp, (leaseWritten_spec s p v).1]
  rw [eq]
  split
  · exact ⟨set, frame⟩
  · refine ⟨by rw [live_raise _ _ _ _ _ _ (by decide) (by decide)]; exact set, ?_⟩
    generalize hz : w.raise evRegCollide 0x1000C = z
    have told : z = { w with regs := z.regs, mgmt := z.mgmt, out := z.out } := by rw [← hz]; apply State.same_fields <;> simp
    rw [told, frame]

/-- A renewal by a register write. -/
theorem renewWrite_gives {i : Instr} {s u : State} {port : Fin 4} {value : Word} (run : exec i s = .next (busWrite4 u port 0x1000C value))
    (up : portUp u port = true) (owner : isOwner u port = true) (renew : bit value 31 = true) :
    (u.own.st ≠ .draining → Gives i s (fun v =>
      (16 ≤ fld value 23 0 → leaseLen v = fld value 23 0) ∧
      (fld value 23 0 < 16 → leaseLen v = leaseLen u ∧ Flagged v evOwnCfgInvalid) ∧
      (lateRenewal u = none → v.own.renewed = some (u.now, u.own.leaseEnd, true)) ∧
      v = { u with regs := v.regs, vault := v.vault, free := v.free, mgmt := v.mgmt, out := v.out, dies := v.dies
                   own := { u.own with leaseEnd := u.epoch.count + leaseLen v, renewed := v.own.renewed } })) ∧
    (u.own.st = .draining → Gives i s (fun v => bit (v.live 0x10018) 1 = true ∧
      v = { u with regs := v.regs, vault := v.vault, free := v.free, mgmt := v.mgmt, out := v.out, dies := v.dies })) := by
  have desc : regDesc 0x1000C = some ((regDesc 0x1000C).get rfl) := rfl
  unfold busWrite4 at run
  rw [busWriteOp_reaches _ up (by simp [blockServed]) desc, regWrite4_owner _ desc rfl rfl (by decide) owner, regEffect_lease] at run
  generalize hw : ({ u with regs := { u.regs with parityErr := _ } } : State) = w at run
  have base : w = { u with regs := w.regs } := by rw [← hw]
  have own : w.own = u.own := by rw [base]
  have lenU : leaseLen w = leaseLen u := by rw [← hw]; rfl
  refine ⟨fun st => ?_, fun st => ?_⟩
  · rw [doLease_renews renew (by rw [own]; exact st)] at run
    obtain ⟨frame, long, short⟩ := leaseWritten_spec w port value
    generalize leaseWritten w port value = x at run frame long short
    have whole : x = { u with regs := x.regs, mgmt := x.mgmt, out := x.out } := by rw [frame, base]
    obtain ⟨y, hy⟩ : ∃ y, y = renewLease x (leaseLen x) true := ⟨_, rfl⟩
    have own_ : y.own = { u.own with leaseEnd := u.epoch.count + leaseLen x, renewed := y.own.renewed } := by
      rw [hy]
      show ({ x.own with leaseEnd := x.epoch.count + leaseLen x, renewed := _ } : Own) = _
      rw [whole]
      rfl
    have late : lateRenewal u = none → y.own.renewed = some (u.now, u.own.leaseEnd, true) := fun none_ => by
      have same : lateRenewal x = none := by rw [whole]; exact none_
      rw [hy]
      unfold renewLease
      rw [same, whole]
    have rest : y = { x with own := y.own } := by rw [hy]; rfl
    have len : leaseLen y = leaseLen x := by rw [rest]; rfl
    have flag : ∀ e, Flagged x e → Flagged y e := fun e f => by rw [rest]; exact f
    have frame : y = { u with regs := y.regs, mgmt := y.mgmt, out := y.out
                              own := { u.own with leaseEnd := u.epoch.count + leaseLen y, renewed := y.own.renewed } } := by
      rw [len, ← own_, rest, whole]
    have short : fld value 23 0 < 16 → leaseLen y = leaseLen u ∧ Flagged y evOwnCfgInvalid := fun h => by
      rw [len, (short h).1, lenU]
      exact ⟨rfl, flag _ (short h).2⟩
    have long : 16 ≤ fld value 23 0 → leaseLen y = fld value 23 0 := fun h => by rw [len, long h]
    rw [← hy] at run
    split at run
    · refine gives_of run ⟨long, short, late, ?_⟩
      generalize u.epoch.count + leaseLen y = n at frame ⊢
      rw [frame]
    · rename_i set
      obtain ⟨rec, live⟩ := journalConfig_tells y [0x1000C]
      have kept : leaseLen (journalConfig y [0x1000C]) = leaseLen y := by unfold leaseLen; rw [live _ (by decide)]
      refine gives_of run ⟨fun h => kept.trans (long h), fun h => absurd h set, fun none_ => ?_, ?_⟩
      · rw [rec]
        exact late none_
      · rw [kept, rec]
        dsimp only
        generalize u.epoch.count + leaseLen y = n at frame ⊢
        rw [frame]
  · obtain ⟨late, frame⟩ := doLease_late (s := w) (p := port) renew (by rw [own]; exact st)
    generalize doLease w port value = x at run late frame
    have whole : x = { u with regs := x.regs, mgmt := x.mgmt, out := x.out } := by rw [frame, base]
    split at run
    · exact gives_of run ⟨late, by rw [whole]⟩
    · obtain ⟨rest, live⟩ := journalConfig_tells x [0x1000C]
      exact gives_of run ⟨by rw [live _ (by decide)]; exact late, by rw [rest, whole]⟩

/-- Settles O34: writes of the ballots and of the lease, and the rows of the ownership steps. -/
theorem ownershipPassesByRule : Obligations.OwnershipPassesByRule := by
  unfold Obligations.OwnershipPassesByRule
  intro s
  refine ⟨fun port value => ?_, fun port value => ?_, fun l now st => ⟨leaseEnd_gives now st, fun w loss => linkLoss_gives now st loss⟩,
    fun l now st drained => ⟨vacant_gives now st drained, fun p best => elected_gives now st drained best⟩,
    fun l h now hand st epoch drained => ⟨handover_gives now hand st epoch drained, handoverFail_gives now hand st epoch drained⟩⟩
  · intro u up cast b
    exact ⟨claimWrite_gives (i := .ownClaimCast port value) (s := s) rfl up cast, claimWrite_gives (i := .ownClaimWithdraw port value) (s := s) rfl up cast⟩
  · intro u up owner renew
    exact renewWrite_gives (i := .renew port value) (s := s) rfl up owner renew

end Sys2Proof.Claim
end

section
/-! PROOFS. The maintenance of the counter cache, and a fill that returns (O35, O36). -/

namespace Sys2Proof.Machine

/-! ### What is cached of a line -/

/-- Every cached copy of line `n`, in its set or in the victim cache, has sectors that satisfy `P`. -/
def OfLine (n : Nat) (P : List Sector → Prop) (s : State) : Prop := ∀ m ∈ s.cache.lines ++ s.cache.victim, m.line = n → P m.sectors

theorem OfLine.of_cache {n : Nat} {P : List Sector → Prop} {s t : State} (h : OfLine n P s) (lines : ∀ m ∈ t.cache.lines, m ∈ s.cache.lines ++ s.cache.victim)
    (victim : ∀ m ∈ t.cache.victim, m ∈ s.cache.lines ++ s.cache.victim) : OfLine n P t := fun m hm at_ => by
  rcases List.mem_append.mp hm with hl | hv
  · exact h m (lines m hl) at_
  · exact h m (victim m hv) at_

theorem OfLine.same {n : Nat} {P : List Sector → Prop} {s t : State} (h : OfLine n P s) (lines : t.cache.lines = s.cache.lines)
    (victim : t.cache.victim = s.cache.victim) : OfLine n P t :=
  h.of_cache (fun m hm => List.mem_append_left _ (lines ▸ hm)) (fun m hm => List.mem_append_right _ (victim ▸ hm))

theorem askLine_cache (s : State) (cls n : Nat) : (askLine s cls n).cache = s.cache := rfl

/-- Writing back leaves what is cached. -/
theorem writeBack_cache (s : State) (cls : Nat) (l : Line) : (writeBack s cls l).cache = s.cache := by
  have each : ∀ (v : State) (k : Nat), (match l.sectors[k]? with
      | some x => if x.valid && x.dirty then (putPair v (4 * l.line + k) x.data).bump 0x100064 else v
      | none => v : State).cache = v.cache := by
    intro v k
    split
    · split
      · rw [State.bump_cache]; rfl
      · rfl
    · rfl
  have fold : ∀ (ks : List Nat) (v : State), (ks.foldl (fun s k =>
      match l.sectors[k]? with
      | some x => if x.valid && x.dirty then (putPair s (4 * l.line + k) x.data).bump 0x100064 else s
      | none => s) v).cache = v.cache := by
    intro ks
    induction ks with
    | nil => exact fun _ => rfl
    | cons k ks ih => exact fun v => (ih _).trans (each v k)
  refine (fold (List.range 4) (if l.sectors.any (fun x => x.valid && x.dirty) then askLine s cls l.line else s)).trans ?_
  split <;> rfl

section
variable {n k : Nat} {P : List Sector → Prop} {s : State}

theorem OfLine.writeBack (h : OfLine n P s) (cls : Nat) (l : Line) : OfLine n P (writeBack s cls l) :=
  h.same (by rw [writeBack_cache]) (by rw [writeBack_cache])

theorem OfLine.bump (h : OfLine n P s) (a m : Nat) : OfLine n P (s.bump a m) := h.same (by rw [State.bump_cache]) (by rw [State.bump_cache])

theorem OfLine.askLine (h : OfLine n P s) (cls j : Nat) : OfLine n P (askLine s cls j) :=
  h.same (congrArg Cache.lines (askLine_cache s cls j)) (congrArg Cache.victim (askLine_cache s cls j))

theorem OfLine.dropLine (h : OfLine n P s) (j : Nat) : OfLine n P (dropLine s j) :=
  h.of_cache (fun _ hm => List.mem_append_left _ (List.mem_filter.mp hm).1) (fun _ hm => List.mem_append_right _ hm)

theorem OfLine.dropVictim (h : OfLine n P s) (j : Nat) : OfLine n P (dropVictim s j) :=
  h.of_cache (fun _ hm => List.mem_append_left _ hm) (fun _ hm => List.mem_append_right _ (List.mem_filter.mp hm).1)

theorem OfLine.ite {c : Prop} [Decidable c] {a b : State} (ha : OfLine n P a) (hb : OfLine n P b) : OfLine n P (if c then a else b) := by
  split <;> assumption

/-- A displaced line keeps its sectors in the victim cache. -/
theorem OfLine.toVictim (h : OfLine n P s) (cls : Nat) {l : Line} (hl : l.line = n → P l.sectors) : OfLine n P (toVictim s cls l) := by
  obtain ⟨w, hw⟩ : ∃ w : State, w = match s.cache.victim with
    | o :: r => if 32 ≤ s.cache.victim.length then { Machine.writeBack s cls o with cache := { (Machine.writeBack s cls o).cache with victim := r } } else s
    | [] => s := ⟨_, rfl⟩
  have first : OfLine n P w := by
    rw [hw]
    split
    · rename_i o r eq
      refine .ite (h.of_cache (fun m hm => ?_) (fun m hm => ?_)) h
      · exact List.mem_append_left _ (by rw [writeBack_cache] at hm; exact hm)
      · rw [eq]
        exact List.mem_append_right _ (List.mem_cons_of_mem _ hm)
    · exact h
  have eq : Machine.toVictim s cls l = { w with cache := { w.cache with victim := w.cache.victim ++ [{ l with way := 16 }] } } := by rw [hw]; rfl
  rw [eq]
  intro m hm at_
  rcases List.mem_append.mp hm with lines | victim
  · exact first m (List.mem_append_left _ lines) at_
  · rcases List.mem_append.mp victim with old | new
    · exact first m (List.mem_append_right _ old) at_
    · rw [List.mem_singleton.mp new] at at_ ⊢
      exact hl at_

/-- A new line in a set is its own. -/
theorem OfLine.cons (h : OfLine n P s) {l : Line} (hl : l.line = n → P l.sectors) :
    OfLine n P { s with cache := { s.cache with lines := l :: s.cache.lines } } := fun m hm at_ => by
  rcases List.mem_append.mp hm with lines | victim
  · rcases List.mem_cons.mp lines with rfl | old
    · exact hl at_
    · exact h m (List.mem_append_left _ old) at_
  · exact h m (List.mem_append_right _ victim) at_

theorem OfLine.allocate (h : OfLine n P s) (cls : Nat) (sec : List Sector) (own : k = n → P sec) : OfLine n P (allocate s cls k sec) := by
  unfold Machine.allocate
  dsimp only
  split
  · exact h.cons own
  · refine OfLine.cons ?_ own
    have base : OfLine n P (s.setField 0x100014 15 0 (lfsrNext (s.cfg 0x100014 15 0))) := h.same rfl rfl
    split
    · rename_i l found
      refine (base.dropLine l.line).toVictim cls fun at_ => ?_
      exact h l (List.mem_append_left _ (List.mem_filter.mp (List.mem_of_find?_eq_some found)).1) at_
    · exact base

/-- A change of one sector of another line. -/
theorem OfLine.modSector (h : OfLine n P s) {p : Nat} (f : Sector → Sector) (apart : p / 4 ≠ n) : OfLine n P (modSector s p f) := by
  intro m hm at_
  rcases List.mem_append.mp hm with hm | hm <;>
  · obtain ⟨l, hl, eq⟩ := List.mem_map.mp hm
    have other : (l.line == p / 4) = false := by
      by_cases same : l.line = p / 4
      · rw [if_pos (by simpa using same)] at eq
        rw [← eq] at at_
        exact absurd (same.symm.trans at_) apart
      · simpa using same
    rw [other, if_neg (by decide)] at eq
    rw [← eq] at at_ ⊢
    exact h l (by simp [hl]) at_

theorem OfLine.sweepLine (h : OfLine n P s) (j : Nat) : OfLine n P (sweepLine s j) := by
  unfold Machine.sweepLine
  split
  · exact .ite ((h.writeBack 2 _).dropLine j) h
  · exact h

theorem OfLine.recallLine (h : OfLine n P s) (cls : Nat) (write : Bool) : OfLine n P (recallLine s cls k write) := by
  unfold Machine.recallLine
  split
  · exact h
  · rename_i l found
    have number : l.line = k := by simpa using List.find?_some found
    have own : k = n → P l.sectors := fun e => h l (List.mem_append_right _ (List.mem_of_find?_eq_some found)) (number.trans e)
    exact .ite (((h.bump _ _).dropVictim k).allocate cls _ own) (h.bump _ _)

/-- An operation on another line. -/
theorem OfLine.runOp (h : OfLine n P s) (o : CacheOp) (apart : o.pos / 4 ≠ n) : OfLine n P (runOp s o) := by
  have found : OfLine n P (Machine.recallLine (Machine.sweepLine s (o.pos / 4)) o.cls (o.pos / 4) true) := (h.sweepLine _).recallLine _ _
  unfold Machine.runOp
  dsimp only
  refine .ite (h.same rfl rfl) ?_
  generalize Machine.recallLine (Machine.sweepLine s (o.pos / 4)) o.cls (o.pos / 4) true = w at found ⊢
  have counted : ∀ a, OfLine n P (if o.missed then w else w.bump a) := fun a => .ite found (found.bump _ _)
  refine .ite ((counted _).modSector _ apart) ?_
  have missed := counted (0x100050 + 4 * o.cls)
  generalize (if o.missed then w else w.bump (0x100050 + 4 * o.cls)) = v at missed ⊢
  refine .ite ?_ ?_
  · have taken : OfLine n P (if (sectorOf v o.pos).isSome then v else Machine.allocate v o.cls (o.pos / 4) emptySectors) :=
      .ite missed (missed.allocate _ _ (fun e => absurd e apart))
    generalize (if (sectorOf v o.pos).isSome then v else Machine.allocate v o.cls (o.pos / 4) emptySectors) = x at taken ⊢
    have asked := taken.askLine o.cls (o.pos / 4)
    generalize Machine.askLine x o.cls (o.pos / 4) = y at asked ⊢
    exact asked.same rfl rfl
  · unfold addBypass
    dsimp only
    have asked := (missed.askLine o.cls (o.pos / 4)).askLine o.cls (o.pos / 4)
    generalize Machine.askLine (Machine.askLine v o.cls (o.pos / 4)) o.cls (o.pos / 4) = y at asked ⊢
    exact OfLine.bump (s := putPair y o.pos _) (asked.same rfl rfl) _ _

theorem OfLine.runOps (h : OfLine n P s) (l : List CacheOp) (apart : ∀ o ∈ l, o.pos / 4 ≠ n) : OfLine n P (l.foldl Machine.runOp s) := by
  induction l generalizing s with
  | nil => exact h
  | cons o l ih => exact ih (h.runOp o (apart o List.mem_cons_self)) (fun q hq => apart q (List.mem_cons_of_mem _ hq))

theorem OfLine.pressTo (h : OfLine n P s) : OfLine n P (pressTo s) := by
  unfold Machine.pressTo
  split
  · exact h
  · exact h.same rfl rfl

/-- A fill of another line. -/
theorem OfLine.fillReturn (h : OfLine n P s) (apart : k ≠ n) : OfLine n P (fillReturn s k) := by
  unfold Machine.fillReturn
  split
  · exact h
  · dsimp only
    have pressed := h.pressTo
    generalize Machine.pressTo s = w at pressed ⊢
    have filled : ∀ l : List Line, (∀ m ∈ l, m.line = n → P m.sectors) →
        ∀ m ∈ l.map (fun (l : Line) => if l.line == k then { l with sectors := fillSectors w k l.sectors 0 } else l), m.line = n → P m.sectors := by
      intro l all m hm at_
      obtain ⟨q, hq, eq⟩ := List.mem_map.mp hm
      have other : (q.line == k) = false := by
        by_cases same : q.line = k
        · rw [if_pos (by simpa using same)] at eq
          rw [← eq] at at_
          exact absurd (same.symm.trans at_) apart
        · simpa using same
      rw [other, if_neg (by decide)] at eq
      rw [← eq] at at_ ⊢
      exact all q hq at_
    have base : OfLine n P { w with cache := { w.cache with
      fills := mapErase w.cache.fills k
      lines := w.cache.lines.map (fun (l : Line) => if l.line == k then { l with sectors := fillSectors w k l.sectors 0 } else l)
      victim := w.cache.victim.map (fun (l : Line) => if l.line == k then { l with sectors := fillSectors w k l.sectors 0 } else l)
      queue := w.cache.queue.filter (fun (o : CacheOp) => o.pos / 4 != k) } } := fun m hm => by
      rcases List.mem_append.mp hm with lines | victim
      · exact filled _ (fun m hm => pressed m (List.mem_append_left _ hm)) m lines
      · exact filled _ (fun m hm => pressed m (List.mem_append_right _ hm)) m victim
    have ran := base.runOps (w.cache.queue.filter (fun (o : CacheOp) => o.pos / 4 == k)) (fun o ho e => by
      have mine : o.pos / 4 = k := by simpa using (List.mem_filter.mp ho).2
      exact apart (mine.symm.trans e))
    exact .ite ran (ran.same rfl rfl)

theorem OfLine.finishLine (h : OfLine n P s) (apart : k ≠ n) : OfLine n P (finishLine s k) := (h.fillReturn apart).fillReturn apart

/-- Maintenance of another line. -/
theorem OfLine.maintLine (h : OfLine n P s) (op : Nat) (apart : k ≠ n) : OfLine n P (maintLine s op k).2 := by
  have done := h.finishLine apart
  unfold Machine.maintLine
  dsimp only
  generalize Machine.finishLine s k = w at done ⊢
  split
  · exact done
  · rename_i l _
    split
    · exact OfLine.bump ((done.dropLine k).dropVictim k) _ _
    · have back := done.writeBack 2 l
      generalize Machine.writeBack w 2 l = x at back ⊢
      split
      · exact (back.dropLine k).dropVictim k
      · have kept : ∀ ls : List Line, (∀ m ∈ ls, m.line = n → P m.sectors) → ∀ m ∈ ls.map (fun (m : Line) =>
            if m.line == k then { m with sectors := m.sectors.map (fun x => { x with dirty := false }) } else m), m.line = n → P m.sectors := by
          intro ls all m hm at_
          obtain ⟨q, hq, eq⟩ := List.mem_map.mp hm
          have other : (q.line == k) = false := by
            by_cases same : q.line = k
            · rw [if_pos (by simpa using same)] at eq
              rw [← eq] at at_
              exact absurd (same.symm.trans at_) apart
            · simpa using same
          rw [other, if_neg (by decide)] at eq
          rw [← eq] at at_ ⊢
          exact all q hq at_
        intro m hm
        rcases List.mem_append.mp hm with lines | victim
        · exact kept _ (fun m hm => back m (List.mem_append_left _ hm)) m lines
        · exact kept _ (fun m hm => back m (List.mem_append_right _ hm)) m victim

end

/-- Sectors none of which is dirty. -/
def Clean (sec : List Sector) : Prop := (sec.filter (fun x => x.valid && x.dirty)).length = 0

/-- What an operation of CACHE_MAINT leaves of its line: no dirty sector after FLUSH, no copy after INVALIDATE and DISCARD. -/
def Maintained (op : Nat) (sec : List Sector) : Prop := op = 0 ∧ Clean sec

theorem OfLine.none {n : Nat} {P : List Sector → Prop} {s : State} (h : (setLine s n).or (vicLine s n) = none) : OfLine n P s := by
  obtain ⟨set, vic⟩ := Option.or_eq_none_iff.mp h
  intro m hm at_
  rcases List.mem_append.mp hm with lines | victim
  · exact absurd at_ (by simpa using List.find?_eq_none.mp set m lines)
  · exact absurd at_ (by simpa using List.find?_eq_none.mp vic m victim)

theorem OfLine.dropped (n : Nat) (P : List Sector → Prop) (s : State) : OfLine n P (Machine.dropVictim (Machine.dropLine s n) n) := fun m hm at_ => by
  rcases List.mem_append.mp hm with lines | victim
  · exact absurd at_ (by simpa using (List.mem_filter.mp lines).2)
  · exact absurd at_ (by simpa using (List.mem_filter.mp victim).2)

/-- Maintenance of the line itself. -/
theorem maintLine_own (s : State) {op : Nat} (known : op < 3) (n : Nat) : OfLine n (Maintained op) (maintLine s op n).2 := by
  unfold maintLine
  dsimp only
  generalize finishLine s n = w
  split
  · rename_i none_
    exact .none none_
  · rename_i l _
    split
    · exact OfLine.bump (.dropped n _ w) _ _
    · generalize writeBack w 2 l = x
      split
      · exact .dropped n _ x
      · have clean : ∀ ls : List Line, ∀ m ∈ ls.map (fun (m : Line) =>
            if m.line == n then { m with sectors := m.sectors.map (fun x => { x with dirty := false }) } else m), m.line = n → Maintained op m.sectors := by
          intro ls m hm at_
          obtain ⟨q, _, eq⟩ := List.mem_map.mp hm
          by_cases same : q.line = n
          · rw [if_pos (by simpa using same)] at eq
            rw [← eq]
            exact ⟨by omega, by simp [Clean]⟩
          · rw [if_neg (by simpa using same)] at eq
            rw [eq] at same
            exact absurd at_ same
        intro m hm
        rcases List.mem_append.mp hm with lines | victim
        · exact clean _ m lines
        · exact clean _ m victim

/-- Maintenance of a list of lines: what is done for a line stays done. -/
theorem maintLines_keeps {op : Nat} (known : op < 3) (l : List Nat) (s : State) : (∀ n, OfLine n (Maintained op) s → OfLine n (Maintained op) (maintLines s op l).2) ∧
    ∀ n ∈ l, OfLine n (Maintained op) (maintLines s op l).2 := by
  induction l generalizing s with
  | nil => exact ⟨fun _ h => h, fun _ h => nomatch h⟩
  | cons k l ih =>
    obtain ⟨keep, own⟩ := ih (maintLine s op k).2
    refine ⟨fun n h => keep n ?_, fun n hn => ?_⟩
    · by_cases same : k = n
      · exact same ▸ maintLine_own s known k
      · exact h.maintLine op same
    · rcases List.mem_cons.mp hn with rfl | later
      · exact keep n (maintLine_own s known n)
      · exact own n later

theorem maintLines_work (op : Nat) (l : List Nat) (s : State) : CacheWork s (maintLines s op l).2 := by
  induction l generalizing s with
  | nil => exact .refl s
  | cons n l ih => exact (maintLine_work s op n).trans (ih _)

/-! ### The write-back of one line -/

theorem storePair_putPair (s : State) (p q : Nat) (v : Pair) : storePair (putPair s p v) q = if q = p then v else storePair s q := by
  unfold storePair putPair mapGetD
  dsimp only
  split
  · rename_i zero
    split
    · rename_i same
      rw [same, mapGet_mapErase_same, zero]
      rfl
    · rename_i other
      rw [mapGet_mapErase_ne _ _ _ other]
  · rw [mapGet_mapSet]
    split <;> rfl

theorem storePair_bump (s : State) (a n p : Nat) : storePair (s.bump a n) p = storePair s p := by
  unfold storePair
  rw [State.bump_act]

/-- The dirty sectors of a line that is written back stand in the activity store. -/
theorem writeBack_stores (s : State) (cls : Nat) (l : Line) {k : Nat} {x : Sector} (hk : k < 4) (get : l.sectors[k]? = some x) (valid : x.valid = true)
    (dirty : x.dirty = true) : storePair (writeBack s cls l) (4 * l.line + k) = x.data := by
  have fold : ∀ (ks : List Nat) (v : State), k ∈ ks ∨ storePair v (4 * l.line + k) = x.data → storePair (ks.foldl (fun s k =>
      match l.sectors[k]? with
      | some x => if x.valid && x.dirty then (putPair s (4 * l.line + k) x.data).bump 0x100064 else s
      | none => s) v) (4 * l.line + k) = x.data := by
    intro ks
    induction ks with
    | nil => exact fun v h => h.resolve_left (by simp)
    | cons j ks ih =>
      intro v h
      rw [List.foldl_cons]
      by_cases here : j = k
      · refine ih _ (.inr ?_)
        rw [here, get]
        dsimp only
        rw [valid, dirty, Bool.and_self, if_pos rfl, storePair_bump, storePair_putPair, if_pos rfl]
      · refine ih _ (h.imp (fun mem => (List.mem_cons.mp mem).resolve_left (Ne.symm here)) fun stands => ?_)
        split
        · split
          · rw [storePair_bump, storePair_putPair, if_neg (by omega)]
            exact stands
          · exact stands
        · exact stands
  exact fold (List.range 4) _ (.inl (List.mem_range.mpr hk))

/-- A line without a fill in flight is as it stands. -/
theorem finishLine_idle {s : State} {n : Nat} (idle : mapGet s.cache.fills n = none) : finishLine s n = s := by
  have once : fillReturn s n = s := by unfold fillReturn; rw [idle]
  unfold finishLine
  rw [once, once]

end Sys2Proof.Machine

namespace Sys2Proof.Claim

open Machine

/-- One line alone is maintained as its operation says. -/
theorem maintLine_only {u : State} {n : Nat} {m : Line} (alone : onlyLine u n m) (op : Nat) : (maintLine u op n).1 = dirtyCount m ∧
    (op ≠ 2 → writtenBack (maintLine u op n).2 m) ∧ (op = 2 → (maintLine u op n).2.act = u.act) := by
  obtain ⟨idle, found⟩ := alone
  have back : writtenBack (writeBack u 2 m) m := fun k x hk get valid dirty => writeBack_stores u 2 m hk get valid dirty
  unfold maintLine
  dsimp only
  rw [finishLine_idle idle, found]
  dsimp only
  by_cases two : op = 2
  · rw [if_pos two]
    exact ⟨rfl, fun h => absurd two h, fun _ => by rw [State.bump_act]; rfl⟩
  · rw [if_neg two]
    split
    · exact ⟨rfl, fun _ => back, fun h => absurd h two⟩
    · exact ⟨rfl, fun _ => back, fun h => absurd h two⟩

/-- CACHE_MAINT that runs maintains its lines and completes. -/
theorem cacheMaint_gives {i : Instr} {s u : State} {c : Cmd} {op : Nat} {l : List Nat} (run : exec i s = .next (cmdCacheMaint u c)) (known : op < 3)
    (runs : maintRuns u c op l) : Gives i s (fun v => Ends u v c stOk (min 0xFFFFFFFF (maintLines u op l).1) 0 false ∧
      (∀ n ∈ l, OfLine n (Maintained op) v) ∧ v.act = (maintLines u op l).2.act ∧
      v = { u with cmds := v.cmds, cache := v.cache, act := v.act, regs := v.regs, dies := v.dies }) := by
  obtain ⟨compl, auto, addr, high, isOp, zero, scope, target⟩ := runs
  have work := maintLines_work op l u
  have keeps := (maintLines_keeps known l u).2
  unfold cmdCacheMaint at run
  rw [if_neg (by simp [compl]), if_neg, target] at run
  · dsimp only at run
    rw [isOp, finish_plain _ _ _ _ _ (by decide)] at run
    generalize maintLines u op l = r at run work keeps
    refine gives_of run ⟨ends_of (by rw [work.cmds]), fun n hn => (keeps n hn).same rfl rfl, rfl, ?_⟩
    rw [work]
  · simp only [auto, addr, high, isOp, zero, Bool.false_or, bne_self_eq_false, Bool.not_true, Bool.or_eq_true, beq_iff_eq, Bool.and_eq_true, decide_eq_true_eq,
      Bool.false_eq_true, or_false]
    rintro (three | ⟨two, wide⟩)
    · omega
    · exact absurd (scope two) (by omega)

/-- No copy of a line is left that no sectors may make up. -/
theorem gone {v : State} {n op : Nat} (h : OfLine n (Maintained op) v) (drops : op ≠ 0) : setLine v n = none ∧ vicLine v n = none := by
  have no : ∀ m ∈ v.cache.lines ++ v.cache.victim, ¬ m.line = n := fun m hm at_ => drops (h m hm at_).1
  exact ⟨List.find?_eq_none.mpr fun m hm => by simpa using no m (List.mem_append_left _ hm),
    List.find?_eq_none.mpr fun m hm => by simpa using no m (List.mem_append_right _ hm)⟩

/-- Settles O35: FLUSH, INVALIDATE and DISCARD by what each leaves of the lines that it names. -/
theorem cacheMaintenance : Obligations.CacheMaintenance := by
  unfold Obligations.CacheMaintenance
  intro s mb c l u
  have flush : exec (.flush mb) s = .next (withCmdIf u mb 0x92 (fun c => maintOp c == 0 || maintOp c == 3) cmdCacheMaint) := rfl
  have invalidate : exec (.invalidate mb) s = .next (withCmdIf u mb 0x92 (fun c => maintOp c == 1) cmdCacheMaint) := rfl
  have discard : exec (.discard mb) s = .next (withCmdIf u mb 0x92 (fun c => maintOp c == 2) cmdCacheMaint) := rfl
  clear_value u
  refine ⟨fun op runs => ?_, fun op runs => ?_, fun op runs => ?_⟩
  · rw [withCmdIf_runs op] at flush
    obtain ⟨v, run, ends, own, act, frame⟩ := cacheMaint_gives flush (by decide) runs
    refine ⟨v, run, ⟨_, ends⟩, fun n hn m hm at_ => (own n hn m hm at_).2, fun n m one alone => ?_, frame⟩
    subst one
    obtain ⟨count, back, -⟩ := maintLine_only alone 0
    refine ⟨fun k x hk get valid dirty => ?_, ?_⟩
    · have stands := back (by decide) k x hk get valid dirty
      unfold storePair at stands ⊢
      rw [act]
      exact stands
    · rw [← count]
      exact ends
  · rw [withCmdIf_runs op] at invalidate
    obtain ⟨v, run, ends, own, act, frame⟩ := cacheMaint_gives invalidate (by decide) runs
    refine ⟨v, run, ⟨_, ends⟩, fun n hn => gone (own n hn) (by decide), fun n m one alone k x hk get valid dirty => ?_, frame⟩
    subst one
    have stands := (maintLine_only alone 1).2.1 (by decide) k x hk get valid dirty
    unfold storePair at stands ⊢
    rw [act]
    exact stands
  · rw [withCmdIf_runs op] at discard
    obtain ⟨v, run, ends, own, act, frame⟩ := cacheMaint_gives discard (by decide) runs
    refine ⟨v, run, ⟨_, ends⟩, fun n hn => gone (own n hn) (by decide), fun n m one alone => ?_, frame⟩
    subst one
    rw [act]
    exact (maintLine_only alone 2).2.2 rfl

/-! ### A line that stands in no way -/

/-- Line 0 stands in way 16, which a set does not have, and the register where the sweep of that way would show has its bit set; a fill of the
line is in flight, and an update waits behind it. -/
def wayless : State := { State.reset with
  cache := { Cache.reset with
    lines := [{ line := 0, way := 16, sectors := emptySectors }], fills := [(0, 0)]
    queue := [{ cls := 0, pos := 0, pkt := 1, byte := 1, missed := false }] }
  regs := { Regs.reset with live := [(0x100000, 1), (0x100140, 0x20000000)] } }

theorem wayless_fills : mapGet (pre wayless).cache.fills 0 = some 0 ∧ ((setLine (pre wayless) 0).or (vicLine (pre wayless) 0)).isSome = true ∧
    (∀ m ∈ (pre wayless).cache.lines ++ (pre wayless).cache.victim, m.line = 0 → m.sectors.length = 4) ∧
    ∀ w : Nat, w < 16 → waySweep (pre wayless) w = false := by decide +kernel

/-- The update that waited finds its line under a sweep, and asks for the fill anew. -/
theorem wayless_again : mapGet (fillMeet (pre wayless) 0 []).cache.fills 0 = some 0 := by decide +kernel

/-- Refutes O36: a state may list a line in a way beyond the sixteen, whose sweep bit no hypothesis clears; the fill of that line, as it returns,
is asked for again by the update that waited for it. -/
theorem not_cacheIsControlled : ¬ Obligations.CacheIsControlled := by
  unfold Obligations.CacheIsControlled
  intro h
  obtain ⟨-, -, fills, -⟩ := h wayless 0 0
  obtain ⟨flight, cached, four, sweeps⟩ := wayless_fills
  obtain ⟨v, run, done, -⟩ := fills 0 0 flight cached four sweeps
  have is : exec (.ccFillReturn 0 []) wayless = .next (fillMeet (pre wayless) 0 []) := rfl
  rw [is] at run
  cases run
  rw [wayless_again] at done
  cases done

end Sys2Proof.Claim
end

section
/-! PROOFS. Placements that take the one block left, a block under test in place: the test ends, and with it the command that asked
for it (R285). Refutations of O24, O25 and O26. -/

namespace Sys2Proof.Machine

/-! ### The one block left -/

/-- No block of die 0 may be picked. -/
theorem pickBlock_none {s : State} {ok : Nat → Nat → Bool} (held : List BlkHold) (no : ∀ b < 1024, (blkFree s 0 b && ok 0 b) = false) :
    pickBlock s [0] held ok = none := by
  have cands : (List.range 1024).filter (fun b => blkFree s 0 b && ok 0 b) = [] :=
    List.filter_eq_nil_iff.mpr fun b hb => by simp only [no b (List.mem_range.mp hb), Bool.false_eq_true, not_false_eq_true]
  unfold pickBlock
  dsimp only [List.foldl_cons, List.foldl_nil]
  simp only [cands]
  rfl

/-- Block 1023 is the only one of die 0 that may be picked. -/
theorem pickBlock_last {s : State} {ok : Nat → Nat → Bool} (only : ∀ b < 1024, (blkFree s 0 b && ok 0 b) = decide (b = 1023)) :
    pickBlock s [0] [] ok = some (0, 1023) := by
  have cands : (List.range 1024).filter (fun b => blkFree s 0 b && ok 0 b) = [1023] := by
    rw [List.filter_congr (q := fun b => decide (b = 1023)) fun b hb => only b (List.mem_range.mp hb)]
    rw [List.range_succ, List.filter_append, List.filter_eq_nil_iff.mpr fun b hb => by simpa using Nat.ne_of_lt (List.mem_range.mp hb)]
    rfl
  unfold pickBlock
  dsimp only [List.foldl_cons, List.foldl_nil]
  simp only [cands]
  rw [if_neg (by decide)]
  dsimp only
  simp only [cands]
  decide

/-- Every block of die 0 but the last is retired, and the last is under test in place for command `i`. -/
structure LastTested (s : State) (i : Nat) : Prop where
  blocks : s.dies.blocks = []
  retired : s.spk.retired = List.range 1023
  tests : s.spk.tests = [{ phase := 2, pos := 1023, spare := none, cmd := some i }]

theorem blkFree_of_blocks {s : State} (blocks : s.dies.blocks = []) (retired : s.spk.retired = List.range 1023) (b : Nat) :
    blkFree s 0 b = (decide (1023 ≤ b) && !testedInPlace s 0 b) := by
  have pool : (s.blk 0 b).st = 0 := by rw [State.blk, blocks]; rfl
  have gone : blkRetired s 0 b = decide (b < 1023) := by simp [blkRetired, retired]
  simp only [blkFree, pool, gone, beq_self_eq_true, Bool.true_and, ← decide_not, Nat.not_lt]

/-- The test that aborts leaves the blocks and the retired positions, and is over. -/
theorem abortTest_last {s : State} {i : Nat} (last : LastTested s i) : (abortTest s 0).dies.blocks = [] ∧
    (abortTest s 0).spk.retired = List.range 1023 ∧ (abortTest s 0).spk.tests = [{ phase := 0, pos := 1023, spare := none, cmd := none }] ∧
    (abortTest s 0).tables = s.tables ∧ (abortTest s 0).cmds = endCmd s.cmds i stInvalid 0xFFFFFFFF 0 false := by
  obtain ⟨blocks, retired, tests⟩ := last
  unfold abortTest
  rw [tests]
  dsimp only [List.getElem?_cons_zero]
  rw [finish_plain _ _ _ _ _ (by decide)]
  unfold skipTest
  simp [blocks, retired, draw]

/-- The placement takes the block, and its test aborts. -/
theorem pickOrAbort_last {s : State} {i : Nat} (last : LastTested s i) {ok : Nat → Nat → Bool} (may : ∀ b, ok 0 b = true) :
    pickOrAbort s [0] [] ok = (some (0, 1023), abortTest s 0) := by
  obtain ⟨blocks, retired, tests, -, -⟩ := abortTest_last last
  have none : pickBlock s [0] [] ok = none := pickBlock_none [] fun b hb => by
    rw [blkFree_of_blocks last.blocks last.retired, may, testedInPlace, last.tests]
    by_cases at_ : b = 1023
    · simp [at_]
    · simp; omega
  have some_ : pickBlock (abortTest s 0) [0] [] ok = some (0, 1023) := pickBlock_last fun b hb => by
    rw [blkFree_of_blocks blocks retired, may, testedInPlace, tests]
    by_cases at_ : b = 1023
    · simp [at_]
    · simp; omega
  unfold pickOrAbort
  rw [none]
  dsimp only
  rw [List.find?_cons_of_pos (by rw [last.tests]; simp [may])]
  dsimp only
  rw [some_]

/-- The block as table `t` holds it in group 0. -/
def lastBlock : BlkHold := { die := 0, block := 1023, group := 0, replica := 0 }

/-- `s` once table `t`, which is `x`, has taken the block. -/
def lastTaken (s : State) (t : Nat) (x : Table) : State :=
  takeBlock ((abortTest s 0).setTable t { x with blocks := [lastBlock] }) t 0 1023 0

/-- A table without blocks grows by the block, and its test aborts. -/
theorem growGroup_last {s : State} {i t max : Nat} {x : Table} (last : LastTested s i) (here : s.table t = some x) (bare : x.blocks = [])
    (room : 0 < max) : growGroup s t 0 0 [0] max false = some (lastBlock, lastTaken s t x) := by
  have none : staying x = [] := by rw [staying, bare]; rfl
  unfold growGroup
  rw [here]
  dsimp only
  rw [none, if_neg (by simpa using Nat.ne_of_gt room), pickOrAbort_last last (fun _ => rfl)]
  dsimp only
  rw [bare]
  rfl

/-- A table without blocks reserves the block. -/
theorem reserve_last {s : State} {i t : Nat} {x : Table} {st : Word} (last : LastTested s i) (here : s.table t = some x) (bare : x.blocks = [])
    (next : nextGroup [] st = (0, 0, false)) (dies : structDies st = [0]) : reserve s t st 1 = some (lastTaken s t x) := by
  have none : staying x = [] := by rw [staying, bare]; rfl
  unfold reserve
  rw [here]
  dsimp only
  rw [none, next, dies]
  dsimp only
  rw [growGroup_last last here bare (by decide)]
  rfl

/-- `s` with TERNARY table `t` made of the structure words, before it reserves blocks. -/
def newTable (s : State) (t : Nat) (raw : List (Nat × Word)) : State :=
  { ((raw.map (fun p => (p.1, if p.1 = 0x8 ∧ (raw.getD 1 (0, 0)).2 = 0 then word (latMin .ternary (raw.getD 0 (0, 0)).2 (cscLen s))
      else attrApplied p.1 p.2))).foldl (fun s p => s.setBoth (taAddr t p.1) p.2) s).setTable t (Table.fresh .ternary s.epoch.count) with
    direct := s.direct }

/-- TBL_CREATE of a TERNARY table whose words are in order. -/
theorem createTable_ternary {s : State} {t : Nat} {raw : List (Nat × Word)} (kind : kindOf (raw.getD 0 (0, 0)).2 = some .ternary)
    (form : (t == 255 || fld (raw.getD 0 (0, 0)).2 31 27 == 0 || raw.any (fun p => p.2 &&& word (attrReserved .ternary p.1) != 0) ||
      !resOk .ternary (raw.getD 0 (0, 0)).2 (raw.getD 6 (0, 0)).2 (raw.getD 7 (0, 0)).2) = false)
    (words : (raw.map (fun p => (p.1, if p.1 = 0x8 ∧ (raw.getD 1 (0, 0)).2 = 0 then word (latMin .ternary (raw.getD 0 (0, 0)).2 (cscLen s))
      else attrApplied p.1 p.2))).any (fun p => !attrOk .ternary (raw.getD 0 (0, 0)).2 (cscLen s) p.1 p.2) = false)
    (chain : cascOk s .ternary (raw.getD 0 (0, 0)).2 = true) (absent : s.table t = none) :
    createTable s t raw = (match reserve (newTable s t raw) t (raw.getD 0 (0, 0)).2 (fld (raw.getD 6 (0, 0)).2 12 0) with
      | none => .error stTableFull
      | some s => .ok s) := by
  unfold createTable
  dsimp only
  rw [kind]
  dsimp only
  rw [if_neg (by rw [form, words, chain]; decide), absent]
  dsimp only
  rw [if_neg (by simp), if_neg (by simp), if_pos rfl]
  rfl

/-- An entry of a table without blocks and covers is placed in the block. -/
theorem placeGroup_last {s : State} {i t o : Nat} {x : Table} {e : Entry} {w : BitVec 64} {room : Bool} (last : LastTested s i) (here : s.table t = some x)
    (bare : x.blocks = []) (clear : x.covers = []) (wide : 8 ≤ ones (seg0 e.mask)) (dies : structDies (ta s t 0) = [0]) (max : 0 < taBlkMax s t) :
    placeGroup s t o e w room 0 = (match (lastTaken s t x).table t with
      | none => .error pfNone
      | some y => match addCover (lastTaken s t x) y o 0 1023 0 (seg0 e.value &&& seg0 e.mask) (seg0 e.mask) with
        | none => .error pfNone
        | some y => placeIn ((lastTaken s t x).setTable t y) t o 0 1023 e none w) := by
  have none : staying x = [] := by rw [staying, bare]; rfl
  have covers : groupCovers x 0 o = [] := by rw [groupCovers, clear]; rfl
  unfold placeGroup
  rw [here]
  dsimp only
  rw [covers, none]
  dsimp only [List.find?_nil, List.filter_nil, List.foldl_nil]
  rw [if_neg (by omega), dies, growGroup_last last here bare max]
  rfl

theorem nearest_some (w lo hi : Nat) {l : List Nat} (full : l ≠ []) : ∃ i, nearest w lo hi l = some i := by
  have each : ∀ (f : Option Nat → Nat → Option Nat), (∀ m i, ∃ j, f m i = some j) → ∀ (l : List Nat) (m : Option Nat), l ≠ [] → ∃ i, l.foldl f m = some i := by
    intro f step l
    induction l with
    | nil => exact fun _ h => absurd rfl h
    | cons a l ih =>
      intro m _
      cases l with
      | nil => exact step m a
      | cons b l => exact ih _ (by simp)
  refine each _ (fun m i => ?_) l none full
  cases m with
  | none => exact ⟨i, rfl⟩
  | some j => exact Option.isSome_iff_exists.mp (by simp only [apply_ite Option.isSome, Option.isSome_some, ite_self])

/-- A block without rows has room. -/
theorem makeRoom_bare {x : Table} (bare : x.rows = []) (o d b h p : Nat) (v m : Key) (fuel : Nat) {w : Nat} (fits : 0 < 4096 / w) :
    ∃ i, makeRoom o w d b h p v m fuel x = some (i, x, 0) := by
  have rows : blockRows x d b = [] := by rw [blockRows, bare]; rfl
  have all : window [] o w h p v m = (0, 4096 / w) := rfl
  have free : 0 ∈ freeIn [] w 0 (4096 / w) := List.mem_filter.mpr ⟨by simpa using fits, by simpa using fits⟩
  obtain ⟨i, hi⟩ := nearest_some w 0 (4096 / w) (List.ne_nil_of_mem free)
  refine ⟨i, ?_⟩
  unfold makeRoom
  dsimp only
  rw [rows, all]
  dsimp only
  rw [hi]

/-- An entry is written into a block of a table without rows and without replicas. -/
theorem placeIn_bare {s : State} {t o d b : Nat} {e : Entry} {stamp : BitVec 64} {x : Table} (here : s.table t = some x) (bare : x.rows = [])
    (alone : replicasBeside (allocPos ((s.setTable t x).bump 0x88010 0) d (taW s t)).2 t x d b = []) (fits : 0 < 4096 / taW s t)
    (pos : ((allocPos ((s.setTable t x).bump 0x88010 0) d (taW s t)).1).isSome = true) :
    ∃ v : State, placeIn s t o d b e none stamp = .ok v ∧ v.cmds = s.cmds := by
  obtain ⟨i, room⟩ := makeRoom_bare bare o d b e.handle e.prio e.value e.mask 8 fits
  obtain ⟨p, hp⟩ := Option.isSome_iff_exists.mp pos
  unfold placeIn
  rw [here]
  dsimp only
  rw [room]
  dsimp only
  rw [hp, alone]
  refine ⟨_, rfl, ?_⟩
  rw [if_neg (by simp)]
  unfold putStamp
  dsimp only
  rw [State.modTable_cmds]
  unfold allocPos
  simp

theorem placeFirst_first {k : Unit → Except Nat State} {v : State} (h : k () = .ok v) (l : List (Unit → Except Nat State)) (f : Nat) :
    placeFirst (k :: l) f = .ok v := by
  unfold placeFirst
  rw [h]

/-- The placement of an entry of a table without blocks, covers and rows takes the block; `z` is the table with its first cover. -/
theorem place_last {s : State} {i t o : Nat} {x z : Table} {e : Entry} {w : BitVec 64} (last : LastTested s i) (here : s.table t = some x)
    (bare : x.blocks = []) (clear : x.covers = []) (wide : 8 ≤ ones (seg0 e.mask)) (dies : structDies (ta s t 0) = [0]) (max : 0 < taBlkMax s t)
    (groups : structGroups (ta s t 0) = 1) (plain : structAO (ta s t 0) = false)
    (cover : addCover (lastTaken s t x) { x with blocks := [lastBlock] } o 0 1023 0 (seg0 e.value &&& seg0 e.mask) (seg0 e.mask) = some z)
    (rows : z.rows = []) (fits : 0 < 4096 / taW ((lastTaken s t x).setTable t z) t)
    (alone : replicasBeside (allocPos ((((lastTaken s t x).setTable t z).setTable t z).bump 0x88010 0) 0
      (taW ((lastTaken s t x).setTable t z) t)).2 t z 0 1023 = [])
    (pos : (allocPos ((((lastTaken s t x).setTable t z).setTable t z).bump 0x88010 0) 0 (taW ((lastTaken s t x).setTable t z) t)).1.isSome = true) :
    ∃ v : State, place s t o e w = .ok v ∧ v.cmds = endCmd s.cmds i stInvalid 0xFFFFFFFF 0 false := by
  obtain ⟨v, placed, cmds⟩ := placeIn_bare (o := o) (e := e) (stamp := w) (table_setTable_same (lastTaken s t x) t z) rows alone fits pos
  have grown : (lastTaken s t x).table t = some { x with blocks := [lastBlock] } := by
    unfold lastTaken takeBlock
    exact table_setTable_same ..
  have first : placeGroup s t o e w false 0 = .ok v := by
    rw [placeGroup_last last here bare clear wide dies max, grown]
    dsimp only
    rw [cover]
    exact placed
  refine ⟨v, ?_, ?_⟩
  · unfold place
    dsimp only
    rw [groups, plain]
    exact placeFirst_first (k := fun _ => placeGroup s t o e w false 0) first _ _
  · rw [cmds]
    have same : ((lastTaken s t x).setTable t z).cmds = (abortTest s 0).cmds := rfl
    rw [same, (abortTest_last last).2.2.2.2]

end Sys2Proof.Machine

namespace Sys2Proof.Claim

open Machine

/-! ### The state of the refutations -/

/-- Command `n` of mailbox `n`, which runs, its descriptor made of operands at byte offsets. -/
def runningOf (n : Nat) (l : List (Nat × Nat)) : Cmd :=
  { id := n, mb := n, ring := 0, num := 0, desc := BitVec.ofNat 1024 (l.foldl (fun n p => n + p.2 * 2 ^ (8 * p.1)) 0), ownerRight := true
    st := .running, status := 0, handle := 0, vis := 0, held := false, jneed := none, since := 0, stalled := false }

/-- Command 1 of mailbox 1, which waits for its test. -/
def testCmd : Cmd :=
  { id := 1, mb := 1, ring := 0, num := 0, desc := 0x69#1024, ownerRight := true, st := .waiting (.test 0), status := 0, handle := 0, vis := 0
    held := false, jneed := none, since := 0, stalled := false }

/-- Die 0 has one position left, which is under test in place; the commands `l` run, and the test command waits. -/
def oneLeft (l : List Cmd) : State := { State.reset with
  cmds := testCmd :: l
  vault := { Vault.reset with st := 1 }
  spk := { State.reset.spk with retired := List.range 1023, tests := [{ phase := 2, pos := 1023, spare := none, cmd := some 1 }] } }

/-- The test command has ended. -/
def TestOver (l : List Cmd) : Prop := ∀ d ∈ l, d.id = 1 → d.st = .finished

theorem TestOver.endCmd {l : List Cmd} (h : TestOver l) (i status handle vis : Nat) (held : Bool) : TestOver (endCmd l i status handle vis held) := by
  intro d hd one
  obtain ⟨e, he, rfl⟩ := List.mem_map.mp hd
  by_cases mine : e.id == i
  · rw [if_pos mine]; rfl
  · rw [if_neg mine] at one ⊢
    exact h e he one

theorem TestOver.stageCmd {s : State} (h : TestOver s.cmds) (c : Cmd) (y : Nat) (b : JBody) : TestOver (stageCmd s c y b).cmds := by
  obtain ⟨q, hq⟩ := stageCmd_cmds s c y b
  rw [hq]
  intro d hd one
  obtain ⟨e, he, rfl⟩ := List.mem_map.mp hd
  by_cases mine : e.id == c.id
  · rw [if_pos mine] at one ⊢
    exact h e he one
  · rw [if_neg mine] at one ⊢
    exact h e he one

/-- A command 1 that ends, however it stood, has ended. -/
theorem testOver_endCmd (l : List Cmd) : TestOver (endCmd l 1 stInvalid 0xFFFFFFFF 0 false) := by
  intro d hd one
  obtain ⟨e, he, rfl⟩ := List.mem_map.mp hd
  by_cases mine : e.id == 1
  · rw [if_pos mine]; rfl
  · rw [if_neg mine] at one
    exact absurd (by simpa using one) mine

theorem Gives.of_next {i : Instr} {s t : State} {P : State → Prop} (h : Gives i s P) (run : exec i s = .next t) : P t := by
  obtain ⟨v, is, holds⟩ := h
  rw [run] at is
  cases is
  exact holds

/-- While another command alone ends, the test command goes on. -/
theorem ends_test {u v : State} {c : Cmd} {status handle vis : Nat} {held : Bool} (ends : Ends u v c status handle vis held) (other : c.id ≠ 1)
    (waits : testCmd ∈ u.cmds) : ¬ TestOver v.cmds := by
  obtain ⟨q, hq⟩ := ends
  intro h
  have stays : testCmd ∈ v.cmds := hq ▸ List.mem_map.mpr ⟨testCmd, waits, if_neg (fun same => other (beq_iff_eq.mp same).symm)⟩
  exact absurd (h _ stays rfl) (by decide)

/-! ### A table that is created -/

/-- TBL_CREATE of TERNARY table 0 on die 0, with a BLK_MIN of 1. -/
def createCmd : Cmd := runningOf 0 [(0, 1), (16, 0x08010001 + 450 * 2 ^ 32 + 0x00010001 * 2 ^ 192),
  (48, 2 ^ 256 - 1 - (0x08010001 + 450 * 2 ^ 32 + 0x00010001 * 2 ^ 192))]

theorem createCmd_pre : pre (oneLeft [createCmd]) = oneLeft [createCmd] := by decide +kernel

/-- The table is created with the block, and the test has ended. -/
theorem createTable_last : ∃ w : State, createTable (oneLeft [createCmd]) 0 (cmdAttrs createCmd) = .ok w ∧ TestOver w.cmds := by
  have last : LastTested (newTable (oneLeft [createCmd]) 0 (cmdAttrs createCmd)) 1 := ⟨by decide +kernel, by decide +kernel, by decide +kernel⟩
  have here : (newTable (oneLeft [createCmd]) 0 (cmdAttrs createCmd)).table 0 = some (Table.fresh .ternary 0) := by decide +kernel
  rw [createTable_ternary (by decide +kernel) (by decide +kernel) (by decide +kernel) (by decide +kernel) rfl]
  generalize newTable (oneLeft [createCmd]) 0 (cmdAttrs createCmd) = made at last here ⊢
  rw [show fld ((cmdAttrs createCmd).getD 6 (0, 0)).2 12 0 = 1 by decide +kernel,
    reserve_last last here rfl (by decide +kernel) (by decide +kernel)]
  refine ⟨_, rfl, ?_⟩
  have cmds : (lastTaken made 0 (Table.fresh .ternary 0)).cmds = (abortTest made 0).cmds := rfl
  rw [cmds, (abortTest_last last).2.2.2.2]
  exact testOver_endCmd _

/-- A TBL_CREATE that creates its table leaves the commands as the creation left them, but for its own. -/
theorem tblCreate_over {s u w : State} {c : Cmd} (start : pre s = u) (runs : Runs u 0 0x01 c) (form : createForm c = true) (lock : lockWait u c = false)
    (created : createTable u c.table (cmdAttrs c) = .ok w) (may : mayChange u c = true) (ended : TestOver w.cmds) :
    ∃ v : State, exec (.tblCreate 0) s = .next v ∧ TestOver v.cmds := by
  have run : exec (.tblCreate 0) s = .next (withCmdSlots (pre s) 0 0x01 cmdTblCreate) := rfl
  rw [start, withCmdSlots_runs runs] at run
  refine ⟨_, run, ?_⟩
  obtain ⟨vault, fits⟩ := mayChange_spec may
  simp only [createForm, Bool.and_eq_true, Bool.not_eq_true'] at form
  obtain ⟨⟨⟨compl, auto⟩, addr⟩, zero⟩ := form
  rw [withSlots_cmds]
  unfold cmdTblCreate
  rw [if_neg (by simp [compl]), if_neg (by simp [auto, addr, zero]), if_neg (by simp [lock]), created]
  dsimp only
  rw [if_neg (by simp [vault]), needJournal_fits _ fits, finish, finishAs_cmds]
  exact TestOver.endCmd (ended.stageCmd _ _ _) _ _ _ _ _

/-- Refutes O24: a TBL_CREATE that reserves the one position left, which is under test in place, aborts the test (R285), and the command that
asked for the test ends with it. -/
theorem not_tableStructureCommands : ¬ Obligations.TableStructureCommands := by
  unfold Obligations.TableStructureCommands
  intro h
  have all := h (oneLeft [createCmd]) 0 createCmd
  dsimp only at all
  rw [createCmd_pre] at all
  have runs : Runs (oneLeft [createCmd]) 0 0x01 createCmd := by unfold Runs; decide +kernel
  have form : createForm createCmd = true := by decide +kernel
  have lock : lockWait (oneLeft [createCmd]) createCmd = false := by decide +kernel
  have may : mayChange (oneLeft [createCmd]) createCmd = true := by decide +kernel
  have waits : testCmd ∈ (oneLeft [createCmd]).cmds := by decide +kernel
  obtain ⟨w, created, finished⟩ := createTable_last
  rw [← show createCmd.table = 0 by decide +kernel] at created
  obtain ⟨v, run, ended⟩ := tblCreate_over createCmd_pre runs form lock created may finished
  obtain ⟨ends, -⟩ := ((all.1 runs form lock).1 w created may).of_next run
  exact ends_test ends (by decide) waits ended

/-! ### An entry that is inserted -/

/-- A TERNARY table without blocks, on die 0, whose generation in slot 1 is open. -/
def bareTable : Table := { Table.fresh .ternary 0 with
  slots := [{ Slot.empty with st := .live }, { Slot.empty with st := .opened }, Slot.empty, Slot.empty] }

/-- The descriptor of an entry of one segment with handle 7, every bit of its mask set. -/
def entryBytes : List Byte := bytesLE 112 (7 + (2 ^ 32 - 8) * 2 ^ 64 + (2 ^ 32 - 1) * 2 ^ 96 + (2 ^ 80 - 1) * 2 ^ 256)

/-- ENT_INSERT of the entry, which its descriptor carries. -/
def insertCmd : Cmd := runningOf 0 [(0, 0x20), (16, natLE entryBytes)]

/-- ENT_BATCH of a list of 16 bytes and one record of 72. -/
def batchCmd : Cmd := runningOf 2 [(0, 0x24), (1, 2), (24, 88), (28, 2 ^ 32 - 1 - 88)]

/-- Both commands run, on a table whose BLK_MAX is 1. -/
def oneTable : State := { oneLeft [insertCmd, batchCmd] with
  tables := [(0, bareTable)], regs := { Regs.reset with live := [(0x80000, 0x08010001), (0x80020, 0x00010000)] } }

theorem oneTable_pre : pre oneTable = oneTable := by decide +kernel

/-- The table once it has the block, and the cover of the entry there. -/
def coveredTable : Table := { bareTable with
  blocks := [lastBlock], covers := [{ value := 0, mask := BitVec.allOnes 80, die := 0, block := 1023, group := 0, vis := 2, idx := 0 }] }

/-- The entry is placed in the one position left, and the test has ended. -/
theorem applyChange_last : ∃ v : State, applyChange oneTable 0 1 (.ins (parseEntry entryBytes)) = .ok v ∧ TestOver v.cmds := by
  have last : LastTested oneTable 1 := ⟨by decide +kernel, by decide +kernel, by decide +kernel⟩
  have here : oneTable.table 0 = some bareTable := by decide +kernel
  have wide : 8 ≤ ones (seg0 (parseEntry entryBytes).mask) := by decide +kernel
  have dies : structDies (ta oneTable 0 0) = [0] := by decide +kernel
  have max : 0 < taBlkMax oneTable 0 := by decide +kernel
  have groups : structGroups (ta oneTable 0 0) = 1 := by decide +kernel
  have plain : structAO (ta oneTable 0 0) = false := by decide +kernel
  have cover : addCover (lastTaken oneTable 0 bareTable) { bareTable with blocks := [lastBlock] } 1 0 1023 0
      (seg0 (parseEntry entryBytes).value &&& seg0 (parseEntry entryBytes).mask) (seg0 (parseEntry entryBytes).mask) = some coveredTable := by
    decide +kernel
  have fits : 0 < 4096 / taW ((lastTaken oneTable 0 bareTable).setTable 0 coveredTable) 0 := by decide +kernel
  have alone : replicasBeside (allocPos ((((lastTaken oneTable 0 bareTable).setTable 0 coveredTable).setTable 0 coveredTable).bump 0x88010 0) 0
      (taW ((lastTaken oneTable 0 bareTable).setTable 0 coveredTable) 0)).2 0 coveredTable 0 1023 = [] := by decide +kernel
  have pos : (allocPos ((((lastTaken oneTable 0 bareTable).setTable 0 coveredTable).setTable 0 coveredTable).bump 0x88010 0) 0
      (taW ((lastTaken oneTable 0 bareTable).setTable 0 coveredTable) 0)).1.isSome = true := by decide +kernel
  generalize parseEntry entryBytes = e at wide cover ⊢
  generalize oneTable = u at *
  obtain ⟨v, placed, cmds⟩ := place_last (w := mkStamp u.epoch.count 0 false) last here rfl rfl wide dies max groups plain cover rfl fits alone pos
  refine ⟨v, ?_, cmds ▸ testOver_endCmd _⟩
  unfold applyChange
  rw [here]
  dsimp only
  rw [placed]
  rfl

/-- The end of an entry command without AUTO leaves the commands as its placement left them, but for its own. -/
theorem endEntry_over {s2 : State} {c : Cmd} (ended : TestOver s2.cmds) (auto : c.auto = false) (n k o handle : Nat) (t : State → JBody) :
    TestOver (endEntry (stageCmd (markChange (s2.bump 0x8800C n) c.table o true) c k (t (markChange (s2.bump 0x8800C n) c.table o true))) c o
      handle).cmds := by
  unfold endEntry
  dsimp only
  rw [if_pos (by simp [auto]), finish, finishAs_cmds]
  refine TestOver.endCmd (TestOver.stageCmd ?_ _ _ _) _ _ _ _ _
  unfold markChange
  rw [State.modTable_cmds, State.bump_cmds]
  exact ended

/-- An ENT_INSERT that is placed leaves the commands as its placement left them, but for its own. -/
theorem entInsert_over {s u s1 s2 : State} {c : Cmd} {x : Table} {o len : Nat} {l : List Byte} {io : HostIO} (start : pre s = u) (runs : Runs u 0 0x20 c)
    (errs : io.errs = []) (form : entryForm u c io l len = true) (handle : leAt l 0 4 ≠ 0xFFFFFFFF)
    (placed : entryRuns u c x (.ins (parseEntry l)) o s1 s2) (room : (journalRoom s1 || !vaultTakes s1) = true) (ended : TestOver s2.cmds) :
    ∃ v : State, exec (.entInsert 0 io) s = .next v ∧ TestOver v.cmds := by
  have run : exec (.entInsert 0 io) s = .next (withCmdSlots (pre s) 0 0x20 (fun s c => cmdEntInsert (meet s io.errs) c io)) := rfl
  rw [start, withCmdSlots_runs runs, errs] at run
  refine ⟨_, run, ?_⟩
  obtain ⟨here, live, kind, lock, free, check, opened, applied, may, auto⟩ := placed
  simp only [entryForm, Bool.and_eq_true, Bool.or_eq_true, Bool.not_eq_true', beq_iff_eq, decide_eq_true_eq] at form
  obtain ⟨⟨⟨⟨⟨addr, operand⟩, long⟩, compl⟩, good⟩, cls⟩ := form
  have whole : (parseEntry l).handle = leAt l 0 4 := rfl
  rw [withSlots_cmds]
  unfold cmdEntInsert entryCmd meet
  rw [List.foldl_nil, if_neg (by rcases addr with h | h <;> simp [h]), operand]
  dsimp only
  rw [if_neg (by omega), if_neg (by simp [compl]), if_neg (by simp [good, cls, whole, handle]), if_pos rfl,
    runChange_placed (by simp) here live kind lock free check opened applied room (mayChange_spec may).1]
  exact endEntry_over ended auto 1 _ _ _ (fun w => tableBody w c.table)

/-- Refutes O25: an ENT_INSERT that takes the one position left, which is under test in place, aborts the test (R285), and the command that asked
for the test ends with it. -/
theorem not_entryCommandsChangeTheOpenGeneration : ¬ Obligations.EntryCommandsChangeTheOpenGeneration := by
  unfold Obligations.EntryCommandsChangeTheOpenGeneration
  intro h
  obtain ⟨s2, applied, ended⟩ := applyChange_last
  have all := h oneTable 0 insertCmd bareTable 1 oneTable s2
  dsimp only at all
  rw [oneTable_pre] at all
  have runs : Runs oneTable 0 0x20 insertCmd := by unfold Runs; decide +kernel
  have form : entryForm oneTable insertCmd { rd := none, wr := false } entryBytes 64 = true := by decide +kernel
  have handle : leAt entryBytes 0 4 ≠ 0xFFFFFFFF := by decide +kernel
  have placed : entryRuns oneTable insertCmd bareTable (.ins (parseEntry entryBytes)) 1 oneTable s2 := by
    have table : insertCmd.table = 0 := by decide +kernel
    unfold entryRuns
    rw [table]
    exact ⟨by decide +kernel, rfl, rfl, by decide +kernel, by decide +kernel, by decide +kernel, by decide +kernel, applied, by decide +kernel,
      by decide +kernel⟩
  have waits : testCmd ∈ oneTable.cmds := by decide +kernel
  have room : (journalRoom oneTable || !vaultTakes oneTable) = true := by decide +kernel
  have other : insertCmd.id ≠ 1 := by decide
  obtain ⟨v, run, ended⟩ := entInsert_over oneTable_pre runs rfl form handle placed room ended
  obtain ⟨ends, -⟩ := ((all.1 { rd := none, wr := false } entryBytes 64 rfl form).1 runs handle placed).of_next run
  exact ends_test ends other waits ended

/-! ### A batch of one insert -/

/-- A batch list of one record, the ENT_INSERT of the entry. -/
def batchBytes : List Byte := bytesLE 4 2 ++ bytesLE 4 1 ++ bytesLE 4 (2 ^ 32 - 3) ++ bytesLE 4 (2 ^ 32 - 2) ++ bytesLE 4 0x20 ++ bytesLE 4 (2 ^ 32 - 0x21) ++
  entryBytes.take 64

theorem batch_reads : batchRecs false 1 0 (batchBytes.drop 16) = { changes := [.ins (parseEntry entryBytes)], compl := none, form := none } := by
  decide +kernel

/-- A list of one change applies as the change does. -/
theorem applyAll_one {s v : State} {t o : Nat} {g : Change} (check : changeCheck s t g = stOk) (applied : applyChange s t o g = .ok v) :
    applyAll s t o 0 [g] = .ok v := by
  unfold applyAll
  dsimp only
  rw [if_neg (by simp [check]), applied]
  rfl

/-- The same of a batch, whose first record notes no contents. -/
theorem batchEnd_over {s2 : State} {c : Cmd} (ended : TestOver s2.cmds) (auto : c.auto = false) (n o handle : Nat) :
    TestOver (endEntry (stageCmd (stageCmd (markChange (s2.bump 0x8800C n) c.table o true) c 0x10 .mark) c 0x15
      (tableBody (stageCmd (markChange (s2.bump 0x8800C n) c.table o true) c 0x10 .mark) c.table)) c o handle).cmds := by
  unfold endEntry
  dsimp only
  rw [if_pos (by simp [auto]), finish, finishAs_cmds]
  refine TestOver.endCmd (TestOver.stageCmd (TestOver.stageCmd ?_ _ _ _) _ _ _) _ _ _ _ _
  unfold markChange
  rw [State.modTable_cmds, State.bump_cmds]
  exact ended

/-- An ENT_BATCH on a TERNARY table whose records are placed leaves the commands as the placements left them, but for its own. -/
theorem entBatch_over {s u s1 s2 : State} {c : Cmd} {x : Table} {o : Nat} {l : List Byte} {r : BatchRead} {io : HostIO} (start : pre s = u)
    (errs : io.errs = []) (runs : batchRuns u 2 c io l r) (here : u.table c.table = some x) (kind : x.kind = .ternary) (live : x.st = .live)
    (free : noSlot x = false) (opened : openGen u c.table = some (o, s1)) (applied : applyAll s1 c.table o 0 r.changes = .ok s2) (may : mayChange u c = true)
    (auto : c.auto = false) (room : (journalRoom s1 || !vaultTakes s1) = true) (ended : TestOver s2.cmds) :
    ∃ v : State, exec (.entBatch 2 io) s = .next v ∧ TestOver v.cmds := by
  obtain ⟨running, compl, addr, host, zero, _, lock, read, long, header, two, low, high, list, noCompl, noForm, _⟩ := runs
  have run : exec (.entBatch 2 io) s = .next (withCmdSlots (pre s) 2 0x24 (fun s c => cmdEntBatch (meet s io.errs) c io)) := rfl
  rw [start, withCmdSlots_runs running, errs] at run
  refine ⟨_, run, ?_⟩
  have kindIs : tableKind u c.table = some .ternary := by rw [tableKind_of here, kind]
  rw [kindIs] at list
  rw [withSlots_cmds, show meet u [] = u from rfl]
  unfold cmdEntBatch
  dsimp only
  rw [if_neg (by simp [compl]), if_neg (by simp [addr]), kindIs, show (some Kind.ternary == some Kind.tree) = false from rfl]
  simp only [Bool.false_and, Bool.false_eq_true, if_false]
  rw [if_neg (by simp [lock]), read]
  dsimp only
  rw [if_neg (by omega), if_neg (by simp [header])]
  rw [show (decide (1 ≤ leAt l 4 4) && decide (leAt l 4 4 ≤ 65536)) = true by simp [low, high], if_pos rfl]
  rw [show (some Kind.ternary == some Kind.direct) = false from rfl] at list ⊢
  rw [← list, noCompl, noForm]
  dsimp only
  rw [if_neg (by simp [host, zero, two]), if_neg (by simp [liveFor_of here live]), here]
  dsimp only
  rw [if_neg (by simp), if_neg (by simp)]
  unfold batchTernary
  dsimp only
  rw [if_neg (by simp [free]), opened]
  dsimp only
  rw [applied]
  dsimp only
  rw [if_neg (by simp [(mayChange_spec may).1]), needJournal_fits _ room]
  exact batchEnd_over ended auto _ _ _

/-- Refutes O26: an ENT_BATCH whose insert takes the one position left, which is under test in place, aborts the test (R285), and the command that
asked for the test ends with it. -/
theorem not_batchesApplyWholeOrNotAtAll : ¬ Obligations.BatchesApplyWholeOrNotAtAll := by
  unfold Obligations.BatchesApplyWholeOrNotAtAll
  intro h
  obtain ⟨s2, applied, ended⟩ := applyChange_last
  have all := h oneTable 2 batchCmd { rd := some batchBytes, wr := true }
  dsimp only at all
  rw [oneTable_pre] at all
  have table : batchCmd.table = 0 := by decide +kernel
  have runs : batchRuns oneTable 2 batchCmd { rd := some batchBytes, wr := true } batchBytes
      (batchRecs false 1 0 (batchBytes.drop 16)) := by
    unfold batchRuns Runs
    rw [table]
    decide +kernel
  have here : oneTable.table batchCmd.table = some bareTable := by decide +kernel
  have free : noSlot bareTable = false := by decide +kernel
  have opened : openGen oneTable batchCmd.table = some (1, oneTable) := by decide +kernel
  have may : mayChange oneTable batchCmd = true := by decide +kernel
  have auto : batchCmd.auto = false := by decide +kernel
  have waits : testCmd ∈ oneTable.cmds := by decide +kernel
  have room : (journalRoom oneTable || !vaultTakes oneTable) = true := by decide +kernel
  have check : changeCheck oneTable 0 (.ins (parseEntry entryBytes)) = stOk := by decide +kernel
  have list : applyAll oneTable batchCmd.table 1 0 (batchRecs false 1 0 (batchBytes.drop 16)).changes = .ok s2 := by
    rw [table, batch_reads]
    exact applyAll_one check applied
  have other : batchCmd.id ≠ 1 := by decide
  obtain ⟨v, run, ended⟩ := entBatch_over oneTable_pre rfl runs here rfl rfl free opened list may auto room ended
  obtain ⟨ends, -⟩ := ((((all rfl).2 _ _ runs).2 bareTable 1 oneTable here rfl free opened).1 s2 list may auto).of_next run
  exact ends_test ends other waits ended

end Sys2Proof.Claim
end

section
/-! PROOFS. The query commands, and the transfers that fail (O28). -/

namespace Sys2Proof.Machine

/-- The slots that a query takes are asked of the dies alone. -/
theorem askQuery_frame (s : State) (c : Cmd) : askQuery s c = { s with dies := (askQuery s c).dies } := by
  unfold askQuery
  split
  · dsimp only
    split
    · exact foldl_rel (R := fun (a b : State) => b = { a with dies := b.dies })
        (f := fun (s : State) (b : Nat × Nat) => askSlots s b.1 (wheelGroup (primaryUnit s b.1 b.2)) (primaryUnit s b.1 b.2) 2 1 (sequencerOf c.id))
        (fun _ => rfl) (fun h k => by rw [k, h]) (fun _ _ => rfl) _ _
    · rfl
  · rfl

/-- A raised vector takes nothing back from what has been sent. -/
theorem mem_sendMsix {s : State} {p v : Nat} {o : Out} (h : o ∈ s.out) : o ∈ (sendMsix s p v).out := by
  unfold sendMsix
  split
  · exact h
  · split
    · rwa [State.setBits_out]
    · split
      · exact List.mem_append_left _ h
      · exact h

theorem mem_mbErr {s : State} {m b : Nat} {o : Out} (h : o ∈ s.out) : o ∈ (mbErr s m b).out := mem_sendMsix (by rwa [State.setBits_out])

/-- A transfer that fails ends its command ABORTED, with DMA_FAIL in the errors of the mailbox (R341). -/
theorem dmaFail_eq (s : State) (c : Cmd) : dmaFail s c = { mbErr s c.mb 0 with cmds := endCmd s.cmds c.id stAborted 0xFFFFFFFF 0 false } := by
  unfold dmaFail
  rw [finish_plain _ _ _ _ _ (by decide), mbErr_frame]

/-- A transfer that fails leaves what it has sent and the draw that says how much. -/
theorem busWrite_fails {u : State} {c : Cmd} {io : HostIO} (down : (io.wr && busUp u c.mb) = false) (a : Nat) (l : List Byte) :
    ∃ w : State, busWrite u c io a l = (false, w) ∧ w = { u with out := w.out, free := w.free } := by
  unfold busWrite
  rw [if_neg (by simp [down])]
  exact ⟨_, rfl, rfl⟩

end Sys2Proof.Machine

namespace Sys2Proof.Claim

open Machine

/-- A command whose transfer fails ends, with its mailbox told; what it did before is `t`. -/
theorem dmaFail_gives {i : Instr} {s t u : State} {c : Cmd} (run : exec i s = .next (dmaFail t c)) (low : c.mb < 4)
    (frame : t = { u with out := t.out, free := t.free }) : Gives i s (fun v => Ends u v c stAborted 0xFFFFFFFF 0 false ∧
      bit (v.live (mbAddr c.mb 0x20)) 0 = true ∧ (∀ o ∈ t.out, o ∈ v.out) ∧
      v = { u with cmds := v.cmds, regs := v.regs, out := v.out, free := v.free }) := by
  have cmds : t.cmds = u.cmds := by rw [frame]
  rw [dmaFail_eq, cmds] at run
  refine gives_of run ⟨ends_of rfl, mbErr_bit t low (by decide), fun o ho => mem_mbErr ho, ?_⟩
  rw [mbErr_frame, frame]

section
variable {i : Instr} {s u : State} {c : Cmd} {io : HostIO} {x : Table}

/-- What an ENT_READ with good operands finds is written to the host. -/
theorem cmdEntRead_good {k : Nat} (runs : readRuns u c x k) : cmdEntRead u c io =
    (match (rowIn x k (c.le 16 4)).map (fun r => entBytes r (fld (ta u c.table 0) 5 4)) with
      | none => finish u c.id stNotFound
      | some l => match busWrite u c io (c.host 24) l with
        | (true, s) => finish s c.id stOk (c.le 16 4)
        | (false, s) => dmaFail s c) := by
  obtain ⟨compl, compl', auto, addr, zero, host, here, live, kind, len, slot⟩ := runs
  unfold cmdEntRead
  dsimp only
  rw [if_neg (by simp [compl, compl']), if_neg (by simp [auto, addr, zero, host]), if_neg (by simp [tableLive_of here live]), here]
  dsimp only
  rw [kind]
  dsimp only
  rw [slot, if_neg (not_or.mpr ⟨by decide, by omega⟩)] <;> rfl

/-- A QUERY_SEARCH answers by the table in the slot that it searches. -/
theorem cmdQuerySearch_good (runs : searchRuns u c x) : cmdQuerySearch u c =
    (match answerIn u c.table x (ta u c.table 0x14) (if bit c.desc (8 * 96) then headSlot x else (liveSlot x).getD 0) (BitVec.ofNat 640 (c.le 16 80)) with
      | none => finish u c.id stNotFound
      | some f => finishAs u c.id stOk f.handle (if bit c.desc (8 * 96) then 0 else u.epoch.count)
          (if bit c.desc (8 * 96) then false else u.epoch.held)) := by
  obtain ⟨auto, addr, zero, low, here, live, lock⟩ := runs
  unfold cmdQuerySearch
  dsimp only
  rw [if_neg (by simp [auto, addr, zero]; omega), if_neg (by simp [tableLive_of here live]), if_neg (by simpa using lock), here]
  dsimp only
  generalize answerIn u c.table x _ _ _ = a
  cases a with
  | none => rfl
  | some f => dsimp only; by_cases opn : bit c.desc (8 * 96) = true <;> simp only [opn, if_true, Bool.false_eq_true, if_false] <;> rfl

/-- A search that ends, with the slots that it takes. -/
theorem search_gives {status handle vis : Nat} {held : Bool} (plain : plainStatus status = true)
    (run : exec i s = .next (askQuery (finishAs u c.id status handle vis held) c)) :
    Gives i s (fun v => Ends u v c status handle vis held ∧ v = { u with cmds := v.cmds, dies := v.dies }) := by
  rw [finishAs_plain _ _ _ _ _ _ plain, askQuery_frame] at run
  exact gives_of run ⟨ends_of rfl, rfl⟩

/-- QUERY_FIND reports one of the entries that have the value and the mask, by a draw. -/
theorem cmdQueryFind_good {e : Entry} (runs : findRuns u c io x e) : cmdQueryFind u c io =
    (match (x.rows.filter (fun r => visIn r.vis (headSlot x) && r.value == e.value && r.mask == e.mask))[Config.openNat (draw u).1 %
        max 1 (x.rows.filter (fun r => visIn r.vis (headSlot x) && r.value == e.value && r.mask == e.mask)).length]? with
      | none => finish (draw u).2 c.id stNotFound
      | some r => finish (draw u).2 c.id stOk r.handle) := by
  obtain ⟨compl, addr, auto, here, live, kind, lock, wide, l, read, long, good, form, rfl⟩ := runs
  unfold cmdQueryFind
  dsimp only
  rw [if_neg (by simp [compl]), if_neg (by simp [addr]), read]
  dsimp only
  rw [if_neg (by omega), if_neg (by simp [good]), if_neg (by simp [auto, form]), if_neg (by simp [tableLive_of here live]), if_neg (by simp [lock]), here]
  dsimp only
  rw [if_neg (by simp [kind, wide])] <;> rfl

theorem queryFind_gives {e : Entry} (run : exec i s = .next (cmdQueryFind u c io)) (runs : findRuns u c io x e) : Gives i s (fun v =>
    v = { u with cmds := v.cmds, free := v.free } ∧
    ((∃ r ∈ x.rows, visIn r.vis (headSlot x) = true ∧ r.value = e.value ∧ r.mask = e.mask ∧ Ends u v c stOk r.handle 0 false) ∨
      ((∀ r ∈ x.rows, visIn r.vis (headSlot x) = true → r.value = e.value → r.mask ≠ e.mask) ∧
        Ends u v c stNotFound 0xFFFFFFFF 0 false))) := by
  rw [cmdQueryFind_good runs] at run
  split at run
  · next none =>
    rw [finish_plain _ _ _ _ _ (by decide)] at run
    refine gives_of run ⟨rfl, .inr ⟨fun r hr vis value mask => ?_, ends_of rfl⟩⟩
    have some_ : r ∈ x.rows.filter (fun r => visIn r.vis (headSlot x) && r.value == e.value && r.mask == e.mask) :=
      List.mem_filter.mpr ⟨hr, by simp [vis, value, mask]⟩
    have short := List.getElem?_eq_none_iff.mp none
    have pos := List.length_pos_of_mem some_
    have := Nat.mod_lt (Config.openNat (draw u).1) (show 0 < max 1 _ from Nat.lt_of_lt_of_le pos (Nat.le_max_right 1 _))
    omega
  · next r found =>
    rw [finish_plain _ _ _ _ _ (by decide)] at run
    obtain ⟨hr, fits⟩ := List.mem_filter.mp (List.mem_of_getElem? found)
    simp only [Bool.and_eq_true, beq_iff_eq] at fits
    obtain ⟨⟨vis, value⟩, mask⟩ := fits
    exact gives_of run ⟨rfl, .inl ⟨r, hr, vis, value, mask, ends_of rfl⟩⟩

/-- TBL_STATS with good operands writes its record. -/
theorem cmdTblStats_good (compl : c.compl 24 28 4 = true) (auto : c.auto = false) (addr : c.addr = false) (zero : c.zeroFrom 32 = true)
    (host : c.host 16 % 32 = 0) (len : 128 ≤ c.le 24 4) (here : u.table c.table = some x) : cmdTblStats u c io =
    (match busWrite u c io (c.host 16) (statsRecord u c.table x) with
      | (true, s) => finish s c.id stOk
      | (false, s) => dmaFail s c) := by
  unfold cmdTblStats
  rw [if_neg (by simp [compl]), if_neg (by simp [auto, addr, zero, host]; omega), here] <;> rfl

/-- An ENT_INSERT whose descriptor cannot be read ends with the failure. -/
theorem cmdEntInsert_unread (addr : c.addr = true) (compl : c.compl 24 28 4 = true) (read : entryOperand u c io = none) :
    cmdEntInsert u c io = readFail u c io := by
  unfold cmdEntInsert entryCmd
  rw [if_neg (by simp [addr, compl]), read]

end

/-- A command whose read of the host fails ends, with an error message where the completion timed out (R443). -/
theorem readFail_gives {i : Instr} {s u : State} {c : Cmd} {io : HostIO} {w : Nat → Who} (run : exec i s = .next (withSlots u (readFail u c io) 2 w))
    (low : c.mb < 4) : Gives i s (fun v => Ends u v c stAborted 0xFFFFFFFF 0 false ∧ bit (v.live (mbAddr c.mb 0x20)) 0 = true ∧
      (io.timeout = true → busUp u c.mb = true → .errNonFatal c.mb ∈ v.out) ∧
      v = { u with cmds := v.cmds, regs := v.regs, out := v.out, free := v.free }) := by
  obtain ⟨t, is, frame, sent⟩ : ∃ t : State, readFail u c io = dmaFail t c ∧ t = { u with out := t.out, free := t.free } ∧
      (io.timeout = true → busUp u c.mb = true → .errNonFatal c.mb ∈ t.out) := by
    by_cases late : (io.timeout && busUp u c.mb) = true
    · exact ⟨_, congrArg (dmaFail · c) (if_pos late), rfl, fun _ _ => List.mem_append_right _ (List.mem_singleton.mpr rfl)⟩
    · exact ⟨u, congrArg (dmaFail · c) (if_neg late), rfl, fun a b => absurd (by simp [a, b]) late⟩
  have same : withSlots u (dmaFail t c) 2 w = dmaFail t c := by
    have only : dmaFail t c = { u with cmds := (dmaFail t c).cmds, regs := (dmaFail t c).regs, out := (dmaFail t c).out, free := (dmaFail t c).free } := by
      rw [dmaFail_eq, mbErr_frame, frame]
    rw [only]
    exact withSlots_same u _ _ _ rfl rfl rfl
  rw [is, same] at run
  obtain ⟨v, next, ends, told, keeps, only⟩ := dmaFail_gives run low frame
  exact ⟨v, next, ends, told, fun a b => keeps _ (sent a b), only⟩

/-- Settles O28: each query by what it finds, and the transfers that fail. -/
theorem queriesReportWithoutChange : Obligations.QueriesReportWithoutChange := by
  unfold Obligations.QueriesReportWithoutChange
  refine ⟨?_, ?_, ?_⟩
  · intro s mb c io x u errs
    have read : exec (.entRead mb io) s = .next (withCmd u mb 0x50 (fun s c => cmdEntRead (meet s io.errs) c io)) := rfl
    have search : exec (.querySearch mb) s = .next (withCmd u mb 0x51 (fun s c => askQuery (cmdQuerySearch s c) c)) := rfl
    have find : exec (.queryFind mb io) s = .next (withCmd u mb 0x52 (fun s c => cmdQueryFind (meet s io.errs) c io)) := rfl
    have stats : exec (.tblStats mb io) s = .next (withCmd u mb 0x53 (fun s c => cmdTblStats (meet s io.errs) c io)) := rfl
    clear_value u
    refine ⟨fun k op runs => ?_, fun op runs k slot => ?_, fun e op runs => ?_, fun op compl auto addr zero host len here up => ?_⟩
    · rw [errs, withCmd_runs op, show meet u [] = u from rfl, cmdEntRead_good runs] at read
      refine ⟨fun r found up => ?_, fun none => ?_⟩
      · rw [found] at read
        dsimp only [Option.map_some] at read
        rw [busWrite_reaches up] at read
        dsimp only at read
        rw [finish_plain _ _ _ _ _ (by decide)] at read
        exact gives_of read ⟨ends_of rfl, rfl, rfl⟩
      · rw [none] at read
        exact refused_of read (by decide)
    · subst slot
      rw [withCmd_runs op, cmdQuerySearch_good runs] at search
      refine ⟨fun f found => ?_, fun none => ?_⟩
      · rw [found] at search
        exact search_gives (by decide) search
      · rw [none] at search
        exact search_gives (by decide) search
    · rw [errs, withCmd_runs op, show meet u [] = u from rfl] at find
      exact queryFind_gives find runs
    · rw [errs, withCmd_runs op, show meet u [] = u from rfl, cmdTblStats_good compl auto addr zero host len here, busWrite_reaches up] at stats
      dsimp only at stats
      rw [finish_plain _ _ _ _ _ (by decide)] at stats
      exact gives_of stats ⟨ends_of rfl, rfl, rfl⟩
  · intro s mb c io x u errs op compl auto addr zero host len here down
    have run : exec (.tblStats mb io) s = .next (withCmd u mb 0x53 (fun s c => cmdTblStats (meet s io.errs) c io)) := rfl
    clear_value u
    obtain ⟨w, fails, frame⟩ := busWrite_fails down (c.host 16) (statsRecord u c.table x)
    rw [errs, withCmd_runs op, show meet u [] = u from rfl, cmdTblStats_good compl auto addr zero host len here, fails] at run
    obtain ⟨v, next, ends, told, -, only⟩ := dmaFail_gives run (op.mb ▸ mb.isLt) frame
    exact ⟨v, next, ends, told, only⟩
  · intro s mb c io u errs op addr compl read
    have run : exec (.entInsert mb io) s = .next (withCmdSlots u mb 0x20 (fun s c => cmdEntInsert (meet s io.errs) c io)) := rfl
    clear_value u
    rw [errs, withCmdSlots_runs op, show meet u [] = u from rfl, cmdEntInsert_unread addr compl read] at run
    exact readFail_gives run (op.mb ▸ mb.isLt)

end Sys2Proof.Claim
end

section
/-! PROOFS. Counters that are cleared and captured (O30). -/

namespace Sys2Proof.Machine

/-! ### SUSPECT marks -/

/-- `t` has the SUSPECT marks of `s`. -/
def Marks (s t : State) : Prop := t.act.suspect = s.act.suspect

namespace Marks

theorem trans {a b c : State} (h : Marks a b) (g : Marks b c) : Marks a c := Eq.trans g h

theorem ite {c : Prop} [Decidable c] {s a b : State} (ha : Marks s a) (hb : Marks s b) : Marks s (if c then a else b) := by
  split <;> assumption

theorem foldl {α : Type} {f : State → α → State} (each : ∀ s a, Marks s (f s a)) (l : List α) (s : State) : Marks s (l.foldl f s) :=
  foldl_rel (R := Marks) (fun _ => rfl) .trans each l s

theorem cache (s : State) (c : Cache) : Marks s { s with cache := c } := rfl

theorem askLine (s : State) (cls n : Nat) : Marks s (askLine s cls n) := rfl

theorem putPair (s : State) (p : Nat) (v : Pair) : Marks s (putPair s p v) := rfl

theorem bump (s : State) (a n : Nat) : Marks s (s.bump a n) := congrArg Act.suspect (State.bump_act ..)

theorem writeBack (s : State) (cls : Nat) (l : Line) : Marks s (writeBack s cls l) := by
  have each : ∀ (v : State) (k : Nat), Marks v (match l.sectors[k]? with
      | some x => if x.valid && x.dirty then (Machine.putPair v (4 * l.line + k) x.data).bump 0x100064 else v
      | none => v) := by
    intro v k
    split
    · exact ite ((putPair ..).trans (bump ..)) rfl
    · rfl
  exact (ite (askLine s cls l.line) rfl : Marks s (if l.sectors.any (fun x => x.valid && x.dirty) then Machine.askLine s cls l.line else s)).trans
    (foldl each _ _)

theorem toVictim (s : State) (cls : Nat) (l : Line) : Marks s (toVictim s cls l) := by
  unfold Machine.toVictim
  dsimp only
  refine trans ?_ (cache ..)
  split
  · exact ite ((writeBack s cls _).trans (cache ..)) rfl
  · rfl

theorem allocate (s : State) (cls n : Nat) (sec : List Sector) : Marks s (allocate s cls n sec) := by
  unfold Machine.allocate
  dsimp only
  split
  · rfl
  · refine trans ?_ (cache ..)
    refine trans (b := s.setField 0x100014 15 0 (lfsrNext (s.cfg 0x100014 15 0))) rfl ?_
    generalize s.setField 0x100014 15 0 (lfsrNext (s.cfg 0x100014 15 0)) = w
    split
    · next l _ => exact trans (b := Machine.dropLine w l.line) (cache ..) (toVictim _ cls l)
    · rfl

theorem streamWrite (s : State) (cls n : Nat) : Marks s (streamWrite s cls n) := ite ((cache ..).trans (bump ..)) (cache ..)

theorem sweepLine (s : State) (n : Nat) : Marks s (sweepLine s n) := by
  unfold Machine.sweepLine
  split
  · exact ite ((writeBack ..).trans (cache ..)) rfl
  · rfl

theorem recallLine (s : State) (cls n : Nat) (write : Bool) : Marks s (recallLine s cls n write) := by
  unfold Machine.recallLine
  split
  · rfl
  · exact (bump ..).trans (ite (trans (b := Machine.dropVictim _ n) (cache ..) (allocate ..)) rfl)

theorem addBypass (s : State) (o : CacheOp) : Marks s (addBypass s o) :=
  ((askLine ..).trans (askLine ..)).trans ((putPair ..).trans (bump ..))

theorem runOp (s : State) (o : CacheOp) : Marks s (runOp s o) := by
  have counted : ∀ (v : State) (a : Nat), Marks v (if o.missed then v else v.bump a) := fun v a => ite rfl (bump ..)
  have found : Marks s (Machine.recallLine (Machine.sweepLine s (o.pos / 4)) o.cls (o.pos / 4) true) := (sweepLine ..).trans (recallLine ..)
  unfold Machine.runOp
  dsimp only
  refine ite (cache ..) ?_
  generalize Machine.recallLine (Machine.sweepLine s (o.pos / 4)) o.cls (o.pos / 4) true = w at found ⊢
  refine found.trans (ite ((counted w _).trans (cache ..)) ((counted w (0x100050 + 4 * o.cls)).trans ?_))
  generalize (if o.missed then w else w.bump (0x100050 + 4 * o.cls)) = v
  refine ite (trans ?_ (cache ..)) (addBypass ..)
  exact (ite rfl (allocate ..) : Marks v (if (sectorOf v o.pos).isSome then v else Machine.allocate v o.cls (o.pos / 4) emptySectors)).trans (askLine ..)

theorem pressTo (s : State) : Marks s (pressTo s) := by
  unfold Machine.pressTo
  split
  · rfl
  · exact (bump ..).trans (cache ..)

theorem fillReturn (s : State) (n : Nat) : Marks s (fillReturn s n) := by
  unfold Machine.fillReturn
  split
  · rfl
  · dsimp only
    exact (((pressTo s).trans (cache ..)).trans (cache ..)).trans ((foldl runOp _ _).trans (ite rfl (cache ..)))

theorem finishLine (s : State) (n : Nat) : Marks s (finishLine s n) := (fillReturn ..).trans (fillReturn ..)

theorem counterZero (s : State) (cls p : Nat) : Marks s (counterZero s cls p) := by
  have found : Marks s (Machine.recallLine (Machine.sweepLine (Machine.streamWrite (Machine.finishLine s (p / 4)) cls (p / 4)) (p / 4)) cls (p / 4) true) :=
    ((finishLine ..).trans (streamWrite ..)).trans ((sweepLine ..).trans (recallLine ..))
  unfold Machine.counterZero
  dsimp only
  generalize Machine.recallLine (Machine.sweepLine (Machine.streamWrite (Machine.finishLine s (p / 4)) cls (p / 4)) (p / 4)) cls (p / 4) true = w at found ⊢
  refine found.trans (ite ((bump ..).trans (cache ..)) ((bump w (0x100050 + 4 * cls) 1).trans ?_))
  exact ite (((askLine ..).trans (putPair ..)).trans (bump ..)) (ite (cache ..) (allocate ..))

end Marks

/-! ### Pairs that nothing caches -/

theorem uncached_bump {s : State} (bare : Claim.uncached s) {a : Nat} (ne : 0x100000 ≠ a) (n : Nat) : Claim.uncached (s.bump a n) := by
  obtain ⟨lines, victim, fills, off⟩ := bare
  have same : cacheOn (s.bump a n) = cacheOn s := by unfold cacheOn; rw [live_bump_ne _ _ _ _ ne]
  exact ⟨by rw [State.bump_cache]; exact lines, by rw [State.bump_cache]; exact victim, by rw [State.bump_cache]; exact fills, same ▸ off⟩

theorem streamWrite_eq (s : State) (cls n : Nat) : ∃ l, streamWrite s cls n = { s with cache := { s.cache with streams := l } } ∨
    streamWrite s cls n = State.bump { s with cache := { s.cache with streams := l } } 0x10006C := by
  unfold streamWrite
  dsimp only
  generalize (if (s.cache.streams.getD cls (0, 0)).1 < n ∧ n ≤ (s.cache.streams.getD cls (0, 0)).1 + 2 then
    (s.cache.streams.getD cls (0, 0)).2 + 1 else 1) = c
  refine ⟨s.cache.streams.set cls (n, c), ?_⟩
  by_cases long : c = 64
  · exact .inr (if_pos long)
  · exact .inl (if_neg long)

theorem streamWrite_uncached {s : State} (bare : Claim.uncached s) (cls n : Nat) : Claim.uncached (streamWrite s cls n) ∧
    (streamWrite s cls n).act = s.act := by
  obtain ⟨l, is | is⟩ := streamWrite_eq s cls n
  · rw [is]
    exact ⟨bare, rfl⟩
  · rw [is]
    have noted : Claim.uncached { s with cache := { s.cache with streams := l } } := bare
    exact ⟨uncached_bump noted (by decide) 1, State.bump_act ..⟩

theorem uncached_askLine {s : State} (bare : Claim.uncached s) (cls n : Nat) : Claim.uncached (askLine s cls n) := bare

theorem uncached_putPair {s : State} (bare : Claim.uncached s) (p : Nat) (v : Pair) : Claim.uncached (putPair s p v) := bare

/-- With nothing cached a pair that becomes zero does so in the activity store. -/
theorem counterZero_uncached {s : State} (bare : Claim.uncached s) (cls p : Nat) : Claim.uncached (counterZero s cls p) ∧
    (counterZero s cls p).act = (putPair s p Pair.zero).act := by
  have idle : finishLine s (p / 4) = s := finishLine_idle (by rw [bare.2.2.1]; rfl)
  obtain ⟨still, act⟩ := streamWrite_uncached bare cls (p / 4)
  unfold counterZero
  dsimp only
  rw [idle]
  generalize streamWrite s cls (p / 4) = v at still act ⊢
  obtain ⟨lines, victim, fills, off⟩ := still
  have noLine : setLine v (p / 4) = none := by unfold setLine; rw [lines]; rfl
  have noVictim : vicLine v (p / 4) = none := by unfold vicLine; rw [victim]; rfl
  have swept : sweepLine v (p / 4) = v := by unfold sweepLine; rw [noLine]
  have called : recallLine v cls (p / 4) true = v := by unfold recallLine; rw [noVictim]
  have invalid : sectorValid v p = false := by unfold sectorValid sectorOf; rw [noLine, noVictim]
  have counted := uncached_bump ⟨lines, victim, fills, off⟩ (show 0x100000 ≠ 0x100050 + 4 * cls by omega) 1
  have closed : mayAllocate (v.bump (0x100050 + 4 * cls)) cls true = false := by unfold mayAllocate; rw [counted.2.2.2]; rfl
  rw [swept, called, if_neg (by simp [invalid]), if_pos (by simp [closed])]
  refine ⟨uncached_bump (uncached_putPair (uncached_askLine counted _ _) _ _) (by decide) 1, ?_⟩
  have counters : (v.bump (0x100050 + 4 * cls)).act = s.act := (State.bump_act ..).trans act
  generalize v.bump (0x100050 + 4 * cls) = w at counters ⊢
  rw [State.bump_act]
  have same : (askLine w cls (p / 4)).act = s.act := counters
  unfold putPair
  dsimp only
  rw [same]

/-! ### CNT_CLEAR -/

theorem uncached_act {s : State} (bare : Claim.uncached s) (a : Act) : Claim.uncached { s with act := a } := bare

theorem counterClear_uncached {s : State} (bare : Claim.uncached s) (cls p : Nat) : Claim.uncached (counterClear s cls p) :=
  uncached_act (counterZero_uncached bare cls p).1 _

theorem storePair_counterClear {s : State} (bare : Claim.uncached s) (cls p q : Nat) :
    storePair (counterClear s cls p) q = if q = p then Pair.zero else storePair s q := by
  have same : storePair (counterClear s cls p) q = storePair (putPair s p Pair.zero) q := by
    unfold storePair counterClear
    dsimp only
    rw [(counterZero_uncached bare cls p).2]
  rw [same, storePair_putPair]

theorem suspect_counterClear (s : State) (cls p : Nat) : (counterClear s cls p).act.suspect = s.act.suspect.filter (fun q => q != p) := by
  unfold counterClear
  dsimp only
  rw [Marks.counterZero s cls p]

/-- `t` is reached from `s` by clearing counters: what is uncached stays so, and what is cleared stays so. -/
structure Clearing (s t : State) : Prop where
  work : CacheWork s t
  bare : Claim.uncached s → Claim.uncached t
  marks : ∀ q, s.act.suspect.contains q = false → t.act.suspect.contains q = false
  zero : ∀ q, Claim.uncached s → storePair s q = Pair.zero → storePair t q = Pair.zero

namespace Clearing

theorem refl (s : State) : Clearing s s := ⟨.refl s, id, fun _ h => h, fun _ _ h => h⟩

theorem trans {a b c : State} (h : Clearing a b) (g : Clearing b c) : Clearing a c where
  work := h.work.trans g.work
  bare n := g.bare (h.bare n)
  marks q n := g.marks q (h.marks q n)
  zero q n z := g.zero q (h.bare n) (h.zero q n z)

theorem counterClear (s : State) (cls p : Nat) : Clearing s (counterClear s cls p) where
  work := counterClear_work ..
  bare n := counterClear_uncached n cls p
  marks q n := by
    rw [suspect_counterClear]
    simp only [List.contains_eq_mem, decide_eq_false_iff_not, List.mem_filter, not_and] at n ⊢
    exact fun h => absurd h n
  zero q n z := by
    rw [storePair_counterClear n]
    split
    · rfl
    · exact z

theorem foldl {α : Type} {f : State → α → State} (each : ∀ s a, Clearing s (f s a)) (l : List α) (s : State) : Clearing s (l.foldl f s) :=
  foldl_rel (R := Clearing) refl trans each l s

theorem entry (s : State) (x : Table) (k : Nat) (e : Row) : Clearing s (clearEntry s x k e) := foldl (fun s p => counterClear s 2 p) _ s

end Clearing

/-- What clearing leaves of position `p`, by the state `u` that it began in. -/
def Cleared (u : State) (p : Nat) (t : State) : Prop :=
  t.act.suspect.contains p = false ∧ (Claim.uncached u → Claim.uncached t ∧ storePair t p = Pair.zero)

theorem Cleared.keep {u s t : State} {p : Nat} (h : Cleared u p s) (g : Clearing s t) : Cleared u p t :=
  ⟨g.marks p h.1, fun n => ⟨g.bare (h.2 n).1, g.zero p (h.2 n).1 (h.2 n).2⟩⟩

theorem cleared_counterClear {u s : State} (h : Clearing u s) (cls p : Nat) : Cleared u p (counterClear s cls p) := by
  refine ⟨?_, fun n => ⟨counterClear_uncached (h.bare n) cls p, ?_⟩⟩
  · rw [suspect_counterClear]
    simp
  · rw [storePair_counterClear (h.bare n), if_pos rfl]

/-- What one of the items of a list has cleared stays cleared. -/
theorem cleared_foldl {α : Type} {u s : State} {p : Nat} {f : State → α → State} (each : ∀ s a, Clearing s (f s a)) {l : List α} {a : α} (mem : a ∈ l)
    (start : Clearing u s) (own : ∀ t, Clearing u t → Cleared u p (f t a)) : Cleared u p (l.foldl f s) := by
  obtain ⟨b, r, rfl⟩ := List.append_of_mem mem
  rw [List.foldl_append, List.foldl_cons]
  exact (own _ (start.trans (.foldl each b s))).keep (.foldl each r _)

/-- Every position of every entry of a list is cleared. -/
theorem cleared_rows {u : State} {x : Table} {k p : Nat} {l : List Row} {e : Row} (mem : e ∈ l) (home : p ∈ entryPositions x k e) :
    Cleared u p (l.foldl (fun s e => clearEntry s x k e) u) :=
  cleared_foldl (fun s a => .entry s x k a) mem (.refl u) fun _ h =>
    cleared_foldl (fun s a => .counterClear s 2 a) home h fun _ g => cleared_counterClear g 2 p

/-- Clearing the accumulator leaves a table whose retired counters are zero. -/
theorem clearAcc_table {s : State} {t : Nat} {x : Table} (here : s.table t = some x) :
    (clearAcc s t).table t = some { x with retPkt := 0, retByte := 0, retLate := 0 } ∧ (clearAcc s t).cmds = s.cmds := by
  unfold clearAcc
  rw [here]
  dsimp only
  have work := (Clearing.foldl (fun s a => .counterClear s 2 a) (deletedPositions x)
    (s.setTable t { x with retPkt := 0, retByte := 0, retLate := 0 })).work
  exact ⟨(work.table t).trans (table_setTable_same ..), work.cmds⟩

/-! ### CNT_READ -/

theorem readSum_work (cls : Nat) (ps : List Nat) : ∀ s : State, CacheWork s (readSum s cls ps).2 := by
  induction ps with
  | nil => exact fun s => .refl s
  | cons p ps ih => exact fun s => (counterRead_work s cls p).trans (ih _)

theorem recordsListed_work (x : Table) (k : Nat) (hs : List Nat) : ∀ s : State, CacheWork s (recordsListed s x k hs).2 := by
  induction hs with
  | nil => exact fun s => .refl s
  | cons h hs ih =>
    intro s
    unfold recordsListed
    cases rowIn x k h with
    | none => exact ih s
    | some e => exact (readSum_work 2 (entryPositions x k e) s).trans (ih _)

/-! ### Snapshots -/

/-- `t` is `s` but for its caches, its registers, its dies and the contents of its tables. -/
structure CaptureWork (s t : State) : Prop where
  frame : t = { s with cache := t.cache, act := t.act, regs := t.regs, dies := t.dies, tables := t.tables }
  here : ∀ q, (t.table q).isSome = (s.table q).isSome

namespace CaptureWork

theorem refl (s : State) : CaptureWork s s := ⟨rfl, fun _ => rfl⟩

theorem trans {a b c : State} (h : CaptureWork a b) (g : CaptureWork b c) : CaptureWork a c where
  frame := by rw [g.frame, h.frame]
  here q := (g.here q).trans (h.here q)

theorem of_cache {s t : State} (h : CacheWork s t) : CaptureWork s t where
  frame := by rw [h]
  here q := by rw [h.table]

theorem ite {c : Prop} [Decidable c] {s a b : State} (ha : CaptureWork s a) (hb : CaptureWork s b) : CaptureWork s (if c then a else b) := by
  split <;> assumption

theorem setTable {s : State} {t : Nat} {x y : Table} (here : s.table t = some x) : CaptureWork s (s.setTable t y) where
  frame := rfl
  here q := by
    by_cases same : q = t
    · rw [same, table_setTable_same, here]
      rfl
    · rw [table_setTable_ne _ _ same]

end CaptureWork

theorem captureRows_work (x : Table) (k : Nat) (l : List Row) : ∀ s : State, CacheWork s (captureRows s x k l).2 := by
  induction l with
  | nil => exact fun s => .refl s
  | cons e l ih => exact fun s => (readSum_work 3 (entryPositions x k e) s).trans (ih _)

/-- The capture of one table names it, and leaves the tables that there are. -/
theorem captureTable_spec {s : State} {t : Nat} {x : Table} (clr : Bool) (here : s.table t = some x) : (captureTable s t x clr).1.table = t ∧
    CaptureWork s (captureTable s t x clr).2 := by
  refine ⟨rfl, ?_⟩
  unfold captureTable
  dsimp only
  have read := (captureRows_work x ((liveSlot x).getD 0) (handlesFrom x ((liveSlot x).getD 0) 0) s).trans (readSum_work 3 (deletedPositions x) _)
  have same : (accTotal (captureRows s x ((liveSlot x).getD 0) (handlesFrom x ((liveSlot x).getD 0) 0)).2 3 x).2 =
    (readSum (captureRows s x ((liveSlot x).getD 0) (handlesFrom x ((liveSlot x).getD 0) 0)).2 3 (deletedPositions x)).2 := rfl
  rw [← same] at read
  generalize (accTotal (captureRows s x ((liveSlot x).getD 0) (handlesFrom x ((liveSlot x).getD 0) 0)).2 3 x).2 = w at read ⊢
  refine (CaptureWork.of_cache read).trans (CaptureWork.trans ?_ (.of_cache (CacheWork.foldl (fun _ _ => CacheWork.askDram ..) _ _)))
  exact .ite ((CaptureWork.setTable ((read.table t).trans here)).trans (.of_cache (CacheWork.foldl (fun _ _ => counterZero_work ..) _ _))) (.refl w)

/-- A capture of tables that there are captures each. -/
theorem captureAll_spec (clr : Bool) (l : List Nat) : ∀ s : State, (∀ t ∈ l, (s.table t).isSome = true) →
    (captureAll s clr l).1.map (fun a => a.table) = l ∧ CaptureWork s (captureAll s clr l).2 := by
  induction l with
  | nil => exact fun s _ => ⟨rfl, .refl s⟩
  | cons t l ih =>
    intro s all
    obtain ⟨x, here⟩ := Option.isSome_iff_exists.mp (all t List.mem_cons_self)
    obtain ⟨name, work⟩ := captureTable_spec clr here
    obtain ⟨names, rest⟩ := ih (captureTable s t x clr).2 fun q hq => (work.here q).trans (all q (List.mem_cons_of_mem _ hq))
    unfold captureAll
    rw [here]
    exact ⟨by rw [List.map_cons, name, names], work.trans rest⟩

theorem modSnap_id (s : State) (b : Nat) {f : Snap → Snap} (h : ∀ q, f q = q) : modSnap s b f = s := by
  rw [show f = id from funext h, modSnap, listMod_id]

theorem mapGet_listed {α : Type} {m : NMap α} {p : Nat × α} (h : p ∈ m) : (mapGet m p.1).isSome = true := by
  induction m with
  | nil => cases h
  | cons q m ih =>
    unfold mapGet
    split
    · rfl
    · next other =>
      rcases List.mem_cons.mp h with same | rest
      · exact absurd (by rw [same]) other
      · exact ih rest

/-- A snapshot that none of the errors meets is as it was taken. -/
theorem snapshotMeet_nil (s0 s : State) (b : Nat) : snapshotMeet s0 s b [] = s := by
  unfold snapshotMeet
  split
  · refine modSnap_id s b fun q => ?_
    simp only [List.any_nil, Bool.false_eq_true, if_false, List.map_id']
  · rfl

end Sys2Proof.Machine

namespace Sys2Proof.Claim

open Machine

section
variable {i : Instr} {s u : State} {c : Cmd} {io : HostIO} {x : Table}

theorem actCheck_good (here : u.table c.table = some x) (live : x.st = .live) (kind : x.kind = .ternary) (store : asLost u = false) :
    actCheck u c.table = stOk := by
  simp [actCheck, firstFail, tableLive_of here live, isTernary, tableKind_of here, kind, store]

/-- CNT_READ of a handle list, live. -/
theorem cmdCntRead_list {hs : List Nat} (here : u.table c.table = some x) (live : x.st = .live) (kind : x.kind = .ternary) (store : asLost u = false)
    (compl : cntCompl c true = true) (form : cntForm c true 7 = true) (listed : c.all = false) (now : c.mode.testBit 1 = false)
    (read : readList u c io (c.le 24 4 / 32) = some hs) : cmdCntRead u c io =
    (match busWrite (recordsListed u x ((liveSlot x).getD 0) hs).2 c io (c.host 16) (recordsListed u x ((liveSlot x).getD 0) hs).1 with
      | (true, s) => finish s c.id stOk ((recordsListed u x ((liveSlot x).getD 0) hs).1.length / 32)
      | (false, s) => dmaFail s c) := by
  unfold cmdCntRead
  dsimp only
  rw [if_neg (by simp [compl]), if_neg (by simp [form]), if_neg (by simp [actCheck_good here live kind store]), here]
  dsimp only
  rw [if_neg (by simp [now]), read]
  dsimp only
  rw [if_neg (by simp [now]), if_neg (by simp [listed])] <;> rfl

/-- CNT_READ of a snapshot that is being copied. -/
theorem cmdCntRead_busy (here : u.table c.table = some x) (live : x.st = .live) (kind : x.kind = .ternary) (store : asLost u = false)
    (compl : cntCompl c true = true) (form : cntForm c true 7 = true) (snap : c.mode.testBit 1 = true)
    (busy : (u.snaps.getD (b2n (c.mode.testBit 2)) Snap.reset).st = 2) : cmdCntRead u c io = cmdWait u c.id (.snapRead (b2n (c.mode.testBit 2))) := by
  unfold cmdCntRead
  dsimp only
  rw [if_neg (by simp [compl]), if_neg (by simp [form]), if_neg (by simp [actCheck_good here live kind store]), here]
  dsimp only
  rw [if_pos (by rw [snap, busy]; rfl)]

theorem cntRead_gives {w : Nat → Who} {hs : List Nat} (run : exec i s = .next (withSlots u (cmdCntRead u c io) 2 w)) (here : u.table c.table = some x)
    (live : x.st = .live) (kind : x.kind = .ternary) (store : asLost u = false) (compl : cntCompl c true = true) (form : cntForm c true 7 = true)
    (listed : c.all = false) (now : c.mode.testBit 1 = false) (read : readList u c io (c.le 24 4 / 32) = some hs) (up : reaches_ u c io = true) :
    Gives i s (fun v => Ends u v c stOk ((recordsListed u x ((liveSlot x).getD 0) hs).1.length / 32) 0 false ∧
      v.out = u.out ++ [.dma c.mb (c.host 16) (recordsListed u x ((liveSlot x).getD 0) hs).1] ∧ v.tables = u.tables ∧ v.epoch = u.epoch ∧ v.mem = u.mem) := by
  have work := recordsListed_work x ((liveSlot x).getD 0) hs u
  rw [cmdCntRead_list here live kind store compl form listed now read] at run
  generalize recordsListed u x ((liveSlot x).getD 0) hs = r at run work ⊢
  have reach : reaches_ r.2 c io = true := by rw [work]; exact up
  rw [busWrite_reaches reach] at run
  dsimp only at run
  rw [finish_plain _ _ _ _ _ (by decide)] at run
  refine gives_of run ⟨ends_of ?_, ?_, ?_, ?_, ?_⟩ <;> rw [withSlots_asks] <;> dsimp only [emit] <;> rw [work]

/-- CNT_CLEAR without output clears its entries, and in ALL mode the accumulator. -/
theorem cmdCntClear_good {hs : List Nat} (written : Nat) (here : u.table c.table = some x) (live : x.st = .live) (kind : x.kind = .ternary)
    (store : asLost u = false) (compl : cntCompl c false = true) (form : cntForm c false 25 = true) (quiet : c.mode.testBit 4 = false)
    (acc : c.all = false → c.mode.testBit 3 = false) (read : readList u c io (2 ^ 32) = some hs) : ∃ l : List Row,
      (c.all = false → ∀ h ∈ hs, ∀ e : Row, rowIn x ((liveSlot x).getD 0) h = some e → e ∈ l) ∧
      cmdCntClear u c io written = (finish (if c.mode.testBit 3 then clearAcc (l.foldl (fun s e => clearEntry s x ((liveSlot x).getD 0) e) u) c.table
        else l.foldl (fun s e => clearEntry s x ((liveSlot x).getD 0) e) u) c.id stOk) := by
  refine ⟨(if c.all then none :: ((handlesFrom x ((liveSlot x).getD 0) (c.le 48 4)).take (2 ^ 32 - 1)).map some
    else hs.map (fun h => rowIn x ((liveSlot x).getD 0) h)).filterMap id, fun listed h mem e found => ?_, ?_⟩
  · rw [if_neg (by simp [listed])]
    exact List.mem_filterMap.mpr ⟨some e, List.mem_map.mpr ⟨h, mem, found⟩, rfl⟩
  · unfold cmdCntClear
    dsimp only
    rw [quiet, if_neg (by simp [compl]), if_neg, if_neg (by simp [actCheck_good here live kind store]), here]
    · dsimp only
      rw [if_neg (by simp), read]
      dsimp only
      rw [if_pos (by simp)]
    · cases listed : c.all with
      | false => simp [form, acc listed]
      | true => simp [form]

theorem cntClear_list {w : Nat → Who} {hs : List Nat} {written : Nat} (run : exec i s = .next (withSlots u (cmdCntClear u c io written) 2 w))
    (here : u.table c.table = some x) (live : x.st = .live) (kind : x.kind = .ternary) (store : asLost u = false) (compl : cntCompl c false = true)
    (form : cntForm c false 25 = true) (quiet : c.mode.testBit 4 = false) (listed : c.all = false) (plain : c.mode.testBit 3 = false)
    (read : readList u c io (2 ^ 32) = some hs) : Gives i s (fun v => Ends u v c stOk 0xFFFFFFFF 0 false ∧ v.tables = u.tables ∧ v.out = u.out ∧
      ∀ h ∈ hs, ∀ e : Row, rowIn x ((liveSlot x).getD 0) h = some e → ∀ p ∈ entryPositions x ((liveSlot x).getD 0) e,
        v.act.suspect.contains p = false ∧ (uncached u → storePair v p = Pair.zero)) := by
  obtain ⟨l, rows, is⟩ := cmdCntClear_good written here live kind store compl form quiet (fun _ => plain) read
  rw [is, if_neg (by simp [plain]), finish_plain _ _ _ _ _ (by decide)] at run
  have work := (Clearing.foldl (fun s e => .entry s x ((liveSlot x).getD 0) e) l u).work
  have cleared : ∀ e ∈ l, ∀ p ∈ entryPositions x ((liveSlot x).getD 0) e, Cleared u p (l.foldl (fun s e => clearEntry s x ((liveSlot x).getD 0) e) u) :=
    fun e he p hp => cleared_rows he hp
  generalize l.foldl (fun s e => clearEntry s x ((liveSlot x).getD 0) e) u = t at run work cleared
  refine gives_of run ⟨ends_of ?_, ?_, ?_, fun h mem e found p home => ?_⟩
  · rw [withSlots_cmds, work.cmds]
  · rw [withSlots_tables]
    exact work.tables
  · rw [withSlots_out, work]
  · obtain ⟨marks, zero⟩ := cleared e (rows listed h mem e found) p home
    exact ⟨marks, fun bare => (zero bare).2⟩

theorem cntClear_all {w : Nat → Who} {written : Nat} (run : exec i s = .next (withSlots u (cmdCntClear u c io written) 2 w))
    (here : u.table c.table = some x) (live : x.st = .live) (kind : x.kind = .ternary) (store : asLost u = false) (compl : cntCompl c false = true)
    (form : cntForm c false 25 = true) (quiet : c.mode.testBit 4 = false) (all : c.all = true) (acc : c.mode.testBit 3 = true) :
    Gives i s (fun v => Ends u v c stOk 0xFFFFFFFF 0 false ∧
      ∃ y, v.table c.table = some y ∧ y = { x with retPkt := 0, retByte := 0, retLate := 0 }) := by
  obtain ⟨l, -, is⟩ := cmdCntClear_good written here live kind store compl form quiet (fun none => absurd none (by simp [all])) (if_pos all)
  rw [is, if_pos acc, finish_plain _ _ _ _ _ (by decide)] at run
  have work := (Clearing.foldl (fun s e => .entry s x ((liveSlot x).getD 0) e) l u).work
  obtain ⟨table, cmds⟩ := clearAcc_table ((work.table c.table).trans here)
  refine gives_of run ⟨ends_of ?_, _, (table_of_tables (withSlots_tables ..) _).trans table, rfl⟩
  rw [withSlots_cmds, cmds, work.cmds]

/-- CNT_SNAPSHOT with a good form, on a table whose counters stand. -/
theorem cmdCntSnapshot_good (here : u.table c.table = some x) (live : x.st = .live) (kind : x.kind = .ternary) (store : asLost u = false)
    (form : snapForm c = true) : cmdCntSnapshot u c =
    if (c.le 32 4).testBit 2 then
      (if (u.snaps.getD (c.le 32 4 % 2) Snap.reset).st = 3 then finish (modSnap u (c.le 32 4 % 2) (fun _ => Snap.reset)) c.id stOk
        else finish u c.id stInvalid)
    else if (u.snaps.getD (c.le 32 4 % 2) Snap.reset).st = 1 ∨ (u.snaps.getD (c.le 32 4 % 2) Snap.reset).st = 2 then finish u c.id stInvalid
    else cmdWait (modSnap u (c.le 32 4 % 2) (fun _ => { st := 1, table := c.table, epoch := c.le 16 6, clr := (c.le 32 4).testBit 1, cmd := some c.id
                                                        caps := [] })) c.id (.snapStep (c.le 32 4 % 2)) := by
  simp only [snapForm, Bool.and_eq_true, Bool.not_eq_true', beq_iff_eq, decide_eq_true_eq] at form
  obtain ⟨⟨⟨⟨⟨compl, auto⟩, addr⟩, high⟩, low⟩, zero⟩ := form
  unfold cmdCntSnapshot
  dsimp only
  rw [if_neg (by simp [compl]), if_neg (by simp [auto, addr, high, zero]; omega), if_neg (by simp [tableLive_of here live]),
    if_neg (by simp [isTernary, tableKind_of here, kind]), if_neg (by simp [store])]

end

/-- A buffer whose state is not that of reset is one of the buffers. -/
theorem snap_listed {s : State} {b n : Nat} (h : (s.snaps.getD b Snap.reset).st = n) (set : n ≠ 0) : b < s.snaps.length := by
  refine Classical.byContradiction fun past => ?_
  rw [List.getD_eq_getElem?_getD, List.getElem?_eq_none (by omega)] at h
  exact set h.symm

/-- SNAPSHOT_TAKE of an armed buffer at its step. -/
theorem snapshotTake_gives {s : State} {buf : Fin 2} {l : List Due} (now : DueNow s (fun d => d == .snapshot buf) (.snapshot buf) l)
    (armed : (s.snaps.getD buf Snap.reset).st = 1) (due : (s.snaps.getD buf Snap.reset).epoch ≤ s.epoch.count) (store : asLost s = false) :
    Gives (.snapshotTake buf []) s (fun v =>
      (let q := v.snaps.getD buf Snap.reset
       q.st = 2 ∧ q.epoch = s.epoch.count ∧ q.cmd = none ∧ q.table = (s.snaps.getD buf Snap.reset).table ∧
         q.caps.map (fun a => a.table) = (s.tables.filter (fun p => snapCovers (s.snaps.getD buf Snap.reset).table p.1 p.2)).map (fun p => p.1)) ∧
      (∀ i : Nat, (s.snaps.getD buf Snap.reset).cmd = some i → ∀ d ∈ v.cmds, d.id = i → d.st = .finished ∧ d.status = stOk ∧ d.vis = s.epoch.count ∧
        d.held = s.epoch.held) ∧ v.due = l ∧ v.mem = s.mem ∧ v.epoch = s.epoch) := by
  have low := snap_listed armed (by decide)
  obtain ⟨b, hb⟩ : ∃ b, b = s.snaps.getD buf Snap.reset := ⟨_, rfl⟩
  rw [← hb] at armed due ⊢
  have listed : ∀ t ∈ (s.tables.filter (fun p => snapCovers b.table p.1 p.2)).map (fun p => p.1), (s.table t).isSome = true := by
    intro t ht
    obtain ⟨p, hp, rfl⟩ := List.mem_map.mp ht
    exact mapGet_listed (List.mem_filter.mp hp).1
  obtain ⟨names, work⟩ := captureAll_spec b.clr _ { s with due := [] } listed
  have acts : runDue { s with due := [] } (.snapshot buf) = snapshotAt { s with due := [] } buf := rfl
  unfold snapshotAt at acts
  dsimp only at acts
  rw [← hb, if_neg (by rw [armed]; simp; omega), if_neg (by rw [show asLost { s with due := [] } = asLost s from rfl, store]; simp)] at acts
  generalize captureAll { s with due := [] } b.clr _ = r at names work acts
  obtain ⟨w, hw⟩ : ∃ w, w = modSnap r.2 buf (fun q => { q with st := 2, epoch := r.2.epoch.count, cmd := none, caps := r.1 }) := ⟨_, rfl⟩
  have epoch : r.2.epoch = s.epoch := by rw [work.frame]
  have snaps : r.2.snaps = s.snaps := by rw [work.frame]
  have rest : w.due = [] ∧ w.mem = s.mem ∧ w.epoch = s.epoch := by
    rw [hw, modSnap, work.frame]
    exact ⟨rfl, rfl, rfl⟩
  have taken : w.snaps.getD buf Snap.reset = { b with st := 2, epoch := s.epoch.count, cmd := none, caps := r.1 } := by
    rw [hw, ← epoch, hb, ← snaps]
    exact (getD_listMod _ _ _ _ _ (by rw [snaps]; exact low)).trans (if_pos rfl)
  rw [← hw] at acts
  obtain ⟨wdue, wmem, wepoch⟩ := rest
  obtain ⟨l', q, hq, ended⟩ : ∃ (l' : List Cmd) (q : State), q = { w with cmds := l' } ∧ ((match b.cmd with
      | none => w
      | some i => finishAs w i stOk 0xFFFFFFFF w.epoch.count w.epoch.held) = q) ∧
      (∀ i : Nat, b.cmd = some i → ∀ d ∈ l', d.id = i → d.st = .finished ∧ d.status = stOk ∧ d.vis = s.epoch.count ∧ d.held = s.epoch.held) := by
    cases b.cmd with
    | none => exact ⟨w.cmds, w, rfl, rfl, fun i h => by cases h⟩
    | some i =>
      refine ⟨_, _, rfl, finishAs_plain _ _ _ _ _ _ (by decide), fun j same d hd id => ?_⟩
      cases same
      rw [← wepoch]
      exact endCmd_ended hd id
  obtain ⟨ends, ended⟩ := ended
  replace acts := acts.trans (congrArg (fun q => heldAction q 7 buf) ends)
  have frame : (heldAction q 7 buf).due = [] := by rw [heldAction_due, hq]; exact wdue
  obtain ⟨v, run, told⟩ := gives_due (i := .snapshotTake buf []) (congrArg (fun t => Host.Outcome.next (settle_ t)) (snapshotMeet_nil s _ buf)) now acts frame
  have same : v.snaps = w.snaps ∧ v.cmds = l' ∧ v.due = l ∧ v.mem = s.mem ∧ v.epoch = s.epoch := by
    rw [told.frame]
    dsimp only
    rw [heldAction_snaps, heldAction_cmds, heldAction_mem, heldAction_epoch, hq]
    exact ⟨rfl, rfl, rfl, wmem, wepoch⟩
  obtain ⟨vsnaps, vcmds, rest⟩ := same
  refine ⟨v, run, ?_, ?_, rest⟩
  · rw [vsnaps, taken]
    exact ⟨rfl, rfl, rfl, rfl, names⟩
  · rw [vcmds]
    exact ended

/-- CNT_SNAP_DONE of a buffer that is being copied. -/
theorem snapDone_gives {i : Instr} {s u : State} {buf : Nat} (run : exec i s = .next (snapDone u buf)) (busy : (u.snaps.getD buf Snap.reset).st = 2) :
    Gives i s (fun v => v.snaps.getD buf Snap.reset = { u.snaps.getD buf Snap.reset with st := 3 } ∧ Flagged v evCntSnapDone ∧
      (∀ d ∈ v.cmds, d.st ≠ .waiting (.snapRead buf)) ∧
      v = { u with snaps := v.snaps, cmds := v.cmds, regs := v.regs, mgmt := v.mgmt, out := v.out }) := by
  have low := snap_listed busy (by decide)
  unfold snapDone at run
  dsimp only at run
  rw [if_neg (not_not_intro busy)] at run
  obtain ⟨w, hw⟩ : ∃ w, w = modSnap u buf (fun q => { q with st := 3 }) := ⟨_, rfl⟩
  rw [← hw] at run
  refine gives_of run ⟨?_, ?_, fun d hd => ?_, ?_⟩
  · rw [State.modCmds_snaps, State.raise_snaps, hw]
    exact (getD_listMod _ _ _ _ _ low).trans (if_pos rfl)
  · exact flagged_raise w evCntSnapDone _ _ _ (by decide)
  · obtain ⟨e, he, rfl⟩ := List.mem_map.mp hd
    by_cases waits : e.st = .waiting (.snapRead buf)
    · rw [if_pos (by simp [waits])]
      simp
    · rw [if_neg (by simp [waits])]
      exact waits
  · apply State.same_fields <;> simp [hw, modSnap]

/-- Settles O30: each counter command by its operands, the snapshot at its step and the end of its copy. -/
theorem counterCommands : Obligations.CounterCommands := by
  unfold Obligations.CounterCommands
  refine ⟨?_, ?_⟩
  · intro s mb c io x u k b errs here live kind store
    have read : exec (.cntRead mb io) s = .next (withCmdSlots u mb 0x62 (fun s c => cmdCntRead (meet s io.errs) c io)) := rfl
    have clear : ∀ written, exec (.cntClear mb io written) s = .next (withCmdSlots u mb 0x63 (fun s c => cmdCntClear (meet s io.errs) c io written)) :=
      fun _ => rfl
    have snap : exec (.cntSnapshot mb) s = .next (withCmdSlots u mb 0x64 cmdCntSnapshot) := rfl
    clear_value u
    refine ⟨fun op compl form => ⟨fun hs listed now list up => ?_, fun now busy => ?_⟩, fun written runs => ?_, fun op form => ?_⟩
    · rw [errs, withCmdSlots_runs op] at read
      exact cntRead_gives read here live kind store compl form listed now list up
    · rw [errs, withCmdSlots_runs op, show meet u [] = u from rfl, cmdCntRead_busy here live kind store compl form now busy, cmdWait_eq] at read
      refine ⟨_, read.trans (congrArg _ (withSlots_same u _ _ _ rfl rfl rfl)), waits_of op.mem rfl, rfl⟩
    · obtain ⟨op, compl, form, quiet⟩ := runs
      replace clear := clear written
      rw [errs, withCmdSlots_runs op, show meet u [] = u from rfl] at clear
      refine ⟨fun hs listed plain list => ?_, fun all acc => ?_⟩
      · exact cntClear_list clear here live kind store compl form quiet listed plain list
      · exact cntClear_all clear here live kind store compl form quiet all acc
    · rw [withCmdSlots_runs op, cmdCntSnapshot_good here live kind store form] at snap
      rw [bit_word, show (decide (2 < 32) && (c.le 32 4).testBit 2) = (c.le 32 4).testBit 2 from Bool.true_and _]
      refine ⟨fun arm one two low => ?_, fun release held => ?_, fun release other => ?_⟩
      · rw [if_neg (by simp [arm]), if_neg (not_or.mpr ⟨one, two⟩), cmdWait_eq] at snap
        exact gives_of (snap.trans (congrArg _ (withSlots_same u _ _ _ rfl rfl rfl))) ⟨waits_of op.mem rfl, (getD_listMod _ _ _ _ _ low).trans (if_pos rfl), rfl⟩
      · rw [if_pos release, if_pos held, finish_plain _ _ _ _ _ (by decide)] at snap
        exact gives_of (snap.trans (congrArg _ (withSlots_same u _ _ _ rfl rfl rfl))) ⟨ends_of rfl, (getD_listMod _ _ _ _ _ (snap_listed held (by decide))).trans (if_pos rfl), rfl⟩
      · rw [if_pos release, if_neg other] at snap
        exact refused_slots_of snap (by decide)
  · intro s buf
    refine ⟨fun l => ?_, ?_⟩
    · intro b now armed due store
      exact snapshotTake_gives now armed due store
    · intro u busy
      exact snapDone_gives rfl busy

end Sys2Proof.Claim
end

section
/-! PROOFS. Images that are exported and imported (O32). -/

namespace Sys2Proof.Machine

/-- Sections without counters are read with no effect. -/
theorem tableSections_same (s : State) (t : Nat) (x : Table) : tableSections s t x false = ((tableSections s t x false).1, s) := by
  unfold tableSections
  cases x.kind <;> rfl

end Sys2Proof.Machine

namespace Sys2Proof.Claim

open Machine

section
variable {i : Instr} {s u : State} {c : Cmd} {io : HostIO}

/-- What VAULT_EXPORT does with the sections `secs` once the key is known. -/
def exported (u : State) (c : Cmd) (io : HostIO) (l : List Byte) : State :=
  if c.le 24 4 < l.length then finish u c.id stInvalid l.length
  else match busWrite u c io (c.host 16) l with
    | (true, s) => finish s c.id stOk l.length
    | (false, s) => dmaFail s c

/-- VAULT_EXPORT of a LIVE table or of the crumb table. -/
theorem cmdVaultExport_good {slot : Nat} {gen : Option Nat} {secs : List (Nat × List Byte)} (form : exportForm c = true)
    (key : exportKey u = some (slot, gen))
    (what : (c.le 32 4 = 1 ∧ (∃ x : Table, u.table c.table = some x ∧ x.st = .live ∧ secs = (tableSections u c.table x false).1)) ∨
      (c.le 32 4 = 2 ∧ c.table = 255 ∧ vaultTakes u = true ∧ secs = crumbSections u)) :
    cmdVaultExport u c io = exported u c io (perdarImage (perdarBody u (c.le 32 4) c.table slot secs) gen) := by
  simp only [exportForm, Bool.and_eq_true, Bool.not_eq_true', beq_iff_eq] at form
  obtain ⟨⟨⟨⟨⟨compl, auto⟩, addr⟩, host⟩, high⟩, zero⟩ := form
  unfold cmdVaultExport
  dsimp only
  rw [key, if_neg (by simp [compl])]
  have cnt : c.desc.toNat.testBit (8 * 32 + 2) = false := by
    have of : (c.le 32 4).testBit 2 = c.desc.toNat.testBit (8 * 32 + 2) := by
      unfold Cmd.le
      rw [Nat.testBit_mod_two_pow, Nat.testBit_shiftRight]
      rfl
    rw [← of]
    rcases what with ⟨type, -⟩ | ⟨type, -⟩ <;> rw [type] <;> rfl
  rcases what with ⟨type, x, here, live, rfl⟩ | ⟨type, all, takes, rfl⟩
  · rw [cnt, type, if_neg (by simp [auto, addr, host, zero]), if_pos (by decide), if_neg (by simp [tableLive_of here live]), here]
    dsimp only
    rw [tableSections_same]
    dsimp only
    rw [key]
    rfl
  · rw [cnt, type, if_neg (by simp [auto, addr, host, zero, all]), if_neg (by decide), if_pos (by decide), if_pos takes]
    rfl

/-- VAULT_IMPORT of a configuration image, by its signature. -/
theorem cmdVaultImport_good {mb : Nat} {l : List Byte} {secs : List (Nat × List Byte)} (runs : importRuns u mb c io l secs)
    (kinds : secs.all (fun p => p.1 == 7 || p.1 == 8 || p.1 == 9) = true) (fields : (configPairs ((section_ secs 7).getD [])).all (fun p => persists p.1) = true)
    (takes : vaultTakes u = true) : cmdVaultImport u c io = if imageSigned u l then
      finish { u with vault := { u.vault with cfg := some { u.vault.cfg.getD CfgImg.empty with
        live := (importPairs secs).foldl (fun m p => mapSet m p.1 p.2) (u.vault.cfg.getD CfgImg.empty).live } } } c.id stOk
      else finish (u.raise evVltAuthFail) c.id stInvalid := by
  obtain ⟨_, compl, compl', auto, addr, host, high, zero, len, read, header, head, names, all, type, sections⟩ := runs
  unfold cmdVaultImport
  dsimp only
  rw [if_neg (by simp [compl, compl']), if_neg (by simp [auto, addr, host, high, zero]; omega), read]
  dsimp only
  cases signed : imageSigned u l with
  | false => rfl
  | true =>
    rw [if_neg (by simp), if_pos rfl, if_neg (by simp [header]), if_neg (by simp [head, names, all, type]), sections]
    dsimp only
    rw [if_neg (by simp [type]), if_neg (by simp [type])]
    unfold importConfig
    dsimp only
    rw [if_neg, if_neg (by simp [takes])]
    · rfl
    · simp only [fields, Bool.not_true, Bool.or_false, Bool.not_eq_true, List.any_eq_false]
      intro p hp
      have known := List.all_eq_true.mp kinds p hp
      simp only [Bool.or_eq_true, beq_iff_eq] at known
      simp; omega

end

/-- Settles O32: exports by the length of their image, imports by their signature. -/
theorem imagesAreExportedAndImported : Obligations.ImagesAreExportedAndImported := by
  unfold Obligations.ImagesAreExportedAndImported
  intro s mb c io u errs
  have export_ : exec (.vaultExport mb io) s = .next (withCmd u mb 0x72 (fun s c => cmdVaultExport (meet s io.errs) c io)) := rfl
  have import_ : exec (.vaultImport mb io) s = .next (withCmdSlots u mb 0x71 (fun s c => cmdVaultImport (meet s io.errs) c io)) := rfl
  clear_value u
  refine ⟨?_, fun l secs runs kinds fields takes => ?_⟩
  · intro slot gen secs op form key what l
    rw [errs, withCmd_runs op, show meet u [] = u from rfl, cmdVaultExport_good form key what, exported] at export_
    refine ⟨fun fits up => ?_, fun long => ?_⟩
    · rw [if_neg (Nat.not_lt.mpr fits), busWrite_reaches up] at export_
      dsimp only at export_
      rw [finish_plain _ _ _ _ _ (by decide)] at export_
      exact gives_of export_ ⟨ends_of rfl, rfl⟩
    · rw [if_pos long] at export_
      exact refused_of export_ (by decide)
  · rw [errs, withCmdSlots_runs runs.1, show meet u [] = u from rfl, cmdVaultImport_good runs kinds fields takes] at import_
    refine ⟨fun signed => ?_, fun unsigned => ?_⟩
    · rw [if_pos signed, finish_plain _ _ _ _ _ (by decide)] at import_
      exact gives_of (import_.trans (congrArg _ (withSlots_same u _ _ _ rfl rfl rfl))) ⟨ends_of rfl, rfl⟩
    · rw [if_neg (by simp [unsigned]), finish_plain _ _ _ _ _ (by decide)] at import_
      have same : ∀ l : List Cmd, withSlots u { u.raise evVltAuthFail with cmds := l } 2 (fun _ => sequencerOf c.id) =
          { u.raise evVltAuthFail with cmds := l } := fun l =>
        withSlots_same u _ _ _ (State.raise_tables ..) (State.raise_direct ..) (congrArg Dies.dram (State.raise_dies ..))
      refine gives_of (import_.trans (congrArg _ (same _))) ⟨ends_of (by rw [State.raise_cmds]), flagged_raise u evVltAuthFail 0 0 0 (by decide), ?_⟩
      apply State.same_fields <;> simp

end Sys2Proof.Claim
end

section
/-! PROOFS. Glazes, internal seals, copy-map changes and settles at a step (O45). -/

namespace Sys2Proof.Machine

/-! ### What records and tells of a change -/

/-- `t` is `s` after records, events and flags of a change, and the ends of commands: tables, words and epoch stay. -/
structure Notes (s t : State) : Prop where
  frame : t = { s with dies := t.dies, vault := t.vault, cmds := t.cmds, links := t.links, regs := t.regs, mgmt := t.mgmt, out := t.out, free := t.free }
  live : ∀ a, calm a = true → a ≠ 0x88004 → t.live a = s.live a

namespace Notes

theorem refl (s : State) : Notes s s := ⟨rfl, fun _ _ _ => rfl⟩

theorem trans {a b c : State} (h : Notes a b) (g : Notes b c) : Notes a c where
  frame := by rw [g.frame, h.frame]
  live r calm ne := (g.live r calm ne).trans (h.live r calm ne)

theorem ite {c : Prop} [Decidable c] {s a b : State} (ha : Notes s a) (hb : Notes s b) : Notes s (if c then a else b) := by
  split <;> assumption

theorem tells {s t : State} (h : Tells s t) : Notes s t where
  frame := by rw [h.frame]
  live r calm _ := h.live r calm

theorem withCmds (s : State) (l : List Cmd) : Notes s { s with cmds := l } := ⟨rfl, fun _ _ _ => rfl⟩

theorem stageRec (s : State) (y t : Nat) (c : Option Nat) (b : JBody) : Notes s (stageRec s y t c b) where
  frame := by rw [stageRec_rest]
  live r calm _ := stageRec_live s y t c b (calm_iff.mp calm).1

theorem glazeLate (s : State) (t e : Nat) : Notes s (glazeLate s t e) := by
  unfold Machine.glazeLate
  split
  · refine Notes.trans ⟨by apply State.same_fields <;> simp, fun r _ ne => live_bump_ne _ _ _ _ ne⟩ (tells (Tells.raise _ _ _ _ _ (by decide)))
  · exact refl s

theorem tables {s t : State} (h : Notes s t) : t.tables = s.tables := by rw [h.frame]

theorem table {s t : State} (h : Notes s t) (q : Nat) : t.table q = s.table q := table_of_tables h.tables q

theorem epoch {s t : State} (h : Notes s t) : t.epoch = s.epoch := by rw [h.frame]

theorem due {s t : State} (h : Notes s t) : t.due = s.due := by rw [h.frame]

theorem direct {s t : State} (h : Notes s t) : t.direct = s.direct := by rw [h.frame]

end Notes

theorem glazeLate_cmds (s : State) (t e : Nat) : (glazeLate s t e).cmds = s.cmds := by
  unfold glazeLate
  split <;> simp

/-! ### A glaze -/

/-- Slot `k` has replaced the LIVE slot. -/
def switched (x : Table) (k : Nat) (e : Epoch) : Table :=
  let x := match liveSlot x with
    | some j => x.modSlot j (fun y => { y with st := .retired })
    | none => x
  let x := x.modSlot k (fun y => { y with st := .live, epoch := e.count })
  { freshImage x k with glazed := e.count, glazedHeld := e.held }

theorem switchGen_eq {s : State} {t : Nat} {x : Table} (k : Nat) (here : s.table t = some x) :
    switchGen s t k = (s.setTable t (switched x k s.epoch)).bump 0x88000 := congrArg (fun q => State.bump q 0x88000) (modTable_some _ here)

theorem alterGlaze_none {s : State} (t n : Nat) (none : s.dies.changes = []) : alterGlaze s t n = s := by
  unfold alterGlaze
  dsimp only
  rw [none]
  show ({ s with dies := { s.dies with changes := [] } } : State) = s
  rw [← none]

theorem slotSt_freshImage (x : Table) (k j : Nat) : ((freshImage x k).slot j).st = (x.slot j).st := by
  unfold freshImage
  split
  · rfl
  · simp only [Table.slot, List.getD_eq_getElem?_getD, List.getElem?_mapIdx]
    cases x.slots[j]? with
    | none => rfl
    | some y =>
      show (if j = k then y else _ : Slot).st = y.st
      split <;> rfl

theorem slotEpoch_freshImage (x : Table) (k j : Nat) : ((freshImage x k).slot j).epoch = (x.slot j).epoch := by
  unfold freshImage
  split
  · rfl
  · simp only [Table.slot, List.getD_eq_getElem?_getD, List.getElem?_mapIdx]
    cases x.slots[j]? with
    | none => rfl
    | some y =>
      show (if j = k then y else _ : Slot).epoch = y.epoch
      split <;> rfl

theorem liveSlot_spec {x : Table} {k : Nat} (h : liveSlot x = some k) : k < 4 ∧ (x.slot k).st = .live := by
  have here := List.mem_of_mem_head? (h : _ ∈ (slotsIn x (fun q => q == .live)).head?)
  obtain ⟨low, st⟩ := mem_slotsIn.mp here
  exact ⟨low, beq_iff_eq.mp st⟩

/-- A slot whose state is not that of a free one is one of the slots. -/
theorem slot_listed {x : Table} {k : Nat} (h : (x.slot k).st ≠ .free) : k < x.slots.length := by
  refine Classical.byContradiction fun past => ?_
  unfold Table.slot at h
  rw [List.getD_eq_getElem?_getD, List.getElem?_eq_none (by omega)] at h
  exact h rfl

theorem switched_spec {x : Table} {k : Nat} (e : Epoch) (low : k < x.slots.length) (other : liveSlot x ≠ some k) :
    let y := switched x k e
    (y.slot k).st = .live ∧ (y.slot k).epoch = e.count ∧ y.glazed = e.count ∧ y.glazedHeld = e.held ∧ y.rows = x.rows ∧
      y.covers = x.covers ∧ ∀ j, liveSlot x = some j → (y.slot j).st = .retired := by
  obtain ⟨x1, h1⟩ : ∃ x1, x1 = match liveSlot x with
    | some j => x.modSlot j (fun y => { y with st := .retired })
    | none => x := ⟨_, rfl⟩
  have first : x1.slots.length = x.slots.length ∧ x1.rows = x.rows ∧ x1.covers = x.covers ∧
      ∀ j, liveSlot x = some j → (x1.slot j).st = .retired := by
    rw [h1]
    cases found : liveSlot x with
    | none => exact ⟨rfl, rfl, rfl, fun j h => nomatch h⟩
    | some j =>
      refine ⟨length_listMod .., rfl, rfl, fun i h => ?_⟩
      cases h
      exact congrArg Slot.st (slot_modSlot_same x _ (slot_listed (by rw [(liveSlot_spec found).2]; decide)))
  obtain ⟨len, rows, covers, retired⟩ := first
  have eq : switched x k e = { freshImage (x1.modSlot k (fun y => { y with st := .live, epoch := e.count })) k with
      glazed := e.count, glazedHeld := e.held } := by rw [h1]; rfl
  have here := slot_modSlot_same x1 (fun y => { y with st := .live, epoch := e.count }) (len ▸ low)
  have rest : (freshImage (x1.modSlot k (fun y => { y with st := .live, epoch := e.count })) k).rows = x1.rows ∧
      (freshImage (x1.modSlot k (fun y => { y with st := .live, epoch := e.count })) k).covers = x1.covers := by
    unfold freshImage
    split <;> exact ⟨rfl, rfl⟩
  dsimp only
  rw [eq]
  refine ⟨?_, ?_, rfl, rfl, rest.1.trans rows, rest.2.trans covers, fun j h => ?_⟩
  · exact (slotSt_freshImage _ k k).trans (congrArg Slot.st here)
  · exact (slotEpoch_freshImage _ k k).trans (congrArg Slot.epoch here)
  · refine (slotSt_freshImage _ k j).trans ?_
    rw [slot_modSlot_ne _ _ fun same => other (by rw [← same, h])]
    exact retired j h

/-- The commands that waited for something end OK, and no command waits for it any more. -/
theorem foldl_wakes (w : Wait) (l : List Cmd) (s : State) : ∃ v : State, l.foldl (fun s c =>
      if c.st == .waiting w then finishAs s c.id stOk c.handle s.epoch.count s.epoch.held else s) s = v ∧ v = { s with cmds := v.cmds } ∧
    ∀ d ∈ v.cmds, d.st = .waiting w → d ∈ s.cmds ∧ ∀ c ∈ l, c.st = .waiting w → c.id ≠ d.id := by
  induction l generalizing s with
  | nil => exact ⟨s, rfl, rfl, fun d hd _ => ⟨hd, fun c hc => by simp at hc⟩⟩
  | cons c l ih =>
    obtain ⟨v, run, frame, left⟩ := ih (if c.st == .waiting w then finishAs s c.id stOk c.handle s.epoch.count s.epoch.held else s)
    rw [finishAs_plain _ _ _ _ _ _ (by decide)] at run frame left
    refine ⟨v, by rw [List.foldl_cons, finishAs_plain _ _ _ _ _ _ (by decide)]; exact run, ?_, fun d hd st => ?_⟩
    · rw [frame]; split <;> rfl
    · obtain ⟨before, rest⟩ := left d hd st
      by_cases wait : c.st = .waiting w
      · rw [if_pos (by simpa using wait)] at before
        obtain ⟨e, he, eq⟩ := List.mem_map.mp before
        by_cases same : e.id = c.id
        · rw [if_pos (by simpa using same)] at eq
          rw [← eq] at st
          exact nomatch st
        · rw [if_neg (by simpa using same)] at eq
          subst eq
          refine ⟨he, fun b hb wb => ?_⟩
          rcases List.mem_cons.mp hb with rfl | hb
          · exact Ne.symm same
          · exact rest b hb wb
      · rw [if_neg (by simpa using wait)] at before
        refine ⟨before, fun b hb wb => ?_⟩
        rcases List.mem_cons.mp hb with rfl | hb
        · exact absurd wb wait
        · exact rest b hb wb

/-- A glaze of a sealed slot, with no change of blocks or copies waiting. -/
theorem glazeAt_sealed {s : State} {t n k : Nat} {x : Table} (here : s.table t = some x)
    (found : x.slots.findIdx? (fun y => y.st == .sealed && y.sealNo == n) = some k) (none : s.dies.changes = []) :
    Notes ((s.setTable t (switched x k s.epoch)).bump 0x88000) (glazeAt s t n) ∧ ∀ d ∈ (glazeAt s t n).cmds, d.st ≠ .waiting (.glaze t n) := by
  have runs : glazeAt s t n = glazeAt s t n := rfl
  conv at runs => rhs; unfold glazeAt
  simp only [here, found] at runs
  obtain ⟨w, hw⟩ : ∃ w, w = (s.setTable t (switched x k s.epoch)).bump 0x88000 := ⟨_, rfl⟩
  rw [switchGen_eq k here, alterGlaze_none _ _ (by simp [none]), ← hw] at runs
  obtain ⟨late, hlate⟩ : ∃ q, q = if (x.slot k).by_ == .command || (x.slot k).by_ == .auto then glazeLate w t (x.slot k).epoch else w := ⟨_, rfl⟩
  have one : Notes w late ∧ late.cmds = w.cmds := by
    rw [hlate]
    refine ⟨Notes.ite (Notes.glazeLate ..) (Notes.refl w), ?_⟩
    split
    · exact glazeLate_cmds ..
    · rfl
  rw [← hlate] at runs
  have two := (one.1.trans (Notes.tells (Tells.heldAction late (if (x.slot k).by_ == .internal then 4 else 3) t))).trans
    (Notes.stageRec _ 0x21 t Option.none (tableBody (heldAction late (if (x.slot k).by_ == .internal then 4 else 3) t) t))
  obtain ⟨v, run, frame, left⟩ := foldl_wakes (.glaze t n) (stageRec (heldAction late (if (x.slot k).by_ == .internal then 4 else 3) t) 0x21 t
    Option.none (tableBody (heldAction late (if (x.slot k).by_ == .internal then 4 else 3) t) t)).cmds (stageRec (heldAction late
      (if (x.slot k).by_ == .internal then 4 else 3) t) 0x21 t Option.none (tableBody (heldAction late (if (x.slot k).by_ == .internal then 4 else 3) t) t))
  replace runs := runs.trans run
  rw [runs]
  refine ⟨?_, fun d hd st => ?_⟩
  · rw [frame, ← hw]
    exact two.trans (Notes.withCmds ..)
  · obtain ⟨before, rest⟩ := left d hd st
    exact rest d before st rfl

/-! ### An internal seal -/

/-- What an internal seal does for one of the tables that stood when it began. -/
def sealStep (s : State) (p : Nat × Table) : State := match s.table p.1 with
  | none => s
  | some x => match openSlot x with
    | none => s
    | some k =>
      if (x.slot k).hasInt && !(x.slot k).hasCmd && x.st == .live then
        if (!journalRoom s && vaultTakes s) || lockHeld s p.1 then { s with vault := { s.vault with sealWait := true } } else
        let (_, s) := sealSlot s p.1 k (s.epoch.count + 3) .internal
        stageRec s 0x20 p.1 none (tableBody s p.1)
      else s

theorem internalSealAt_eq (s : State) : internalSealAt s = s.tables.foldl sealStep { s with vault := { s.vault with sealWait := false } } := rfl

/-- The state after the internal seal of slot `k` of table `t`. -/
def afterSeal (s : State) (t k : Nat) : State :=
  stageRec (sealSlot s t k (s.epoch.count + 3) .internal).2 0x20 t none (tableBody (sealSlot s t k (s.epoch.count + 3) .internal).2 t)

/-- A table is left as it was, has its seal put off, or has its OPEN slot sealed, which then holds internal changes. -/
theorem sealStep_cases (s : State) (p : Nat × Table) : sealStep s p = s ∨ sealStep s p = { s with vault := { s.vault with sealWait := true } } ∨
    ∃ x k, s.table p.1 = some x ∧ openSlot x = some k ∧ (x.slot k).hasInt = true ∧ sealStep s p = afterSeal s p.1 k := by
  unfold sealStep
  cases here : s.table p.1 with
  | none => exact .inl rfl
  | some x =>
    dsimp only
    cases found : openSlot x with
    | none => exact .inl rfl
    | some k =>
      dsimp only
      split
      · rename_i own
        split
        · exact .inr (.inl rfl)
        · simp only [Bool.and_eq_true] at own
          exact .inr (.inr ⟨x, k, rfl, found, own.1.1, rfl⟩)
      · exact .inl rfl

/-- The seal takes place when the slot holds internal changes alone, the table is LIVE and free, and the record fits. -/
theorem sealStep_seals {s : State} {p : Nat × Table} {x : Table} {k : Nat} (here : s.table p.1 = some x) (found : openSlot x = some k)
    (int : (x.slot k).hasInt = true) (cmd : (x.slot k).hasCmd = false) (live : x.st = .live) (lock : lockHeld s p.1 = false)
    (room : vaultTakes s = false ∨ journalRoom s = true) : sealStep s p = afterSeal s p.1 k := by
  unfold sealStep
  rw [here]
  dsimp only
  rw [found]
  dsimp only
  rw [if_pos (by simp [int, cmd, live]), if_neg (by rcases room with h | h <;> simp [h, lock])]
  rfl

theorem afterSeal_table {s : State} {t k : Nat} {x : Table} (here : s.table t = some x) : (afterSeal s t k).table t =
    some (x.modSlot k (fun y => y.sealedFor (s.epoch.count + 3) (s.now + Config.openNat s.free % 15001) (s.seals + 1) .internal)) :=
  ((Notes.stageRec ..).table t).trans (sealSlot_table k _ _ here)

theorem afterSeal_table_ne (s : State) {t q : Nat} (k : Nat) (h : q ≠ t) : (afterSeal s t k).table q = s.table q :=
  ((Notes.stageRec ..).table q).trans (sealSlot_table_ne s k _ _ h)

theorem afterSeal_due (s : State) (t k : Nat) : (afterSeal s t k).due = s.due := (Notes.stageRec ..).due.trans (State.modTable_due ..)

theorem afterSeal_epoch (s : State) (t k : Nat) : (afterSeal s t k).epoch = s.epoch := (Notes.stageRec ..).epoch.trans (sealSlot_epoch ..)

/-- With a vault that takes no records nothing is recorded of a seal. -/
theorem afterSeal_silent {s : State} {t : Nat} (k : Nat) (silent : vaultTakes s = false) :
    afterSeal s t k = (sealSlot s t k (s.epoch.count + 3) .internal).2 := by
  have same : vaultTakes (sealSlot s t k (s.epoch.count + 3) .internal).2 = vaultTakes s := by
    rw [sealSlot_eq]; exact congrArg (fun v : Vault => v.st == 1 || v.st == 2) (State.modTable_vault ..)
  unfold afterSeal stageRec
  rw [if_pos (by rw [same, silent]; rfl)]

/-- `a` has what decides the seal of table `t` as `s` has it. -/
structure Unsealed (s : State) (t : Nat) (a : State) : Prop where
  table : a.table t = s.table t
  due : a.due = s.due
  epoch : a.epoch = s.epoch
  lock : lockHeld a t = lockHeld s t
  takes : vaultTakes a = vaultTakes s
  room : journalRoom a = journalRoom s
  others : vaultTakes s = true → ∀ q, q ≠ t → a.table q = s.table q

/-- The internal seal of slot `k` of table `t` has taken place. -/
structure IntSealed (s : State) (t k : Nat) (x : Table) (a : State) : Prop where
  due : a.due = s.due
  epoch : a.epoch = s.epoch
  table : ∃ y, a.table t = some y ∧ (y.slot k).st = .sealed ∧ (y.slot k).epoch = s.epoch.count + 3 ∧ (y.slot k).by_ = .internal ∧ y.rows = x.rows

theorem IntSealed.step {s a : State} {t k : Nat} {x : Table} (h : IntSealed s t k x a) (p : Nat × Table) : IntSealed s t k x (sealStep a p) := by
  rcases sealStep_cases a p with same | wait | ⟨z, j, there, opened, -, sealed⟩
  · rw [same]; exact h
  · rw [wait]; exact ⟨h.due, h.epoch, h.table⟩
  · rw [sealed]
    refine ⟨(afterSeal_due ..).trans h.due, (afterSeal_epoch ..).trans h.epoch, ?_⟩
    obtain ⟨y, hy, st, rest⟩ := h.table
    by_cases this : t = p.1
    · subst this
      obtain rfl : z = y := Option.some.inj (there.symm.trans hy)
      have apart : k ≠ j := fun same => by rw [same, (openSlot_spec opened).2] at st; exact nomatch st
      refine ⟨_, afterSeal_table there, ?_⟩
      rw [slot_modSlot_ne _ _ apart]
      exact ⟨st, rest⟩
    · exact ⟨y, (afterSeal_table_ne a j this).trans hy, st, rest⟩

/-- The seal of another table leaves what decides the seal of this one. -/
theorem Unsealed.step {s a : State} {t : Nat} (h : Unsealed s t a) (p : Nat × Table) (other : p.1 ≠ t)
    (quiet : vaultTakes s = true → ∀ q y j, q ≠ t → s.table q = some y → openSlot y = some j → (y.slot j).hasInt = false) :
    Unsealed s t (sealStep a p) := by
  rcases sealStep_cases a p with same | wait | ⟨z, j, there, opened, int, sealed⟩
  · rw [same]; exact h
  · rw [wait]; exact ⟨h.table, h.due, h.epoch, h.lock, h.takes, h.room, h.others⟩
  · cases takes : vaultTakes s with
    | true =>
      rw [h.others takes p.1 other] at there
      rw [quiet takes p.1 z j other there opened] at int
      exact nomatch int
    | false =>
      rw [sealed, afterSeal_silent j (h.takes.trans takes)]
      have keep : (sealSlot a p.1 j (a.epoch.count + 3) .internal).2 = { a with
          tables := (sealSlot a p.1 j (a.epoch.count + 3) .internal).2.tables, free := a.free + 1, seals := a.seals + 1 } := by
        rw [sealSlot_eq]; apply State.same_fields <;> simp
      refine ⟨(sealSlot_table_ne a j _ _ other.symm).trans h.table, ?_, ?_, ?_, ?_, ?_, fun yes => by rw [takes] at yes; exact nomatch yes⟩
      all_goals rw [keep]
      · exact h.due
      · exact h.epoch
      · exact h.lock
      · exact h.takes
      · exact h.room

theorem IntSealed.foldl {s a : State} {t k : Nat} {x : Table} (l : List (Nat × Table)) (h : IntSealed s t k x a) :
    IntSealed s t k x (l.foldl sealStep a) := by
  induction l generalizing a with
  | nil => exact h
  | cons p l ih => exact ih (h.step p)

/-- The seals of the listed tables, among which `t` stands, seal its slot. -/
theorem foldl_seals {s : State} {t k : Nat} {x : Table} (here : s.table t = some x) (found : openSlot x = some k)
    (int : (x.slot k).hasInt = true) (cmd : (x.slot k).hasCmd = false) (live : x.st = .live) (lock : lockHeld s t = false)
    (room : vaultTakes s = false ∨ journalRoom s = true)
    (quiet : vaultTakes s = true → ∀ q y j, q ≠ t → s.table q = some y → openSlot y = some j → (y.slot j).hasInt = false)
    (l : List (Nat × Table)) (listed : ∃ p ∈ l, p.1 = t) {a : State} (before : Unsealed s t a) : IntSealed s t k x (l.foldl sealStep a) := by
  induction l generalizing a with
  | nil => obtain ⟨p, hp, -⟩ := listed; exact nomatch hp
  | cons p l ih =>
    rw [List.foldl_cons]
    by_cases this : p.1 = t
    · refine IntSealed.foldl l ?_
      subst this
      have there := before.table.trans here
      rw [sealStep_seals there found int cmd live (before.lock.trans lock) (room.imp before.takes.trans before.room.trans)]
      refine ⟨(afterSeal_due ..).trans before.due, (afterSeal_epoch ..).trans before.epoch, _, afterSeal_table there, ?_⟩
      rw [slot_modSlot_same x _ (slot_listed (by rw [(openSlot_spec found).2]; decide))]
      exact ⟨rfl, congrArg (fun e : Epoch => e.count + 3) before.epoch, rfl, rfl⟩
    · obtain ⟨q, hq, at_⟩ := listed
      rcases List.mem_cons.mp hq with rfl | later
      · exact absurd at_ this
      · exact ih ⟨q, later, at_⟩ (before.step p this quiet)

theorem mapGet_key {α : Type} {m : NMap α} {k : Nat} {v : α} (h : mapGet m k = some v) : ∃ p ∈ m, p.1 = k := by
  induction m with
  | nil => exact nomatch h
  | cons p m ih =>
    obtain ⟨j, w⟩ := p
    unfold mapGet at h
    by_cases this : j = k
    · exact ⟨(j, w), List.mem_cons_self, this⟩
    · rw [if_neg this] at h
      obtain ⟨q, hq, at_⟩ := ih h
      exact ⟨q, List.mem_cons_of_mem _ hq, at_⟩

/-! ### A copy-map change -/

/-- Spares that a copy-map change adds serve. -/
def servesWith (s : State) (d : Nat) (l : List Nat) : State := l.foldl (fun s n => s.setSpare d n { s.spare d n with built := true }) s

theorem spare_setSpare (s : State) (d k n : Nat) (x : Spare) (b : Bool) (h : x.built = b) : ((s.setSpare d k x).spare d n).built =
    if spKey d n = spKey d k then b else (s.spare d n).built := by
  simp only [State.spare, State.setSpare, mapGetD, mapGet_mapSet]
  split
  · exact h
  · rfl

theorem servesWith_built (d n : Nat) (l : List Nat) (s : State) : (n ∈ l ∨ (s.spare d n).built = true) → ((servesWith s d l).spare d n).built = true := by
  unfold servesWith
  induction l generalizing s with
  | nil => exact fun h => h.elim (fun h => nomatch h) id
  | cons k l ih =>
    intro h
    rw [List.foldl_cons]
    refine ih _ ?_
    rw [spare_setSpare _ _ _ _ _ true rfl]
    rcases h with mem | built
    · rcases List.mem_cons.mp mem with rfl | later
      · exact .inr (if_pos rfl)
      · exact .inl later
    · right
      split
      · rfl
      · exact built

theorem servesWith_frame (d : Nat) (l : List Nat) (s : State) : servesWith s d l = { s with dies := { s.dies with spares := (servesWith s d l).dies.spares } } := by
  unfold servesWith
  exact foldl_keep (P := fun t : State => t = { s with dies := { s.dies with spares := t.dies.spares } }) _ (fun t h ht => by rw [ht]; rfl) _ s rfl

/-- A change that adds copies and takes none, with no blocks of its table: its spares serve, and its command completes. -/
theorem copyMapAt_adds {s : State} {id : Nat} {k : CopyChange} (found : s.dies.changes.find? (fun k => k.id == id && k.glaze.isNone) = some k)
    (drop : k.drop = []) (blocks : k.blocks = none) : ∃ w cmds, w = servesWith { s with
      dies := { s.dies with changes := s.dies.changes.filter (fun (j : CopyChange) => j.id != id) } } k.die k.add ∧
      Notes { w with cmds := cmds } (copyMapAt s id) ∧ (copyMapAt s id).cmds = cmds ∧ (copyMapAt s id).dies = w.dies ∧
      ∀ i : Nat, k.cmd = some i → ∀ d ∈ cmds, d.id = i → d.st = .finished ∧ d.status = stOk ∧ d.vis = s.epoch.count ∧ d.held = s.epoch.held := by
  have runs : copyMapAt s id = copyMapAt s id := rfl
  conv at runs => rhs; unfold copyMapAt
  simp only [found, drop, List.foldl_nil] at runs
  obtain ⟨w, hw⟩ : ∃ w, w = servesWith { s with
      dies := { s.dies with changes := s.dies.changes.filter (fun (j : CopyChange) => j.id != id) } } k.die k.add := ⟨_, rfl⟩
  have same : alterAt w k = w := by unfold alterAt; rw [blocks]
  have epoch : w.epoch = s.epoch := by rw [hw, servesWith_frame]
  unfold servesWith at hw
  rw [← hw, same] at runs
  cases cmd : k.cmd with
  | none =>
    rw [cmd] at runs
    refine ⟨w, w.cmds, hw, ?_, ?_, ?_, fun i h => nomatch h⟩
    · rw [runs]; exact Notes.tells (Tells.heldAction w 4 k.table)
    · rw [runs]; exact heldAction_cmds ..
    · rw [runs]; exact heldAction_dies ..
  | some i =>
    rw [cmd] at runs
    dsimp only at runs
    rw [finishAs_plain _ _ _ _ _ _ (by decide)] at runs
    refine ⟨w, endCmd w.cmds i stOk 0xFFFFFFFF w.epoch.count w.epoch.held, hw, ?_, ?_, ?_, fun j h d hd at_ => ?_⟩
    · rw [runs]; exact Notes.tells (Tells.heldAction { w with cmds := _ } 3 k.table)
    · rw [runs]; exact heldAction_cmds ..
    · rw [runs]; exact heldAction_dies ..
    · cases h
      rw [← epoch]
      exact Claim.endCmd_ended hd at_

/-! ### Settle -/

/-- Table `t` keeps its rows, its slots and what else a settle does not touch; the other tables stay. -/
structure RowsStay (t : Nat) (s v : State) : Prop where
  others : ∀ q, q ≠ t → v.table q = s.table q
  here : ∀ x, s.table t = some x → ∃ y, v.table t = some y ∧ y = { x with
    covers := y.covers, aged := y.aged, blocks := y.blocks, retPkt := y.retPkt, retByte := y.retByte }

namespace RowsStay

theorem of_tables {t : Nat} {s v : State} (h : v.tables = s.tables) : RowsStay t s v :=
  ⟨fun q _ => table_of_tables h q, fun x here => ⟨x, (table_of_tables h t).trans here, rfl⟩⟩

theorem refl (t : Nat) (s : State) : RowsStay t s s := of_tables rfl

theorem trans {t : Nat} {s v w : State} (h : RowsStay t s v) (k : RowsStay t v w) : RowsStay t s w := by
  refine ⟨fun q other => (k.others q other).trans (h.others q other), fun x here => ?_⟩
  obtain ⟨y, hy, same⟩ := h.here x here
  obtain ⟨z, hz, same'⟩ := k.here y hy
  exact ⟨z, hz, by rw [same', same]⟩

theorem ite {c : Prop} [Decidable c] {t : Nat} {s a b : State} (ha : RowsStay t s a) (hb : RowsStay t s b) : RowsStay t s (if c then a else b) := by
  split <;> assumption

theorem foldl {α : Type} {t : Nat} {f : State → α → State} (each : ∀ s a, RowsStay t s (f s a)) (l : List α) (s : State) : RowsStay t s (l.foldl f s) :=
  foldl_rel (R := RowsStay t) (refl t) trans each l s

theorem modTable (t : Nat) (s : State) (f : Table → Table) (same : ∀ x, f x = { x with
    covers := (f x).covers, aged := (f x).aged, blocks := (f x).blocks, retPkt := (f x).retPkt, retByte := (f x).retByte }) :
    RowsStay t s (s.modTable t f) := by
  refine ⟨fun q other => table_modTable_ne s f other, fun x here => ⟨f x, table_modTable_same f here, same x⟩⟩

theorem loseBlock (s : State) (t : Nat) (h : BlkHold) : RowsStay t s (loseBlock s t h) :=
  (modTable t s _ fun _ => rfl).trans (of_tables (by unfold Machine.loseBlock; rw [freeBlock_dies]))

theorem dropLeaving (s : State) (t : Nat) : RowsStay t s (dropLeaving s t) := by
  unfold Machine.dropLeaving
  split
  · exact refl t s
  · exact foldl (fun s h => loseBlock s t h) _ s

theorem returnBlocks (s : State) (t : Nat) : RowsStay t s (returnBlocks s t) := by
  unfold Machine.returnBlocks
  split
  · exact refl t s
  · refine (dropLeaving s t).trans (foldl (fun v h => ?_) _ _)
    cases v.table t with
    | none => exact refl t v
    | some y => exact ite (refl t v) (loseBlock v t h)

theorem foldPosition (s : State) (t : Nat) (moved : Option Row) (r : Row) : RowsStay t s (foldPosition s t moved r) := by
  unfold Machine.foldPosition
  split
  · exact refl t s
  split
  · exact refl t s
  dsimp only
  refine trans ?_ (of_tables (freePosition_work ..).tables)
  cases moved with
  | none =>
    dsimp only
    split
    · exact refl t s
    · exact (of_tables (counterRead_work s 1 r.pos).tables).trans (modTable t _ _ fun _ => rfl)
  | some q =>
    dsimp only
    refine trans (of_tables (counterRead_work s 1 r.pos).tables) ?_
    generalize counterRead s 1 r.pos = w
    have added : RowsStay t w.2 (if w.1 = Pair.zero then w.2 else counterAdd w.2 1 q.pos w.1.pkt.toNat w.1.byte.toNat) :=
      ite (refl t _) (of_tables (counterAdd_work ..).tables)
    generalize (if w.1 = Pair.zero then w.2 else counterAdd w.2 1 q.pos w.1.pkt.toNat w.1.byte.toNat) = a at added ⊢
    refine added.trans (trans (v := if a.act.suspect.contains r.pos ∧ !a.act.suspect.contains q.pos
      then { a with act := { a.act with suspect := q.pos :: a.act.suspect } } else a) (ite (of_tables rfl) (refl t a)) ?_)
    exact of_tables (putStamp_work ..).tables

theorem sweepAged (s : State) (t : Nat) : RowsStay t s (sweepAged s t) := modTable t s _ fun _ => rfl

end RowsStay

/-- The rows of a table once slot `g` has settled. -/
def settledRows (x : Table) (g : Nat) : List Row :=
  x.rows.filterMap (fun (r : Row) => (if x.removed.isSome && keepMask x == 0 then none else settleMask (keepMask x) r.vis g).map
    (fun m => { r with vis := m }))

/-- What settle does once it has the covers of the table, the rows that go and what each of them does to its positions. -/
def settleWith (s : State) (t g : Nat) (x : Table) (covers : List Cover) (n : Nat) (gone : List Row) (fold : State → Row → State) : State :=
  let s := (markHeld s x).setTable t { x with rows := settledRows x g, covers := covers }
  let s := s.bump 0x88014 n
  let s := sweepAged (gone.foldl fold s) t
  let s := s.modTable t (fun x => { x with slots := x.slots.set g Slot.empty })
  let s := returnBlocks s t
  match s.table t with
  | none => s
  | some x => if x.removed.isSome && genUsed x == 0 then absentTable s t else s

theorem settleSlot_eq {s : State} {t g : Nat} {x : Table} (here : s.table t = some x) : ∃ covers n gone fold,
    (∀ s r, RowsStay t s (fold s r)) ∧ settleSlot s t g = settleWith s t g x covers n gone fold := by
  have runs : settleSlot s t g = settleSlot s t g := rfl
  conv at runs => rhs; unfold settleSlot
  rw [here] at runs
  exact ⟨_, _, _, _, fun s r => RowsStay.foldPosition s t _ r, runs⟩

/-- SETTLE of slot `g`: the table has its settled rows and the slot is free; a removed table with no slot left goes. -/
theorem settleSlot_spec {s : State} {t g : Nat} {x : Table} (here : s.table t = some x) : ∃ w y, (∀ q, q ≠ t → w.table q = s.table q) ∧
    w.table t = some y ∧ y.rows = settledRows x g ∧ y.slots = x.slots.set g Slot.empty ∧ y.removed = x.removed ∧
    settleSlot s t g = if y.removed.isSome && genUsed y == 0 then absentTable w t else w := by
  obtain ⟨covers, n, gone, fold, each, runs⟩ := settleSlot_eq (g := g) here
  obtain ⟨s1, h1⟩ : ∃ s1, s1 = (markHeld s x).setTable t { x with rows := settledRows x g, covers := covers } := ⟨_, rfl⟩
  have stay : RowsStay t s1 (sweepAged (gone.foldl fold (s1.bump 0x88014 n)) t) :=
    ((RowsStay.of_tables (State.bump_tables ..)).trans (RowsStay.foldl each gone _)).trans (RowsStay.sweepAged _ t)
  obtain ⟨s2, h2⟩ : ∃ s2, s2 = sweepAged (gone.foldl fold (s1.bump 0x88014 n)) t := ⟨_, rfl⟩
  unfold settleWith at runs
  dsimp only at runs
  rw [← h1, ← h2] at runs
  rw [← h2] at stay
  obtain ⟨y2, hy2, same2⟩ := stay.here _ (by rw [h1]; exact table_setTable_same ..)
  have back := RowsStay.returnBlocks (s2.modTable t (fun x => { x with slots := x.slots.set g Slot.empty })) t
  obtain ⟨y, hy, same⟩ := back.here _ (table_modTable_same _ hy2)
  rw [hy] at runs
  refine ⟨_, y, fun q other => ?_, hy, ?_, ?_, ?_, runs⟩
  · rw [back.others q other, table_modTable_ne _ _ other, stay.others q other, h1, table_setTable_ne _ _ other, markHeld_dies]
    rfl
  all_goals rw [same, same2]

/-- A SETTLING slot is one of the slots of its table. -/
theorem settlingSlot_spec {x : Table} {g : Nat} (h : settlingSlot x = some g) : g < 4 ∧ (x.slot g).st = .settling := by
  have kept : ∀ (l : List Nat) (m : Option Nat), l.foldl (fun (m : Option Nat) k => match m with
      | none => some k
      | some j => if (x.slot k).sealNo < (x.slot j).sealNo then some k else m) m = some g → g ∈ l ∨ m = some g := by
    intro l
    induction l with
    | nil => exact fun m h => .inr h
    | cons k l ih =>
      intro m h
      rcases ih _ h with later | now
      · exact .inl (List.mem_cons_of_mem _ later)
      · cases m with
        | none => exact .inl (by cases now; exact List.mem_cons_self)
        | some j =>
          dsimp only at now
          split at now
          · exact .inl (by cases now; exact List.mem_cons_self)
          · exact .inr now
  rcases kept _ _ h with mem | none
  · obtain ⟨low, st⟩ := mem_slotsIn.mp mem
    exact ⟨low, beq_iff_eq.mp st⟩
  · exact nomatch none

theorem slot_set_empty {x y : Table} {g : Nat} (set : y.slots = x.slots.set g Slot.empty) : y.slot g = Slot.empty := by
  unfold Table.slot
  rw [set, List.getD_eq_getElem?_getD, List.getElem?_set_self']
  cases x.slots[g]? <;> rfl

/-! ### Rows that a settle keeps -/

theorem visIn_zero (k : Nat) : visIn 0 k = false := Nat.zero_testBit k

theorem visIn_and (a b : BitVec 4) (k : Nat) : visIn (a &&& b) k = (visIn a k && visIn b k) := by
  simp only [visIn, bit, BitVec.toNat_and, Nat.testBit_and]

theorem visIn_or (a b : BitVec 4) (k : Nat) : visIn (a ||| b) k = (visIn a k || visIn b k) := by
  simp only [visIn, bit, BitVec.toNat_or, Nat.testBit_or]

theorem visIn_slotBit {g k : Nat} (low : k < 4) (other : g ≠ k) : visIn (slotBit g) k = false := by
  simp only [visIn, bit, slotBit, BitVec.toNat_ofNat, Nat.testBit_mod_two_pow, Nat.testBit_two_pow, low, other, decide_true, decide_false, Bool.and_false]

/-- A mask that holds slot `k` sees in slot `k` what it saw before a settle, and a row that stays is seen by a slot of the mask. -/
theorem settleMask_sees {kept m : BitVec 4} {g k : Nat} (low : k < 4) (other : g ≠ k) (sees : visIn kept k = true) : match settleMask kept m g with
    | none => visIn m k = false
    | some q => visIn q k = visIn m k ∧ q &&& kept ≠ 0 := by
  have full : visIn 0xF#4 k = true := by
    rw [visIn, bit, show (0xF#4 : BitVec 4).toNat = 2 ^ 4 - 1 from rfl, Nat.testBit_two_pow_sub_one, decide_eq_true low]
  have fullKept : 0xF#4 &&& kept ≠ 0 := fun zero => by
    have := visIn_and 0xF#4 kept k
    rw [zero, full, sees, visIn_zero] at this
    exact nomatch this
  have both := visIn_and m kept k
  rw [sees, Bool.and_true] at both
  unfold settleMask
  split
  · rename_i all
    split at all
    · exact nomatch all
    · split at all
      · rename_i none
        rw [← both, none, visIn_zero]
      · split at all <;> exact nomatch all
  · rename_i q some
    split at some
    · rename_i all
      cases some
      rw [all]
      exact ⟨rfl, fullKept⟩
    · split at some
      · exact nomatch some
      · rename_i seen
        split at some
        · rename_i all
          cases some
          exact ⟨by rw [full, ← both, all, sees], fullKept⟩
        · cases some
          refine ⟨?_, fun zero => seen ?_⟩
          · rw [visIn_or, visIn_slotBit low other, Bool.or_false]
          · rw [BitVec.and_or_distrib_right] at zero
            exact (BitVec.or_eq_zero_iff.mp zero).1

theorem visIn_foldl (l : List Nat) (m : BitVec 4) (k : Nat) (h : visIn m k = true ∨ (k ∈ l ∧ k < 4)) :
    visIn (l.foldl (fun m k => m ||| slotBit k) m) k = true := by
  induction l generalizing m with
  | nil => exact h.elim id fun h => nomatch h.1
  | cons j l ih =>
    rw [List.foldl_cons]
    refine ih _ ?_
    rw [visIn_or]
    rcases h with seen | ⟨mem, low⟩
    · exact .inl (by rw [seen, Bool.true_or])
    · rcases List.mem_cons.mp mem with rfl | later
      · left
        have self : visIn (slotBit k) k = true := by
          simp only [visIn, bit, slotBit, BitVec.toNat_ofNat, Nat.testBit_mod_two_pow, Nat.testBit_two_pow_self, low, decide_true, Bool.and_true]
        rw [self, Bool.or_true]
      · exact .inr ⟨later, low⟩

theorem keepMask_live {x : Table} {k : Nat} (h : liveSlot x = some k) : visIn (keepMask x) k = true := by
  obtain ⟨low, st⟩ := liveSlot_spec h
  exact visIn_foldl _ _ _ (.inr ⟨mem_slotsIn.mpr ⟨low, by rw [st]; rfl⟩, low⟩)

/-- A settle of a table that is not removed: the LIVE slot sees the entries it saw, and every row left is seen by a slot in use. -/
theorem settledRows_kept {x : Table} {g k : Nat} (removed : x.removed = none) (live : liveSlot x = some k) (other : g ≠ k) :
    ((settledRows x g).filter (fun r => visIn r.vis k)).map (fun r => r.handle) = (rowsIn x k).map (fun r => r.handle) ∧
      ∀ r ∈ settledRows x g, r.vis &&& keepMask x ≠ 0 := by
  obtain ⟨low, -⟩ := liveSlot_spec live
  have each := fun m => settleMask_sees (m := m) low other (keepMask_live live)
  have rows : settledRows x g = x.rows.filterMap (fun (r : Row) => (settleMask (keepMask x) r.vis g).map (fun m => { r with vis := m })) := by
    unfold settledRows
    rw [removed]
    rfl
  rw [rows, rowsIn]
  induction x.rows with
  | nil => exact ⟨rfl, fun r hr => nomatch hr⟩
  | cons r l ih =>
    have this := each r.vis
    rw [List.filterMap_cons]
    cases after : settleMask (keepMask x) r.vis g with
    | none =>
      rw [after] at this
      rw [List.filter_cons_of_neg (by rw [this]; decide)]
      exact ih
    | some q =>
      rw [after] at this
      obtain ⟨sees, kept⟩ := this
      refine ⟨?_, fun b hb => ?_⟩
      · dsimp only [Option.map_some]
        cases seen : visIn r.vis k with
        | true =>
          rw [List.filter_cons_of_pos (by rw [sees, seen]), List.filter_cons_of_pos (by rw [seen]), List.map_cons, List.map_cons, ih.1]
        | false =>
          rw [List.filter_cons_of_neg (by rw [sees, seen]; decide), List.filter_cons_of_neg (by rw [seen]; decide)]
          exact ih.1
      · rcases List.mem_cons.mp hb with rfl | later
        · exact kept
        · exact ih.2 b later

/-- A removed table whose one slot in use settles has no slot left. -/
theorem genUsed_last {x y : Table} {g : Nat} (only : slotsIn x (fun q => q != .free) = [g]) (four : x.slots.length = 4)
    (set : y.slots = x.slots.set g Slot.empty) : genUsed y = 0 := by
  unfold genUsed
  rw [List.length_eq_zero_iff, List.filter_eq_nil_iff]
  intro z hz
  obtain ⟨j, low, rfl⟩ := List.mem_iff_getElem.mp hz
  simp only [set, List.length_set] at low
  by_cases this : g = j
  · subst this
    simp [set, Slot.empty]
  · have out : j ∉ slotsIn x (fun q => q != .free) := by rw [only]; simpa using Ne.symm this
    rw [mem_slotsIn] at out
    simp only [set, List.getElem_set_ne this]
    rw [Table.slot, List.getD_eq_getElem?_getD, List.getElem?_eq_getElem low] at out
    exact fun used => out ⟨four ▸ low, used⟩

theorem clearAttrs_tables (s : State) (t : Nat) : (clearAttrs s t).tables = s.tables := by
  unfold clearAttrs
  generalize [0x0, 0x8, 0x10, 0x14, 0x18, 0x1C, 0x20, 0x24, 0x38, 0x3C] = l
  exact foldl_keep (P := fun v : State => v.tables = s.tables) (fun v o => v.setBoth (taAddr t o) (regReset (taAddr t o)))
    (fun v o hv => (State.setBoth_tables v ..).trans hv) l s rfl

theorem absentTable_table {s : State} {t : Nat} {x : Table} (here : s.table t = some x) : (absentTable s t).table t = none ∧
    ∀ q, q ≠ t → (absentTable s t).table q = s.table q := by
  have tables : (absentTable s t).tables = mapErase s.tables t := by
    unfold absentTable
    rw [here]
    dsimp only
    obtain ⟨w, hw⟩ : ∃ w, w = x.blocks.foldl (fun s h => freeBlock s h.die h.block) s := ⟨_, rfl⟩
    have freed : w.tables = s.tables := by
      rw [hw]
      exact foldl_keep (P := fun v : State => v.tables = s.tables) _ (fun v h hv => by rw [freeBlock_dies]; exact hv) _ s rfl
    rw [← hw, ← freed, clearAttrs_tables]
  exact ⟨by unfold State.table; rw [tables]; exact mapGet_mapErase_same .., fun q other => by
    unfold State.table; rw [tables]; exact mapGet_mapErase_ne _ _ _ other⟩

end Sys2Proof.Machine

namespace Sys2Proof.Claim

open Machine

/-- GLAZE_EFFECT of a slot that is sealed. -/
theorem glaze_gives {s : State} {table : Nat} {x : Table} {l : List Due} {n k : Nat} {i : Instr}
    (run : exec i s = .next (settle_ (dueUpTo (glazeOf table) s))) (now : DueNow s (glazeOf table) (.glaze table n) l)
    (here : s.table table = some x) (found : x.slots.findIdx? (fun y => y.st == .sealed && y.sealNo == n) = some k) (none : s.dies.changes = []) :
    Gives i s (fun v => Counts s v 0x88000 ∧ v.due = l ∧ OtherTables s v table ∧ v.direct = s.direct ∧
      (∀ d ∈ v.cmds, d.st ≠ .waiting (.glaze table n)) ∧
      ∃ y, v.table table = some y ∧ (y.slot k).st = .live ∧ (y.slot k).epoch = s.epoch.count ∧ y.glazed = s.epoch.count ∧
        y.glazedHeld = s.epoch.held ∧ y.rows = x.rows ∧ y.covers = x.covers ∧ (∀ j : Nat, liveSlot x = some j → (y.slot j).st = .retired)) := by
  obtain ⟨a, ha⟩ : ∃ a : State, a = { s with due := [] } := ⟨_, rfl⟩
  obtain ⟨notes, woken⟩ := glazeAt_sealed (s := a) (t := table) (n := n) (by rw [ha]; exact here) found (by rw [ha]; exact none)
  obtain ⟨v, run, told⟩ := gives_due run now (show _ = glazeAt a table n by rw [ha]; rfl) (by rw [notes.due, ha]; simp)
  have sealed : (x.slot k).st = .sealed := by
    obtain ⟨low, hit, -⟩ := List.findIdx?_eq_some_iff_getElem.mp found
    rw [Table.slot, List.getD_eq_getElem?_getD, List.getElem?_eq_getElem low]
    simp only [Bool.and_eq_true, beq_iff_eq] at hit
    exact hit.1
  have spec := switched_spec s.epoch (x := x) (k := k) (slot_listed (by rw [sealed]; decide))
    (fun live => by rw [(liveSlot_spec live).2] at sealed; exact nomatch sealed)
  obtain ⟨tables, direct, cmds, due⟩ : v.tables = (glazeAt a table n).tables ∧ v.direct = (glazeAt a table n).direct ∧
      v.cmds = (glazeAt a table n).cmds ∧ v.due = l := by rw [told.frame]; exact ⟨rfl, rfl, rfl, rfl⟩
  have base : ∀ q, v.table q = (a.setTable table (switched x k a.epoch)).table q := fun q => by
    rw [table_of_tables tables, notes.table, table_of_tables (State.bump_tables ..)]
  refine ⟨v, run, ?_, due, fun q other => ?_, ?_, by rw [cmds]; exact woken, switched x k a.epoch, ?_, ?_⟩
  · refine Counts.of_live (counts_bump (a.setTable table (switched x k a.epoch)) 0x88000) (by rw [ha]; rfl) ?_
    rw [told.live _ (by decide)]
    exact notes.live _ (by decide) (by decide)
  · rw [base, table_setTable_ne _ _ other, ha]; rfl
  · rw [direct, notes.direct, State.bump_direct, ha]; rfl
  · rw [base, table_setTable_same]
  · rw [ha]; exact spec

/-- INTERNAL_GLAZE_SEAL of a slot with internal changes alone. -/
theorem internalSeal_gives {s : State} {table : Nat} {x : Table} {l : List Due} {k : Nat} (now : DueNow s (fun d => d == .internalSeal) .internalSeal l)
    (here : s.table table = some x) (found : openSlot x = some k) (int : (x.slot k).hasInt = true) (cmd : (x.slot k).hasCmd = false)
    (live : x.st = .live) (lock : lockHeld s table = false)
    (room : vaultTakes s = false ∨ (journalRoom s = true ∧ ∀ (q : Nat) (y : Table) (j : Nat), q ≠ table → s.table q = some y →
      openSlot y = some j → (y.slot j).hasInt = false)) : Gives .internalGlazeSeal s (fun v => v.due = l ∧
      ∃ y, v.table table = some y ∧ (y.slot k).st = .sealed ∧ (y.slot k).epoch = s.epoch.count + 3 ∧ (y.slot k).by_ = .internal ∧
        y.rows = x.rows) := by
  obtain ⟨a, ha⟩ : ∃ a : State, a = { s with due := [] } := ⟨_, rfl⟩
  have same : a.tables = s.tables ∧ a.epoch = s.epoch ∧ lockHeld a table = lockHeld s table ∧ vaultTakes a = vaultTakes s ∧
      journalRoom a = journalRoom s := by rw [ha]; exact ⟨rfl, rfl, rfl, rfl, rfl⟩
  obtain ⟨tables, epoch, locks, takes, rooms⟩ := same
  have there := (table_of_tables tables table).trans here
  have seals := foldl_seals there found int cmd live (locks.trans lock)
    (room.imp takes.trans fun h => rooms.trans h.1)
    (fun yes q y j other at_ => by
      rcases room with silent | ⟨-, none⟩
      · rw [takes, silent] at yes; exact nomatch yes
      · exact none q y j other ((table_of_tables tables q).symm.trans at_))
    a.tables (mapGet_key there) (a := { a with vault := { a.vault with sealWait := false } }) ⟨rfl, rfl, rfl, rfl, rfl, rfl, fun _ _ _ => rfl⟩
  rw [← internalSealAt_eq] at seals
  obtain ⟨v, run, told⟩ := gives_due (i := .internalGlazeSeal) rfl now (show _ = internalSealAt a by rw [ha]; rfl) (by rw [seals.due, ha])
  obtain ⟨y, hy, st, at_, rest⟩ := seals.table
  exact ⟨v, run, by rw [told.frame], y, (table_of_tables (by rw [told.frame]) table).trans hy, st, by rw [at_, epoch], rest⟩

/-- COPY_MAP_CHANGE that adds copies. -/
theorem copyMap_gives {i : Instr} {s : State} {table : Nat} {l : List Due} {id : Nat} {k : CopyChange}
    (run : exec i s = .next (settle_ (dueUpTo (copyMapOf s table) s))) (now : DueNow s (copyMapOf s table) (.copyMap id) l)
    (found : s.dies.changes.find? (fun k => k.id == id && k.glaze.isNone) = some k) (drop : k.drop = []) (blocks : k.blocks = none) :
    Gives i s (fun v => (∀ j ∈ v.dies.changes, j.id ≠ id) ∧ (∀ n ∈ k.add, (v.spare k.die n).built = true) ∧
      (∀ id : Nat, k.cmd = some id → ∀ d ∈ v.cmds, d.id = id → d.st = .finished ∧ d.status = stOk ∧ d.vis = s.epoch.count ∧
        d.held = s.epoch.held) ∧ v.due = l ∧ OtherTables s v table) := by
  obtain ⟨a, ha⟩ : ∃ a : State, a = { s with due := [] } := ⟨_, rfl⟩
  have same : a.dies = s.dies ∧ a.tables = s.tables ∧ a.epoch = s.epoch := by rw [ha]; exact ⟨rfl, rfl, rfl⟩
  obtain ⟨dies, tables, epoch⟩ := same
  obtain ⟨w, cmds, hw, notes, hcmds, hdies, ended⟩ := copyMapAt_adds (s := a) (id := id) (by rw [dies]; exact found) drop blocks
  have due : w.due = [] ∧ w.tables = s.tables := by rw [hw, servesWith_frame, ← tables, ha]; exact ⟨rfl, rfl⟩
  obtain ⟨v, run, told⟩ := gives_due run now (show _ = copyMapAt a id by rw [ha]; rfl) (notes.due.trans due.1)
  obtain ⟨vdies, vcmds, vdue, vtables⟩ : v.dies = w.dies ∧ v.cmds = cmds ∧ v.due = l ∧ v.tables = s.tables := by
    rw [told.frame]; exact ⟨hdies, hcmds, rfl, notes.tables.trans due.2⟩
  refine ⟨v, run, fun j hj => ?_, fun n hn => ?_, ?_, vdue, fun q _ => table_of_tables vtables q⟩
  · rw [vdies, hw, servesWith_frame] at hj
    simpa using (List.mem_filter.mp hj).2
  · have built := servesWith_built k.die n k.add { a with
      dies := { a.dies with changes := a.dies.changes.filter (fun (j : CopyChange) => j.id != id) } } (.inl hn)
    rw [← hw] at built
    unfold State.spare at built ⊢
    rw [vdies]
    exact built
  · rw [vcmds, ← epoch]; exact ended

theorem settleMeet_none {s : State} {t g : Nat} {x : Table} (here : s.table t = some x) (found : settlingSlot x = some g) :
    settleMeet s t [] = settleSlot s t g := by
  unfold settleMeet
  rw [here, show meet s [] = s from rfl]
  unfold settleTable
  rw [here]
  dsimp only
  rw [found]
  rfl

/-- SETTLE of a table that is not removed. -/
theorem settle_gives {i : Instr} {s u : State} {table g k : Nat} {x : Table} {w : Nat → Who}
    (run : exec i s = .next (withSlots u (settleMeet u table []) 3 w)) (here : u.table table = some x) (found : settlingSlot x = some g)
    (stays : x.removed = none) (live : liveSlot x = some k) : Gives i s (fun v => OtherTables u v table ∧
      ∃ y, v.table table = some y ∧ y.slot g = Slot.empty ∧ (rowsIn y k).map (fun r => r.handle) = (rowsIn x k).map (fun r => r.handle) ∧
        ∀ r ∈ y.rows, r.vis &&& keepMask x ≠ 0) := by
  obtain ⟨v, y, others, hy, rows, set, removed, settled⟩ := settleSlot_spec (g := g) here
  rw [settleMeet_none here found, settled, if_neg (by rw [removed, stays]; simp)] at run
  have kept := settledRows_kept stays live (g := g) (fun same => by
    have st := (settlingSlot_spec found).2
    rw [same, (liveSlot_spec live).2] at st
    exact nomatch st)
  refine gives_of run ⟨fun q other => (table_of_tables (withSlots_tables ..) q).trans (others q other), y,
    (table_of_tables (withSlots_tables ..) table).trans hy, slot_set_empty set, ?_, ?_⟩
  · rw [rowsIn, rows]; exact kept.1
  · rw [rows]; exact kept.2

/-- SETTLE of the last slot of a removed table. -/
theorem settleLast_gives {i : Instr} {s u : State} {table g : Nat} {x : Table} {w : Nat → Who}
    (run : exec i s = .next (withSlots u (settleMeet u table []) 3 w)) (here : u.table table = some x) (found : settlingSlot x = some g)
    (goes : x.removed.isSome = true) (only : slotsIn x (fun q => q != .free) = [g]) (four : x.slots.length = 4) :
    Gives i s (fun v => v.table table = none ∧ OtherTables u v table) := by
  obtain ⟨v, y, others, hy, -, set, removed, settled⟩ := settleSlot_spec (g := g) here
  rw [settleMeet_none here found, settled, if_pos (by rw [removed, goes, genUsed_last only four set]; rfl)] at run
  obtain ⟨gone, stay⟩ := absentTable_table hy
  exact gives_of run ⟨(table_of_tables (withSlots_tables ..) table).trans gone,
    fun q other => (table_of_tables (withSlots_tables ..) q).trans ((stay q other).trans (others q other))⟩

/-- Settles O45: each action of a step on generations and copies by its row, and settle by its slot. -/
theorem glazesTakeEffect : Obligations.GlazesTakeEffect := by
  unfold Obligations.GlazesTakeEffect
  intro s table x l
  refine ⟨?_, ?_, ?_, ?_⟩
  · intro n k now here found none
    exact glaze_gives rfl now here found none
  · intro k now here found int cmd live lock room
    exact internalSeal_gives now here found int cmd live lock room
  · intro i k now found _ drop blocks
    exact copyMap_gives rfl now found drop blocks
  · intro u g here found
    have run : exec (.settle table []) s = .next (withSlots u (settleMeet u table []) 3 (fun d => { unit := 3, idx := d })) := rfl
    clear_value u
    exact ⟨fun k stays live => settle_gives run here found stays live, fun goes only four => settleLast_gives run here found goes only four⟩

end Sys2Proof.Claim
end

section
/-! PROOFS. A sweep that deletes an entry whose counter line has a fill in flight (R226, R227). Refutation of O46. -/

namespace Sys2Proof.Claim

open Machine

/-- An entry of the OPEN slot 1 alone, at position 0. -/
def agedRow : Row := { handle := 5, prio := 0, value := 0, mask := 0, ad := 0, die := 0, block := 0, row := 0, pos := 0, vis := 2#4 }

/-- A sweep in DELETE mode with that entry as its one candidate. -/
def agedSweep : Sweep := { cfg := { next := 0, th := 0, period := 0, op := 0, delMax := 0, addr := 0, len := 0, port := 0 }, handled := 0,
                           written := 0, deleted := 0, rescued := 0, cands := [(5, 0)] }

def agedTable : Table := { Table.fresh .ternary 0 with
  slots := [{ Slot.empty with st := .live }, { Slot.empty with st := .opened }, Slot.empty, Slot.empty], rows := [agedRow], sweep := some agedSweep }

/-- A sweep runs on the table; the line of the entry's position has a fill in flight, and behind it waits an update of a class that the cache
does not have, whose miss counter would lie where the deletions of sweeps are counted. -/
def strayClass : State := { State.reset with
  tables := [(0, agedTable)], stage := { State.reset.stage with stage := 3 }
  cache := { Cache.reset with fills := [(0, 0)], queue := [{ cls := 17409, pos := 0, pkt := 1, byte := 1, missed := false }] }
  regs := { Regs.reset with live := [(0x111000, 1)] } }

theorem strayClass_table : (pre strayClass).table 0 = some agedTable := by decide +kernel

theorem strayClass_runs : sweepRuns (pre strayClass) (0 : Fin 255).val (5 : Word).toNat agedTable agedSweep 0 := by
  refine ⟨strayClass_table, rfl, by decide +kernel, .inl rfl, by decide +kernel, rfl⟩

theorem strayClass_may : lockHeld (pre strayClass) 0 = false ∧ journalRoom (pre strayClass) = true ∧
    entryStamp (pre strayClass) (entryPositions agedTable (headSlot agedTable) agedRow) = 0 := by decide +kernel

theorem ageCompare_counts {table : Fin 255} {handle : Word} {wr : Bool} {s : State} {a : Nat} {Q : State → Prop}
    (h : Gives (.ageCompare table handle wr []) s (fun v => Counts (pre s) v a ∧ Q v)) : Counts (pre s) (ageMeet (pre s) table handle.toNat wr []) a := by
  have run : ∃ w, exec (.ageCompare table handle wr []) s = .next (withSlots (pre s) (ageMeet (pre s) table handle.toNat wr []) 2 w) := ⟨_, rfl⟩
  obtain ⟨w, run⟩ := run
  generalize pre s = u at h run ⊢
  generalize ageMeet u table handle.toNat wr [] = q at run ⊢
  exact (h.of_next run).1

/-- The deletion frees the position; the fill of its line ends, and the update that waited counts its miss. -/
theorem strayClass_twice : (pre strayClass).live 0x111054 = 0 ∧ (ageMeet (pre strayClass) (0 : Fin 255).val (5 : Word).toNat true []).live 0x111054 = 2 := by decide +kernel

/-- Refutes O46: the queue of the counter cache may list an update of a class beyond the four; the deletion of an entry whose line that update
waits for then counts its miss in the counter of deletions, which goes up by two. -/
theorem not_learningAndAgingRun : ¬ Obligations.LearningAndAgingRun := by
  unfold Obligations.LearningAndAgingRun
  intro h
  obtain ⟨-, -, compares, -⟩ := h strayClass 0 agedTable
  obtain ⟨lock, room, stamp⟩ := strayClass_may
  have held : rowIn agedTable (headSlot agedTable) (5 : Word).toNat = some agedRow := by decide +kernel
  have deletes := ((compares 5 true agedSweep 0 strayClass_runs).2 agedRow (by decide) lock held).2
  have counts := ageCompare_counts (deletes 1 stamp room (by decide))
  obtain ⟨before, after⟩ := strayClass_twice
  rw [Counts, before, after] at counts
  exact absurd counts (by decide)

end Sys2Proof.Claim
end

section
/-! PROOFS. Rebuilds, copy swaps, windows of automatic mirrors, and the stall watchdog (O47). -/

namespace Sys2Proof.Machine

/-! ### Spares for a rebuild -/

/-- A spare that an automatic mirror gives up: a copy-map change that drops it, and adds none, is noted. -/
theorem claimR12_mirror {u w : State} {d b k id : Nat} (h : claimR12 u d b = some (k, some id, w)) : ∃ q : CopyChange, q.id = id ∧ q.die = d ∧
    q.drop = [k] ∧ q.add = [] ∧ q.cmd = none ∧
    w = { u with dies := { u.dies with changes := u.dies.changes ++ [q], nextChange := u.dies.nextChange + 1 }, free := u.free + 1 } := by
  unfold claimR12 at h
  split at h
  · cases h
  · split at h
    · cases h
      exact ⟨_, rfl, rfl, rfl, rfl, rfl, rfl⟩
    · cases h

theorem claimR12_free {u : State} {d b k : Nat} (h : claimSpare u d b = some k) : claimR12 u d b = some (k, none, u) := by
  unfold claimR12
  rw [h]

/-- A suspect block without a copy in progress is rebuilt where AUTO_REBUILD is set. -/
theorem rebuildStart_block {u : State} {d b : Nat} (auto : bit (u.live 0x13F000) 2 = true) (suspect : (u.blk d b).st = 2) (block : b < 1024)
    (idle : buildOf u d b = none) : rebuildStart u d b = match claimR12 u d b with
      | some (k, q, s) => (beginBuild s d b b k 2 .rebuild q).raise evRcvRebuildStart d b k
      | none => noSpare u d b b 0 := by
  have marked : unitSuspect u d b = true := by unfold unitSuspect; rw [if_pos block]; simp [suspect]
  unfold rebuildStart
  dsimp only
  rw [if_neg (by simp [marked]), if_neg (by simp [auto, marked, idle]), if_pos block] <;> rfl

/-! ### Builds -/

theorem buildOf_modBuild {s : State} {d u : Nat} {b : Build} (f : Build → Build) (here : buildOf s d u = some b)
    (same : ∀ b, (f b).die = b.die ∧ (f b).unit = b.unit) : buildOf (modBuild s d u f) d u = some (f b) := by
  unfold buildOf modBuild at *
  dsimp only
  rw [List.find?_map]
  have each : ((fun (b : Build) => b.die == d && b.unit == u) ∘ fun b => if b.die = d ∧ b.unit = u then f b else b) =
      fun (b : Build) => b.die == d && b.unit == u := by
    funext b
    dsimp only [Function.comp]
    split
    · rw [(same b).1, (same b).2]
    · rfl
  rw [each, here]
  have is := List.find?_some here
  simp only [Bool.and_eq_true, beq_iff_eq] at is
  rw [Option.map_some, if_pos is]

theorem buildOf_dropBuild (s : State) (d u : Nat) : buildOf (dropBuild s d u) d u = none := by
  unfold buildOf dropBuild
  refine List.find?_eq_none.mpr fun b hb => ?_
  have out := (List.mem_filter.mp hb).2
  intro own
  rw [own] at out
  exact nomatch out

/-! ### A copy swap -/

/-- What the release of suspect mirrors leaves of a die: the blocks, the spares that serve no suspect mirror, and a unit without a build. -/
structure Released (d : Nat) (s v : State) : Prop where
  frame : v = { s with dies := v.dies }
  blocks : v.dies.blocks = s.dies.blocks
  spare : ∀ k, (s.spare d k).use ≠ 1 → v.spare d k = s.spare d k
  builds : ∀ u, buildOf s d u = none → buildOf v d u = none

namespace Released

theorem refl (d : Nat) (s : State) : Released d s s := ⟨rfl, rfl, fun _ _ => rfl, fun _ h => h⟩

theorem trans {d : Nat} {s v w : State} (h : Released d s v) (g : Released d v w) : Released d s w where
  frame := by rw [g.frame, h.frame]
  blocks := g.blocks.trans h.blocks
  spare k use := (g.spare k (by rw [h.spare k use]; exact use)).trans (h.spare k use)
  builds u none := g.builds u (h.builds u none)

theorem waiting (d : Nat) (s : State) (l : List (Nat × Nat)) : Released d s { s with dies := { s.dies with waiting := l } } :=
  ⟨rfl, rfl, fun _ _ => rfl, fun _ h => h⟩

/-- A mirror without a build of its own is released. -/
theorem releaseSpare {s : State} {d k : Nat} (mirror : (s.spare d k).use = 1) (idle : buildOf s d (1024 + k) = none) :
    Released d s (releaseSpare s d k) := by
  have none : s.dies.builds.filter (fun b => b.die == d && b.unit == 1024 + k && (b.why == .rebuild || b.why == .mirror)) = [] := by
    rw [List.filter_eq_nil_iff]
    intro b hb own
    have out := List.find?_eq_none.mp idle b hb
    simp only [Bool.and_eq_true] at own out
    exact out own.1
  obtain ⟨w, hw⟩ : ∃ w, w = Machine.releaseSpare s d k := ⟨_, rfl⟩
  have runs := hw
  unfold Machine.releaseSpare dropCopies at runs
  dsimp only at runs
  rw [show (s.setSpare d k Spare.free).dies.builds = s.dies.builds from rfl, none, List.foldl_nil] at runs
  rw [← hw, runs]
  refine ⟨rfl, rfl, fun j use => ?_, fun u none => ?_⟩
  · unfold State.spare State.setSpare mapGetD
    dsimp only
    rw [mapGet_mapSet_ne]
    intro same
    have key : d * 32 + j = d * 32 + k := same
    exact use ((show j = k by omega) ▸ mirror)
  · refine List.find?_eq_none.mpr fun b hb => ?_
    exact List.find?_eq_none.mp none b (List.mem_filter.mp hb).1

theorem suspects (s : State) (d : Nat) : Released d s (releaseSuspects s d) := by
  unfold releaseSuspects
  refine foldl_rel (R := Released d) (refl d) trans (fun v k => ?_) _ s
  dsimp only
  split
  · rename_i goes
    obtain ⟨use, -, idle⟩ := goes
    have released := releaseSpare use (Option.isNone_iff_eq_none.mp idle)
    split
    · exact released
    · exact released.trans (waiting ..)
  · exact refl d v

end Released

theorem spare_setBlk (s : State) (d b d' k : Nat) (x : Blk) : (s.setBlk d b x).spare d' k = s.spare d' k := rfl

theorem spare_dropBuild (s : State) (d u d' k : Nat) : (dropBuild s d u).spare d' k = s.spare d' k := rfl

/-- The spare of a finished copy serves. -/
def served (x : Spare) : Spare := { x with built := true }

/-- A verified copy of a block replaces it. -/
theorem copySwapAt_block {s : State} {d u : Nat} {b : Build} (here : buildOf s d u = some b) (good : b.verified = true) (why : b.why = .rebuild)
    (block : u < 1024) (use : (s.spare d b.spare).use = 2) : ∃ w, w = { s with dies := w.dies } ∧ (w.blk d u).st = 3 ∧
      (w.spare d b.spare).built = true ∧ buildOf w d u = none ∧
      copySwapAt s d u = heldAction ((w.bump 0x13F04C).raise evRcvRebuildDone b.block b.spare w.epoch.count) 6 (d * 1024 + b.block) := by
  obtain ⟨x, hx⟩ : ∃ x : State, x = (dropBuild s d u).setSpare d b.spare (served ((dropBuild s d u).spare d b.spare)) := ⟨_, rfl⟩
  obtain ⟨y, hy⟩ : ∃ y : State, y = x.setBlk d u { x.blk d u with st := 3 } := ⟨_, rfl⟩
  obtain ⟨r, hr⟩ : ∃ r, r = releaseSuspects y d := ⟨_, rfl⟩
  have released := Released.suspects y d
  rw [← hr] at released
  have frame : y = { s with dies := y.dies } := by rw [hy, hx]; rfl
  have spare : y.spare d b.spare = served (s.spare d b.spare) := by
    rw [hy, spare_setBlk, hx, spare_setSpare_same, spare_dropBuild]
  refine ⟨r, ?_, ?_, ?_, ?_, ?_⟩
  · rw [released.frame, frame]
  · unfold State.blk
    rw [released.blocks, hy]
    exact congrArg Blk.st (blk_setBlk_same x d u _)
  · rw [released.spare _ (by rw [spare, served, use]; decide), spare, served]
  · exact released.builds u (by rw [hy, hx]; exact buildOf_dropBuild s d u)
  · rw [hr, hy, hx]
    unfold copySwapAt
    rw [here]
    dsimp only
    rw [if_neg (by simp [good]), why]
    dsimp only
    rw [if_pos block]
    dsimp only [served]

/-! ### The end of a window of automatic mirrors -/

/-- A copy-map change is noted, and asks for the slots of the copies that it makes. -/
theorem addChange_asks (s : State) (k : CopyChange) : ∃ t l, AsksOnly { s with free := s.free + 1 } t ∧
    (addChange s k).2 = { t with dies := { t.dies with changes := l, nextChange := s.dies.nextChange + 1 } } :=
  ⟨_, _, (AsksOnly.foldl (fun s n => askCopy_asks s k.die k.block n _) _ _).trans (AsksOnly.foldl (fun _ _ => askRows_asks ..) _ _), rfl⟩

/-- What the end of a window does before it begins the next: the activations counted of every block stay. -/
structure Counted (s v : State) : Prop where
  frame : v = { s with dies := v.dies, regs := v.regs, mgmt := v.mgmt, out := v.out, free := v.free }
  count : ∀ d b, (v.blk d b).actNow = (s.blk d b).actNow

/-- What the end of a window on die `d` does for one of the tables. -/
def windowTable (d : Nat) (s : State) (p : Nat × Table) : State :=
  if p.2.kind == .ternary && p.2.removed.isNone && bit (ta s p.1 0x18) 4 then
    (p.2.blocks.filter (fun h => h.die == d && !(structAO (ta s p.1 0) && h.group == 0))).foldl (fun s h => windowBlock s p.1 d h.block) s
  else s

/-- What it does before the next window begins. -/
def windowsAt (s : State) (d : Nat) : State := if bit (s.live (sdAddr d 4)) 0 then s.tables.foldl (windowTable d) s else s

theorem mirrorWindowAt_eq (s : State) (d : Nat) : mirrorWindowAt s d = newWindow (windowsAt s d) d := rfl

namespace Counted

theorem refl (s : State) : Counted s s := ⟨rfl, fun _ _ => rfl⟩

theorem trans {s v w : State} (h : Counted s v) (g : Counted v w) : Counted s w where
  frame := by rw [g.frame, h.frame]
  count d b := (g.count d b).trans (h.count d b)

theorem ite {c : Prop} [Decidable c] {s a b : State} (ha : Counted s a) (hb : Counted s b) : Counted s (if c then a else b) := by
  split <;> assumption

theorem of_blocks {s v : State} (frame : v = { s with dies := v.dies, regs := v.regs, mgmt := v.mgmt, out := v.out, free := v.free })
    (blocks : v.dies.blocks = s.dies.blocks) : Counted s v :=
  ⟨frame, fun d b => by unfold State.blk; rw [blocks]⟩

theorem raise (s : State) (e : Ev) (a b c : Nat) : Counted s (s.raise e a b c) :=
  of_blocks (by apply State.same_fields <;> simp) (by rw [State.raise_dies])

theorem setSpare (s : State) (d k : Nat) (x : Spare) : Counted s (s.setSpare d k x) := of_blocks rfl rfl

theorem setBlk (s : State) (d b : Nat) (x : Blk) (same : x.actNow = (s.blk d b).actNow) : Counted s (s.setBlk d b x) := by
  refine ⟨rfl, fun d' b' => ?_⟩
  unfold State.blk State.setBlk at *
  dsimp only
  unfold mapGetD at *
  rw [mapGet_mapSet]
  split
  · rename_i key
    rw [key]
    exact same
  · rfl

theorem addChange (s : State) (k : CopyChange) : Counted s (addChange s k).2 := by
  obtain ⟨t, l, asks, run⟩ := addChange_asks s k
  rw [run]
  refine of_blocks ?_ ?_
  · dsimp only
    rw [asks]
  · rw [show t.dies.blocks = s.dies.blocks by rw [asks]]

/-- A block, as the end of a window begins it, may get a mirror or lose one. -/
theorem windowBlock (s : State) (t d b : Nat) : Counted s (windowBlock s t d b) := by
  unfold Machine.windowBlock
  dsimp only
  generalize (if (s.blk d b).actNow * 100 < _ then (s.blk d b).low + 1 else 0) = low
  have first := setBlk s d b { s.blk d b with low := low } rfl
  obtain ⟨w, hw⟩ : ∃ w, w = s.setBlk d b { s.blk d b with low := low } := ⟨_, rfl⟩
  rw [← hw] at first ⊢
  have again : ∀ v, Counted w v → Counted s (v.setBlk d b { s.blk d b with low := 0 }) := fun v h =>
    (first.trans h).trans (setBlk v d b _ ((first.trans h).count d b).symm)
  refine ite ?_ (ite ?_ first)
  · split
    · exact first.trans (raise ..)
    · exact (again _ ((setSpare ..).trans (addChange ..))).trans (raise ..)
  · split
    · exact (again _ (addChange ..)).trans (raise ..)
    · exact first

theorem windowsAt (s : State) (d : Nat) : Counted s (windowsAt s d) := by
  have table : ∀ v p, Counted v (windowTable d v p) := fun v p =>
    ite (foldl_rel (R := Counted) refl trans (f := fun s (h : BlkHold) => Machine.windowBlock s p.1 d h.block)
      (fun w h => windowBlock w p.1 d h.block) _ v) (refl v)
  exact ite (foldl_rel (R := Counted) refl trans (f := windowTable d) table _ s) (refl s)

end Counted

theorem mapGet_map {α : Type} (m : NMap α) (p : Nat → Bool) (g : α → α) (k : Nat) :
    mapGet (m.map (fun q => if p q.1 then (q.1, g q.2) else q)) k = if p k then (mapGet m k).map g else mapGet m k := by
  induction m with
  | nil => cases p k <;> rfl
  | cons q m ih =>
    obtain ⟨j, v⟩ := q
    rw [List.map_cons]
    by_cases this : j = k
    · subst this
      cases chosen : p j <;> simp [mapGet, chosen]
    · have skip : ∀ w, mapGet ((j, w) :: m.map (fun q => if p q.1 then (q.1, g q.2) else q)) k =
          mapGet (m.map (fun q => if p q.1 then (q.1, g q.2) else q)) k := fun w => if_neg this
      rw [show mapGet ((j, v) :: m) k = mapGet m k from if_neg this, ← ih]
      cases p j
      · exact skip v
      · exact skip (g v)

/-- A block whose activations are counted anew. -/
def Blk.anew (x : Blk) : Blk := { x with act := x.actNow, actNow := 0, refused := false }

theorem newWindow_blocks (s : State) (d : Nat) : (newWindow s d).dies.blocks =
    s.dies.blocks.map (fun q => if decide (q.1 / 1024 = d) then (q.1, q.2.anew) else q) := by
  unfold newWindow Blk.anew
  simp only [decide_eq_true_eq]

/-- A new window begins for every block of its die. -/
theorem newWindow_blk (s : State) {d b : Nat} (block : b < 1024) : (newWindow s d).blk d b = (s.blk d b).anew := by
  have key : blkKey d b / 1024 = d := by unfold blkKey; omega
  have get := mapGet_map s.dies.blocks (fun k => decide (k / 1024 = d)) Blk.anew (blkKey d b)
  rw [if_pos (by simp [key]), ← newWindow_blocks] at get
  unfold State.blk mapGetD
  rw [get]
  generalize mapGet s.dies.blocks (blkKey d b) = o
  cases o <;> rfl

end Sys2Proof.Machine

namespace Sys2Proof.Claim

open Machine

/-- REBUILD_START of a suspect block for which a free spare is there. -/
theorem rebuild_gives {i : Instr} {s u : State} {d b k : Nat} (run : exec i s = .next (rebuildStart u d b)) (auto : bit (u.live 0x13F000) 2 = true)
    (suspect : (u.blk d b).st = 2) (block : b < 1024) (idle : buildOf u d b = none) (free : claimSpare u d b = some k) : Gives i s (fun v =>
      (∃ q ∈ v.dies.builds, q.die = d ∧ q.unit = b ∧ q.spare = k ∧ q.why = .rebuild ∧ q.verified = false) ∧
      v.spare d k = { Spare.free with use := 2, primary := b } ∧ Flagged v evRcvRebuildStart ∧
      v = { u with dies := v.dies, regs := v.regs, mgmt := v.mgmt, out := v.out }) := by
  obtain ⟨t, asks, begins⟩ := beginBuild_claims u d b b k 2 .rebuild
  rw [rebuildStart_block auto suspect block idle, claimR12_free free] at run
  dsimp only at run
  rw [begins] at run
  refine gives_of run ⟨⟨{ die := d, unit := b, block := b, spare := k, why := .rebuild, tries := 0, verified := false, hold := none }, ?_,
    rfl, rfl, rfl, rfl, rfl⟩, ?_, flagged_raise _ evRcvRebuildStart _ _ _ (by decide), ?_⟩
  · rw [State.raise_dies]
    exact List.mem_append_right _ (List.mem_singleton.mpr rfl)
  · unfold State.spare
    rw [State.raise_dies]
    refine Eq.trans ?_ (spare_setSpare_same u d k _)
    rw [asks]
    rfl
  · apply State.same_fields <;> simp
    all_goals (rw [asks]; rfl)

/-- REBUILD_START of a suspect block for which an automatic mirror gives its spare up. -/
theorem rebuildHeld_gives {i : Instr} {s u w : State} {d b k id : Nat} (run : exec i s = .next (rebuildStart u d b))
    (auto : bit (u.live 0x13F000) 2 = true) (suspect : (u.blk d b).st = 2) (block : b < 1024) (idle : buildOf u d b = none)
    (claimed : claimR12 u d b = some (k, some id, w)) : Gives i s (fun v =>
      (∃ q ∈ v.dies.builds, q.die = d ∧ q.unit = b ∧ q.spare = k ∧ q.why = .rebuild ∧ q.hold = some id) ∧
      (∃ q ∈ v.dies.changes, q.id = id ∧ q.die = d ∧ q.drop = [k] ∧ q.add = [] ∧ q.cmd = none) ∧
      v.spare d k = u.spare d k ∧ Flagged v evRcvRebuildStart ∧
      v = { u with dies := v.dies, regs := v.regs, mgmt := v.mgmt, out := v.out, free := v.free }) := by
  obtain ⟨q, own, die, drop, add, cmd, frame⟩ := claimR12_mirror claimed
  rw [rebuildStart_block auto suspect block idle, claimed] at run
  refine gives_of run ⟨⟨{ die := d, unit := b, block := b, spare := k, why := .rebuild, tries := 0, verified := false, hold := some id }, ?_,
    rfl, rfl, rfl, rfl, rfl⟩, ⟨q, ?_, own, die, drop, add, cmd⟩, ?_, flagged_raise _ evRcvRebuildStart _ _ _ (by decide), ?_⟩
  · rw [State.raise_dies]
    exact List.mem_append_right _ (List.mem_singleton.mpr rfl)
  · rw [State.raise_dies, frame]
    exact List.mem_append_right _ (List.mem_singleton.mpr rfl)
  · unfold State.spare
    rw [State.raise_dies, frame]
    rfl
  · rw [frame]
    apply State.same_fields <;> simp [beginBuild]

/-- REBUILD_START of a suspect block with nothing to claim: the block waits. -/
theorem rebuildWaits_gives {i : Instr} {s u : State} {d b : Nat} (run : exec i s = .next (rebuildStart u d b))
    (auto : bit (u.live 0x13F000) 2 = true) (suspect : (u.blk d b).st = 2) (block : b < 1024) (idle : buildOf u d b = none)
    (none : claimR12 u d b = none) (new : u.dies.waiting.contains (d, b) = false) : Gives i s (fun v =>
      v.dies = { u.dies with waiting := u.dies.waiting ++ [(d, b)] } ∧ Flagged v evRcvNoSpare ∧
      v = { u with dies := v.dies, regs := v.regs, mgmt := v.mgmt, out := v.out }) := by
  rw [rebuildStart_block auto suspect block idle, none] at run
  dsimp only at run
  unfold noSpare at run
  rw [if_neg (by rw [new]; decide)] at run
  refine gives_of run ⟨State.raise_dies .., flagged_raise _ evRcvNoSpare _ _ _ (by decide), ?_⟩
  apply State.same_fields <;> simp

/-- REBUILD_VERIFIED of a good copy. -/
theorem verified_gives {i : Instr} {s u : State} {d n : Nat} {b : Build} (run : exec i s = .next (rebuildMeet u d n true []))
    (here : buildOf u d n = some b) (fresh : b.verified = false) (tries : b.tries < 2) (free : b.hold = none) :
    Gives i s (fun v => buildOf v d n = some { b with verified := true } ∧ v = { u with dies := v.dies }) := by
  unfold rebuildMeet at run
  rw [here, if_neg (by simp), meet_nil] at run
  unfold rebuildVerified at run
  rw [here] at run
  dsimp only at run
  rw [if_neg (by simp [fresh, free]; omega), if_pos rfl] at run
  exact gives_of run ⟨buildOf_modBuild (fun b => { b with verified := true }) here fun _ => ⟨rfl, rfl⟩, rfl⟩

/-- REBUILD_VERIFIED of a copy that has failed for the second time. -/
theorem failed_gives {i : Instr} {s u : State} {d n : Nat} {b : Build} (run : exec i s = .next (rebuildMeet u d n false []))
    (here : buildOf u d n = some b) (fresh : b.verified = false) (tries : b.tries = 1) (free : b.hold = none) (why : b.why = .rebuild) :
    Gives i s (fun v => Flagged v evRcvRebuildFail ∧ v = { u with dies := v.dies, regs := v.regs, mgmt := v.mgmt, out := v.out }) := by
  unfold rebuildMeet at run
  rw [here, if_neg (by simp), meet_nil] at run
  unfold rebuildVerified at run
  rw [here] at run
  dsimp only at run
  rw [if_neg (by simp [fresh, free, tries]), if_neg (by decide), if_neg (by omega), why] at run
  dsimp only at run
  have flag := flagged_raise u evRcvRebuildFail 0 0 0 (by decide)
  obtain ⟨w, hw⟩ : ∃ w, w = u.raise evRcvRebuildFail := ⟨_, rfl⟩
  have frame : w = { u with regs := w.regs, mgmt := w.mgmt, out := w.out } := by rw [hw]; apply State.same_fields <;> simp
  rw [← hw] at run flag
  rw [releaseSpare_dies] at run
  refine gives_of run ⟨flag, ?_⟩
  dsimp only [modBuild]
  rw [frame]

/-- COPY_SWAP of a verified copy of a block. -/
theorem swap_gives {i : Instr} {s : State} {d n : Nat} {l : List Due} {b : Build}
    (run : exec i s = .next (settle_ (dueUpTo (fun q => q == .swap d n) s))) (now : DueNow s (fun q => q == .swap d n) (.swap d n) l)
    (here : buildOf s d n = some b) (good : b.verified = true) (why : b.why = .rebuild) (block : n < 1024) (use : (s.spare d b.spare).use = 2) :
    Gives i s (fun v => (v.blk d n).st = 3 ∧ (v.spare d b.spare).built = true ∧ buildOf v d n = none ∧ Counts s v 0x13F04C ∧
      Flagged v evRcvRebuildDone ∧ v.due = l ∧ v.tables = s.tables ∧ v.mem = s.mem) := by
  obtain ⟨a, ha⟩ : ∃ a : State, a = { s with due := [] } := ⟨_, rfl⟩
  have same : buildOf a d n = buildOf s d n ∧ a.spare d b.spare = s.spare d b.spare ∧ a.due = [] ∧ a.tables = s.tables ∧ a.mem = s.mem ∧
      a.regs = s.regs := by rw [ha]; exact ⟨rfl, rfl, rfl, rfl, rfl, rfl⟩
  obtain ⟨builds, spares, none, tables, mem, regs⟩ := same
  obtain ⟨w, frame, blk, spare, gone, swaps⟩ := copySwapAt_block (builds.trans here) good why block (by rw [spares]; exact use)
  have rest : w.due = [] ∧ w.tables = s.tables ∧ w.mem = s.mem ∧ w.regs = s.regs := by rw [frame]; exact ⟨none, tables, mem, regs⟩
  obtain ⟨wdue, wtables, wmem, wregs⟩ := rest
  obtain ⟨q, hq⟩ : ∃ q, q = (w.bump 0x13F04C).raise evRcvRebuildDone b.block b.spare w.epoch.count := ⟨_, rfl⟩
  have tells := Tells.raise (w.bump 0x13F04C) evRcvRebuildDone b.block b.spare w.epoch.count (by decide)
  have flag := flagged_raise (w.bump 0x13F04C) evRcvRebuildDone b.block b.spare w.epoch.count (by decide)
  rw [← hq] at swaps tells flag
  have held := Tells.heldAction q 6 (d * 1024 + b.block)
  rw [← swaps] at held
  replace tells := tells.trans held
  have fields : (copySwapAt a d n).due = [] ∧ (copySwapAt a d n).dies = w.dies ∧ (copySwapAt a d n).tables = s.tables ∧
      (copySwapAt a d n).mem = s.mem := by
    rw [tells.frame]
    dsimp only
    rw [State.bump_due, State.bump_dies, State.bump_tables, State.bump_mem]
    exact ⟨wdue, rfl, wtables, wmem⟩
  obtain ⟨sdue, sdies, stables, smem⟩ := fields
  obtain ⟨v, run, told⟩ := gives_due run now (show _ = copySwapAt a d n by rw [ha]; rfl) sdue
  have vfields : v.dies = w.dies ∧ v.due = l ∧ v.tables = s.tables ∧ v.mem = s.mem := by
    rw [told.frame]
    exact ⟨sdies, rfl, stables, smem⟩
  obtain ⟨vdies, vrest⟩ := vfields
  refine ⟨v, run, ?_, ?_, ?_, ?_, ?_, vrest⟩
  · unfold State.blk at blk ⊢; rw [vdies]; exact blk
  · unfold State.spare at spare ⊢; rw [vdies]; exact spare
  · unfold buildOf at gone ⊢; rw [vdies]; exact gone
  · refine Counts.of_live (counts_bump w 0x13F04C) (by simp only [State.live, wregs]) ?_
    rw [told.live _ (by decide)]
    exact tells.live _ (by decide)
  · exact told.flagged (s := { copySwapAt a d n with due := l }) (by decide) (held.flagged (by decide) flag)

/-- AUTO_MIRROR_WINDOW_END of a die. -/
theorem mirrorWindow_gives {i : Instr} {s : State} {d : Nat} {l : List Due}
    (run : exec i s = .next (settle_ (dueUpTo (fun q => q == .mirrorWindow d) s))) (now : DueNow s (fun q => q == .mirrorWindow d) (.mirrorWindow d) l) :
    Gives i s (fun v => v.due = l ∧ v.tables = s.tables ∧ ∀ b : Nat, b < 1024 → (v.blk d b).act = (s.blk d b).actNow ∧ (v.blk d b).actNow = 0) := by
  obtain ⟨a, ha⟩ : ∃ a : State, a = { s with due := [] } := ⟨_, rfl⟩
  have counted := Counted.windowsAt a d
  have fields : (newWindow (windowsAt a d) d).due = [] ∧ (newWindow (windowsAt a d) d).tables = s.tables := by
    unfold newWindow
    rw [counted.frame, ha]
    exact ⟨rfl, rfl⟩
  obtain ⟨v, run, told⟩ := gives_due run now (show _ = newWindow (windowsAt a d) d by rw [ha]; rfl) fields.1
  obtain ⟨dies, due, tables⟩ : v.dies = (newWindow (windowsAt a d) d).dies ∧ v.due = l ∧ v.tables = s.tables := by
    rw [told.frame]
    exact ⟨rfl, rfl, fields.2⟩
  refine ⟨v, run, due, tables, fun b block => ?_⟩
  have blk : v.blk d b = ((windowsAt a d).blk d b).anew := by
    rw [← newWindow_blk _ block]
    unfold State.blk
    rw [dies]
  have before : (a.blk d b).actNow = (s.blk d b).actNow := by rw [ha]; rfl
  rw [blk]
  exact ⟨(counted.count d b).trans before, rfl⟩

/-- What is reported of a wait leaves the registers, and what else stands outside its unit. -/
theorem tellWait_rest (s : State) (w : Waiter) : tellWait s w = { s with
    cmds := (tellWait s w).cmds, mbox := (tellWait s w).mbox, dies := (tellWait s w).dies } := by
  unfold tellWait
  split <;> rfl

/-- The count, the note and the event of a stall. -/
theorem stallNoted_spec (x : State) (value : Word) (a b c : Nat) :
    ∃ y, y = ((x.bump 0x13F054).setLive 0x13F008 value).raise evWdgStall a b c ∧ y = { x with regs := y.regs, mgmt := y.mgmt, out := y.out } ∧
      Flagged y evWdgStall ∧ y.live 0x13F008 = value ∧ Counts x y 0x13F054 := by
  refine ⟨_, rfl, ?_, flagged_raise _ evWdgStall _ _ _ (by decide), ?_, ?_⟩
  · apply State.same_fields <;> simp
  · rw [live_raise _ _ _ _ _ _ (by decide) (by decide)]
    exact live_setLive_same ..
  · refine Counts.of_live (counts_bump x 0x13F054) rfl ?_
    rw [live_raise _ _ _ _ _ _ (by decide) (by decide), live_setLive_ne _ _ _ _ (by decide)]

/-- WDG_STALL of a wait beyond its limit. -/
theorem stall_gives {i : Instr} {s u : State} {n : Nat} {w : Waiter} (run : exec i s = .next (wdgStall u n)) (here : (waiters u)[n]? = some w)
    (new : w.told = false) (limit : wdLimit u w.cls ≠ 0) (past : wdLimit u w.cls < u.epoch.count - w.since) : Gives i s (fun v =>
      Counts u v 0x13F054 ∧ Flagged v evWdgStall ∧
      v.live 0x13F008 = word (w.cls * 2 ^ 29 + w.unit * 2 ^ 26 + w.idx * 2 ^ 19 + w.holdUnit * 2 ^ 16 + w.holdIdx * 2 ^ 9) ∧
      (u.waitSnap = none → ∃ g, v.waitSnap = some g ∧ g.trig = n ∧ g.epoch = u.epoch.count) ∧
      (u.waitSnap.isSome = true → v.waitSnap = u.waitSnap) ∧
      v = { u with cmds := v.cmds, mbox := v.mbox, dies := v.dies, regs := v.regs, mgmt := v.mgmt, out := v.out, waitSnap := v.waitSnap }) := by
  unfold wdgStall at run
  rw [here] at run
  dsimp only at run
  rw [if_neg (by simp [new, limit]; omega)] at run
  obtain ⟨x, hx⟩ : ∃ x, x = tellWait u w := ⟨_, rfl⟩
  have told := tellWait_rest u w
  rw [← hx] at told run
  generalize word (w.cls * 2 ^ 29 + w.unit * 2 ^ 26 + w.idx * 2 ^ 19 + w.holdUnit * 2 ^ 16 + w.holdIdx * 2 ^ 9) = value at run ⊢
  obtain ⟨y, hy, frame, flag, noted, counted⟩ := stallNoted_spec x value (w.unit + 256 * w.idx) w.cls (w.holdUnit + 256 * w.holdIdx)
  rw [← hy] at run
  have counts : Counts u y 0x13F054 := by
    have regs : x.regs = u.regs := by rw [told]
    simpa only [Counts, State.live, regs] using counted
  obtain ⟨snap, epoch⟩ : y.waitSnap = u.waitSnap ∧ y.epoch = u.epoch := by rw [frame, told]; exact ⟨rfl, rfl⟩
  have rest : y = { u with cmds := y.cmds, mbox := y.mbox, dies := y.dies, regs := y.regs, mgmt := y.mgmt, out := y.out } := by
    rw [frame, told]
  cases held : u.waitSnap with
  | none =>
    rw [if_neg (by rw [snap, held]; decide)] at run
    refine gives_of run ⟨counts, flag, noted, fun _ => ⟨snapNow y n, rfl, rfl, congrArg Epoch.count epoch⟩, (fun h => nomatch h), ?_⟩
    rw [rest]
  | some g =>
    rw [if_pos (by rw [snap, held]; rfl)] at run
    refine gives_of run ⟨?_, ?_, ?_, (fun h => nomatch h), fun _ => ?_, ?_⟩
    · exact counts.of_live rfl (live_bumpField_ne _ _ _ _ _ _ (by decide))
    · exact flag.of_live (live_bumpField_ne _ _ _ _ _ _ (by decide))
    · rw [live_bumpField_ne _ _ _ _ _ _ (by decide), noted]
    · rw [State.bumpField_waitSnap, snap, held]
    · rw [rest]
      apply State.same_fields <;> simp

/-- STALL_ABORT of the oldest command whose wait is beyond its abort limit. -/
theorem stallAbort_gives {i : Instr} {s u : State} {m : Nat} {c : Cmd} (run : exec i s = .next (stallAbort u m))
    (oldest : u.cmds.find? (fun c => c.mb == m && (abortDue u c || slotsDue u c)) = some c) :
    (abortDue u c = true → c.got ≠ 1 → Refused i s u c stStalled) ∧
    Gives i s (fun v => ∀ d ∈ v.cmds, d.id = c.id → d.st = .finished ∧ d.status = stStalled) := by
  unfold stallAbort at run
  rw [oldest] at run
  dsimp only at run
  cases due : abortDue u c with
  | true =>
    rw [due, if_pos rfl] at run
    refine ⟨fun _ idle => ?_, gives_of run fun d hd same => ?_⟩
    · rw [if_neg idle] at run
      exact refused_of run (by decide)
    · rw [finish, finishAs_cmds] at hd
      obtain ⟨st, status, -⟩ := endCmd_ended hd same
      exact ⟨st, status⟩
  | false =>
    rw [due, if_neg (by decide)] at run
    refine ⟨(fun h => nomatch h), gives_of run fun d hd same => ?_⟩
    unfold withdrawCmd at hd
    obtain ⟨e, he, eq⟩ := List.mem_map.mp hd
    rw [finish, finishAs_cmds] at he
    have id : e.id = c.id := by
      rw [← same, ← eq]
      split <;> rfl
    obtain ⟨st, status, -⟩ := endCmd_ended he id
    rw [← eq, if_pos (by simpa using id)]
    exact ⟨st, status⟩

/-- Settles O47: each step of a rebuild by its case, the window of automatic mirrors, and what the stall watchdog does to a wait. -/
theorem unitsAreRebuilt : Obligations.UnitsAreRebuilt := by
  unfold Obligations.UnitsAreRebuilt
  refine ⟨fun s die unit => ⟨?_, ?_, ?_⟩, ?_⟩
  · intro u
    have start : exec (.rebuildStart die unit) s = .next (rebuildStart u die unit) := rfl
    have done : ∀ good, exec (.rebuildVerified die unit good []) s = .next (rebuildMeet u die unit good []) := fun _ => rfl
    clear_value u
    refine ⟨fun auto suspect block idle => ⟨?_, ?_, ?_⟩, fun b here fresh tries free => ⟨?_, ?_⟩⟩
    · intro k free
      exact rebuild_gives start auto suspect block idle free
    · intro k id w claimed
      exact rebuildHeld_gives start auto suspect block idle claimed
    · intro none new
      exact rebuildWaits_gives start auto suspect block idle none new
    · exact verified_gives (done true) here fresh tries free
    · intro once why
      exact failed_gives (done false) here fresh once free why
  · intro l b now here good why block use
    exact swap_gives rfl now here good why block use
  · intro l now
    exact mirrorWindow_gives rfl now
  · intro s u
    have stall : ∀ idx, exec (.wdgStall idx) s = .next (wdgStall u idx) := fun _ => rfl
    have abort : ∀ mb : Fin 4, exec (.stallAbort mb) s = .next (stallAbort u mb) := fun _ => rfl
    clear_value u
    exact ⟨fun idx w here new limit past => stall_gives (stall idx) here new limit past, fun mb c oldest => stallAbort_gives (abort mb) oldest⟩

end Sys2Proof.Claim
end

section
/-! PROOFS. Scrub passes, destructive tests of ternary blocks and tests of the shared banks (O48). -/

namespace Sys2Proof.Machine

/-! ### A scrub pass -/

/-- A pass that is due starts with every unit in use. -/
theorem scrubAt_starts {s : State} (due : s.spk.scrubDue = true ∨ (bit (s.live 0x130000) 0 = true ∧ s.epoch.crossed (max 1 (s.cfg 0x130004 23 0)) = true))
    (idle : s.spk.scrub = false) :
    scrubAt s = heldAction { s with spk := { s.spk with scrub := true, scrubDue := false, runs := scrubUnits s } } 9 0 := by
  have go : ((bit (s.live 0x130000) 0 && s.epoch.crossed (max 1 (s.cfg 0x130004 23 0))) || s.spk.scrubDue) = true := by
    rcases due with asked | ⟨on, crossed⟩
    · rw [asked, Bool.or_true]
    · rw [on, crossed]; rfl
  unfold scrubAt
  dsimp only
  rw [if_neg (by simp [idle]), if_pos go]

/-- A pass that is due while one runs is told of. -/
theorem scrubAt_late {s : State} (on : bit (s.live 0x130000) 0 = true) (crossed : s.epoch.crossed (max 1 (s.cfg 0x130004 23 0)) = true)
    (busy : s.spk.scrub = true) : scrubAt s = s.raise evSpkPassLate := by
  unfold scrubAt
  dsimp only
  rw [if_pos busy, if_pos (by rw [on, crossed]; rfl)]

theorem scrubStart_none (s : State) (ran : Bool) : scrubStart s ran [] = s := by
  unfold scrubStart
  dsimp only
  rw [List.filter_nil, meet_nil, ite_self]

/-! ### A run -/

/-- The two readings of a run ask for slots. -/
theorem askRun_asks (s : State) (d u : Nat) : ∃ t, AsksOnly { s with free := s.free + 1 } t ∧ askRun s d u = t :=
  ⟨_, (askSlots_asks ..).trans (askDram_asks ..), rfl⟩

/-- `t` is `s` but for requests for slots, the count of mismatches and free values: the rows of every unit are as they were. -/
structure RowsAs (s t : State) : Prop where
  frame : t = { s with dies := t.dies, regs := t.regs, free := t.free }
  blocks : t.dies.blocks = s.dies.blocks
  spares : t.dies.spares = s.dies.spares
  live : ∀ a, a ≠ 0x130104 → t.live a = s.live a

namespace RowsAs

theorem refl (s : State) : RowsAs s s := ⟨rfl, rfl, rfl, fun _ _ => rfl⟩

theorem trans {a b c : State} (h : RowsAs a b) (g : RowsAs b c) : RowsAs a c where
  frame := by rw [g.frame, h.frame]
  blocks := g.blocks.trans h.blocks
  spares := g.spares.trans h.spares
  live r ne := (g.live r ne).trans (h.live r ne)

theorem askRun (s : State) (d u : Nat) : RowsAs s (askRun s d u) := by
  obtain ⟨t, asks, run⟩ := askRun_asks s d u
  rw [run]
  exact ⟨by rw [asks], by rw [asks], by rw [asks], fun _ _ => by rw [asks]; rfl⟩

theorem bump (s : State) : RowsAs s (s.bump 0x130104) :=
  ⟨by apply State.same_fields <;> simp, by rw [State.bump_dies], by rw [State.bump_dies], fun _ ne => live_bump_ne _ _ _ _ ne⟩

theorem spare {s t : State} (h : RowsAs s t) (d k : Nat) : t.spare d k = s.spare d k := by unfold State.spare; rw [h.spares]

theorem blk {s t : State} (h : RowsAs s t) (d b : Nat) : t.blk d b = s.blk d b := by unfold State.blk; rw [h.blocks]

theorem unitBlock {s t : State} (h : RowsAs s t) (d u : Nat) : unitBlock t d u = unitBlock s d u := by unfold Machine.unitBlock; rw [h.spare]

theorem unitRows {s t : State} (h : RowsAs s t) (d u : Nat) : unitRows t d u = unitRows s d u := by
  have tables : ∀ q, t.table q = s.table q := fun q => table_of_tables (by rw [h.frame]) q
  have stage : t.stage = s.stage := by rw [h.frame]
  unfold Machine.unitRows
  dsimp only
  rw [h.spare, h.unitBlock, h.blk, tables, stage]

theorem taW {s t : State} (h : RowsAs s t) (q : Nat) : taW t q = taW s q := by
  unfold Machine.taW ta
  rw [h.live _ (by unfold taAddr; omega)]

theorem shadowRun {s t : State} (h : RowsAs s t) (d u run : Nat) : shadowRun t d u run = shadowRun s d u run := by
  unfold Machine.shadowRun
  dsimp only
  rw [h.unitRows, h.unitBlock, h.blk, h.taW]

theorem runSig {s t : State} (h : RowsAs s t) (d u run : Nat) : runSig t d u run = runSig s d u run := by
  unfold Machine.runSig
  rw [h.shadowRun]

end RowsAs

/-- The run is marked as compared. -/
def compared (u : State) (k m run : Nat) : State := { u with spk := { u.spk with runs := mapSet u.spk.runs k (m ||| 2 ^ run) } }

/-- A run that is still to be compared: its readings decide. -/
theorem scrubRun_runs {u : State} {d n run m : Nat} (first second : List (Nat × BitVec 168)) (here : mapGet u.spk.runs (d * 1056 + n) = some m)
    (on : u.spk.scrub = true) (new : m.testBit run = false) (still : stillScrubbed u (d * 1056 + n) = true) :
    ∃ b c, RowsAs (compared u (d * 1056 + n) m run) b ∧ b.regs = u.regs ∧ RowsAs (b.bump 0x130104) c ∧ c.regs = (b.bump 0x130104).regs ∧
      scrubRun u d n run first second =
        if runCrc (readRun (shadowRun u d n run) first) = runSig u d n run then b
        else if runCrc (readRun (shadowRun u d n run) second) = runSig u d n run then c
        else (markSuspect c d n).raise evSpkSigMismatch d n (64 * run +
          (findIdx (fun (q : BitVec 168 × BitVec 168) => q.1 != q.2) ((shadowRun u d n run).zip (readRun (shadowRun u d n run) second)) 0).getD 0) := by
  obtain ⟨a, ha⟩ : ∃ a, a = compared u (d * 1056 + n) m run := ⟨_, rfl⟩
  have rows : shadowRun a d n run = shadowRun u d n run := by rw [ha]; rfl
  have sig : runSig a d n run = runSig u d n run := by unfold runSig; rw [rows]
  have one := RowsAs.askRun a d n
  have two := (RowsAs.bump (askRun a d n)).trans (RowsAs.askRun ((askRun a d n).bump 0x130104) d n)
  have regs : ∀ s : State, (askRun s d n).regs = s.regs := fun s => rfl
  unfold stillScrubbed at still
  refine ⟨askRun a d n, askRun ((askRun a d n).bump 0x130104) d n, by rw [← ha]; exact one, by rw [regs, ha]; rfl, RowsAs.askRun .., regs _, ?_⟩
  unfold scrubRun
  rw [here]
  dsimp only
  rw [if_neg (by simp [on, new, Option.isSome_iff_ne_none.mp still])]
  rw [show ({ u with spk := { u.spk with runs := mapSet u.spk.runs (d * 1056 + n) (m ||| 2 ^ run) } } : State) = a from ha.symm]
  rw [one.runSig, (one.trans two).runSig, rows, sig]

theorem markSuspect_rest (s : State) (d u : Nat) : markSuspect s d u = { s with dies := (markSuspect s d u).dies, regs := (markSuspect s d u).regs } := by
  unfold markSuspect
  split
  · rfl
  · have counted : s.bump 0x13F048 = { s with regs := (s.bump 0x13F048).regs } := by apply State.same_fields <;> simp
    dsimp only
    generalize s.bump 0x13F048 = w at counted ⊢
    split <;> rw [counted] <;> rfl

theorem markSuspect_live (s : State) (d u : Nat) {a : Nat} (ne : a ≠ 0x13F048) : (markSuspect s d u).live a = s.live a := by
  unfold markSuspect
  split
  · rfl
  · dsimp only
    split
    · exact live_bump_ne _ _ _ _ ne
    · exact live_bump_ne _ _ _ _ ne

/-! ### The end of a pass -/

/-- Has every listed command with this identity completed OK? -/
def DoneOk (l : List Cmd) (i : Nat) : Prop := ∀ d ∈ l, d.id = i → d.st = .finished ∧ d.status = stOk

theorem DoneOk.endCmd {l : List Cmd} {i j handle vis : Nat} {held : Bool} (h : DoneOk l i ∨ i = j) : DoneOk (endCmd l j stOk handle vis held) i := by
  intro d hd same
  obtain ⟨e, he, eq⟩ := List.mem_map.mp hd
  split at eq
  · rw [← eq]; exact ⟨rfl, rfl⟩
  · rename_i other
    subst eq
    rcases h with done | mine
    · exact done e he same
    · exact absurd (by rw [same, mine]; simp) other

/-- Commands that complete one after the other. -/
theorem foldl_finishes (l : List Nat) (s : State) : l.foldl (fun s i => finish s i stOk) s =
    { s with cmds := (l.foldl (fun s i => finish s i stOk) s).cmds } ∧
    ∀ j, DoneOk s.cmds j ∨ j ∈ l → DoneOk (l.foldl (fun s i => finish s i stOk) s).cmds j := by
  induction l generalizing s with
  | nil => exact ⟨rfl, fun j h => h.elim id fun h => nomatch h⟩
  | cons i l ih =>
    obtain ⟨frame, done⟩ := ih (finish s i stOk)
    rw [List.foldl_cons]
    rw [finish_plain _ _ _ _ _ (by decide)] at frame done ⊢
    refine ⟨frame, fun j h => done j ?_⟩
    rcases h with before | mem
    · exact .inl (DoneOk.endCmd (.inl before))
    · rcases List.mem_cons.mp mem with same | later
      · exact .inl (DoneOk.endCmd (.inr same))
      · exact .inr later

/-! ### Tests of ternary blocks -/

theorem testMayStart_listed {s : State} {d : Nat} (may : testMayStart s d = true) : d < s.spk.tests.length := by
  unfold testMayStart at may
  refine Classical.byContradiction fun past => ?_
  rw [List.getElem?_eq_none (by omega)] at may
  simp at may

/-- A test of a listed die is on record. -/
theorem tests_set {l : List TestRun} {d : Nat} (t : TestRun) (listed : d < l.length) : (l.set d t)[d]? = some t := List.getElem?_set_self listed

theorem endTest_eq {s : State} {d : Nat} {t : TestRun} (st h : Nat) (on : s.spk.tests[d]? = some t) (plain : plainStatus st = true) :
    endTest s d st h = { s with
      spk := { s.spk with tests := s.spk.tests.set d { t with phase := 0, spare := none, cmd := none } }
      cmds := match t.cmd with
        | some i => endCmd s.cmds i st h 0 false
        | none => s.cmds } := by
  unfold endTest
  rw [on]
  dsimp only
  cases t.cmd with
  | none => rfl
  | some i => exact finishAs_plain _ _ _ _ _ _ plain

/-! ### Tests of the shared banks -/

/-- `t` is `s` but for remapped rows, their counter and the events of those that cannot be. -/
structure Remaps (s t : State) : Prop where
  frame : t = { s with spk := t.spk, regs := t.regs, mgmt := t.mgmt, out := t.out }
  spk : t.spk = { s.spk with sbRows := t.spk.sbRows }

namespace Remaps

theorem refl (s : State) : Remaps s s := ⟨rfl, rfl⟩

theorem trans {a b c : State} (h : Remaps a b) (g : Remaps b c) : Remaps a c where
  frame := by rw [g.frame, h.frame]
  spk := by rw [g.spk, h.spk]

theorem rows (s : State) (bank : Nat) (l : List Nat) : Remaps s (remapRows s bank l) := by
  refine foldl_rel (R := Remaps) refl trans (f := fun s r =>
    if mapGetD s.spk.sbRows bank 0 < 4 then
      ({ s with spk := { s.spk with sbRows := mapMod s.spk.sbRows bank 0 (fun n => n + 1) } } : State).bump 0x13011C
    else s.raise evSpkSbFail bank r) (fun v r => ?_) l s
  dsimp only
  split
  · exact ⟨by apply State.same_fields <;> simp, by rw [State.bump_spk]⟩
  · exact ⟨by apply State.same_fields <;> simp, by rw [State.raise_spk]⟩

end Remaps

/-- One failed row of a bank with a spare row left is remapped. -/
theorem remapRows_one {s : State} {bank : Nat} (r : Nat) (left : mapGetD s.spk.sbRows bank 0 < 4) :
    Claim.Counts s (remapRows s bank [r]) 0x13011C ∧ mapGetD (remapRows s bank [r]).spk.sbRows bank 0 = mapGetD s.spk.sbRows bank 0 + 1 := by
  obtain ⟨x, hx⟩ : ∃ x : State, x = { s with spk := { s.spk with sbRows := mapMod s.spk.sbRows bank 0 (fun n => n + 1) } } := ⟨_, rfl⟩
  have run : remapRows s bank [r] = x.bump 0x13011C := by rw [hx]; exact if_pos left
  have regs : x.regs = s.regs := by rw [hx]
  rw [run, State.bump_spk]
  refine ⟨(Claim.counts_bump x 0x13011C).of_live (by simp only [State.live, regs]) rfl, ?_⟩
  rw [hx]
  show mapGetD (mapSet _ _ _) bank 0 = _
  unfold mapGetD
  rw [mapGet_mapSet_same]
  rfl

end Sys2Proof.Machine

namespace Sys2Proof.Claim

open Machine

/-- SCRUB_PASS_START of a pass that is due while none runs. -/
theorem scrubStart_gives {s : State} {l : List Due} (now : DueNow s (fun d => d == .scrub) .scrub l)
    (due : s.spk.scrubDue = true ∨ (bit (s.live 0x130000) 0 = true ∧ s.epoch.crossed (max 1 (s.cfg 0x130004 23 0)) = true))
    (idle : s.spk.scrub = false) : Gives (.scrubPassStart []) s (fun v =>
      v.spk = { s.spk with scrub := true, scrubDue := false, runs := scrubUnits s } ∧ v.due = l ∧ v.tables = s.tables) := by
  have acts : runDue { s with due := [] } .scrub = heldAction { s with
      due := [], spk := { s.spk with scrub := true, scrubDue := false, runs := scrubUnits s } } 9 0 :=
    scrubAt_starts (s := { s with due := [] }) due idle
  obtain ⟨v, run, told⟩ := gives_due (i := .scrubPassStart []) (congrArg (fun t => Host.Outcome.next (settle_ t)) (scrubStart_none ..)) now acts
    (heldAction_due ..)
  refine ⟨v, run, ?_⟩
  rw [told.frame]
  exact ⟨heldAction_spk .., rfl, heldAction_tables ..⟩

/-- SCRUB_PASS_START of a pass that is due while one runs. -/
theorem scrubLate_gives {s : State} {l : List Due} (errs : List PatrolErr) (now : DueNow s (fun d => d == .scrub) .scrub l)
    (on : bit (s.live 0x130000) 0 = true) (crossed : s.epoch.crossed (max 1 (s.cfg 0x130004 23 0)) = true) (busy : s.spk.scrub = true) :
    Gives (.scrubPassStart errs) s (fun v => Flagged v evSpkPassLate ∧ v.spk = s.spk ∧ v.due = l) := by
  have acts : runDue { s with due := [] } .scrub = ({ s with due := [] } : State).raise evSpkPassLate :=
    scrubAt_late (s := { s with due := [] }) on crossed busy
  have ran : ∀ t, scrubStart t s.spk.scrub errs = t := fun t => by
    unfold scrubStart
    rw [if_pos (by rw [busy]; rfl)]
  obtain ⟨v, run, told⟩ := gives_due (i := .scrubPassStart errs) (congrArg (fun t => Host.Outcome.next (settle_ t)) (ran _)) now acts
    (State.raise_due ..)
  refine ⟨v, run, ?_, ?_⟩
  · exact told.flagged (s := { (({ s with due := [] } : State).raise evSpkPassLate) with due := l }) (by decide)
      (flagged_raise ({ s with due := [] } : State) evSpkPassLate _ _ _ (by decide))
  · rw [told.frame]
    exact ⟨State.raise_spk .., rfl⟩

/-- SCRUB_RUN of a run that is still to be compared. -/
theorem scrubRun_gives {i : Instr} {s u : State} {d n run m : Nat} {first second : List (Nat × BitVec 168)}
    (runs : exec i s = .next (scrubMeet u d n run first second [])) (here : mapGet u.spk.runs (d * 1056 + n) = some m)
    (on : u.spk.scrub = true) (new : m.testBit run = false) (still : stillScrubbed u (d * 1056 + n) = true) :
    let read := fun (l : List (Nat × BitVec 168)) => runCrc (readRun (shadowRun u d n run) l)
    Gives i s (fun v => v.spk.runs = mapSet u.spk.runs (d * 1056 + n) (m ||| 2 ^ run) ∧
      (read first = runSig u d n run → v = { u with spk := v.spk, dies := v.dies, free := v.free }) ∧
      (read first ≠ runSig u d n run → Counts u v 0x130104) ∧
      (read first ≠ runSig u d n run → read second ≠ runSig u d n run → Flagged v evSpkSigMismatch)) := by
  intro read
  obtain ⟨b, c, one, bregs, two, cregs, is⟩ := scrubRun_runs first second here on new still
  unfold scrubMeet at runs
  rw [here, if_neg (by simp), meet_nil, is] at runs
  have bspk : b.spk = (compared u (d * 1056 + n) m run).spk := by rw [one.frame]
  have cspk : c.spk = (compared u (d * 1056 + n) m run).spk := by rw [two.frame]; exact (State.bump_spk ..).trans bspk
  have counted : Counts u c 0x130104 := by
    have before : b.live 0x130104 = u.live 0x130104 := by simp only [State.live, bregs]
    exact (counts_bump b 0x130104).of_live before (by simp only [State.live, cregs])
  by_cases well : read first = runSig u d n run
  · rw [if_pos well] at runs
    refine gives_of runs ⟨by rw [bspk]; rfl, fun _ => ?_, fun h => absurd well h, fun h => absurd well h⟩
    conv => lhs; rw [one.frame, bregs]
    rw [bspk]
    rfl
  · rw [if_neg well] at runs
    by_cases again : read second = runSig u d n run
    · rw [if_pos again] at runs
      exact gives_of runs ⟨by rw [cspk]; rfl, fun h => absurd h well, fun _ => counted, fun _ h => absurd again h⟩
    · rw [if_neg again] at runs
      refine gives_of runs ⟨?_, fun h => absurd h well, fun _ => counted.of_live rfl ?_, fun _ _ => flagged_raise _ evSpkSigMismatch _ _ _ (by decide)⟩
      · rw [State.raise_spk, markSuspect_rest, cspk]
        rfl
      · rw [live_raise _ _ _ _ _ _ (by decide) (by decide), markSuspect_live _ _ _ (by decide)]

/-- SCRUB_PASS_DONE when every run of every unit in use is compared. -/
theorem scrubDone_gives {i : Instr} {s u : State} (run : exec i s = .next (scrubDone u)) (on : u.spk.scrub = true)
    (all : ∀ p ∈ u.spk.runs, p.2 = 2 ^ 64 - 1 ∨ stillScrubbed u p.1 = false) : Gives i s (fun v => Counts u v 0x130100 ∧
      (∀ d ∈ v.cmds, d.id ∈ u.spk.scrubCmds → d.st = .finished ∧ d.status = stOk) ∧
      v = { u with cmds := v.cmds, regs := v.regs, spk := { u.spk with scrub := false, runs := [], scrubCmds := [] } }) := by
  have over_ : u.spk.runs.any (fun p => p.2 != 2 ^ 64 - 1 && stillScrubbed u p.1) = false := by
    rw [List.any_eq_false]
    intro p hp
    rcases all p hp with full | gone
    · rw [full]; simp
    · rw [gone]; simp
  unfold scrubDone at run
  rw [if_neg (by rw [on, over_]; decide)] at run
  obtain ⟨x, hx⟩ : ∃ x : State, x = { u with spk := { u.spk with scrub := false, runs := [], scrubCmds := [] } } := ⟨_, rfl⟩
  dsimp only at run
  rw [← hx] at run
  obtain ⟨frame, done⟩ := foldl_finishes u.spk.scrubCmds (x.bump 0x130100)
  generalize u.spk.scrubCmds.foldl (fun s i => finish s i stOk) (x.bump 0x130100) = v at run frame done
  have regs : x.regs = u.regs := by rw [hx]
  refine gives_of run ⟨(counts_bump x 0x130100).of_live (by simp only [State.live, regs]) (by rw [frame]; rfl),
    fun d hd mem => done _ (.inr mem) d hd rfl, ?_⟩
  rw [frame]
  apply State.same_fields <;> simp [hx]

/-- TEST_WINDOW with a TEST_BLOCK asked for: its test begins. -/
theorem testWindowAt_asked {s : State} {d p i : Nat} (may : testMayStart s d = true)
    (asked : s.spk.testDue.find? (fun (q : Nat × Nat × Nat) => q.1 == d) = some (d, p, i)) : testWindowAt s d =
    testStart { s with spk := { s.spk with testDue := s.spk.testDue.filter (fun (r : Nat × Nat × Nat) => r != (d, p, i)) } } d p (some i) := by
  unfold testWindowAt
  rw [if_neg (by simp [may]), asked]

/-- TEST_WINDOW of a free block: the test runs in place. -/
theorem testFree_gives {i : Instr} {s : State} {d : Fin 4} {p j : Nat} {l : List Due} (run : exec i s = .next (settle_ (dueUpTo (fun q => q == .testWindow d) s)))
    (now : DueNow s (fun q => q == .testWindow d) (.testWindow d) l) (may : testMayStart s d = true)
    (asked : s.spk.testDue.find? (fun (q : Nat × Nat × Nat) => q.1 == d.val) = some (d.val, p, j)) (block : p < 1024)
    (kept : s.spk.retired.contains (d * 1056 + p) = false) (free : (s.blk d p).st = 0) : Gives i s (fun v =>
      testOn v d { phase := 2, pos := p, spare := none, cmd := some j } ∧ (d.val, p, j) ∉ v.spk.testDue ∧ v.due = l ∧ v.tables = s.tables) := by
  have acts : runDue { s with due := [] } (.testWindow d) = { s with due := [], spk := { s.spk with
      testDue := s.spk.testDue.filter (fun (r : Nat × Nat × Nat) => r != (d.val, p, j))
      tests := s.spk.tests.set d { phase := 2, pos := p, spare := none, cmd := some j } } } := by
    refine (testWindowAt_asked (s := { s with due := [] }) may asked).trans ?_
    unfold testStart
    dsimp only
    rw [if_neg (by rw [kept]; decide), if_neg (by omega)]
    exact if_pos free
  obtain ⟨v, run, told⟩ := gives_due run now acts rfl
  refine ⟨v, run, ?_⟩
  unfold testOn
  rw [told.frame]
  refine ⟨tests_set _ (testMayStart_listed may), fun mem => ?_, rfl, rfl⟩
  have out := (List.mem_filter.mp mem).2
  simp at out

/-- TEST_WINDOW of a block in use: a spare takes it over. -/
theorem testTakeover_gives {i : Instr} {s : State} {d : Fin 4} {p j k : Nat} {l : List Due}
    (run : exec i s = .next (settle_ (dueUpTo (fun q => q == .testWindow d) s)))
    (now : DueNow s (fun q => q == .testWindow d) (.testWindow d) l) (may : testMayStart s d = true)
    (asked : s.spk.testDue.find? (fun (q : Nat × Nat × Nat) => q.1 == d.val) = some (d.val, p, j)) (block : p < 1024)
    (kept : s.spk.retired.contains (d * 1056 + p) = false) (used : (s.blk d p).st = 1) (idle : buildOf s d p = none) (spare : claimSpare s d p = some k) :
    Gives i s (fun v => testOn v d { phase := 1, pos := p, spare := some k, cmd := some j } ∧ (v.spare d k).use = 3 ∧
      (∃ b ∈ v.dies.builds, b.die = d ∧ b.unit = p ∧ b.spare = k ∧ b.why = .takeover) ∧ v.due = l ∧ v.tables = s.tables) := by
  obtain ⟨a, ha⟩ : ∃ a : State, a = { s with due := [], spk := { s.spk with
      testDue := s.spk.testDue.filter (fun (r : Nat × Nat × Nat) => r != (d.val, p, j)) } } := ⟨_, rfl⟩
  have same : a.spk.retired = s.spk.retired ∧ a.blk d p = s.blk d p ∧ buildOf a d p = buildOf s d p ∧ claimSpare a d p = claimSpare s d p ∧
      a.spk.tests = s.spk.tests ∧ a.due = [] ∧ a.tables = s.tables := by rw [ha]; exact ⟨rfl, rfl, rfl, rfl, rfl, rfl, rfl⟩
  obtain ⟨retired, blk, builds, claims, tests, due, tables⟩ := same
  obtain ⟨t, asks, begins⟩ := beginBuild_claims a d p p k 3 .takeover
  obtain ⟨w, hw⟩ : ∃ w, w = beginBuild a d p p k 3 .takeover := ⟨_, rfl⟩
  have acts : runDue { s with due := [] } (.testWindow d) = { w with spk := { w.spk with
      tests := w.spk.tests.set d { phase := 1, pos := p, spare := some k, cmd := some j } } } := by
    refine (testWindowAt_asked (s := { s with due := [] }) may asked).trans ?_
    rw [← ha, hw]
    unfold testStart
    dsimp only
    rw [if_neg (by rw [retired, kept]; decide), if_neg (by omega), if_neg (by rw [blk, used]; decide), if_neg (by simp [blk, used, builds, idle]),
      claims, spare] <;> rfl
  have rest : w.due = [] ∧ w.tables = s.tables ∧ w.spk = a.spk := by rw [hw, begins, asks]; exact ⟨due, tables, rfl⟩
  obtain ⟨wdue, wtables, wspk⟩ := rest
  obtain ⟨v, run, told⟩ := gives_due run now acts wdue
  refine ⟨v, run, ?_⟩
  unfold testOn State.spare
  rw [told.frame]
  refine ⟨tests_set _ (by rw [wspk, tests]; exact testMayStart_listed may), ?_,
    ⟨{ die := d, unit := p, block := p, spare := k, why := .takeover, tries := 0, verified := false, hold := none }, ?_, rfl, rfl, rfl, rfl⟩, rfl, wtables⟩
  · refine (congrArg Spare.use (?_ : w.spare d k = { Spare.free with use := 3, primary := p })).trans rfl
    refine Eq.trans ?_ (spare_setSpare_same a d k _)
    rw [hw, begins]
    unfold State.spare
    dsimp only
    rw [asks]
  · show _ ∈ w.dies.builds
    rw [hw, begins]
    exact List.mem_append_right _ (List.mem_singleton.mpr rfl)

/-- ARRAY_TEST_DONE of a test in place that has passed. -/
theorem testPassed_gives {i : Instr} {s u : State} {d : Fin 4} {t : TestRun} (run : exec i s = .next (arrayTestDone u d true)) (on : testOn u d t)
    (phase : t.phase = 2) (place : t.spare = none) : Gives i s (fun v => Counts u v 0x130108 ∧ testOn v d { t with phase := 0, cmd := none } ∧
      v.spk.retired = u.spk.retired ∧ (∀ i : Nat, t.cmd = some i → ∀ d ∈ v.cmds, d.id = i → d.st = .finished ∧ d.status = stOk ∧ d.handle = 0)) := by
  unfold testOn at on
  unfold arrayTestDone at run
  rw [on] at run
  dsimp only at run
  rw [if_neg (not_not_intro phase), if_pos rfl, place] at run
  dsimp only at run
  rw [endTest_eq _ _ (by rw [State.bump_spk]; exact on) (by decide)] at run
  refine gives_of run ⟨(counts_bump u 0x130108).of_live rfl rfl, ?_, ?_, fun j cmd d hd same => ?_⟩
  · unfold testOn
    dsimp only
    rw [State.bump_spk, tests_set _ (List.getElem?_eq_some_iff.mp on).1, ← place]
  · dsimp only
    rw [State.bump_spk]
  · dsimp only at hd
    rw [cmd] at hd
    obtain ⟨e, he, eq⟩ := List.mem_map.mp hd
    split at eq
    · rw [← eq]; exact ⟨rfl, rfl, rfl⟩
    · rename_i other
      subst eq
      exact absurd (by rw [same]; simp) other

theorem retirePos_rest (s : State) (d p : Nat) : retirePos s d p = { s with dies := (retirePos s d p).dies, spk := (retirePos s d p).spk } ∧
    (retirePos s d p).spk.tests = s.spk.tests ∧ (retirePos s d p).spk.retired.contains (d * 1056 + p) = true := by
  have listed : ((if s.spk.retired.contains (d * 1056 + p) = true then s.spk.retired else s.spk.retired ++ [d * 1056 + p]).contains
      (d * 1056 + p)) = true := by
    split
    · assumption
    · simp
  unfold retirePos
  dsimp only
  split <;> exact ⟨rfl, rfl, listed⟩

/-- ARRAY_TEST_DONE of a test that has failed. -/
theorem testFailed_gives {i : Instr} {s u : State} {d : Fin 4} {t : TestRun} (run : exec i s = .next (arrayTestDone u d false)) (on : testOn u d t)
    (phase : t.phase = 2) : Gives i s (fun v => Counts u v 0x13010C ∧ Flagged v evSpkTestFail ∧
      v.spk.retired.contains (d * 1056 + t.pos) = true ∧ v.tables = u.tables) := by
  unfold testOn at on
  unfold arrayTestDone at run
  rw [on] at run
  dsimp only at run
  rw [if_neg (not_not_intro phase), if_neg (by decide)] at run
  obtain ⟨x, hx⟩ : ∃ x, x = (u.bump 0x13010C).raise evSpkTestFail t.pos := ⟨_, rfl⟩
  have flag : Flagged x evSpkTestFail := by rw [hx]; exact flagged_raise _ evSpkTestFail _ _ _ (by decide)
  have counts : Counts u x 0x13010C := (counts_bump u 0x13010C).of_live rfl (by rw [hx]; exact live_raise _ _ _ _ _ _ (by decide) (by decide))
  have rest : x.spk = u.spk ∧ x.tables = u.tables := by rw [hx]; simp
  rw [← hx] at run
  obtain ⟨y, hy, yregs, yspk, ytables⟩ : ∃ y, (match t.spare with
      | some k => x.setSpare d k { x.spare d k with use := 2 }
      | none => x) = y ∧ y.regs = x.regs ∧ y.spk = u.spk ∧ y.tables = u.tables := by
    cases t.spare with
    | none => exact ⟨x, rfl, rfl, rest⟩
    | some k => exact ⟨_, rfl, rfl, rest⟩
  replace run := run.trans (congrArg (fun q => Host.Outcome.next (endTest (retireDone q d t.pos (fun _ => false)) d stOk 1)) hy)
  obtain ⟨frame, tests, listed⟩ := retirePos_rest y d t.pos
  obtain ⟨z, hz⟩ : ∃ z, z = stageRec (retirePos y d t.pos) 0x30 255 none (configBody (retirePos y d t.pos) []) := ⟨_, rfl⟩
  have done : (retireDone y d t.pos (fun _ => false)).spk = z.spk ∧ (retireDone y d t.pos (fun _ => false)).tables = z.tables ∧
      (retireDone y d t.pos (fun _ => false)).regs = z.regs := by
    rw [hz]
    unfold retireDone
    dsimp only
    split <;> exact ⟨rfl, rfl, rfl⟩
  obtain ⟨dspk, dtables, dregs⟩ := done
  have zspk : z.spk = (retirePos y d t.pos).spk := by rw [hz]; exact stageRec_spk ..
  have ztables : z.tables = u.tables := by rw [hz, stageRec_tables, frame]; exact ytables
  have live : ∀ a, (retirePos y d t.pos).live a = x.live a := fun a => by rw [frame]; simp only [State.live, yregs]
  rw [endTest_eq _ _ (by rw [dspk, zspk, tests, yspk]; exact on) (by decide)] at run
  refine gives_of run ⟨counts.of_live rfl ?_, ?_, ?_, dtables.trans ztables⟩
  · have same : (retireDone y d t.pos (fun _ => false)).live 0x13010C = z.live 0x13010C := by simp only [State.live, dregs]
    exact same.trans (by rw [hz, stageRec_live _ _ _ _ _ (by decide), live])
  · have kept := stageRec_keeps_flag (retirePos y d t.pos) 0x30 255 none (configBody (retirePos y d t.pos) []) (n := evSpkTestFail.src / 16)
      (i := evSpkTestFail.src % 16) (by decide) (by rw [live]; exact flag)
    rw [← hz] at kept
    unfold State.live at kept
    unfold Flagged State.live
    dsimp only
    rw [dregs]
    exact kept
  · dsimp only
    rw [dspk, zspk]
    exact listed

/-- SB_REGION_TEST_START when a test is due. -/
theorem sbStart_gives {s : State} {l : List Due} (now : DueNow s (fun d => d == .sbTest) .sbTest l) (on : bit (s.live 0x130000) 3 = true)
    (crossed : s.epoch.crossed (max 1 (s.cfg 0x13000C 15 0)) = true) (idle : s.spk.sb = none) (cool : atLimit s = false)
    (free : s.spk.holdUntil ≤ s.epoch.count) : Gives .sbRegionTestStart s (fun v =>
      (∃ r : Nat, s.now + 8192 ≤ r ∧ v.spk = { s.spk with
        sb := some { bank := s.spk.sbNext / 16, region := s.spk.sbNext % 16, start := s.now, aborted := false, restore := r }
        sbLast := s.spk.sbNext }) ∧ v.due = l ∧ v.mem = s.mem) := by
  obtain ⟨a, ha⟩ : ∃ a : State, a = { s with due := [] } := ⟨_, rfl⟩
  have cond : (!bit (a.live 0x130000) 3 || !a.epoch.crossed (max 1 (a.cfg 0x13000C 15 0)) || a.spk.sb.isSome || atLimit a ||
      decide (a.epoch.count < a.spk.holdUntil)) = false := by
    rw [ha]
    show (!bit (s.live 0x130000) 3 || !s.epoch.crossed (max 1 (s.cfg 0x13000C 15 0)) || s.spk.sb.isSome || atLimit s ||
      decide (s.epoch.count < s.spk.holdUntil)) = false
    rw [on, crossed, idle, cool]
    simp [free]
  obtain ⟨w, hw⟩ : ∃ w : State, w = { a with free := a.free + 1, spk := { a.spk with
      sb := some { bank := a.spk.sbNext / 16, region := a.spk.sbNext % 16, start := a.now, aborted := false
                   restore := a.now + 8192 + Config.openNat a.free % 183616 }
      sbLast := a.spk.sbNext } } := ⟨_, rfl⟩
  have acts : runDue a .sbTest = heldAction w 9 2 := by
    rw [hw]
    exact (if_neg (by rw [cond]; decide)).trans rfl
  obtain ⟨v, run, told⟩ := gives_due (i := .sbRegionTestStart) (t := heldAction w 9 2) rfl now (by rw [← ha]; exact acts)
    (by rw [heldAction_due, hw, ha])
  refine ⟨v, run, ⟨s.now + 8192 + Config.openNat s.free % 183616, Nat.le_add_right .., ?_⟩, ?_, ?_⟩
  · rw [told.frame]
    dsimp only
    rw [heldAction_spk, hw, ha]
  · rw [told.frame]
  · rw [told.frame]
    dsimp only
    rw [heldAction_mem, hw, ha]

/-- The rows that a region test gives back are those listed, once each, below 32. -/
def failedRows (t : SbTest) (failed : List Nat) : List Nat := (dedup (failed.filter (fun r => decide (r < 32)))).map (fun r => t.region * 32 + r)

theorem failedRows_one (t : SbTest) {r : Nat} (low : r < 32) : failedRows t [r] = [t.region * 32 + r] := by
  unfold failedRows
  rw [List.filter_cons_of_pos (by simpa using low), List.filter_nil]
  rfl

/-- A region test is over, and its failed rows are remapped. -/
def sbRemapped (u : State) (t : SbTest) (failed : List Nat) : State :=
  remapRows { u with spk := { u.spk with sb := none } } t.bank (failedRows t failed)

theorem sbRemapped_none (u : State) (t : SbTest) : sbRemapped u t [] = { u with spk := { u.spk with sb := none } } := rfl

theorem sbTestDone_whole {u : State} {t : SbTest} (failed : List Nat) (here : u.spk.sb = some t) (whole : t.aborted = false) : sbTestDone u failed =
    ({ sbRemapped u t failed with spk := { (sbRemapped u t failed).spk with
      sbAborts := 0, sbNext := ((sbRemapped u t failed).spk.sbNext + 1) % 1024 } } : State).bump 0x130114 := by
  unfold sbTestDone
  rw [here]
  dsimp only
  rw [if_neg (by rw [whole]; decide)] <;> rfl

theorem sbTestDone_aborted {u : State} {t : SbTest} (failed : List Nat) (here : u.spk.sb = some t) (aborted : t.aborted = true)
    (few : u.spk.sbAborts < 7) : sbTestDone u failed = { sbRemapped u t failed with spk := { (sbRemapped u t failed).spk with
      sbAborts := u.spk.sbAborts + 1 } } := by
  have remaps := Remaps.rows { u with spk := { u.spk with sb := none } } t.bank (failedRows t failed)
  have aborts : (sbRemapped u t failed).spk.sbAborts = u.spk.sbAborts := (congrArg Spk.sbAborts remaps.spk).trans rfl
  unfold sbTestDone
  rw [here]
  dsimp only
  rw [if_pos aborted, ← show sbRemapped u t failed = remapRows { u with spk := { u.spk with sb := none } } t.bank
    ((dedup (failed.filter (fun r => decide (r < 32)))).map (fun r => t.region * 32 + r)) from rfl, aborts, if_neg (by omega)]

/-- A failed row with a spare row left is remapped by the end of its test. -/
theorem sbRemapped_one {u : State} {t : SbTest} {r : Nat} (low : r < 32) (left : mapGetD u.spk.sbRows t.bank 0 < 4) :
    Counts u (sbRemapped u t [r]) 0x13011C ∧ mapGetD (sbRemapped u t [r]).spk.sbRows t.bank 0 = mapGetD u.spk.sbRows t.bank 0 + 1 := by
  unfold sbRemapped
  rw [failedRows_one t low]
  exact remapRows_one (s := { u with spk := { u.spk with sb := none } }) _ left

/-- SB_REGION_TEST_DONE of a test without a failed row. -/
theorem sbDone_gives {i : Instr} {s u : State} {t : SbTest} (run : exec i s = .next (sbTestDone u [])) (here : u.spk.sb = some t) (whole : t.aborted = false) :
    Gives i s (fun v => Counts u v 0x130114 ∧
      v = { u with regs := v.regs, spk := { u.spk with sb := none, sbAborts := 0, sbNext := (u.spk.sbNext + 1) % 1024 } }) := by
  rw [sbTestDone_whole [] here whole, sbRemapped_none] at run
  obtain ⟨x, hx⟩ : ∃ x : State, x = { u with spk := { u.spk with sb := none, sbAborts := 0, sbNext := (u.spk.sbNext + 1) % 1024 } } := ⟨_, rfl⟩
  replace run := run.trans (congrArg (fun q => Host.Outcome.next (State.bump q 0x130114)) hx.symm)
  have regs : x.regs = u.regs := by rw [hx]
  refine gives_of run ⟨(counts_bump x 0x130114).of_live (by simp only [State.live, regs]) rfl, ?_⟩
  apply State.same_fields <;> simp [hx]

/-- SB_REGION_TEST_DONE of a test with one failed row. -/
theorem sbFailed_gives {i : Instr} {s u : State} {t : SbTest} {r : Nat} (run : exec i s = .next (sbTestDone u [r])) (here : u.spk.sb = some t)
    (whole : t.aborted = false) (low : r < 32) (left : mapGetD u.spk.sbRows t.bank 0 < 4) : Gives i s (fun v =>
      Counts u v 0x13011C ∧ mapGetD v.spk.sbRows t.bank 0 = mapGetD u.spk.sbRows t.bank 0 + 1) := by
  rw [sbTestDone_whole [r] here whole] at run
  obtain ⟨counts, rows⟩ := sbRemapped_one (t := t) low left
  generalize sbRemapped u t [r] = w at run counts rows
  refine gives_of run ⟨counts.of_live rfl (live_bump_ne _ _ _ _ (by decide)), ?_⟩
  rw [State.bump_spk]
  exact rows

/-- SB_REGION_TEST_DONE of an aborted test. -/
theorem sbAborted_gives {i : Instr} {s u : State} {t : SbTest} {failed : List Nat} (run : exec i s = .next (sbTestDone u failed))
    (here : u.spk.sb = some t) (aborted : t.aborted = true) (few : u.spk.sbAborts < 7) : Gives i s (fun v =>
     v.spk = { u.spk with sb := none, sbAborts := u.spk.sbAborts + 1, sbRows := v.spk.sbRows } ∧
     (failed = [] → v.spk.sbRows = u.spk.sbRows) ∧
     (∀ r : Nat, failed = [r] → r < 32 → mapGetD u.spk.sbRows t.bank 0 < 4 → Counts u v 0x13011C ∧
       mapGetD v.spk.sbRows t.bank 0 = mapGetD u.spk.sbRows t.bank 0 + 1) ∧
     v = { u with spk := v.spk, regs := v.regs, mgmt := v.mgmt, out := v.out }) := by
  rw [sbTestDone_aborted failed here aborted few] at run
  have remaps : Remaps { u with spk := { u.spk with sb := none } } (sbRemapped u t failed) := Remaps.rows ..
  have one : ∀ r, failed = [r] → r < 32 → mapGetD u.spk.sbRows t.bank 0 < 4 → Counts u (sbRemapped u t failed) 0x13011C ∧
      mapGetD (sbRemapped u t failed).spk.sbRows t.bank 0 = mapGetD u.spk.sbRows t.bank 0 + 1 := fun r only low left => by
    rw [only]; exact sbRemapped_one low left
  have none : failed = [] → (sbRemapped u t failed).spk.sbRows = u.spk.sbRows := fun none => by rw [none, sbRemapped_none]
  generalize sbRemapped u t failed = w at run remaps one none
  refine gives_of run ⟨?_, none, one, ?_⟩
  · dsimp only
    rw [remaps.spk]
  · rw [remaps.frame]

/-- Settles O48: each step of scrub passes and tests by its case. -/
theorem scrubsAndTests : Obligations.ScrubsAndTests := by
  unfold Obligations.ScrubsAndTests
  intro s die l
  refine ⟨?_, ?_, ?_, ?_, ?_, ?_, ?_⟩
  · intro now due
    refine ⟨scrubStart_gives now due, fun busy none errs => ?_⟩
    rcases due with asked | ⟨on, crossed⟩
    · rw [none] at asked; exact nomatch asked
    · exact scrubLate_gives errs now on crossed busy
  · intro u
    have run : ∀ unit run first second, exec (.scrubRun die unit run first second []) s = .next (scrubMeet u die unit run first second []) :=
      fun _ _ _ _ => rfl
    clear_value u
    intro unit n m first second here on new still
    exact scrubRun_gives (run ..) here on new still
  · intro u on all
    exact scrubDone_gives rfl on all
  · intro p i now may asked block kept
    exact ⟨fun free => testFree_gives rfl now may asked block kept free, fun k used idle spare => testTakeover_gives rfl now may asked block kept used idle spare⟩
  · intro u
    have run : ∀ good, exec (.arrayTestDone die good) s = .next (arrayTestDone u die good) := fun _ => rfl
    clear_value u
    intro t on phase
    exact ⟨fun place _ => testPassed_gives (run true) on phase place, testFailed_gives (run false) on phase⟩
  · intro now on crossed idle cool free
    exact sbStart_gives now on crossed idle cool free
  · intro u
    have run : ∀ failed, exec (.sbRegionTestDone failed) s = .next (sbTestDone u failed) := fun _ => rfl
    clear_value u
    intro t here
    exact ⟨fun whole => sbDone_gives (run []) here whole, fun r whole low left => sbFailed_gives (run [r]) here whole low left,
      fun failed aborted few => sbAborted_gives (run failed) here aborted few⟩

end Sys2Proof.Claim
end

section
/-! PROOFS. A checkpoint that ends while a counter line has a fill in flight (R385). Refutation of O49. -/

namespace Sys2Proof.Claim

open Machine

/-- A checkpoint of image A is at its end; line 0 of the counter cache has a fill in flight, and behind it waits an update of a class that the cache
does not have, whose hit counter would lie where checkpoints are counted. -/
def strayFlush : State := { State.reset with
  vault := { State.reset.vault with ckpt := some { target := 1, s0 := 0, epoch := 0, held := false, cmds := [] }, maxPe := 30000 }
  cache := { Cache.reset with
    lines := [{ line := 0, way := 0, sectors := emptySectors }], fills := [(0, 0)]
    queue := [{ cls := 81920, pos := 0, pkt := 1, byte := 1, missed := false }] } }

theorem strayFlush_ckpt : (pre strayFlush).vault.ckpt = some { target := 1, s0 := 0, epoch := 0, held := false, cmds := [] } := by decide +kernel

/-- The FLUSH at the end of the checkpoint ends the fill, and the update that waited counts its hit. -/
theorem strayFlush_twice : (pre strayFlush).live 0x150040 = 0 ∧ (ckptDone (pre strayFlush)).live 0x150040 = 2 := by decide +kernel

/-- Refutes O49: the queue of the counter cache may list an update of a class beyond the four; the FLUSH at the end of a checkpoint, as it ends the
fill that the update waits for, counts its hit in the counter of checkpoints, which goes up by two. -/
theorem not_vaultKeepsItsRecords : ¬ Obligations.VaultKeepsItsRecords := by
  unfold Obligations.VaultKeepsItsRecords
  intro h
  obtain ⟨-, -, done, -, -⟩ := h strayFlush []
  obtain ⟨before, after⟩ := strayFlush_twice
  have run : exec .vltCkptDone strayFlush = .next (ckptDone (pre strayFlush)) := rfl
  have ended := done _ strayFlush_ckpt (.inl rfl)
  generalize ckptDone (pre strayFlush) = q at run after
  obtain ⟨-, -, -, -, -, counts, -⟩ := ended.of_next run
  rw [Counts, before, after] at counts
  exact absurd counts (by decide)

end Sys2Proof.Claim
end

section
/-! PROOFS. Entry to FAULTSAFE and the return of crumb spares (parts of O52). -/

namespace Sys2Proof.Machine

/-! ### Commands that end with a checkpoint -/

/-- Every command with identity `i` has completed with `status`. -/
def EndedAs (l : List Cmd) (status i : Nat) : Prop := ∀ d ∈ l, d.id = i → d.st = .finished ∧ d.status = status

theorem EndedAs.endCmd {l : List Cmd} {status i j handle vis : Nat} {held : Bool} (h : EndedAs l status i ∨ i = j) :
    EndedAs (endCmd l j status handle vis held) status i := by
  intro d hd same
  obtain ⟨e, he, eq⟩ := List.mem_map.mp hd
  split at eq
  · rw [← eq]; exact ⟨rfl, rfl⟩
  next other =>
    subst eq
    rcases h with done | mine
    · exact done e he same
    · exact absurd (by rw [same, mine]; simp) other

/-- Commands that complete one after the other with a status that no register shows. -/
theorem foldl_ends {status : Nat} (plain : plainStatus status = true) (l : List Nat) (s : State) :
    l.foldl (fun s i => finish s i status) s = { s with cmds := (l.foldl (fun s i => finish s i status) s).cmds } ∧
    ∀ j, EndedAs s.cmds status j ∨ j ∈ l → EndedAs (l.foldl (fun s i => finish s i status) s).cmds status j := by
  induction l generalizing s with
  | nil => exact ⟨rfl, fun j h => h.elim id fun h => nomatch h⟩
  | cons i l ih =>
    obtain ⟨frame, done⟩ := ih (finish s i status)
    rw [List.foldl_cons]
    rw [finish_plain _ _ _ _ _ plain] at frame done ⊢
    refine ⟨frame, fun j h => done j ?_⟩
    rcases h with before | mem
    · exact .inl (EndedAs.endCmd (.inl before))
    · rcases List.mem_cons.mp mem with same | later
      · exact .inl (EndedAs.endCmd (.inr same))
      · exact .inr later

/-- A checkpoint that ends early ends its commands ABORTED. -/
theorem dropCkpt_spec (s : State) : dropCkpt s = { s with cmds := (dropCkpt s).cmds, vault := { s.vault with ckpt := none } } ∧
    ∀ k : Ckpt, s.vault.ckpt = some k → ∀ j ∈ k.cmds, EndedAs (dropCkpt s).cmds stAborted j := by
  unfold dropCkpt
  cases h : s.vault.ckpt with
  | none =>
    refine ⟨?_, fun k hk => by cases hk⟩
    show s = { s with vault := { s.vault with ckpt := none } }
    rw [← h]
  | some c =>
    obtain ⟨frame, ended⟩ := foldl_ends (status := stAborted) (by decide) c.cmds { s with vault := { s.vault with ckpt := none } }
    exact ⟨frame, fun k hk j hj => ended j (.inr (by cases hk; exact hj))⟩

/-! ### FAULTSAFE -/

theorem enterFs_die (s : State) (d : Nat) : (enterFs s 0 d).stage.fsDie = s.stage.fsDie ||| BitVec.ofNat 4 (2 ^ d) := by
  unfold enterFs
  dsimp only
  split
  · rfl
  · split <;> simp

theorem enterFs_flags {s : State} (b d : Nat) (up : s.stage.stage ≠ 0) (other : s.stage.stage ≠ 4) : Claim.Flagged (enterFs s b d) evStgChange := by
  unfold enterFs
  dsimp only
  rw [if_neg other, if_neg up]
  exact raise_flags _ _ _ _ _ (by decide)

theorem cacheLost_frame (s : State) : cacheLost s = { s with cache := (cacheLost s).cache, regs := (cacheLost s).regs } := by
  unfold cacheLost pressTo
  split
  · rfl
  · apply State.same_fields <;> simp

theorem bit_or_pow {w : Nat} (x : BitVec w) {b : Nat} (low : b < w) : bit (x ||| BitVec.ofNat w (2 ^ b)) b = true := by
  have fits : 2 ^ b % 2 ^ w = 2 ^ b := Nat.mod_eq_of_lt (Nat.pow_lt_pow_right (by decide) low)
  rw [bit_or, Bool.or_eq_true]
  right
  unfold bit
  rw [BitVec.toNat_ofNat, fits]
  exact Nat.testBit_two_pow_self

/-! ### Crumb spares -/

/-- The table whose crumb entries the spare with key `n` holds. -/
def crumbAt (s : State) (n : Nat) : Option Nat := (mapGetD s.dies.spares n Spare.free).crumb

theorem crumbAt_setSpare (s : State) (d k n : Nat) (x : Spare) : crumbAt (s.setSpare d k x) n = if n = spKey d k then x.crumb else crumbAt s n := by
  simp only [crumbAt, State.setSpare, mapGetD, mapGet_mapSet]
  split <;> rfl

/-- `t` is `s` but for its dies, and no spare took a crumb. -/
structure NoNewCrumb (s t : State) : Prop where
  frame : t = { s with dies := t.dies }
  crumb : ∀ n, crumbAt t n = crumbAt s n ∨ crumbAt t n = none

namespace NoNewCrumb

theorem refl (s : State) : NoNewCrumb s s := ⟨rfl, fun _ => .inl rfl⟩

theorem trans {a b c : State} (h : NoNewCrumb a b) (g : NoNewCrumb b c) : NoNewCrumb a c where
  frame := by rw [g.frame, h.frame]
  crumb n := (g.crumb n).elim (fun same => same ▸ h.crumb n) .inr

theorem free (s : State) (d k : Nat) : NoNewCrumb s (s.setSpare d k Spare.free) where
  frame := rfl
  crumb n := by
    rw [crumbAt_setSpare]
    split
    · exact .inr rfl
    · exact .inl rfl

theorem dropCopies (s : State) (d u : Nat) : NoNewCrumb s (dropCopies s d u) := by
  unfold Machine.dropCopies
  refine foldl_keep (P := NoNewCrumb s) _ (fun q b hq => ?_) _ _ ⟨rfl, fun n => .inl rfl⟩
  split
  · exact hq.trans (free ..)
  · exact hq

theorem releaseSpare (s : State) (d k : Nat) : NoNewCrumb s (releaseSpare s d k) := (free s d k).trans (dropCopies ..)

/-- A spare that has no crumb takes none. -/
theorem none {s t : State} (h : NoNewCrumb s t) {n : Nat} (bare : crumbAt s n = none) : crumbAt t n = none :=
  (h.crumb n).elim (fun same => same.trans bare) id

end NoNewCrumb

theorem crumbAt_releaseSpare (s : State) (n : Nat) : crumbAt (releaseSpare s (n / 32) (n % 32)) n = none := by
  refine (NoNewCrumb.dropCopies ..).none ?_
  rw [crumbAt_setSpare, if_pos (by unfold spKey; omega)]
  rfl

/-- Spares that return one after the other. -/
theorem releaseSpares_spec (l : List Nat) (s : State) : NoNewCrumb s (l.foldl (fun s n => releaseSpare s (n / 32) (n % 32)) s) ∧
    ∀ n ∈ l, crumbAt (l.foldl (fun s n => releaseSpare s (n / 32) (n % 32)) s) n = none := by
  induction l generalizing s with
  | nil => exact ⟨.refl s, fun n h => nomatch h⟩
  | cons m l ih =>
    obtain ⟨rest, gone⟩ := ih (releaseSpare s (m / 32) (m % 32))
    refine ⟨(NoNewCrumb.releaseSpare ..).trans rest, fun n h => ?_⟩
    rcases List.mem_cons.mp h with rfl | later
    · exact rest.none (crumbAt_releaseSpare ..)
    · exact gone n later

/-- The spares that hold crumb entries of table `t`. -/
def crumbSpares (s : State) (t : Nat) : List Nat := (s.dies.spares.filter (fun p => p.2.crumb == some t)).map (fun p => p.1)

theorem mapGet_pair {α : Type} {m : NMap α} {k : Nat} {v : α} (h : mapGet m k = some v) : (k, v) ∈ m := by
  induction m with
  | nil => exact nomatch h
  | cons p m ih =>
    unfold mapGet at h
    split at h
    next same =>
      obtain ⟨j, w⟩ := p
      cases h
      exact same ▸ List.mem_cons_self
    next other => exact List.mem_cons_of_mem _ (ih h)

theorem mem_crumbSpares {s : State} {n t : Nat} (h : crumbAt s n = some t) : n ∈ crumbSpares s t := by
  unfold crumbAt mapGetD at h
  cases found : mapGet s.dies.spares n with
  | none => rw [found] at h; exact nomatch h
  | some x =>
    rw [found] at h
    exact List.mem_map.mpr ⟨(n, x), List.mem_filter.mpr ⟨mapGet_pair found, by simpa using h⟩, rfl⟩

/-- Once the spares of a table have returned, no spare holds its crumb entries. -/
theorem releaseSpares_clears (s : State) (t n : Nat) :
    crumbAt ((crumbSpares s t).foldl (fun s n => releaseSpare s (n / 32) (n % 32)) s) n ≠ some t := by
  intro still
  obtain ⟨kept, gone⟩ := releaseSpares_spec (crumbSpares s t) s
  rcases kept.crumb n with same | none
  · rw [gone n (mem_crumbSpares (same.symm.trans still))] at still
    exact nomatch still
  · rw [none] at still
    exact nomatch still

theorem crumbRelease_eq {s : State} {t e : Nat} (asked : mapGet s.stage.release t = some e)
    (late : (∀ h ∈ s.holds, e ≤ h.t0) ∨ e + 40000 ≤ s.now) : crumbRelease s t =
    { (crumbSpares s t).foldl (fun s n => releaseSpare s (n / 32) (n % 32)) s with stage := { s.stage with
      crumb := s.stage.crumb.filter (fun c => c.1 != t), release := mapErase s.stage.release t } } := by
  obtain ⟨kept, -⟩ := releaseSpares_spec (crumbSpares s t) s
  unfold crumbRelease
  rw [asked]
  dsimp only
  have ready : (s.holds.any (fun h => decide (h.t0 < e)) && decide (s.now < e + 40000)) = false := by
    rcases late with answered | past
    · simp only [Bool.and_eq_false_iff, List.any_eq_false, decide_eq_true_eq]
      exact .inl fun h hh => by have := answered h hh; omega
    · simp only [Bool.and_eq_false_iff, decide_eq_false_iff_not]
      exact .inr (by omega)
  rw [ready]
  have stage : ((crumbSpares s t).foldl (fun s n => releaseSpare s (n / 32) (n % 32)) s).stage = s.stage := by rw [kept.frame]
  exact congrArg (fun g : Stage => ({ (crumbSpares s t).foldl (fun s n => releaseSpare s (n / 32) (n % 32)) s with
    stage := { g with crumb := g.crumb.filter (fun c => c.1 != t), release := mapErase g.release t } } : State)) stage

end Sys2Proof.Machine

namespace Sys2Proof.Claim

open Machine

/-- CRUMB_SPARE_RELEASE, its time come. -/
theorem crumbSpareRelease_gives {i : Instr} {s u : State} {t e : Nat} (run : exec i s = .next (crumbRelease u t))
    (asked : mapGet u.stage.release t = some e) (late : (∀ h ∈ u.holds, e ≤ h.t0) ∨ e + 40000 ≤ u.now) :
    Gives i s (fun v => (∀ d k : Nat, k < 32 → (v.spare d k).crumb ≠ some t) ∧
      v.stage.crumb = u.stage.crumb.filter (fun c => c.1 != t) ∧ mapGet v.stage.release t = none ∧
      v = { u with stage := v.stage, dies := v.dies }) := by
  rw [crumbRelease_eq asked late] at run
  refine gives_of run ⟨fun d k _ => releaseSpares_clears u t (spKey d k), rfl, by simp, ?_⟩
  rw [(releaseSpares_spec (crumbSpares u t) u).1.frame]

/-- The loss of a die's memories or of the configuration: FAULTSAFE with its cause. -/
theorem faultsafeEntry_gives {i : Instr} {s u : State} {b d : Nat} (run : exec i s = .next (enterFs u b d)) (low : b < 5)
    (up : u.stage.stage ≠ 0) : Gives i s (fun v => v.stage.stage = 4 ∧ bit v.stage.fsCause b = true ∧
      (b = 0 → d < 4 → bit v.stage.fsDie d = true) ∧ (u.stage.stage ≠ 4 → Flagged v evStgChange) ∧
      v = { u with stage := v.stage, regs := v.regs, mgmt := v.mgmt, out := v.out }) := by
  refine gives_of run ⟨enterFs_up _ _ _ up, ?_, ?_, enterFs_flags b d up, enterFs_frame ..⟩
  · rw [enterFs_cause]
    exact bit_or_pow _ low
  · rintro rfl four
    rw [enterFs_die]
    exact bit_or_pow _ four

/-- The loss of the activity store: the cache forgets, a running checkpoint ends, FAULTSAFE. -/
theorem storeLost_gives {i : Instr} {s u : State} (run : exec i s = .next (enterFs (cacheLost (dropCkpt u)) 1 0)) (up : u.stage.stage ≠ 0) :
    Gives i s (fun v => v.stage.stage = 4 ∧ bit v.stage.fsCause 1 = true ∧ v.cache.lines = [] ∧
      v.cache.victim = [] ∧ v.vault = { u.vault with ckpt := none } ∧
      (∀ k : Ckpt, u.vault.ckpt = some k → ∀ d ∈ v.cmds, d.id ∈ k.cmds → d.st = .finished ∧ d.status = stAborted) ∧
      v = { u with cmds := v.cmds, vault := v.vault, stage := v.stage, cache := v.cache, regs := v.regs, mgmt := v.mgmt, out := v.out }) := by
  obtain ⟨w, hw⟩ : ∃ w, w = cacheLost (dropCkpt u) := ⟨_, rfl⟩
  obtain ⟨dropped, ended⟩ := dropCkpt_spec u
  have lost := cacheLost_frame (dropCkpt u)
  rw [← hw] at run lost
  have cmds : w.cmds = (dropCkpt u).cmds := by rw [lost]
  have stage : w.stage = u.stage := by rw [lost, dropped]
  have vault : w.vault = { u.vault with ckpt := none } := by rw [lost, dropped]
  have enters := enterFs_frame w 1 0
  refine gives_of run ⟨enterFs_up _ _ _ (by rw [stage]; exact up), ?_, ?_, ?_, ?_, fun k hk d hd mem => ?_, ?_⟩
  · rw [enterFs_cause]
    exact bit_or_pow _ (by decide)
  · rw [enters, hw]; rfl
  · rw [enters, hw]; rfl
  · rw [enters]; exact vault
  · rw [enters] at hd
    exact ended k hk _ mem d (cmds ▸ hd) rfl
  · rw [enters, lost, dropped]

end Sys2Proof.Claim
end

section
/-! PROOFS. The restore of a table (part of O52). -/

namespace Sys2Proof.Machine

/-! ### One row -/

/-- `t` is `s` but for the dies. -/
def DiesOnly (s t : State) : Prop := t = { s with dies := t.dies }

theorem DiesOnly.refl (s : State) : DiesOnly s s := rfl

theorem DiesOnly.trans {a b c : State} (h : DiesOnly a b) (g : DiesOnly b c) : DiesOnly a c := by
  unfold DiesOnly at h g ⊢
  rw [g, h]

theorem DiesOnly.of_pair {α : Type} {s v : State} {c : α × State} {a : α} (h : DiesOnly s c.2) (is : c = (a, v)) : DiesOnly s v := by
  rw [is] at h
  exact h

theorem DiesOnly.snd_ite {α : Type} {p : Prop} [Decidable p] {s : State} {c d : α × State} (h : DiesOnly s c.2) (g : DiesOnly s d.2) :
    DiesOnly s (if p then c else d).2 := by
  split <;> assumption

theorem allocPos_dies (s : State) (d w : Nat) (avoid : List Nat) : DiesOnly s (allocPos s d w avoid).2 := rfl

theorem allocReps_dies (s : State) (w : Nat) (l : List BlkHold) (avoid : List Nat) : DiesOnly s (allocReps s w l avoid).2 := by
  induction l generalizing s avoid with
  | nil => exact .refl s
  | cons h l ih =>
    unfold allocReps
    split
    next none => exact (allocPos_dies s h.die w avoid).of_pair none
    next p q some =>
      have first : DiesOnly s q := (allocPos_dies s h.die w avoid).of_pair some
      split
      next none => exact first.trans ((ih q _).of_pair none)
      next some => exact first.trans ((ih q _).of_pair some)

/-- `v` is `s` with rows added to table `t` that hold the data of `l`, wherever they lie; stores and dies move with them. -/
structure RowsAdded (t : Nat) (l : List Row) (s v : State) : Prop where
  frame : v = { s with tables := v.tables, dies := v.dies, act := v.act, cache := v.cache, free := v.free }
  others : Claim.OtherTables s v t
  rows : ∀ y, s.table t = some y → ∃ m : List Row, m.map Claim.rowData = l.map Claim.rowData ∧ v.table t = some { y with rows := y.rows ++ m }

namespace RowsAdded

variable {t : Nat}

theorem none {s v : State} (h : v = { s with tables := s.tables, dies := v.dies, act := v.act, cache := v.cache, free := v.free }) :
    RowsAdded t [] s v := by
  have tables : v.tables = s.tables := by rw [h]
  refine ⟨by rw [tables]; exact h, fun q _ => table_of_tables tables q, fun y here => ⟨[], rfl, ?_⟩⟩
  rw [table_of_tables tables, here, List.append_nil]

theorem trans {l m : List Row} {a b c : State} (h : RowsAdded t l a b) (g : RowsAdded t m b c) : RowsAdded t (l ++ m) a c where
  frame := by rw [g.frame, h.frame]
  others q ne := (g.others q ne).trans (h.others q ne)
  rows y here := by
    obtain ⟨l', hl, mid⟩ := h.rows y here
    obtain ⟨m', hm, last⟩ := g.rows _ mid
    exact ⟨l' ++ m', by rw [List.map_append, List.map_append, hl, hm], by rw [last, List.append_assoc]⟩

theorem dies {s v : State} (h : DiesOnly s v) : RowsAdded t [] s v := none (by rw [h])

/-- A row with other positions. -/
theorem placed (s : State) (r : Row) (p : Nat) (reps : List (Nat × Nat)) :
    RowsAdded t [r] s (s.modTable t (fun x => { x with rows := x.rows ++ [{ r with pos := p, reps := reps }] })) where
  frame := by apply State.same_fields <;> simp
  others q ne := table_modTable_ne s _ ne
  rows y here := ⟨[{ r with pos := p, reps := reps }], rfl, table_modTable_same _ here⟩

theorem restoreRow (s : State) (k : Nat) (base : Option TableImg) (r : Row) : RowsAdded t [r] s (restoreRow s k t base r) := by
  unfold Machine.restoreRow
  dsimp only
  generalize hc : (if (_ && _) = true then _ else _ : Nat × State) = c
  have first : DiesOnly s c.2 := by
    rw [← hc]
    refine .snd_ite ?_ (.refl s)
    split
    next some => exact (allocPos_dies s _ _ _).of_pair some
    next none => exact (allocPos_dies s _ _ _).of_pair none
  clear hc
  obtain ⟨p, q⟩ := c
  dsimp only at first ⊢
  generalize hd : (if (_ || _) = true then _ else _ : List (Nat × Nat) × State) = d
  have second : DiesOnly q d.2 := by
    rw [← hd]
    refine .snd_ite (.refl q) ?_
    split
    next some => exact (allocReps_dies q _ _ _).of_pair some
    next none => exact (allocReps_dies q _ _ _).of_pair none
  clear hd
  obtain ⟨reps, z⟩ := d
  dsimp only at second ⊢
  have placed := (dies (t := t) (first.trans second)).trans (placed z r p reps)
  generalize z.modTable t _ = w at placed ⊢
  split
  · exact placed.trans (none rfl)
  · exact placed.trans (none rfl)

theorem foldl_restoreRow (k : Nat) (base : Option TableImg) (l : List Row) (s : State) :
    RowsAdded t l s (l.foldl (fun s r => Machine.restoreRow s k t base r) s) := by
  induction l generalizing s with
  | nil => exact none rfl
  | cons r l ih => exact (restoreRow s k base r).trans (ih _)

end RowsAdded

theorem addMirrors_dies (n : Nat) (s : State) (d b : Nat) (auto built : Bool) : DiesOnly s (addMirrors s d b auto built n).2 := by
  induction n generalizing s with
  | zero => exact .refl s
  | succ n ih =>
    unfold addMirrors
    split
    · exact .refl s
    next k found =>
      exact DiesOnly.trans (b := s.setSpare d k { Spare.free with use := 1, auto := auto, primary := b, built := built }) rfl (ih _)

theorem restoreMirrors_dies (s : State) (l : List (Nat × Nat × Nat)) : DiesOnly s (restoreMirrors s l) :=
  foldl_rel (R := DiesOnly) (f := fun s (m : Nat × Nat × Nat) => (addMirrors s m.1 m.2.1 false true m.2.2).2) .refl .trans
    (fun q m => addMirrors_dies ..) l s

/-- The table that the rows of an image are restored to: verified, all that was in effect SEALED for the promotion. -/
structure Emptied (x y : Table) : Prop where
  restored : y.restored = true
  st : y.st = x.st
  kind : y.kind = x.kind
  rows : y.rows = []

/-- What a restore leaves as it was. -/
structure RestoreKeeps (s v : State) : Prop where
  mem : v.mem = s.mem
  cmds : v.cmds = s.cmds
  epoch : v.epoch = s.epoch
  vault : v.vault = s.vault

theorem restoreFrom_spec (s : State) (k t : Nat) (x : Table) (i : TableImg) : RestoreKeeps s (restoreFrom s k t x i) ∧
    ∃ (y : Table) (a b : State), Emptied x y ∧ a.tables = s.tables ∧ RowsAdded t (Claim.restoredRows i) (a.setTable t y) b ∧
      (restoreFrom s k t x i).tables = b.tables := by
  unfold restoreFrom
  dsimp only
  generalize hq : askDram _ _ _ _ _ _ = q
  have asked : q.mem = s.mem ∧ q.cmds = s.cmds ∧ q.epoch = s.epoch ∧ q.vault = s.vault ∧ q.tables = s.tables := by
    rw [← hq, askDram_asks]
    exact ⟨rfl, rfl, rfl, rfl, rfl⟩
  clear hq
  obtain ⟨mem, cmds, epoch, vault, tables⟩ := asked
  generalize hw : List.foldl (fun z r => restoreRow z k t (baseImg s k t) r) _ _ = w
  have filled : ∃ y, RowsAdded t (Claim.restoredRows i) ({ q with seals := s.seals + 1, tables := mapSet q.tables t y } : State) w ∧ Emptied x y := by
    rw [← hw]
    exact ⟨_, RowsAdded.foldl_restoreRow .., rfl, rfl, rfl, rfl⟩
  clear hw
  obtain ⟨y, added, emptied⟩ := filled
  obtain ⟨a, ha⟩ : ∃ a : State, a = { q with seals := s.seals + 1 } := ⟨_, rfl⟩
  replace added : RowsAdded t (Claim.restoredRows i) (a.setTable t y) w := by rw [ha]; exact added
  generalize hm : restoreMirrors w _ = m
  have mirrored : DiesOnly w m := hm ▸ restoreMirrors_dies ..
  clear hm
  generalize hd : (if x.kind ≠ .direct then m else _ : State) = d
  have worded : d = { m with direct := d.direct } := by
    rw [← hd]
    split <;> rfl
  clear hd
  have same : ∀ v : State, v = { d with regs := v.regs, mgmt := v.mgmt, out := v.out } → RestoreKeeps s v ∧
      ∃ (y : Table) (a b : State), Emptied x y ∧ a.tables = s.tables ∧ RowsAdded t (Claim.restoredRows i) (a.setTable t y) b ∧
      v.tables = b.tables := by
    intro v hv
    have keeps : v.mem = a.mem ∧ v.cmds = a.cmds ∧ v.epoch = a.epoch ∧ v.vault = a.vault ∧ v.tables = w.tables := by
      rw [hv, worded, mirrored, added.frame]
      exact ⟨rfl, rfl, rfl, rfl, rfl⟩
    obtain ⟨hmem, hcmds, hepoch, hvault, htables⟩ := keeps
    refine ⟨⟨?_, ?_, ?_, ?_⟩, y, a, w, emptied, ?_, added, htables⟩
    · rw [hmem, ha, ← mem]
    · rw [hcmds, ha, ← cmds]
    · rw [hepoch, ha, ← epoch]
    · rw [hvault, ha, ← vault]
    · rw [ha, ← tables]
  split
  · exact same _ (by apply State.same_fields <;> simp)
  · exact same d rfl

theorem restoreDone_eq {s : State} {t : Nat} {x : Table} (cur : curTable s = t) (one : t ≠ 255) (here : s.table t = some x) (a b : Bool) :
    restoreDone s a b = match (restoreSource s t a b).bind (fun k => (lastImg t (baseImg s k t) (replayed s k t)).map (fun i => (k, i))) with
      | some (k, i) => restoreFrom s k t x i
      | none => (s.modTable t (fun x => { x with restoreFail := true })).raise evStgRestoreFail t := by
  subst cur
  unfold restoreDone
  dsimp only
  rw [here]
  dsimp only
  rw [if_neg one] <;> rfl

end Sys2Proof.Machine

namespace Sys2Proof.Claim

open Machine

/-- TABLE_RESTORE_DONE of a table of which no image or journal passes its checks. -/
theorem restoreFails_gives {i : Instr} {s u : State} {a b : Bool} {t : Nat} {x : Table} (run : exec i s = .next (restoreDone u a b))
    (cur : curTable u = t) (one : t ≠ 255) (here : u.table t = some x) (bad : restoreSource u t a b = none) :
    Gives i s (fun v => v.table t = some { x with restoreFail := true } ∧ Flagged v evStgRestoreFail ∧
      OtherTables u v t ∧ v = { u with tables := v.tables, regs := v.regs, mgmt := v.mgmt, out := v.out }) := by
  rw [restoreDone_eq cur one here, bad] at run
  refine gives_of run ⟨?_, raise_flags _ _ _ _ _ (by decide), fun q other => ?_, ?_⟩
  · exact (table_of_tables (State.raise_tables ..) t).trans (table_modTable_same _ here)
  · exact (table_of_tables (State.raise_tables ..) q).trans (table_modTable_ne u _ other)
  · apply State.same_fields <;> simp

/-- TABLE_RESTORE_DONE of a table that an image or the journal gives. -/
theorem restores_gives {j : Instr} {s u : State} {a b : Bool} {t k : Nat} {x : Table} {i : TableImg} (run : exec j s = .next (restoreDone u a b))
    (cur : curTable u = t) (one : t ≠ 255) (here : u.table t = some x) (source : restoreSource u t a b = some k)
    (img : lastImg t (baseImg u k t) (replayed u k t) = some i) :
    Gives j s (fun v => OtherTables u v t ∧ v.mem = u.mem ∧ v.cmds = u.cmds ∧ v.epoch = u.epoch ∧ v.vault = u.vault ∧
      ∃ y, v.table t = some y ∧ y.restored = true ∧ y.st = x.st ∧ y.kind = x.kind ∧
        y.rows.map rowData = (restoredRows i).map rowData) := by
  rw [restoreDone_eq cur one here, source, Option.bind_some, img] at run
  change exec j s = .next (restoreFrom u k t x i) at run
  obtain ⟨keeps, y, c, d, emptied, tables, added, left⟩ := restoreFrom_spec u k t x i
  obtain ⟨m, data, last⟩ := added.rows y (table_setTable_same ..)
  refine gives_of run ⟨fun q other => ?_, keeps.mem, keeps.cmds, keeps.epoch, keeps.vault, _, (table_of_tables left t).trans last,
    emptied.restored, emptied.st, emptied.kind, ?_⟩
  · rw [table_of_tables left, added.others q other, table_setTable_ne _ _ other, table_of_tables tables]
  · rw [emptied.rows]
    exact data

end Sys2Proof.Claim
end

section
/-! PROOFS. Promotion of a verified table (part of O52). -/

namespace Sys2Proof.Machine

/-! ### What a promotion tells and records -/

/-- `t` is `s` after what follows a promotion: events, a journal record, commands that end, a change of stage. -/
structure StageNotes (s t : State) : Prop where
  frame : t = { s with dies := t.dies, vault := t.vault, cmds := t.cmds, links := t.links, stage := t.stage, regs := t.regs, mgmt := t.mgmt
                       out := t.out, free := t.free }
  live : ∀ a, calm a = true → t.live a = s.live a
  flags : ∀ n i, n < 44 → bit (s.live (0x20000 + n * 4)) i = true → bit (t.live (0x20000 + n * 4)) i = true

namespace StageNotes

theorem refl (s : State) : StageNotes s s := ⟨rfl, fun _ _ => rfl, fun _ _ _ h => h⟩

theorem trans {a b c : State} (h : StageNotes a b) (g : StageNotes b c) : StageNotes a c where
  frame := by rw [g.frame, h.frame]
  live r calm := (g.live r calm).trans (h.live r calm)
  flags n i low f := g.flags n i low (h.flags n i low f)

theorem tells {s t : State} (h : Tells s t) : StageNotes s t where
  frame := by rw [h.frame]
  live := h.live
  flags := h.flags

theorem stageRec (s : State) (y t : Nat) (c : Option Nat) (b : JBody) : StageNotes s (stageRec s y t c b) where
  frame := by rw [stageRec_rest]
  live r calm := stageRec_live s y t c b (calm_iff.mp calm).1
  flags _ _ low f := stageRec_keeps_flag s y t c b low f

theorem finishWaiting (s : State) (p : Wait → Bool) (handle : Nat → Nat) (vis : Nat) (held : Bool) :
    StageNotes s (finishWaiting s p stOk handle vis held) := by
  have cmds : Machine.finishWaiting s p stOk handle vis held = { s with cmds := (Machine.finishWaiting s p stOk handle vis held).cmds } := by
    unfold Machine.finishWaiting
    refine foldl_keep (P := fun t : State => t = { s with cmds := t.cmds }) _ (fun t c ht => ?_) _ _ rfl
    split
    · split
      · rw [finishAs_plain _ _ _ _ _ _ (by decide), ht]
      · exact ht
    · exact ht
  rw [cmds]
  exact ⟨rfl, fun _ _ => rfl, fun _ _ _ h => h⟩

theorem withStage (s : State) (g : Stage) : StageNotes s { s with stage := g } := ⟨rfl, fun _ _ => rfl, fun _ _ _ h => h⟩

theorem stageTo (s : State) (n : Nat) : StageNotes s (stageTo s n) := by
  unfold Machine.stageTo
  dsimp only
  split
  · exact refl s
  · exact (withStage s _).trans (tells (.raise _ _ _ _ _ (by decide)))

theorem fullWhenDone (s : State) : StageNotes s (fullWhenDone s) := by
  unfold Machine.fullWhenDone
  split
  · exact (withStage s _).trans (stageTo ..)
  · exact refl s

/-- An event told of stays told of. -/
theorem flagged {s t : State} {e : Ev} (h : StageNotes s t) (low : e.src < 704) (f : Claim.Flagged s e) : Claim.Flagged t e :=
  h.flags _ _ (by omega) f

end StageNotes

/-! ### The promoted table -/

/-- Table `x` promoted at the step to epoch `e`. -/
def Table.promoted (x : Table) (e : Epoch) : Table :=
  let k := (effectSlot x).getD 0
  { x with
    st := .live
    slots := if x.kind = .direct then List.replicate 4 Slot.empty
      else listMod x.slots k (fun y => { y with st := .live, epoch := e.count, by_ := .promotion })
    floor := e.count, glazed := e.count, glazedHeld := e.held, restored := false }

/-- The slot whose contents take effect is one of the slots. -/
theorem effectSlot_listed {x : Table} {k : Nat} (h : effectSlot x = some k) : k < x.slots.length := by
  refine slot_listed fun free => ?_
  unfold effectSlot at h
  split at h
  next live =>
    cases h
    rw [(liveSlot_spec live).2] at free
    exact nomatch free
  next =>
    have sealed := List.find?_some h
    simp only [Bool.and_eq_true, beq_iff_eq] at sealed
    rw [sealed.1] at free
    exact nomatch free

theorem promoted_slot {x : Table} {k : Nat} (e : Epoch) (kind : x.kind ≠ .direct) (h : effectSlot x = some k) :
    ((x.promoted e).slot k).st = .live ∧ ((x.promoted e).slot k).epoch = e.count := by
  have at_ : (x.promoted e).slot k = { x.slot k with st := .live, epoch := e.count, by_ := .promotion } := by
    have slots : (x.promoted e).slots = listMod x.slots k (fun y => { y with st := .live, epoch := e.count, by_ := .promotion }) := by
      unfold Table.promoted
      rw [h]
      exact if_neg kind
    have low := effectSlot_listed h
    unfold Table.slot
    rw [slots]
    exact (getD_listMod _ _ _ _ _ low).trans (if_pos rfl)
  rw [at_]
  exact ⟨rfl, rfl⟩

/-- What follows a promotion at the step to epoch `n`: its event, its record, the commands that waited for seal `no`, the stage. -/
def promotionTold (r : State) (t no n : Nat) : State :=
  let h := heldAction (r.raise evStgPromote t n) 5 t
  let w := stageRec h 0x21 t none (tableBody h t)
  fullWhenDone (finishWaiting w (fun w => w == .glaze t no) stOk (fun _ => 0xFFFFFFFF) n w.epoch.held)

theorem promotionTold_notes (r : State) (t no n : Nat) : StageNotes r (promotionTold r t no n) ∧ Claim.Flagged (promotionTold r t no n) evStgPromote := by
  unfold promotionTold
  dsimp only
  have told := Tells.heldAction (r.raise evStgPromote t n) 5 t
  have flag : Claim.Flagged (r.raise evStgPromote t n) evStgPromote := raise_flags _ _ _ _ _ (by decide)
  generalize heldAction (r.raise evStgPromote t n) 5 t = h at told ⊢
  have rest := (StageNotes.tells told).trans ((StageNotes.stageRec h 0x21 t none (tableBody h t)).trans
    ((StageNotes.finishWaiting _ (fun w => w == .glaze t no) (fun _ => 0xFFFFFFFF) n (stageRec h 0x21 t none (tableBody h t)).epoch.held).trans
      (.fullWhenDone _)))
  exact ⟨(StageNotes.tells (.raise _ _ _ _ _ (by decide))).trans rest, rest.flagged (by decide) flag⟩

theorem promoteTable_eq {s : State} {t : Nat} {x : Table} (here : s.table t = some x) (due : promoteDue s x = true) :
    ∃ g no, promoteTable s t = promotionTold (({ s.setTable t (x.promoted s.epoch) with stage := g } : State).bump 0x88000) t no s.epoch.count := by
  unfold promoteTable
  rw [here]
  dsimp only
  rw [due, if_neg (by decide)]
  exact ⟨{ s.stage with release := if s.stage.crumb.any (fun c => c.1 == t) then mapSet s.stage.release t s.now else s.stage.release },
    (x.slot ((effectSlot x).getD 0)).sealNo, rfl⟩

theorem promoteTable_spec {s : State} {t : Nat} {x : Table} (here : s.table t = some x) (due : promoteDue s x = true) :
    ∃ b : State, b = ({ s.setTable t (x.promoted s.epoch) with stage := b.stage } : State) ∧
      StageNotes (b.bump 0x88000) (promoteTable s t) ∧ Claim.Flagged (promoteTable s t) evStgPromote := by
  obtain ⟨g, no, eq⟩ := promoteTable_eq here due
  rw [eq]
  exact ⟨_, rfl, promotionTold_notes _ t no s.epoch.count⟩

end Sys2Proof.Machine

namespace Sys2Proof.Claim

open Machine

/-- STG_PROMOTE of a table that is due. -/
theorem stgPromote_gives {i : Instr} {s : State} {t : Nat} {x : Table} {l : List Due}
    (run : exec i s = .next (settle_ (dueUpTo (fun d => d == .promote t) s))) (now : DueNow s (fun d => d == .promote t) (.promote t) l)
    (here : s.table t = some x) (due : promoteDue s x = true) : Gives i s (fun v => v.due = l ∧ OtherTables s v t ∧ Counts s v 0x88000 ∧
      Flagged v evStgPromote ∧ v.mem = s.mem ∧ v.epoch = s.epoch ∧
      ∃ y, v.table t = some y ∧ y.st = .live ∧ y.floor = s.epoch.count ∧ y.glazed = s.epoch.count ∧ y.restored = false ∧
        y.rows = x.rows ∧ (∀ k : Nat, x.kind ≠ .direct → effectSlot x = some k →
          (y.slot k).st = .live ∧ (y.slot k).epoch = s.epoch.count)) := by
  obtain ⟨a, ha⟩ : ∃ a : State, a = { s with due := [] } := ⟨_, rfl⟩
  have same : a.epoch = s.epoch ∧ a.mem = s.mem ∧ a.tables = s.tables ∧ a.regs = s.regs ∧ a.due = [] := by rw [ha]; exact ⟨rfl, rfl, rfl, rfl, rfl⟩
  obtain ⟨epoch, mem, tables, regs, none⟩ := same
  obtain ⟨b, hb, notes, flag⟩ := promoteTable_spec (s := a) (t := t) (x := x) ((table_of_tables tables t).trans here)
    (by unfold promoteDue at due ⊢; rw [epoch]; exact due)
  have left : (promoteTable a t).due = [] ∧ (promoteTable a t).mem = s.mem ∧ (promoteTable a t).epoch = s.epoch ∧
      (promoteTable a t).tables = (a.setTable t (x.promoted a.epoch)).tables := by
    rw [notes.frame]
    simp only [State.bump_due, State.bump_mem, State.bump_epoch, State.bump_tables]
    rw [hb]
    exact ⟨none, mem, epoch, rfl⟩
  obtain ⟨hdue, hmem, hepoch, htables⟩ := left
  obtain ⟨v, run, told⟩ := gives_due run now (show _ = promoteTable a t by rw [ha]; rfl) hdue
  have after : v.due = l ∧ v.mem = (promoteTable a t).mem ∧ v.epoch = (promoteTable a t).epoch ∧ v.tables = (promoteTable a t).tables := by
    rw [told.frame]; exact ⟨rfl, rfl, rfl, rfl⟩
  obtain ⟨vdue, vmem, vepoch, vtables⟩ := after
  have at_ : ∀ q, v.table q = (a.setTable t (x.promoted a.epoch)).table q := table_of_tables (vtables.trans htables)
  refine ⟨v, run, vdue, fun q other => ?_, ?_, told.flagged (by decide) flag, vmem.trans hmem, vepoch.trans hepoch,
    x.promoted a.epoch, (at_ t).trans (table_setTable_same ..), ?_⟩
  · rw [at_ q, table_setTable_ne _ _ other, table_of_tables tables]
  · refine Counts.of_live (counts_bump b 0x88000) ?_ ?_
    · rw [hb]
      exact live_of_regs (congrArg Regs.live regs) _
    · rw [told.live _ (by decide)]
      exact notes.live _ (by decide)
  · rw [epoch]
    exact ⟨rfl, rfl, rfl, rfl, rfl, fun k kind slot => promoted_slot _ kind slot⟩

end Sys2Proof.Claim
end

section
/-! PROOFS. The end of DORMANT: mount, configuration, crumb table, CRUMB (O52). -/

namespace Sys2Proof.Machine

/-! ### What a configuration image loads -/

/-- `t` is `s` but for what a configuration image holds besides tables, and for what tells of it. -/
def Loads (s t : State) : Prop :=
  t = { s with dies := t.dies, regs := t.regs, spk := t.spk, csc := t.csc, links := t.links, mgmt := t.mgmt, out := t.out }

namespace Loads

theorem refl (s : State) : Loads s s := rfl

theorem trans {a b c : State} (h : Loads a b) (g : Loads b c) : Loads a c := by
  unfold Loads at h g ⊢
  rw [g, h]

theorem foldl {α : Type} {f : State → α → State} (each : ∀ s a, Loads s (f s a)) (l : List α) (s : State) : Loads s (l.foldl f s) :=
  foldl_rel (R := Loads) refl trans each l s

theorem raise (s : State) (e : Ev) (a b c : Nat) : Loads s (s.raise e a b c) := by
  unfold Loads
  apply State.same_fields <;> simp

theorem chainBreak (s : State) : Loads s (chainBreak s) := by
  unfold Loads
  rw [chainBreak_frame]

theorem cscApplied (s : State) (was : Bool) : Loads s (cscApplied s was) := by
  unfold Machine.cscApplied
  dsimp only
  split
  · rfl
  · split
    · rfl
    · split
      · exact chainBreak s
      · exact refl s

theorem linkDown (s : State) (p : Nat) : Loads s (linkDown s p) := by
  unfold Loads
  rw [linkDown_frame]

theorem closePorts (s : State) : Loads s (closePorts s) := by
  unfold Machine.closePorts
  refine foldl ?_ _ s
  intro q p
  split
  · exact linkDown q p
  · exact refl q

theorem tellLongRun (s : State) (i : Nat) : Loads s (tellLongRun s i) := by
  unfold Loads
  obtain ⟨-, frame, -⟩ := Claim.tellLongRun_spec s i
  rw [frame]

theorem putAttrs (s : State) (t : Nat) (l : List (Nat × Word)) : Loads s (putAttrs s t l) := by
  unfold Machine.putAttrs
  exact foldl (by intro q p; rfl) l s

theorem holdBlocks (s : State) (t : Nat) (l : List BlkHold) : Loads s (holdBlocks s t l) := by
  unfold Machine.holdBlocks
  refine foldl ?_ l s
  intro q h
  dsimp only
  split
  · rfl
  · split <;> rfl

theorem tables {s t : State} (h : Loads s t) : t.tables = s.tables := by rw [h]

end Loads

/-- Table `t` is in PROOFING and not restored. -/
def InProofing (s : State) (t : Nat) : Prop := ∃ y, s.table t = some y ∧ y.st = .proofing ∧ y.restored = false

theorem InProofing.of_loads {s v : State} {t : Nat} (h : InProofing s t) (loads : Loads s v) : InProofing v t := by
  obtain ⟨y, here, rest⟩ := h
  exact ⟨y, (table_of_tables loads.tables t).trans here, rest⟩

theorem mountTable_loads (s : State) (t : Nat) {i : TableImg} (kept : i.tab.st ≠ .destroying) :
    Loads (s.setTable t (Table.proofing i)) (mountTable s t i) := by
  unfold mountTable
  rw [if_neg kept]
  exact (Loads.putAttrs ..).trans (.holdBlocks ..)

theorem mountTable_same (s : State) (t : Nat) {i : TableImg} (kept : i.tab.st ≠ .destroying) : InProofing (mountTable s t i) t :=
  InProofing.of_loads ⟨_, table_setTable_same .., rfl, rfl⟩ (mountTable_loads s t kept)

theorem mountTable_keeps {s : State} {q : Nat} (t : Nat) (i : TableImg) (h : InProofing s q) : InProofing (mountTable s t i) q := by
  by_cases gone : i.tab.st = .destroying
  · unfold mountTable
    rw [if_pos gone]
    exact h
  · by_cases same : q = t
    · exact same ▸ mountTable_same s t gone
    · obtain ⟨y, here, rest⟩ := h
      exact InProofing.of_loads ⟨y, (table_setTable_ne s _ same).trans here, rest⟩ (mountTable_loads s t gone)

/-- `t` is `s` but for its tables and for what a configuration image loads. -/
def LoadsTables (s t : State) : Prop := Loads { s with tables := t.tables } t

theorem LoadsTables.refl (s : State) : LoadsTables s s := Loads.refl s

theorem LoadsTables.trans {a b c : State} (h : LoadsTables a b) (g : LoadsTables b c) : LoadsTables a c := by
  unfold LoadsTables Loads at h g ⊢
  rw [g, h]

theorem LoadsTables.of_loads {s t : State} (h : Loads s t) : LoadsTables s t := by
  unfold LoadsTables
  rw [h.tables]
  exact h

theorem mountTable_loadsTables (s : State) (t : Nat) (i : TableImg) : LoadsTables s (mountTable s t i) := by
  by_cases gone : i.tab.st = .destroying
  · unfold mountTable
    rw [if_pos gone]
    exact .refl s
  · exact LoadsTables.trans (b := s.setTable t (Table.proofing i)) rfl (.of_loads (mountTable_loads s t gone))

theorem mountTables_proof (l : List (Nat × TableImg)) (s : State) {q : Nat}
    (h : InProofing s q ∨ ∃ p ∈ l, p.1 = q ∧ p.2.tab.st ≠ .destroying) : InProofing (l.foldl (fun s p => mountTable s p.1 p.2) s) q := by
  induction l generalizing s with
  | nil => exact h.elim id fun ⟨p, mem, _⟩ => nomatch mem
  | cons p l ih =>
    refine ih _ ?_
    rcases h with before | ⟨r, mem, at_, kept⟩
    · exact .inl (mountTable_keeps _ _ before)
    · rcases List.mem_cons.mp mem with rfl | later
      · exact .inl (at_ ▸ mountTable_same s r.1 kept)
      · exact .inr ⟨r, later, at_, kept⟩

theorem loadConfig_spec (s : State) (c : CfgImg) : LoadsTables s (loadConfig s c) ∧
    ∀ p ∈ c.tables, p.2.tab.st ≠ .destroying → InProofing (loadConfig s c) p.1 := by
  unfold loadConfig
  dsimp only
  generalize ha : List.foldl _ ({ s with spk := _ } : State) c.retired = a
  have one : Loads s a := by
    rw [← ha]
    refine Loads.trans (b := { s with spk := { s.spk with retired := c.retired } }) rfl (.foldl (fun q p => ?_) _ _)
    split <;> rfl
  generalize hb : c.tables.foldl (fun s p => mountTable s p.1 p.2) a = b
  have two : LoadsTables a b := hb ▸ foldl_rel (R := LoadsTables) (f := fun s (p : Nat × TableImg) => mountTable s p.1 p.2) .refl .trans
    (fun q p => mountTable_loadsTables q p.1 p.2) c.tables a
  have proof : ∀ p ∈ c.tables, p.2.tab.st ≠ .destroying → InProofing b p.1 :=
    fun p mem kept => hb ▸ mountTables_proof c.tables a (.inr ⟨p, mem, rfl, kept⟩)
  generalize hd : List.foldl (fun s (p : Nat × Word) => restoreWord s p.1 p.2) b _ = d
  have three : Loads b d := by
    rw [← hd]
    exact .foldl (by intro q p; rfl) _ _
  generalize hf : List.foldl tellLongRun _ _ = f
  have four : Loads d f := by
    rw [← hf]
    exact Loads.trans (b := { d with regs := { d.regs with nominalPend := _ } }) rfl (.foldl Loads.tellLongRun _ _)
  have last := three.trans (four.trans ((Loads.cscApplied f false).trans (Loads.closePorts _)))
  exact ⟨(LoadsTables.of_loads one).trans (two.trans (.of_loads last)), fun p mem kept => (proof p mem kept).of_loads last⟩

/-! ### Repaired headers and the crumb table -/

/-- `t` is `s` after headers were repaired and the crumb table was placed: events, spares, the crumb entries. -/
structure CrumbsSet (s t : State) : Prop where
  frame : t = { s with dies := t.dies, regs := t.regs, mgmt := t.mgmt, out := t.out, free := t.free
                       stage := { s.stage with crumb := t.stage.crumb, crumbOk := t.stage.crumbOk } }
  flags : ∀ n i, n < 44 → bit (s.live (0x20000 + n * 4)) i = true → bit (t.live (0x20000 + n * 4)) i = true

namespace CrumbsSet

theorem refl (s : State) : CrumbsSet s s := ⟨rfl, fun _ _ _ h => h⟩

theorem trans {a b c : State} (h : CrumbsSet a b) (g : CrumbsSet b c) : CrumbsSet a c where
  frame := by rw [g.frame, h.frame]
  flags n i low f := g.flags n i low (h.flags n i low f)

theorem raise (s : State) (e : Ev) (a b c : Nat) (low : e.src < 704) : CrumbsSet s (s.raise e a b c) where
  frame := by apply State.same_fields <;> simp
  flags _ _ hn f := raise_keeps_flag _ _ _ _ _ _ _ low hn f

theorem bump (s : State) (a : Nat) (past : 0x200B0 ≤ a) : CrumbsSet s (s.bump a) where
  frame := by apply State.same_fields <;> simp
  flags n _ hn f := by rwa [live_bump_ne _ _ _ _ (by omega)]

theorem draw (s : State) : CrumbsSet s (draw s).2 := ⟨rfl, fun _ _ _ h => h⟩

theorem cxRepair (s : State) (loc : Nat) : CrumbsSet s (cxRepair s loc) :=
  (draw s).trans ((bump _ _ (by decide)).trans (raise _ _ _ _ _ (by decide)))

theorem hdrRepairs (s : State) (n : Nat) : CrumbsSet s (hdrRepairs s n) := by
  unfold Machine.hdrRepairs
  refine foldl_rel (R := CrumbsSet) refl trans ?_ _ s
  intro q i
  exact (draw q).trans ((raise _ _ _ _ _ (by decide)).trans (cxRepair _ _))

theorem loadCrumbs (s : State) (ok : Bool) : CrumbsSet s (loadCrumbs s ok) := by
  unfold Machine.loadCrumbs
  dsimp only
  split
  · exact raise _ _ _ _ _ (by decide)
  · generalize placeCrumbs s s.vault.crumb (crumbTables s.vault.crumb) (takenSpares s) = found
    obtain ⟨bad, good⟩ := found
    dsimp only
    refine CrumbsSet.trans (b := good.foldl (fun s p => s.setSpare p.2.die p.2.block { Spare.free with use := 2, built := true, crumb := some p.1 }) s) ?_ ?_
    · refine foldl_rel (R := CrumbsSet) refl trans ?_ good s
      intro q p
      exact ⟨rfl, fun _ _ _ h => h⟩
    · refine CrumbsSet.trans ⟨?_, ?_⟩ (foldl_rel (R := CrumbsSet) refl trans ?_ bad _)
      · rfl
      · exact fun _ _ _ h => h
      · intro q t
        exact raise _ _ _ _ _ (by decide)

/-- An event told of stays told of. -/
theorem flagged {s t : State} {e : Ev} (h : CrumbsSet s t) (low : e.src < 704) (f : Claim.Flagged s e) : Claim.Flagged t e :=
  h.flags _ _ (by omega) f

end CrumbsSet

/-! ### The mount -/

/-- The vault is mounted, with spare blocks enough or few, and has its media key. -/
def vaultMounted (s : State) : State :=
  { s with vault := { s.vault with
    st := if s.vault.free < 2048 then 2 else 1
    keys := if (keySlot s 0).type = 0 then s.vault.keys.set 0 { type := 1, pub := 0, gen := 0 } else s.vault.keys } }

/-- What the vault lacks as it is mounted is told of. -/
def mountTells (s : State) : State :=
  let s := if s.vault.st = 2 then s.raise evVltSpareLow else s
  match s.vault.lostTail with
  | some (a, b) => s.raise evVltTailLost a b
  | none => s

theorem mountVault_eq {s : State} (off : s.vault.st = 0) (blocks : 512 ≤ s.vault.free) (config : Bool) : mountVault s config =
    match (if config then (mountTells (vaultMounted s)).vault.cfg else none) with
    | some c => loadConfig (mountTells (vaultMounted s)) c
    | none => { mountTells (vaultMounted s) with
        stage := { (mountTells (vaultMounted s)).stage with vaultEmpty := true } }.raise evStgEmptyVault := by
  unfold mountVault
  rw [if_neg (by simp [off]), if_neg (by omega)] <;> rfl

theorem mountTells_loads (s : State) : Loads s (mountTells s) := by
  unfold mountTells
  dsimp only
  have low : Loads s (if s.vault.st = 2 then s.raise evVltSpareLow else s) := by
    split
    · exact .raise ..
    · exact .refl s
  generalize (if s.vault.st = 2 then s.raise evVltSpareLow else s) = w at low ⊢
  split
  · exact low.trans (.raise ..)
  · exact low

/-- `t` is `s` with its vault mounted: its state, and what a configuration image loads. -/
structure Mounts (s t : State) : Prop where
  frame : t = { s with tables := t.tables, dies := t.dies, regs := t.regs, spk := t.spk, csc := t.csc, links := t.links, mgmt := t.mgmt, out := t.out
                       vault := t.vault, stage := { s.stage with vaultEmpty := t.stage.vaultEmpty } }
  vault : ∃ keys, t.vault = { s.vault with st := if s.vault.free < 2048 then 2 else 1, keys := keys }

theorem Mounts.loads {s t v : State} (h : Mounts s t) (g : LoadsTables t v) : Mounts s v := by
  obtain ⟨keys, vault⟩ := h.vault
  unfold LoadsTables Loads at g
  refine ⟨?_, keys, by rw [g]; exact vault⟩
  rw [g, h.frame]

theorem Mounts.told (s : State) : Mounts s (mountTells (vaultMounted s)) :=
  Mounts.loads ⟨rfl, _, rfl⟩ (.of_loads (mountTells_loads (vaultMounted s)))

theorem Mounts.empty {s t : State} (h : Mounts s t) : Mounts s ({ t with stage := { t.stage with vaultEmpty := true } }.raise evStgEmptyVault) := by
  obtain ⟨keys, vault⟩ := h.vault
  obtain ⟨v, hv⟩ : ∃ v, v = ({ t with stage := { t.stage with vaultEmpty := true } } : State).raise evStgEmptyVault := ⟨_, rfl⟩
  have frame : v = { t with stage := { t.stage with vaultEmpty := true }, regs := v.regs, mgmt := v.mgmt, out := v.out } := by
    rw [hv]
    apply State.same_fields <;> simp
  rw [← hv]
  refine ⟨?_, keys, by rw [frame]; exact vault⟩
  rw [frame, h.frame]

theorem mountTells_cfg (s : State) : (mountTells (vaultMounted s)).vault.cfg = s.vault.cfg := by
  rw [mountTells_loads (vaultMounted s)]
  rfl

/-- Without a configuration image the vault is empty, and says so. -/
theorem mountVault_empty {s : State} (off : s.vault.st = 0) (blocks : 512 ≤ s.vault.free) {config : Bool} (none : s.vault.cfg = none ∨ config = false) :
    Mounts s (mountVault s config) ∧ (mountVault s config).stage.vaultEmpty = true ∧ Claim.Flagged (mountVault s config) evStgEmptyVault ∧
      (mountVault s config).tables = s.tables := by
  have nothing : (if config then (mountTells (vaultMounted s)).vault.cfg else Option.none) = Option.none := by
    rcases none with h | h
    · rw [mountTells_cfg, h, ite_self]
    · rw [h]; rfl
  have eq := mountVault_eq off blocks config
  rw [nothing] at eq
  rw [eq]
  exact ⟨(Mounts.told s).empty, by simp, raise_flags _ _ _ _ _ (by decide), (State.raise_tables ..).trans (mountTells_loads (vaultMounted s)).tables⟩

/-- A configuration image is loaded: its tables are in PROOFING. -/
theorem mountVault_loads {s : State} (off : s.vault.st = 0) (blocks : 512 ≤ s.vault.free) {c : CfgImg} (cfg : s.vault.cfg = some c) :
    Mounts s (mountVault s true) ∧ ∀ p ∈ c.tables, p.2.tab.st ≠ .destroying → InProofing (mountVault s true) p.1 := by
  have image : (if true then (mountTells (vaultMounted s)).vault.cfg else none) = some c := by rw [if_pos rfl, mountTells_cfg, cfg]
  have eq := mountVault_eq off blocks true
  rw [image] at eq
  rw [eq]
  obtain ⟨rest, proof⟩ := loadConfig_spec (mountTells (vaultMounted s)) c
  exact ⟨(Mounts.told s).loads rest, proof⟩

/-! ### The end of DORMANT -/

/-- What leaving DORMANT keeps, and the stage that it enters. -/
structure LeavesDormant (s t : State) : Prop where
  frame : t = { s with stage := t.stage, mbox := s.mbox.map (fun (b : Mbox) => { b with stopped := b.resetHeld }), links := t.links
                       regs := t.regs, mgmt := t.mgmt, out := t.out }
  stage : t.stage = { s.stage with stage := if s.stage.fsPending then 4 else 1, image := newerImage s, tCrumb := sinceStart s, fsPending := false }
  told : Claim.Flagged t evStgChange
  flags : ∀ n i, n < 44 → bit (s.live (0x20000 + n * 4)) i = true → bit (t.live (0x20000 + n * 4)) i = true

theorem stageTo_flags {s : State} {n : Nat} (moves : s.stage.stage ≠ n) : Claim.Flagged (stageTo s n) evStgChange ∧
    ∀ k i, k < 44 → bit (s.live (0x20000 + k * 4)) i = true → bit ((stageTo s n).live (0x20000 + k * 4)) i = true := by
  unfold stageTo
  dsimp only
  rw [if_neg moves]
  exact ⟨raise_flags _ _ _ _ _ (by decide), fun k i low f => raise_keeps_flag _ _ _ _ _ _ _ (by decide) low f⟩

theorem leaveDormant_spec {s : State} (dormant : s.stage.stage = 0) : LeavesDormant s (leaveDormant s) := by
  obtain ⟨q, hq⟩ : ∃ q : State, q = { s with
    stage := { s.stage with image := newerImage s, tCrumb := sinceStart s, fsPending := false }
    mbox := s.mbox.map (fun (b : Mbox) => { b with stopped := b.resetHeld }) } := ⟨_, rfl⟩
  obtain ⟨w, hw⟩ : ∃ w, w = stageTo q (if s.stage.fsPending then 4 else 1) := ⟨_, rfl⟩
  have granted : leaveDormant s = { w with links := (leaveDormant s).links } := by
    have eq : leaveDormant s = (List.range 16).foldl (fun s p => if linkUp (s.link p) then startCredits s p else s) w := by rw [hw, hq]; rfl
    rw [eq]
    refine foldl_keep (P := fun t : State => t = { w with links := t.links }) _ (fun t p ht => ?_) _ _ rfl
    split
    · rw [(startCredits_keeps t p).1, ht]
    · exact ht
  have entered := stageTo_frame q (if s.stage.fsPending then 4 else 1)
  obtain ⟨told, flags⟩ := stageTo_flags (s := q) (n := if s.stage.fsPending then 4 else 1) (by
    rw [hq]
    show s.stage.stage ≠ _
    rw [dormant]
    split <;> decide)
  rw [← hw] at entered told flags
  have live : ∀ a, (leaveDormant s).live a = w.live a := live_of_regs (by rw [granted])
  refine ⟨?_, ?_, ?_, fun n i low f => ?_⟩
  · rw [granted, entered, hq]
  · rw [granted, entered, hq]
  · unfold Claim.Flagged
    rw [live]
    exact told
  · rw [live]
    exact flags n i low (by rw [hq]; exact f)

/-- CRUMB_ENTRY with images that pass their checks, all that R365 asks for done: mount, repairs, crumb table, CRUMB. -/
theorem crumbEntry_eq {s : State} (may : Claim.mayLeaveDormant s) (a b config : Bool) (n : Nat) : ∃ w,
    CrumbsSet (mountVault s config) w ∧ crumbEntry s a b config n true true = leaveDormant w := by
  obtain ⟨dormant, reset, flush, good, up, -, -⟩ := may
  have enters : crumbEntry s a b config n true true =
      leaveDormant (if vaultTakes (hdrRepairs (mountVault s config) n) then loadCrumbs (hdrRepairs (mountVault s config) n) (a || b)
        else hdrRepairs (mountVault s config) n) := by
    unfold crumbEntry
    rw [if_neg (by simp [dormant, reset, flush, good, up])] <;> rfl
  refine ⟨_, ?_, enters⟩
  split
  · exact (CrumbsSet.hdrRepairs ..).trans (.loadCrumbs ..)
  · exact .hdrRepairs ..

/-- What holds once DORMANT is left, by what the mount of the vault gave. -/
structure Entered (s m t : State) : Prop where
  stage : t.stage.stage = if s.stage.fsPending then 4 else 1
  pending : t.stage.fsPending = false
  image : t.stage.image = newerImage s
  vault : t.vault.st = if s.vault.free < 2048 then 2 else 1
  told : Claim.Flagged t evStgChange
  mbox : t.mbox = s.mbox.map (fun (b : Mbox) => { b with stopped := b.resetHeld })
  mem : t.mem = s.mem
  cmds : t.cmds = s.cmds
  own : t.own = s.own
  tables : t.tables = m.tables
  empty : t.stage.vaultEmpty = m.stage.vaultEmpty
  flags : ∀ e : Ev, e.src < 704 → Claim.Flagged m e → Claim.Flagged t e

theorem crumbEntry_spec {s : State} (may : Claim.mayLeaveDormant s) (a b config : Bool) (n : Nat) (mounts : Mounts s (mountVault s config)) :
    Entered s (mountVault s config) (crumbEntry s a b config n true true) := by
  obtain ⟨w, set_, eq⟩ := crumbEntry_eq may a b config n
  generalize mountVault s config = m at mounts set_ ⊢
  obtain ⟨keys, vault⟩ := mounts.vault
  have held : w.stage.stage = s.stage.stage ∧ w.stage.fsPending = s.stage.fsPending ∧ w.stage.vaultEmpty = m.stage.vaultEmpty ∧
      w.vault = m.vault ∧ w.mbox = s.mbox ∧ w.mem = s.mem ∧ w.cmds = s.cmds ∧ w.own = s.own ∧ w.tables = m.tables := by
    rw [set_.frame, mounts.frame]
    exact ⟨rfl, rfl, rfl, rfl, rfl, rfl, rfl, rfl, rfl⟩
  obtain ⟨hstage, hpend, hempty, hvault, hmbox, hmem, hcmds, hown, htables⟩ := held
  have left := leaveDormant_spec (hstage.trans may.1)
  rw [eq]
  generalize leaveDormant w = t at left ⊢
  have kept : t.vault = w.vault ∧ t.mem = w.mem ∧ t.cmds = w.cmds ∧ t.own = w.own ∧ t.tables = w.tables ∧
      t.mbox = w.mbox.map (fun (b : Mbox) => { b with stopped := b.resetHeld }) := by
    rw [left.frame]
    exact ⟨rfl, rfl, rfl, rfl, rfl, rfl⟩
  obtain ⟨kvault, kmem, kcmds, kown, ktables, kmbox⟩ := kept
  exact {
    stage := by rw [left.stage, hpend]
    pending := by rw [left.stage]
    image := by
      rw [left.stage]
      show newerImage w = _
      unfold newerImage
      rw [hvault, vault]
    vault := by rw [kvault, hvault, vault]
    told := left.told
    mbox := by rw [kmbox, hmbox]
    mem := kmem.trans hmem
    cmds := kcmds.trans hcmds
    own := kown.trans hown
    tables := ktables.trans htables
    empty := by rw [left.stage]; exact hempty
    flags := fun e low f => left.flags _ _ (by omega) (set_.flagged low f) }

end Sys2Proof.Machine

namespace Sys2Proof.Claim

open Machine

/-- CRUMB_ENTRY once everything that R365 asks for is done. -/
theorem crumbEntry_gives {i : Instr} {s u : State} {a b config : Bool} {n : Nat} (run : exec i s = .next (crumbEntry u a b config n true true))
    (may : mayLeaveDormant u) : Gives i s (fun v =>
      v.stage.stage = (if u.stage.fsPending then 4 else 1) ∧ v.stage.fsPending = false ∧ v.stage.image = newerImage u ∧
      v.vault.st = (if u.vault.free < 2048 then 2 else 1) ∧ Flagged v evStgChange ∧
      v.mbox = u.mbox.map (fun (b : Mbox) => { b with stopped := b.resetHeld }) ∧
      (u.vault.cfg = none ∨ config = false → v.stage.vaultEmpty = true ∧ Flagged v evStgEmptyVault ∧ v.tables = u.tables) ∧
      (∀ c : CfgImg, u.vault.cfg = some c → config = true → ∀ p ∈ c.tables, p.2.tab.st ≠ .destroying →
        ∃ y, v.table p.1 = some y ∧ y.st = .proofing ∧ y.restored = false) ∧
      v.mem = u.mem ∧ v.cmds = u.cmds ∧ v.own = u.own) := by
  obtain ⟨off, blocks⟩ := may.2.2.2.2.2
  have mounts : Mounts u (mountVault u config) := by
    cases cfg : u.vault.cfg with
    | none => exact (mountVault_empty off blocks (.inl cfg)).1
    | some c =>
      cases config with
      | false => exact (mountVault_empty off blocks (.inr rfl)).1
      | true => exact (mountVault_loads off blocks cfg).1
  have enters := crumbEntry_spec may a b config n mounts
  refine gives_of run ⟨enters.stage, enters.pending, enters.image, enters.vault, enters.told, enters.mbox, fun none => ?_,
    fun c cfg on p mem kept => ?_, enters.mem, enters.cmds, enters.own⟩
  · obtain ⟨-, empty, flag, tables⟩ := mountVault_empty off blocks none
    exact ⟨enters.empty.trans empty, enters.flags _ (by decide) flag, enters.tables.trans tables⟩
  · subst on
    obtain ⟨y, here, rest⟩ := (mountVault_loads off blocks cfg).2 p mem kept
    exact ⟨y, (table_of_tables enters.tables p.1).trans here, rest⟩

theorem faultsafeEntry_run {s : State} (good : s.power.pwrGood = true) (cause : FsCause) :
    exec (.faultsafeEntry cause) s = .next (fsEntry (pre s) cause) := by
  show Host.Outcome.next (if s.power.pwrGood then fsEntry (pre s) cause else s) = _
  rw [if_pos good]

theorem tableRestoreDone_run (s : State) (a b : Bool) : exec (.tableRestoreDone a b none) s = .next (restoreDone (pre s) a b) := rfl

/-- Settles O52: the end of DORMANT by its stages, a restore by its rows, a promotion by the step, crumb spares and FAULTSAFE by their causes. -/
theorem tablesAreRestoredInStages : Obligations.TablesAreRestoredInStages := by
  unfold Obligations.TablesAreRestoredInStages
  intro s table
  refine ⟨?_, ?_, ?_, ?_, ?_⟩
  · intro t n a b config u may
    have run : exec (.crumbEntry t a b config n) s = .next (crumbEntry u a b config n true true) := rfl
    clear_value u
    exact crumbEntry_gives run may
  · intro u t x cur one here
    have run : ∀ a b, exec (.tableRestoreDone a b none) s = .next (restoreDone u a b) := tableRestoreDone_run s
    clear_value u
    refine ⟨?_, ?_⟩
    · intro a b bad
      exact restoreFails_gives (run a b) cur one here bad
    · intro a b k i source img
      exact restores_gives (run a b) cur one here source img
  · intro x l now here due
    exact stgPromote_gives rfl now here due
  · intro u e asked late
    have run : exec (.crumbSpareRelease table) s = .next (crumbRelease u table) := rfl
    clear_value u
    exact crumbSpareRelease_gives run asked late
  · intro u good up
    have run : ∀ cause, exec (.faultsafeEntry cause) s = .next (fsEntry u cause) := faultsafeEntry_run good
    clear_value u
    refine ⟨?_, ?_, ?_, ?_⟩
    · intro d
      obtain ⟨v, ran, stage, cause, die, -, frame⟩ := faultsafeEntry_gives (b := 0) (d := d) (run (.die d)) (by decide) up
      exact ⟨v, ran, stage, cause, die rfl d.isLt, frame⟩
    · exact storeLost_gives (run .activityStore) up
    · obtain ⟨v, ran, stage, cause, -, -, frame⟩ := faultsafeEntry_gives (b := 4) (d := 0) (run .config) (by decide) up
      exact ⟨v, ran, stage, cause, frame⟩
    · intro other
      obtain ⟨v, ran, -, -, -, told, -⟩ := faultsafeEntry_gives (b := 4) (d := 0) (run .config) (by decide) up
      exact ⟨v, ran, told other⟩

end Sys2Proof.Claim
end
